-- ==== Sys2Proof/Word.lean ====
section
/-! DEFINITION. The word types of the machine and their plainest arithmetic (R2, R3, R9). -/

namespace Sys2Proof

/-- A scalar register, a system register, a virtual address, an instruction word: 64 bits (R9, R19). -/
abbrev Word := BitVec 64

/-- One byte of memory (R3). -/
abbrev Byte := BitVec 8

/-- A scalar register name, s0 to s63 (R170). -/
abbrev SReg := Fin 64
/-- A vector slot, the base of a group, v0 to v31 (R11, R170). -/
abbrev VReg := Fin 32
/-- A mask column name, m0 to m31 (R14, R170). -/
abbrev MReg := Fin 32
/-- An accumulator tile, a0 to a7 (R16, R170). -/
abbrev TReg := Fin 8
/-- A stream register, z0 to z7 (R17, R170). -/
abbrev ZReg := Fin 8
/-- A queue register, q0 to q3 (R18, R170). -/
abbrev QReg := Fin 4

/-- x[hi:lo] of a natural number (R2). -/
def bits (x hi lo : Nat) : Nat := x / 2 ^ lo % 2 ^ (hi + 1 - lo)

/-- The w low bits of x read as two's complement (R63). -/
def sextNat (w x : Nat) : Int :=
  let r := x % 2 ^ w
  if 2 * r < 2 ^ w then (r : Int) else (r : Int) - (2 ^ w : Nat)

/-- x modulo 2^w as a natural number (R64). -/
def wrapInt (w : Nat) (x : Int) : Nat := (x % ((2 ^ w : Nat) : Int)).toNat

end Sys2Proof
end

