-- ==== Sys2Proof/Config.lean ====
section
/-! DEFINITION. What an implementation fixes and the spec does not state: the FREE VALUES.
Each is an uninterpreted constant (no body): no proof can see what it is, so a claim is true whatever it is.
They are applied to State.fresh, a counter that the step advances at each use (log entry 2), or to the
operands on which they depend. -/

namespace Sys2Proof.Config

/-- A free natural number: which of several agents moves next (log entry 3), which of two allowed values a
read returns, how many ticks or cycles pass (log entry 4). -/
opaque freeNat : Nat → Nat

/-- A free 64-bit value: a reading the spec does not state (log entry 2). -/
opaque freeWord : Nat → BitVec 64

/-- SHAKE256 with 32 bytes of output (R421, R430, R432): the spec names the function and does not state it
(log entry 7). -/
opaque shake256 : List (BitVec 8) → List (BitVec 8)

/-- The XMSSMT identity signature (5,605 bytes) of an index over a message (R423, R430; log entry 7). -/
opaque identitySign : Nat → List (BitVec 8) → List (BitVec 8)

/-- The identity public key, 68 bytes (R423; log entry 7). -/
opaque identityKey : List (BitVec 8)

/-- The certificate of the identity key (R423; log entry 7). -/
opaque identityCert : List (BitVec 8)

/-- Whether an XMSS signature over a firmware image verifies (R422; log entry 7). -/
opaque firmwareSigOk : List (BitVec 8) → Bool

/-- The public half of the session key that the controller generates at boot number n (R425; log entry 7). -/
opaque sessionKey : Nat → List (BitVec 8)

/-- Whether a completer (0 the host, 1 to 4 the peers of the ports) advertises AtomicOps of a size in bytes (R112; log
entry 5). -/
opaque atomicCompleter : Nat → Nat → Bool

/-- How many steps a move may be possible before it is made (R57, R58, R112; log entry 3). -/
opaque patience : Nat

/-- The firmware image in flash when the device leaves the factory, and the fuses FWKEYH (R421, R422; log entry 7). -/
opaque factoryFirmware : List (BitVec 8)
opaque firmwareKeyHash : List (BitVec 8)

/-- DEVK, the fuses of the device-unique key (R421; log entry 7). -/
opaque deviceKey : List (BitVec 8)

/-- Whether the host or a peer refuses a write of the device to an address (R375; log entry 5). -/
opaque writeRefused : Nat → Bool

/-- What boot number n finds (R413; log entry 7): a fault on D0, a die-to-die boundary that does not train, the dies
whose HBM trains as a mask, and the quads with a failing row as unit number and quad. -/
opaque bootFindings : Nat → Bool × Bool × Nat × List (Nat × Nat)

end Sys2Proof.Config
end

