-- ==== Sys2Proof/Syntax.lean ====
section
/-! DEFINITION. The ONE inductive of the machine's steps: one constructor for each row of
spec/opcode_table.json. A row is an instruction word (R169, R182), a slot form (R177 to R181), or a step of an
engine, a home slice, the fabric, the host interface or the board (95_what_each_step_holds.md: each row whole and
indivisible). -/

namespace Sys2Proof

/-- Second operand of opcodes 0x01 to 0x17 (R174). -/
inductive Src2 where
  | reg (b : SReg)
  | imm (v : BitVec 23)
deriving DecidableEq, Repr

/-- Guard of a lane instruction: mask register and complement (R171); register 0 means no guard. -/
structure Guard where
  reg : MReg
  inv : Bool
deriving DecidableEq, Repr

/-- Guard and exception-mask target (R171): target 0 means x = 0. -/
structure GuardX where
  g : Guard
  x : MReg
deriving DecidableEq, Repr

/-- Source of operand b of a lane instruction, the os field of R172. -/
inductive BSrc where
  | vec (v : VReg)
  | scalar (s : SReg)
  | q0
  | q1
deriving DecidableEq, Repr

/-- Amount of a lane shift (R230): an immediate or operand b. -/
inductive ShiftSrc where
  | imm (n : BitVec 7)
  | b (s : BSrc)
deriving DecidableEq, Repr

/-- Slide distance (R237): an immediate or a scalar or queue operand. -/
inductive SlideSrc where
  | imm (k : BitVec 19)
  | scalar (s : SReg)
  | q0
  | q1
deriving DecidableEq, Repr

/-- Scalar operand that must be a scalar register or a queue ("required", R243). -/
inductive SQSrc where
  | scalar (s : SReg)
  | q0
  | q1
deriving DecidableEq, Repr

/-- Result place of a reduction (R243): q2 or q3 in the whole form, a vector group in the .in form. -/
inductive RedDst where
  | queue (q : QReg)
  | vec (v : VReg)
deriving DecidableEq, Repr

/-- The atomic operations of R201 and R264. -/
inductive AmoOp where
  | add | and | or | xor | min | max | minn | maxn | swap | cas
deriving DecidableEq, Repr

/-- Ordering attribute of R173. -/
inductive Ordering4 where
  | none | acq | rel | ar
deriving DecidableEq, Repr

/-- The scopes of R101. -/
inductive Scope where
  | thread | unit | cluster | die | package | system
deriving DecidableEq, Repr

/-- Comparison codes of R234 and R247 (un only for vfcmp). -/
inductive Cond where
  | eq | ne | lt | le | gt | ge | un
deriving DecidableEq, Repr

/-- Size codes of strip (R209). -/
inductive StripSz where
  | none | b1 | b2 | b4 | b8 | blk
deriving DecidableEq, Repr

/-- Types of racc (R132). -/
inductive AccTy where
  | i32 | i64 | fx64 | f32
deriving DecidableEq, Repr

/-- Index selector of vid (R227). -/
inductive VidSel where
  | lane | inner | outer
deriving DecidableEq, Repr

/-- The short scalar operations 0x01 to 0x08 (R181). -/
inductive ShortAlu where
  | add | sub | and | or | xor | sll | srl | sra
deriving DecidableEq, Repr

/-- The short lane operations 0x20 to 0x26 (R181). -/
inductive ShortLane where
  | vadd | vsub | vand | vor | vxor | vmin | vmax
deriving DecidableEq, Repr

/-- A short instruction of a pair (R178, R181); register fields are as encoded, banked by the slot (R179). -/
inductive Short where
  | nop
  | alu (o : ShortAlu) (d a b : Fin 32)
  | addi (d a : Fin 32) (i : BitVec 14)
  | li (d : Fin 32) (i : BitVec 14)
  | ldD (d a : Fin 32) (i : BitVec 14)
  | ldW (d a : Fin 32) (i : BitVec 14)
  | stD (d a : Fin 32) (i : BitVec 14)
  | stW (d a : Fin 32) (i : BitVec 14)
  | br (i : BitVec 14)
  | beqz (a : Fin 32) (i : BitVec 14)
  | bnez (a : Fin 32) (i : BitVec 14)
  | bq (i : BitVec 14)
  | bqn (i : BitVec 14)
  | qpush (q : Fin 2) (a : Fin 32)
  | qpop (d : Fin 32) (q : Fin 2)
  | lane (o : ShortLane) (d a b : Fin 16)
  | vmov (d a : Fin 16)
deriving DecidableEq, Repr

/-- A request of the host through BAR4, with its Relaxed Ordering attribute (R112); a read of a register, or a write of
four bytes of one; a new size of BAR4 as log2 (R370); or the host's use of its own memory (R98). -/
inductive HostReq where
  | read (off len : Nat) (trusted relaxed : Bool)
  | write (off : Nat) (data : List Byte) (trusted relaxed : Bool)
  | atomic (op : AmoOp) (off size value compare : Nat) (trusted : Bool)
  | regRead (bar off len : Nat)
  | regWrite (off : Nat) (v : BitVec 32) (trusted : Bool)
  | barSize (log : Nat)
  | ownRead (pa len : Nat)
  | ownWrite (pa : Nat) (data : List Byte)
deriving DecidableEq, Repr

/-- A request arriving on a peer port (R442): to HBM, or the peer's use of its own memory (R98). -/
inductive PeerReq where
  | read (pa len : Nat)
  | write (pa : Nat) (data : List Byte)
  | ownWrite (pa : Nat) (data : List Byte)
deriving DecidableEq, Repr

/-- Which stored bits flip of themselves (R434): one symbol of an HBM sector, two or more; a column of an array row, 512
for the parity column; one bit of an SRAM word, with its number, two or more. In State.fleet, a sector, row or word that is
in error now. -/
inductive ErrLoc where
  | hbmCorrectable (pa : Nat)
  | hbmBad (pa : Nat)
  | arrayParity (home col : Nat)
  | sramCorrectable (home bit : Nat)
  | sramBad (home : Nat)
deriving DecidableEq, Repr

/-- The steps of the machine, one constructor for each row of the opcode table. -/
inductive Instr where
  -- scalar arithmetic and logic (R191 to R193)
  | add (d a : SReg) (b : Src2) | sub (d a : SReg) (b : Src2) | and (d a : SReg) (b : Src2)
  | or (d a : SReg) (b : Src2) | xor (d a : SReg) (b : Src2) | andn (d a : SReg) (b : Src2)
  | sll (d a : SReg) (b : Src2) | srl (d a : SReg) (b : Src2) | sra (d a : SReg) (b : Src2)
  | mul (d a : SReg) (b : Src2) | mulh (d a : SReg) (b : Src2) | mulhn (d a : SReg) (b : Src2)
  | div (d a : SReg) (b : Src2) | divn (d a : SReg) (b : Src2) | rem (d a : SReg) (b : Src2)
  | remn (d a : SReg) (b : Src2) | min (d a : SReg) (b : Src2) | max (d a : SReg) (b : Src2)
  | minn (d a : SReg) (b : Src2) | maxn (d a : SReg) (b : Src2) | slt (d a : SReg) (b : Src2)
  | sltn (d a : SReg) (b : Src2) | seq (d a : SReg) (b : Src2)
  | popc (d a : SReg) | clz (d a : SReg)
  | li (d : SReg) (i : BitVec 24) | lih (d : SReg) (i : BitVec 24) | lix (d : SReg) (i : BitVec 16)
  -- branches and calls (R194 to R197, R443)
  | beq (a b : SReg) (o : BitVec 24) | bne (a b : SReg) (o : BitVec 24) | blt (a b : SReg) (o : BitVec 24)
  | bge (a b : SReg) (o : BitVec 24) | bltn (a b : SReg) (o : BitVec 24) | bgen (a b : SReg) (o : BitVec 24)
  | br (o : BitVec 24) | call (o : BitVec 24) | callr (a : SReg) | ret
  | bq (o : BitVec 24) | bqn (o : BitVec 24) | bmz (o : BitVec 24) | bmnz (o : BitVec 24) | popPhase
  -- scalar memory (R198 to R206)
  | ldB (d a : SReg) (e : BitVec 24) | ldH (d a : SReg) (e : BitVec 24) | ldW (d a : SReg) (e : BitVec 24)
  | ldD (d a : SReg) (e : BitVec 24) | ldBS (d a : SReg) (e : BitVec 24) | ldHS (d a : SReg) (e : BitVec 24)
  | ldWS (d a : SReg) (e : BitVec 24)
  | stB (a b : SReg) (e : BitVec 24) | stH (a b : SReg) (e : BitVec 24) | stW (a b : SReg) (e : BitVec 24)
  | stD (a b : SReg) (e : BitVec 24)
  | amo (op : AmoOp) (dbl : Bool) (ord : Ordering4) (sc : Scope) (d a b c : SReg)
  | fenceAcq (sc : Scope) | fenceRel (sc : Scope) | fenceAr (sc : Scope)
  | vdrain | await (a b : SReg) | awaitEv (a b : SReg)
  -- queues, vector length, loops, launches (R207 to R211)
  | qpush (q : QReg) (a : SReg) | qpop (d : SReg) (q : QReg)
  | setvl (d a : SReg) | setvlGrow (d a b : SReg) | setvlShrink (d a : SReg)
  | strip (d a b : SReg) (z0 z1 z2 z3 : StripSz) (o : BitVec 12)
  | nest (k : Fin 16) (dims : Fin 8) (a : SReg)
  | launch (d a : SReg) | launchW (d a : SReg)
  -- lane configuration, integers, logic, masks (R222 to R241)
  | vcfg (a : SReg) | setvl2 (a b : SReg) | vid (g : Guard) (sel : VidSel) (d : VReg)
  | vadd (m : GuardX) (d a : VReg) (b : BSrc) | vsub (m : GuardX) (d a : VReg) (b : BSrc)
  | vmul (m : GuardX) (d a : VReg) (b : BSrc) | vmulh (m : GuardX) (d a : VReg) (b : BSrc)
  | vdiv (m : GuardX) (d a : VReg) (b : BSrc) | vrem (m : GuardX) (d a : VReg) (b : BSrc)
  | vmin (m : GuardX) (d a : VReg) (b : BSrc) | vmax (m : GuardX) (d a : VReg) (b : BSrc)
  | vneg (m : GuardX) (d a : VReg) | vabs (m : GuardX) (d a : VReg)
  | vand (g : Guard) (d a : VReg) (b : BSrc) | vor (g : Guard) (d a : VReg) (b : BSrc)
  | vandn (g : Guard) (d a : VReg) (b : BSrc) | vxor (g : Guard) (d a : VReg) (b : BSrc)
  | vxnor (g : Guard) (d a : VReg) (b : BSrc) | vnot (g : Guard) (d a : VReg)
  | vsll (m : GuardX) (d a : VReg) (n : ShiftSrc) | vsrl (m : GuardX) (d a : VReg) (n : ShiftSrc)
  | vsra (m : GuardX) (d a : VReg) (n : ShiftSrc)
  | vfsl (g : Guard) (d a b : VReg) (n : BitVec 7) | vfsr (g : Guard) (d a b : VReg) (n : BitVec 7)
  | vlut3 (g : Guard) (d a b c : VReg) (t : BitVec 8)
  | vcmp (g : Guard) (cc : Cond) (d : MReg) (a : VReg) (b : BSrc)
  | vsel (g : Guard) (d a : VReg) (b : BSrc) (c : MReg)
  | vmov (g : Guard) (d : VReg) (b : BSrc)
  | vslideup (g : Guard) (inn rot : Bool) (d a : VReg) (k : SlideSrc)
  | vslidedn (g : Guard) (inn rot : Bool) (d a : VReg) (k : SlideSrc)
  | vlscat (g : Guard) (inn : Bool) (d a b : VReg)
  | mand (g : Guard) (d a b : MReg) | mor (g : Guard) (d a b : MReg) | mxor (g : Guard) (d a b : MReg)
  | mandn (g : Guard) (d a b : MReg) | mnot (g : Guard) (d a : MReg) | mmov (g : Guard) (d a : MReg)
  | mpush (a : MReg) | minv | mpop
  | mpopc (g : Guard) (d : RedDst) (a : MReg)
  -- lane floats, conversion, search, draws, microcode (R243 to R263)
  | vfadd (m : GuardX) (d a : VReg) (b : BSrc) | vfsub (m : GuardX) (d a : VReg) (b : BSrc)
  | vfmul (m : GuardX) (d a : VReg) (b : BSrc) | vfdiv (m : GuardX) (d a : VReg) (b : BSrc)
  | vfsqrt (m : GuardX) (d a : VReg)
  | vfmin (m : GuardX) (d a : VReg) (b : BSrc) | vfmax (m : GuardX) (d a : VReg) (b : BSrc)
  | vfcmp (m : GuardX) (cc : Cond) (d : MReg) (a : VReg) (b : BSrc)
  | vcvt (m : GuardX) (d a : VReg) (t : BitVec 20) | vcvtLg (m : GuardX) (d a : VReg) (t : BitVec 20)
  | vtab (g : Guard) (d : VReg) (a : SReg) (b : VReg) (n : Fin 16)
  | vkth (g : Guard) (d : RedDst) (a : VReg) (b : SQSrc)
  | vtopk (g : Guard) (inn : Bool) (d : MReg) (a : VReg) (b : SQSrc)
  | vtopp (g : Guard) (inn : Bool) (d : MReg) (a : VReg) (b : SQSrc)
  | vrsum (g : Guard) (d : RedDst) (a : VReg) | vrmin (g : Guard) (d : RedDst) (a : VReg)
  | vrmax (g : Guard) (d : RedDst) (a : VReg)
  | vscanadd (g : Guard) (inn : Bool) (d a : VReg) | vscanand (g : Guard) (inn : Bool) (d a : MReg)
  | vfirst0 (g : Guard) (d : RedDst) (a : MReg)
  | vpick (g : Guard) (d : RedDst) (a : VReg) (b : BSrc)
  | vrand (g : Guard) (d : VReg) (b : BSrc) | vscatl (g : Guard) (d : VReg) (a : SReg)
  | vmload (a b c : SReg) | vmicro (g : Guard) (n : BitVec 12) (d a b : VReg)
  -- vector memory, atomics, synchronisation (R264 to R284)
  | vld (g : Guard) (d : VReg) (a : SReg) (sc : Option SReg) (e : BitVec 22)
  | vst (g : Guard) (a : SReg) (b : VReg) (sc : Option SReg) (e : BitVec 22)
  | vstFree (g : Guard) (a : SReg) (b : VReg) (sc : Option SReg) (e : BitVec 22)
  | vlds (g : Guard) (d : VReg) (a b : SReg) (e : BitVec 22)
  | vsts (g : Guard) (free : Bool) (a b : SReg) (c : VReg) (e : BitVec 22)
  | tld (g : Guard) (d : VReg) (a : SReg) (k : Fin 32) (e : BitVec 18)
  | tst (g : Guard) (a : SReg) (b : VReg) (k : Fin 32) (e : BitVec 18)
  | vgather (g : Guard) (mode : Fin 3) (d : VReg) (a : SReg) (i : VReg)
  | vscatter (g : Guard) (mode : Fin 3) (a : SReg) (i c : VReg)
  | vamo (g : Guard) (op : AmoOp) (mode : Fin 3) (ord : Ordering4) (sc : Scope) (d : VReg) (a : SReg) (i c : VReg)
  | vred (g : Guard) (op : AmoOp) (mode : Fin 3) (rel : Bool) (sc : Scope) (a : SReg) (i c : VReg)
  | racc (m : GuardX) (t : AccTy) (v : VReg) (a : SReg) (i : VReg)
  | rflush (sc : Scope) | vfence (sc : Scope) | arrive (a : SReg) (b : MReg) (sc : Scope)
  | cpy (d a : SReg)
  -- matrix engine and streams (R287 to R307)
  | mcfg (a : SReg) | mmul (g : Guard) (t : TReg) (a : VReg) (b : SReg) | mmulStep
  | mst (g : Guard) (d : VReg) (t : TReg) (b : SReg)
  | mstm (a : SReg) (t : TReg) (pitch : BitVec 22) (sc : Option SReg)
  | mzero (t : TReg) | mlive (set : BitVec 8)
  | zopen (z : ZReg) (a : SReg) (lev : Fin 6) (b : SReg) | zadv (z : ZReg)
  | zldC (g : Guard) (d : VReg) (z : ZReg) | zldP (g : Guard) (d : VReg) (z : ZReg)
  | zldCK (g : Guard) (d : VReg) (z : ZReg) | zldPK (g : Guard) (d : VReg) (z : ZReg)
  | zldM (g : Guard) (d : MReg) (z : ZReg)
  | zisect (z m : ZReg) | zunion (z m : ZReg) | zskip (z : ZReg) (b : SReg)
  | bzEnd (z : ZReg) (o : BitVec 24) | zclose (z : ZReg)
  -- system (R204, R205, R212 to R221)
  | mfsr (d : SReg) (n : Fin 64) | mtsr (n : Fin 64) (a : SReg)
  | tfence | yieldpt | ifence | vdead (mask : Bool) (n : Fin 32) | tret | exit | exitComplete
  | brk (code : BitVec 16) | nop | pair (a b : Short)
  -- steps of the thread's own machinery
  | laneQueuePush (w : Word) | awaitedCondition | pendingPush | loadDataArrival (r : SReg)
  | elementReturn (n : Nat) | homeSliceAccess (n : Nat) | streamDeadlock | faultRecordWrite
  | copyChunkDone (id chunk : Nat) | copyComplete (id : Nat) | streamFetchAhead (z : ZReg)
  -- residual accumulate at the home slice, and the fabric (R116, R137 to R143)
  | accumulateRequest (id : Nat) | accumulatePerform (id : Nat) | acceptedReply (id : Nat) | refusalReply (id : Nat)
  | fabricRequestReceive (ch seq : Nat) | fabricAck (ch : Nat) | nakBackoffExpire (ch : Nat)
  | replyTimeoutResend (ch : Nat)
  -- debug and host interface (R308 to R318, R369 to R377)
  | tcWatch | stepEnd | threadControlWrite (site : Nat) (v : Word) | debugBlockRead (die cluster off : Nat)
  | registerWrite (off : Nat) (v : Word) (trusted : Bool) | doorbell (q off size : Nat) (v : Word)
  | hostRequest (r : HostReq) | peerRequest (port : Fin 4) (r : PeerReq)
  -- distributor (R381 to R391), save and resume (R407 to R411), retirement (R438)
  | selection | waitEventReread (src : Nat) | groupPlacement (die : Nat) | launchCompletion (id : Nat)
  | save | resumePlacement (task : Nat) | quadRetirement (unit quad : Nat) | mailboxCompletion
  -- the rejected word (R183), stored bits that flip (R434), the thermal trip (R420), sealing (R432, R433), scrub (R436)
  | reservedEncoding (w : Word) | dataError (l : ErrLoc) | thermalTrip (temp : Nat)
  | sealRequest (ctx : Nat) | batchClose (ctx : Nat) | scrubRead (home : Nat)
  -- mailbox commands (R372, R395, R416, R417, R420, R429, R436 to R441): arguments stand in MBARG0 to MBARG6
  | qcfg | qenable | qdisable | qprio | qreset | setage
  | ctxset | ctxmod | ctxfree | tlbinv | fqcfg | replay | preempt | resume
  | inventory | pset | tripclr
  | idinfo | attest | ccmap | dbgunlock | sealcfg | sealflush
  | errcnt | scrubcfg | qretire | telem | partset | fwstage | fwfloor
  -- the board (R412, R413, R417, R426)
  | powerOn | perst | tdispStop | ideStreamLoss | packagePowerRemoved | ideKmKeyProgramming | tdiEntersRun
deriving DecidableEq, Repr

end Sys2Proof
end

