-- ==== Sys2Proof/WellFormed.lean ====
section
/-! DEFINITION. Well-formed instructions: the checks between the fields of one word that the types of Syntax.lean
do not already make (R170 to R183 and the pages of each instruction). A row that is no instruction word is not
well-formed as one: it has no encoding. -/

namespace Sys2Proof

/-- R171: a complemented guard names a mask. -/
def Guard.wf (g : Guard) : Bool := !(g.inv && g.reg == 0)

/-- R14, R170: m0 is no destination. -/
def MReg.dstWf (m : MReg) : Bool := m != 0

/-- R170, R243: a scalar result goes to q2 or q3. -/
def RedDst.wf : RedDst → Bool
  | .queue q => q == 2 || q == 3
  | .vec _ => true

/-- R201, R264: the scope field is zero when the ordering attribute is none. -/
def Scope.wfFor (o : Ordering4) (s : Scope) : Bool := o != .none || s == .thread

/-- R209: no code after a 000, and sz0 not 000. -/
def stripSizesWf (z0 z1 z2 z3 : StripSz) : Bool :=
  z0 != .none && (z1 != .none || (z2 == .none && z3 == .none)) && (z2 != .none || z3 == .none)

/-- How many pointers a strip advances (R209). -/
def stripCount (z1 z2 z3 : StripSz) : Nat :=
  if z1 == .none then 1 else if z2 == .none then 2 else if z3 == .none then 3 else 4

/-- R209: the pointers sP … sP + n − 1 stay at or below s55 and include neither d nor a. -/
def stripRangeWf (d a b : SReg) (n : Nat) : Bool :=
  b.val + n ≤ 56 && !(b.val ≤ d.val && d.val < b.val + n) && !(b.val ≤ a.val && a.val < b.val + n)

/-- R19, R20: the system registers that a program may write. -/
def sysWritable (n : Nat) : Bool :=
  n == 0x04 || n == 0x07 || n == 0x08 || n == 0x09 || n == 0x12 || n == 0x13 || n == 0x14 || n == 0x16

/-- R180: the control transfers of a pair. -/
def Short.transfers : Short → Bool
  | .br _ | .beqz .. | .bnez .. | .bq _ | .bqn _ => true
  | _ => false

/-- The scalar register a short instruction writes, banked by the slot (R179): slot B names s32 + n. -/
def Short.writesS (hi : Bool) : Short → Option Nat
  | .alu _ d _ _ | .addi d _ _ | .li d _ | .ldD d _ _ | .ldW d _ _ | .qpop d _ =>
    some (if hi then d.val + 32 else d.val)
  | _ => none

/-- The queue register a short instruction names (R180, R181). -/
def Short.namesQ : Short → Option Nat
  | .qpush q _ => some q.val
  | .qpop _ q => some (q.val + 2)
  | _ => none

/-- R180: the two slots name different queue registers, and slot A holds no control transfer. The slots write no
common register: slot A writes the low bank and slot B the high bank (R179). -/
def pairWf (x y : Short) : Bool :=
  !x.transfers && (x.namesQ == none || x.namesQ != y.namesQ)

/-- A well-formed instruction word. -/
def Instr.wf : Instr → Bool
  | .amo op _ ord sc _ _ _ c => sc.wfFor ord && (if op == .cas then c != 0 else c == 0)
  | .qpush q _ => q == 0 || q == 1
  | .qpop _ q => q == 2 || q == 3
  | .strip d a b z0 z1 z2 z3 _ =>
    stripSizesWf z0 z1 z2 z3 && d != a && stripRangeWf d a b (stripCount z1 z2 z3)
  | .nest _ dims a => dims.val ≤ 5 && a.val + dims.val ≤ 55
  | .vid g _ _ | .vand g .. | .vor g .. | .vandn g .. | .vxor g .. | .vxnor g .. | .vnot g .. | .vfsl g ..
  | .vfsr g .. | .vlut3 g .. | .vsel g .. | .vmov g .. | .vslideup g .. | .vslidedn g .. | .vlscat g ..
  | .vscanadd g .. | .vrand g .. | .vscatl g .. | .vld g .. | .vst g .. | .vstFree g .. | .vlds g .. | .vsts g ..
  | .vgather g .. | .vscatter g .. | .mmul g .. | .mst g .. | .zldC g .. | .zldP g .. | .zldCK g .. | .zldPK g .. =>
    g.wf
  | .vadd m .. | .vsub m .. | .vmul m .. | .vmulh m .. | .vdiv m .. | .vrem m .. | .vmin m .. | .vmax m ..
  | .vneg m .. | .vabs m .. | .vsll m .. | .vsrl m .. | .vsra m .. | .vfadd m .. | .vfsub m .. | .vfmul m ..
  | .vfdiv m .. | .vfsqrt m .. | .vfmin m .. | .vfmax m .. | .vcvt m .. | .vcvtLg m .. | .racc m .. => m.g.wf
  | .vfcmp m _ d _ _ => m.g.wf && d.dstWf
  | .vcmp g cc d _ _ => g.wf && cc != .un && d.dstWf
  | .mand g d _ _ | .mor g d _ _ | .mxor g d _ _ | .mandn g d _ _ | .mnot g d _ | .mmov g d _ => g.wf && d.dstWf
  | .mpopc g d _ | .vkth g d _ _ | .vrsum g d _ | .vrmin g d _ | .vrmax g d _ | .vfirst0 g d _ => g.wf && d.wf
  | .vpick g d _ b => g.wf && d.wf && (match d, b with | .queue _, .vec _ => false | _, _ => true)
  | .vtab g _ _ _ n => g.wf && 1 ≤ n.val && n.val ≤ 10
  | .vtopk g _ d _ _ | .vtopp g _ d _ _ | .vscanand g _ d _ => g.wf && d.dstWf
  | .vmicro g n .. => g.wf && 3072 ≤ n.toNat
  | .tld g d _ k _ => g.wf && d.val + k.val + 1 ≤ 32
  | .tst g _ b k _ => g.wf && b.val + k.val + 1 ≤ 32
  | .vamo g _ _ ord sc .. => g.wf && sc.wfFor ord
  | .vred g op _ rel sc .. => g.wf && op != .swap && op != .cas && (rel || sc == .thread)
  | .zldM g d _ => g.wf && 1 ≤ d.val && d.val ≤ 30
  | .mfsr _ n => n.val ≤ 0x1C
  | .mtsr n _ => sysWritable n.val
  | .vdead mask n => !mask || n != 0
  | .pair x y => pairWf x y
  | .add .. | .sub .. | .and .. | .or .. | .xor .. | .andn .. | .sll .. | .srl .. | .sra .. | .mul .. | .mulh ..
  | .mulhn .. | .div .. | .divn .. | .rem .. | .remn .. | .min .. | .max .. | .minn .. | .maxn .. | .slt ..
  | .sltn .. | .seq .. | .popc .. | .clz .. | .li .. | .lih .. | .lix .. | .beq .. | .bne .. | .blt .. | .bge ..
  | .bltn .. | .bgen .. | .br .. | .call .. | .callr .. | .ret | .bq .. | .bqn .. | .bmz .. | .bmnz ..
  | .ldB .. | .ldH .. | .ldW .. | .ldD .. | .ldBS .. | .ldHS .. | .ldWS .. | .stB .. | .stH .. | .stW .. | .stD ..
  | .fenceAcq .. | .fenceRel .. | .fenceAr .. | .vdrain | .await .. | .awaitEv .. | .setvl .. | .setvlGrow ..
  | .setvlShrink .. | .launch .. | .launchW .. | .vcfg .. | .setvl2 .. | .mpush .. | .minv | .mpop | .vmload ..
  | .rflush .. | .vfence .. | .arrive .. | .cpy .. | .mcfg .. | .mstm .. | .mzero .. | .mlive .. | .zopen ..
  | .zadv .. | .zisect .. | .zunion .. | .zskip .. | .bzEnd .. | .zclose .. | .tfence | .yieldpt | .ifence | .tret
  | .exit | .brk .. | .nop => true
  | .popPhase | .mmulStep | .exitComplete | .laneQueuePush .. | .awaitedCondition | .pendingPush
  | .loadDataArrival .. | .elementReturn .. | .homeSliceAccess .. | .streamDeadlock | .faultRecordWrite
  | .copyChunkDone .. | .copyComplete .. | .streamFetchAhead .. | .accumulateRequest .. | .accumulatePerform ..
  | .acceptedReply .. | .refusalReply .. | .fabricRequestReceive .. | .fabricAck .. | .nakBackoffExpire ..
  | .replyTimeoutResend .. | .tcWatch | .stepEnd | .threadControlWrite .. | .debugBlockRead .. | .registerWrite ..
  | .doorbell .. | .hostRequest .. | .peerRequest .. | .selection | .waitEventReread .. | .groupPlacement ..
  | .launchCompletion .. | .save | .resumePlacement .. | .quadRetirement .. | .mailboxCompletion | .qcfg | .qenable
  | .qdisable | .qprio | .qreset | .setage | .ctxset | .ctxmod | .ctxfree | .tlbinv | .fqcfg | .replay | .preempt
  | .resume | .inventory | .pset | .tripclr | .idinfo | .attest | .ccmap | .dbgunlock | .sealcfg | .sealflush
  | .sealRequest .. | .batchClose .. | .errcnt | .scrubcfg | .scrubRead .. | .qretire | .telem | .partset | .fwstage
  | .fwfloor | .powerOn | .perst | .thermalTrip .. | .tdispStop | .ideStreamLoss | .reservedEncoding .. | .dataError ..
  | .packagePowerRemoved | .ideKmKeyProgramming | .tdiEntersRun => false

end Sys2Proof
end

