-- ==== Sys2Proof/Decode.lean ====
section
/-! DEFINITION. Decoding of instruction words (R169 to R183) and, after it, the encoder of well-formed
instructions. A word is first split into the fields of R169 or R178, then parsed by its opcode; the result counts
only where it is well-formed (R170 to R183) and where every field the instruction does not use is zero (R169,
R183), which is said once: the encoder gives the very same word. -/

namespace Sys2Proof

/-- Why a word is no instruction. Each of them traps TC_ILLEGAL_WORD at decode (R183). -/
inductive Reject where
  /-- An opcode or short opcode that R181 or R182 does not list. -/
  | unlistedOpcode
  /-- A register field out of range (R170) or a value that the instruction's page reserves. -/
  | reservedValue
  /-- Fields that do not go together (R171, R173, R180 and the pages). -/
  | illFormed
  /-- A non-zero field that the instruction does not use (R169, R183). -/
  | unusedField
deriving DecidableEq, Repr

/-- The fields of the single form (R169). -/
structure Raw where
  op : Fin 256
  d : Fin 64
  a : Fin 64
  b : Fin 64
  c : Fin 64
  g : Fin 32
  gi : Bool
  x : Bool
  f : BitVec 24
deriving DecidableEq, Repr

/-- The fields of a short slot (R178). -/
structure RawShort where
  op : Fin 128
  d : Fin 32
  a : Fin 32
  imm : BitVec 14
deriving DecidableEq, Repr

/-- The word of the fields of R169. -/
def Raw.pack (r : Raw) : Word :=
  BitVec.ofNat 64 (r.op.val * 2 ^ 55 + r.d.val * 2 ^ 49 + r.a.val * 2 ^ 43 + r.b.val * 2 ^ 37 + r.c.val * 2 ^ 31
    + r.g.val * 2 ^ 26 + r.gi.toNat * 2 ^ 25 + r.x.toNat * 2 ^ 24 + r.f.toNat)

/-- The fields of R169 of a word. -/
def Raw.unpack (w : Word) : Raw where
  op := Fin.ofNat 256 (w.toNat / 2 ^ 55)
  d := Fin.ofNat 64 (w.toNat / 2 ^ 49)
  a := Fin.ofNat 64 (w.toNat / 2 ^ 43)
  b := Fin.ofNat 64 (w.toNat / 2 ^ 37)
  c := Fin.ofNat 64 (w.toNat / 2 ^ 31)
  g := Fin.ofNat 32 (w.toNat / 2 ^ 26)
  gi := w.toNat / 2 ^ 25 % 2 == 1
  x := w.toNat / 2 ^ 24 % 2 == 1
  f := BitVec.ofNat 24 w.toNat

/-- The 31 bits of a short slot (R178). -/
def RawShort.pack (r : RawShort) : Nat := r.op.val * 2 ^ 24 + r.d.val * 2 ^ 19 + r.a.val * 2 ^ 14 + r.imm.toNat

/-- The fields of R178 of a slot. -/
def RawShort.unpack (n : Nat) : RawShort where
  op := Fin.ofNat 128 (n / 2 ^ 24)
  d := Fin.ofNat 32 (n / 2 ^ 19)
  a := Fin.ofNat 32 (n / 2 ^ 14)
  imm := BitVec.ofNat 14 n

/-! ### Codes of the small enumerations -/

def AmoOp.code : AmoOp → Nat
  | .add => 0 | .and => 1 | .or => 2 | .xor => 3 | .min => 4 | .max => 5 | .minn => 6 | .maxn => 7 | .swap => 8
  | .cas => 9
def AmoOp.ofCode : Nat → Option AmoOp
  | 0 => some .add | 1 => some .and | 2 => some .or | 3 => some .xor | 4 => some .min | 5 => some .max
  | 6 => some .minn | 7 => some .maxn | 8 => some .swap | 9 => some .cas | _ => none
def Ordering4.code : Ordering4 → Nat
  | .none => 0 | .acq => 1 | .rel => 2 | .ar => 3
def Ordering4.ofCode : Nat → Ordering4
  | 0 => .none | 1 => .acq | 2 => .rel | _ => .ar
/-- The scope codes of R101. -/
def Scope.code : Scope → Nat
  | .thread => 0 | .unit => 1 | .cluster => 2 | .die => 3 | .package => 4 | .system => 5
def Scope.ofCode : Nat → Option Scope
  | 0 => some .thread | 1 => some .unit | 2 => some .cluster | 3 => some .die | 4 => some .package
  | 5 => some .system | _ => none
def Cond.code : Cond → Nat
  | .eq => 0 | .ne => 1 | .lt => 2 | .le => 3 | .gt => 4 | .ge => 5 | .un => 6
def Cond.ofCode : Nat → Option Cond
  | 0 => some .eq | 1 => some .ne | 2 => some .lt | 3 => some .le | 4 => some .gt | 5 => some .ge | 6 => some .un
  | _ => none
def StripSz.code : StripSz → Nat
  | .none => 0 | .b1 => 1 | .b2 => 2 | .b4 => 3 | .b8 => 4 | .blk => 5
def StripSz.ofCode : Nat → Option StripSz
  | 0 => some .none | 1 => some .b1 | 2 => some .b2 | 3 => some .b4 | 4 => some .b8 | 5 => some .blk | _ => none
def AccTy.code : AccTy → Nat
  | .i32 => 0 | .i64 => 1 | .fx64 => 2 | .f32 => 3
def AccTy.ofCode : Nat → AccTy
  | 0 => .i32 | 1 => .i64 | 2 => .fx64 | _ => .f32
def VidSel.code : VidSel → Nat
  | .lane => 0 | .inner => 1 | .outer => 2
def VidSel.ofCode : Nat → Option VidSel
  | 0 => some .lane | 1 => some .inner | 2 => some .outer | _ => none
def ShortAlu.code : ShortAlu → Nat
  | .add => 1 | .sub => 2 | .and => 3 | .or => 4 | .xor => 5 | .sll => 6 | .srl => 7 | .sra => 8
def ShortAlu.ofCode : Nat → Option ShortAlu
  | 1 => some .add | 2 => some .sub | 3 => some .and | 4 => some .or | 5 => some .xor | 6 => some .sll
  | 7 => some .srl | 8 => some .sra | _ => none
def ShortLane.code : ShortLane → Nat
  | .vadd => 0x20 | .vsub => 0x21 | .vand => 0x22 | .vor => 0x23 | .vxor => 0x24 | .vmin => 0x25 | .vmax => 0x26
def ShortLane.ofCode : Nat → Option ShortLane
  | 0x20 => some .vadd | 0x21 => some .vsub | 0x22 => some .vand | 0x23 => some .vor | 0x24 => some .vxor
  | 0x25 => some .vmin | 0x26 => some .vmax | _ => none

/-! ### Reading operands from fields -/

/-- A number as a register of a file of k + 1 (R170): none where it is out of range. -/
def asFin (k n : Nat) : Option (Fin k) := if h : n < k then some ⟨n, h⟩ else none

def Raw.vd (r : Raw) : Option VReg := asFin 32 r.d.val
def Raw.va (r : Raw) : Option VReg := asFin 32 r.a.val
def Raw.vb (r : Raw) : Option VReg := asFin 32 r.b.val
def Raw.vc (r : Raw) : Option VReg := asFin 32 r.c.val

/-- The guard of a word (R171). -/
def Raw.guard (r : Raw) : Guard := ⟨r.g, r.gi⟩
/-- Guard and exception-mask target (R171). -/
def Raw.guardX (r : Raw) : Option GuardX := do
  if r.x then
    let m ← asFin 32 r.c.val
    pure ⟨r.guard, m⟩
  else pure ⟨r.guard, 0⟩

/-- The os field (R172). -/
def Raw.os (r : Raw) : Nat := r.f.toNat / 2 ^ 22
/-- The in field (R172). -/
def Raw.inn (r : Raw) : Bool := r.f.toNat / 2 ^ 21 % 2 == 1
/-- The fn field (R172). -/
def Raw.fn (r : Raw) : Nat := r.f.toNat % 2 ^ 21

/-- Second operand of 0x01 to 0x17 (R174). -/
def Raw.src2 (r : Raw) : Src2 := if r.f.toNat / 2 ^ 23 == 1 then .imm (BitVec.ofNat 23 r.f.toNat) else .reg r.b

/-- Operand b of R172. -/
def Raw.bSrc (r : Raw) : Option BSrc :=
  match r.os with
  | 0 => r.vb.map .vec
  | 1 => some (.scalar r.b)
  | 2 => some .q0
  | _ => some .q1

/-- A required scalar operand b (R243). -/
def Raw.sqSrc (r : Raw) : Option SQSrc :=
  match r.os with
  | 0 => none
  | 1 => some (.scalar r.b)
  | 2 => some .q0
  | _ => some .q1

/-- Amount of a lane shift (R230). -/
def Raw.shiftSrc (r : Raw) : Option ShiftSrc :=
  if r.fn / 2 ^ 7 % 2 == 1 then some (.imm (BitVec.ofNat 7 r.fn)) else r.bSrc.map .b

/-- Slide distance (R237). -/
def Raw.slideSrc (r : Raw) : Option SlideSrc :=
  if r.fn / 2 ^ 20 == 1 then some (.imm (BitVec.ofNat 19 r.fn))
  else match r.os with
    | 0 => none
    | 1 => some (.scalar r.b)
    | 2 => some .q0
    | _ => some .q1

/-- Result place of a reduction (R243). -/
def Raw.redDst (r : Raw) : Option RedDst :=
  if r.inn then r.vd.map .vec else (asFin 4 r.d.val).map .queue

/-- Scale base of the contiguous forms (R264) and of mstm (R287). -/
def Raw.scaleBase (r : Raw) : Option SReg := if r.f.toNat / 2 ^ 22 % 2 == 1 then some r.c else none

/-- A displacement of w low bits of f. -/
def Raw.low (r : Raw) (w : Nat) : BitVec w := BitVec.ofNat w r.f.toNat

/-! ### Parsing by opcode (R182) -/

/-- Opcodes 0x01 to 0x3D and 0xAE. -/
def parseControl (r : Raw) : Option Instr :=
  match r.op.val with
  | 0x01 => some (.add r.d r.a r.src2)
  | 0x02 => some (.sub r.d r.a r.src2)
  | 0x03 => some (.and r.d r.a r.src2)
  | 0x04 => some (.or r.d r.a r.src2)
  | 0x05 => some (.xor r.d r.a r.src2)
  | 0x06 => some (.andn r.d r.a r.src2)
  | 0x07 => some (.sll r.d r.a r.src2)
  | 0x08 => some (.srl r.d r.a r.src2)
  | 0x09 => some (.sra r.d r.a r.src2)
  | 0x0A => some (.mul r.d r.a r.src2)
  | 0x0B => some (.mulh r.d r.a r.src2)
  | 0x0C => some (.mulhn r.d r.a r.src2)
  | 0x0D => some (.div r.d r.a r.src2)
  | 0x0E => some (.divn r.d r.a r.src2)
  | 0x0F => some (.rem r.d r.a r.src2)
  | 0x10 => some (.remn r.d r.a r.src2)
  | 0x11 => some (.min r.d r.a r.src2)
  | 0x12 => some (.max r.d r.a r.src2)
  | 0x13 => some (.minn r.d r.a r.src2)
  | 0x14 => some (.maxn r.d r.a r.src2)
  | 0x15 => some (.slt r.d r.a r.src2)
  | 0x16 => some (.sltn r.d r.a r.src2)
  | 0x17 => some (.seq r.d r.a r.src2)
  | 0x18 => some (.popc r.d r.a)
  | 0x19 => some (.clz r.d r.a)
  | 0x1A => some (.li r.d r.f)
  | 0x1B => some (.lih r.d r.f)
  | 0x1C => some (.lix r.d (r.low 16))
  | 0x1D => some (.beq r.a r.b r.f)
  | 0x1E => some (.bne r.a r.b r.f)
  | 0x1F => some (.blt r.a r.b r.f)
  | 0x20 => some (.bge r.a r.b r.f)
  | 0x21 => some (.bltn r.a r.b r.f)
  | 0x22 => some (.bgen r.a r.b r.f)
  | 0x23 => some (.br r.f)
  | 0x24 => some (.call r.f)
  | 0x25 => some (.callr r.a)
  | 0x26 => some .ret
  | 0x27 => if r.a == 0 then some (.bq r.f) else if r.a == 1 then some (.bqn r.f) else none
  | 0x28 => if r.a == 0 then some (.bmz r.f) else if r.a == 1 then some (.bmnz r.f) else none
  | _ => none

/-- Opcodes 0x29 to 0x3D and 0xAE: scalar memory, queues, vector length, loops, launches, copies. -/
def parseControl2 (r : Raw) : Option Instr :=
  match r.op.val with
  | 0x29 => some (.ldB r.d r.a r.f)
  | 0x2A => some (.ldH r.d r.a r.f)
  | 0x2B => some (.ldW r.d r.a r.f)
  | 0x2C => some (.ldD r.d r.a r.f)
  | 0x2D => some (.ldBS r.d r.a r.f)
  | 0x2E => some (.ldHS r.d r.a r.f)
  | 0x2F => some (.ldWS r.d r.a r.f)
  | 0x30 => some (.stB r.a r.b r.f)
  | 0x31 => some (.stH r.a r.b r.f)
  | 0x32 => some (.stW r.a r.b r.f)
  | 0x33 => some (.stD r.a r.b r.f)
  | 0x34 => do
    let op ← AmoOp.ofCode (r.f.toNat / 64 % 16)
    let sc ← Scope.ofCode (r.f.toNat % 8)
    pure (.amo op (r.f.toNat / 32 % 2 == 1) (Ordering4.ofCode (r.f.toNat / 8 % 4)) sc r.d r.a r.b r.c)
  | 0x35 => do
    let sc ← Scope.ofCode (r.f.toNat % 8)
    match r.f.toNat / 8 with
    | 1 => pure (.fenceAcq sc)
    | 2 => pure (.fenceRel sc)
    | 3 => pure (.fenceAr sc)
    | _ => none
  | 0x36 => some .vdrain
  | 0x37 => match r.f.toNat with
    | 0 => some (.await r.a r.b)
    | 1 => some (.awaitEv r.a r.b)
    | _ => none
  | 0x38 => (asFin 4 r.d.val).map (.qpush · r.a)
  | 0x39 => (asFin 4 r.a.val).map (.qpop r.d ·)
  | 0x3A => match r.f.toNat with
    | 0 => some (.setvl r.d r.a)
    | 1 => some (.setvlGrow r.d r.a r.b)
    | 2 => some (.setvlShrink r.d r.a)
    | _ => none
  | 0x3B => do
    let z0 ← StripSz.ofCode (r.f.toNat / 2 ^ 12 % 8)
    let z1 ← StripSz.ofCode (r.f.toNat / 2 ^ 15 % 8)
    let z2 ← StripSz.ofCode (r.f.toNat / 2 ^ 18 % 8)
    let z3 ← StripSz.ofCode (r.f.toNat / 2 ^ 21)
    pure (.strip r.d r.a r.b z0 z1 z2 z3 (r.low 12))
  | 0x3C => some (.nest (Fin.ofNat 16 r.f.toNat) (Fin.ofNat 8 (r.f.toNat / 16)) r.a)
  | 0x3D => match r.f.toNat with
    | 0 => some (.launch r.d r.a)
    | 1 => some (.launchW r.d r.a)
    | _ => none
  | 0xAE => some (.cpy r.d r.a)
  | _ => none

/-- Opcodes 0x40 to 0x69 (R223). -/
def parseLane (r : Raw) : Option Instr :=
  match r.op.val with
  | 0x40 => some (.vcfg r.a)
  | 0x41 => some (.setvl2 r.a r.b)
  | 0x42 => do pure (.vid r.guard (← VidSel.ofCode r.fn) (← r.vd))
  | 0x43 => do pure (.vadd (← r.guardX) (← r.vd) (← r.va) (← r.bSrc))
  | 0x44 => do pure (.vsub (← r.guardX) (← r.vd) (← r.va) (← r.bSrc))
  | 0x45 => do pure (.vmul (← r.guardX) (← r.vd) (← r.va) (← r.bSrc))
  | 0x46 => do pure (.vmulh (← r.guardX) (← r.vd) (← r.va) (← r.bSrc))
  | 0x47 => do pure (.vdiv (← r.guardX) (← r.vd) (← r.va) (← r.bSrc))
  | 0x48 => do pure (.vrem (← r.guardX) (← r.vd) (← r.va) (← r.bSrc))
  | 0x49 => do pure (.vmin (← r.guardX) (← r.vd) (← r.va) (← r.bSrc))
  | 0x4A => do pure (.vmax (← r.guardX) (← r.vd) (← r.va) (← r.bSrc))
  | 0x4B => do pure (.vneg (← r.guardX) (← r.vd) (← r.va))
  | 0x4C => do pure (.vabs (← r.guardX) (← r.vd) (← r.va))
  | 0x4D => do pure (.vand r.guard (← r.vd) (← r.va) (← r.bSrc))
  | 0x4E => do pure (.vor r.guard (← r.vd) (← r.va) (← r.bSrc))
  | 0x4F => do pure (.vandn r.guard (← r.vd) (← r.va) (← r.bSrc))
  | 0x50 => do pure (.vxor r.guard (← r.vd) (← r.va) (← r.bSrc))
  | 0x51 => do pure (.vxnor r.guard (← r.vd) (← r.va) (← r.bSrc))
  | 0x52 => do pure (.vnot r.guard (← r.vd) (← r.va))
  | 0x53 => do pure (.vsll (← r.guardX) (← r.vd) (← r.va) (← r.shiftSrc))
  | 0x54 => do pure (.vsrl (← r.guardX) (← r.vd) (← r.va) (← r.shiftSrc))
  | 0x55 => do pure (.vsra (← r.guardX) (← r.vd) (← r.va) (← r.shiftSrc))
  | 0x56 => do pure (.vfsl r.guard (← r.vd) (← r.va) (← r.vb) (r.low 7))
  | 0x57 => do pure (.vfsr r.guard (← r.vd) (← r.va) (← r.vb) (r.low 7))
  | 0x58 => do pure (.vlut3 r.guard (← r.vd) (← r.va) (← r.vb) (← r.vc) (r.low 8))
  | 0x59 => do pure (.vcmp r.guard (← Cond.ofCode r.fn) (← r.vd) (← r.va) (← r.bSrc))
  | 0x5A => do pure (.vsel r.guard (← r.vd) (← r.va) (← r.bSrc) (← r.vc))
  | 0x5B => do
    if r.os == 0 then pure (.vmov r.guard (← r.vd) (.vec (← r.va)))
    else pure (.vmov r.guard (← r.vd) (← r.bSrc))
  | 0x5C => do pure (.vslideup r.guard r.inn (r.fn / 2 ^ 19 % 2 == 1) (← r.vd) (← r.va) (← r.slideSrc))
  | 0x5D => do pure (.vslidedn r.guard r.inn (r.fn / 2 ^ 19 % 2 == 1) (← r.vd) (← r.va) (← r.slideSrc))
  | 0x5E => do pure (.vlscat r.guard r.inn (← r.vd) (← r.va) (← r.vb))
  | 0x60 => do pure (.mand r.guard (← r.vd) (← r.va) (← r.vb))
  | 0x61 => do pure (.mor r.guard (← r.vd) (← r.va) (← r.vb))
  | 0x62 => do pure (.mxor r.guard (← r.vd) (← r.va) (← r.vb))
  | 0x63 => do pure (.mandn r.guard (← r.vd) (← r.va) (← r.vb))
  | 0x64 => do pure (.mnot r.guard (← r.vd) (← r.va))
  | 0x65 => do pure (.mmov r.guard (← r.vd) (← r.va))
  | 0x66 => do pure (.mpush (← r.va))
  | 0x67 => some .minv
  | 0x68 => some .mpop
  | 0x69 => do pure (.mpopc r.guard (← r.redDst) (← r.va))
  | _ => none

/-- Opcodes 0x80 to 0x97 (R244). -/
def parseSearch (r : Raw) : Option Instr :=
  match r.op.val with
  | 0x80 => do pure (.vfadd (← r.guardX) (← r.vd) (← r.va) (← r.bSrc))
  | 0x81 => do pure (.vfsub (← r.guardX) (← r.vd) (← r.va) (← r.bSrc))
  | 0x82 => do pure (.vfmul (← r.guardX) (← r.vd) (← r.va) (← r.bSrc))
  | 0x83 => do pure (.vfdiv (← r.guardX) (← r.vd) (← r.va) (← r.bSrc))
  | 0x84 => do pure (.vfsqrt (← r.guardX) (← r.vd) (← r.va))
  | 0x85 => do pure (.vfmin (← r.guardX) (← r.vd) (← r.va) (← r.bSrc))
  | 0x86 => do pure (.vfmax (← r.guardX) (← r.vd) (← r.va) (← r.bSrc))
  | 0x87 => do pure (.vfcmp (← r.guardX) (← Cond.ofCode r.fn) (← r.vd) (← r.va) (← r.bSrc))
  | 0x88 => do
    if r.fn / 2 ^ 20 == 1 then pure (.vcvtLg (← r.guardX) (← r.vd) (← r.va) (r.low 20))
    else pure (.vcvt (← r.guardX) (← r.vd) (← r.va) (r.low 20))
  | 0x89 => do pure (.vtab r.guard (← r.vd) r.a (← r.vb) (Fin.ofNat 16 r.fn))
  | 0x8A => do pure (.vkth r.guard (← r.redDst) (← r.va) (← r.sqSrc))
  | 0x8B => do pure (.vtopk r.guard r.inn (← r.vd) (← r.va) (← r.sqSrc))
  | 0x8C => do pure (.vtopp r.guard r.inn (← r.vd) (← r.va) (← r.sqSrc))
  | 0x8D => do pure (.vrsum r.guard (← r.redDst) (← r.va))
  | 0x8E => do pure (.vrmin r.guard (← r.redDst) (← r.va))
  | 0x8F => do pure (.vrmax r.guard (← r.redDst) (← r.va))
  | 0x90 => do pure (.vscanadd r.guard r.inn (← r.vd) (← r.va))
  | 0x91 => do pure (.vscanand r.guard r.inn (← r.vd) (← r.va))
  | 0x92 => do pure (.vfirst0 r.guard (← r.redDst) (← r.va))
  | 0x93 => do pure (.vpick r.guard (← r.redDst) (← r.va) (← r.bSrc))
  | 0x94 => do pure (.vrand r.guard (← r.vd) (← r.bSrc))
  | 0x95 => do pure (.vscatl r.guard (← r.vd) r.a)
  | 0x96 => some (.vmload r.a r.b r.c)
  | 0x97 => do pure (.vmicro r.guard (r.low 12) (← r.vd) (← r.va) (← r.vb))
  | _ => none

/-- Opcodes 0xA0 to 0xAD (R264). -/
def parseMemory (r : Raw) : Option Instr :=
  match r.op.val with
  | 0xA0 => do pure (.vld r.guard (← r.vd) r.a r.scaleBase (r.low 22))
  | 0xA1 => do
    if r.f.toNat / 2 ^ 23 == 1 then pure (.vstFree r.guard r.a (← r.vb) r.scaleBase (r.low 22))
    else pure (.vst r.guard r.a (← r.vb) r.scaleBase (r.low 22))
  | 0xA2 => do pure (.vlds r.guard (← r.vd) r.a r.b (r.low 22))
  | 0xA3 => do pure (.vsts r.guard (r.f.toNat / 2 ^ 23 == 1) r.a r.b (← r.vc) (r.low 22))
  | 0xA4 => do
    pure (.tld r.guard (← r.vd) r.a (Fin.ofNat 32 r.f.toNat) (BitVec.ofNat 18 (r.f.toNat / 64)))
  | 0xA5 => do
    pure (.tst r.guard r.a (← r.vb) (Fin.ofNat 32 r.f.toNat) (BitVec.ofNat 18 (r.f.toNat / 64)))
  | 0xA6 => do pure (.vgather r.guard (← asFin 3 (r.f.toNat / 256)) (← r.vd) r.a (← r.vb))
  | 0xA7 => do pure (.vscatter r.guard (← asFin 3 (r.f.toNat / 256)) r.a (← r.vb) (← r.vc))
  | 0xA8 => do
    pure (.vamo r.guard (← AmoOp.ofCode (r.f.toNat / 2 ^ 10)) (← asFin 3 (r.f.toNat / 256 % 4))
      (Ordering4.ofCode (r.f.toNat / 8 % 4)) (← Scope.ofCode (r.f.toNat % 8)) (← r.vd) r.a (← r.vb) (← r.vc))
  | 0xA9 => do
    pure (.vred r.guard (← AmoOp.ofCode (r.f.toNat / 2 ^ 10)) (← asFin 3 (r.f.toNat / 256 % 4))
      (r.f.toNat / 16 % 2 == 1) (← Scope.ofCode (r.f.toNat % 8)) r.a (← r.vb) (← r.vc))
  | 0xAA => do pure (.racc (← r.guardX) (AccTy.ofCode r.f.toNat) (← r.vd) r.a (← r.vb))
  | 0xAB => do pure (.rflush (← Scope.ofCode r.f.toNat))
  | 0xAC => do pure (.vfence (← Scope.ofCode r.f.toNat))
  | 0xAD => do pure (.arrive r.a (← r.vb) (← Scope.ofCode r.f.toNat))
  | _ => none

/-- Opcodes 0xC0 to 0xE9 (R287, R302, R182). -/
def parseEngine (r : Raw) : Option Instr :=
  match r.op.val with
  | 0xC0 => some (.mcfg r.a)
  | 0xC1 => do pure (.mmul r.guard (← asFin 8 r.d.val) (← r.va) r.b)
  | 0xC2 => do pure (.mst r.guard (← r.vd) (← asFin 8 r.a.val) r.b)
  | 0xC3 => do pure (.mstm r.a (← asFin 8 r.b.val) (r.low 22) r.scaleBase)
  | 0xC4 => do pure (.mzero (← asFin 8 r.d.val))
  | 0xC5 => some (.mlive (r.low 8))
  | 0xD0 => do pure (.zopen (← asFin 8 r.d.val) r.a (← asFin 6 r.f.toNat) r.b)
  | 0xD1 => do pure (.zadv (← asFin 8 r.a.val))
  | 0xD2 => do
    let z ← asFin 8 r.a.val
    let v ← r.vd
    match r.f.toNat with
    | 0 => pure (.zldC r.guard v z)
    | 1 => pure (.zldP r.guard v z)
    | 2 => pure (.zldCK r.guard v z)
    | 3 => pure (.zldPK r.guard v z)
    | _ => none
  | 0xD3 => do pure (.zldM r.guard (← r.vd) (← asFin 8 r.a.val))
  | 0xD4 => do pure (.zisect (← asFin 8 r.a.val) (← asFin 8 r.b.val))
  | 0xD5 => do pure (.zunion (← asFin 8 r.a.val) (← asFin 8 r.b.val))
  | 0xD6 => do pure (.zskip (← asFin 8 r.a.val) r.b)
  | 0xD7 => do pure (.bzEnd (← asFin 8 r.a.val) r.f)
  | 0xD8 => do pure (.zclose (← asFin 8 r.a.val))
  | 0xE0 => some (.mfsr r.d r.a)
  | 0xE1 => some (.mtsr r.d r.a)
  | 0xE2 => some .tfence
  | 0xE3 => some .yieldpt
  | 0xE4 => some .ifence
  | 0xE5 => do pure (.vdead (r.f.toNat == 1) (← r.vd))
  | 0xE6 => some .tret
  | 0xE7 => some .exit
  | 0xE8 => some (.brk (r.low 16))
  | 0xE9 => some .nop
  | _ => none

/-- Which parser an opcode goes to. -/
def parseSingle (r : Raw) : Option Instr :=
  if r.op.val ≤ 0x28 then parseControl r
  else if r.op.val ≤ 0x3D || r.op.val == 0xAE then parseControl2 r
  else if r.op.val ≤ 0x69 then parseLane r
  else if r.op.val ≤ 0x97 then parseSearch r
  else if r.op.val ≤ 0xAD then parseMemory r
  else parseEngine r

/-- A short slot (R181). -/
def parseShort (r : RawShort) : Option Short :=
  let b : Fin 32 := Fin.ofNat 32 (r.imm.toNat / 2 ^ 9)
  match r.op.val with
  | 0x00 => some .nop
  | 0x09 => some (.addi r.d r.a r.imm)
  | 0x0A => some (.li r.d r.imm)
  | 0x0B => some (.ldD r.d r.a r.imm)
  | 0x0C => some (.ldW r.d r.a r.imm)
  | 0x0D => some (.stD r.d r.a r.imm)
  | 0x0E => some (.stW r.d r.a r.imm)
  | 0x10 => some (.br r.imm)
  | 0x11 => some (.beqz r.a r.imm)
  | 0x12 => some (.bnez r.a r.imm)
  | 0x13 => some (.bq r.imm)
  | 0x14 => some (.bqn r.imm)
  | 0x18 => do pure (.qpush (← asFin 2 r.d.val) r.a)
  | 0x19 => if 2 ≤ r.a.val then do pure (.qpop r.d (← asFin 2 (r.a.val - 2))) else none
  | 0x27 => do pure (.vmov (← asFin 16 r.d.val) (← asFin 16 r.a.val))
  | _ =>
    if r.op.val ≤ 8 then do pure (.alu (← ShortAlu.ofCode r.op.val) r.d r.a b)
    else do pure (.lane (← ShortLane.ofCode r.op.val) (← asFin 16 r.d.val) (← asFin 16 r.a.val) (← asFin 16 b.val))

/-- The opcodes R182 lists. -/
def listedOp (op : Nat) : Bool :=
  (1 ≤ op && op ≤ 0x3D) || (0x40 ≤ op && op ≤ 0x5E) || (0x60 ≤ op && op ≤ 0x69) || (0x80 ≤ op && op ≤ 0x97)
    || (0xA0 ≤ op && op ≤ 0xAE) || (0xC0 ≤ op && op ≤ 0xC5) || (0xD0 ≤ op && op ≤ 0xD8)
    || (0xE0 ≤ op && op ≤ 0xE9)

/-- The short opcodes R181 lists. -/
def listedShort (op : Nat) : Bool :=
  op ≤ 0x0E || (0x10 ≤ op && op ≤ 0x14) || op == 0x18 || op == 0x19 || (0x20 ≤ op && op ≤ 0x27)

/-- A word as an instruction, its unused fields not yet looked at. -/
def parseWord (w : Word) : Option Instr :=
  if w.toNat / 2 ^ 63 == 1 then do
    let x ← parseShort (RawShort.unpack (w.toNat / 2 ^ 32 % 2 ^ 31))
    let y ← parseShort (RawShort.unpack (w.toNat / 2 % 2 ^ 31))
    pure (.pair x y)
  else parseSingle (Raw.unpack w)

/-- Every opcode of the word is listed (R181, R182). -/
def listedWord (w : Word) : Bool :=
  if w.toNat / 2 ^ 63 == 1 then listedShort (w.toNat / 2 ^ 56 % 128) && listedShort (w.toNat / 2 ^ 25 % 128)
  else listedOp (w.toNat / 2 ^ 55)

/-! ### The encoder -/

def BSrc.os : BSrc → Nat
  | .vec _ => 0 | .scalar _ => 1 | .q0 => 2 | .q1 => 3
def BSrc.field : BSrc → Fin 64
  | .vec v => v.castLE (by decide) | .scalar s => s | .q0 => 0 | .q1 => 0
def SQSrc.os : SQSrc → Nat
  | .scalar _ => 1 | .q0 => 2 | .q1 => 3
def SQSrc.field : SQSrc → Fin 64
  | .scalar s => s | .q0 => 0 | .q1 => 0
def SlideSrc.bits : SlideSrc → Nat
  | .imm k => 2 ^ 20 + k.toNat | .scalar _ => 2 ^ 22 | .q0 => 2 * 2 ^ 22 | .q1 => 3 * 2 ^ 22
def SlideSrc.field : SlideSrc → Fin 64
  | .scalar s => s | _ => 0
def ShiftSrc.bits : ShiftSrc → Nat
  | .imm n => 2 ^ 7 + n.toNat | .b s => s.os * 2 ^ 22
def ShiftSrc.field : ShiftSrc → Fin 64
  | .imm _ => 0 | .b s => s.field
def RedDst.field : RedDst → Fin 64
  | .queue q => q.castLE (by decide) | .vec v => v.castLE (by decide)
def RedDst.inn : RedDst → Nat
  | .queue _ => 0 | .vec _ => 1
def Src2.field : Src2 → Fin 64
  | .reg b => b | .imm _ => 0
def Src2.bits : Src2 → Nat
  | .reg _ => 0 | .imm v => 2 ^ 23 + v.toNat
def scaleBits : Option SReg → Nat
  | none => 0 | some _ => 2 ^ 22
def scaleField : Option SReg → Fin 64
  | none => 0 | some s => s

/-- A vector or mask register as a field of six bits. -/
def v6 (v : Fin 32) : Fin 64 := v.castLE (by decide)
/-- A tile or stream register as a field of six bits. -/
def t6 (t : Fin 8) : Fin 64 := t.castLE (by decide)
/-- A queue register as a field of six bits. -/
def q6 (q : Fin 4) : Fin 64 := q.castLE (by decide)

/-- The fields of an unguarded word. -/
def raw (op : Fin 256) (d a b c : Fin 64) (f : Nat) : Raw := ⟨op, d, a, b, c, 0, false, false, BitVec.ofNat 24 f⟩
/-- The fields of a guarded word (R171). -/
def rawG (g : Guard) (op : Fin 256) (d a b c : Fin 64) (f : Nat) : Raw :=
  ⟨op, d, a, b, c, g.reg, g.inv, false, BitVec.ofNat 24 f⟩
/-- The fields of a word that takes an exception mask (R171). -/
def rawX (m : GuardX) (op : Fin 256) (d a b : Fin 64) (f : Nat) : Raw :=
  ⟨op, d, a, b, v6 m.x, m.g.reg, m.g.inv, m.x != 0, BitVec.ofNat 24 f⟩

/-- The fields of an instruction of the single form. A row that is no word of the single form has no fields. -/
def encodeRaw : Instr → Option Raw
  | .add d a s => some (raw 0x01 d a s.field 0 s.bits)
  | .sub d a s => some (raw 0x02 d a s.field 0 s.bits)
  | .and d a s => some (raw 0x03 d a s.field 0 s.bits)
  | .or d a s => some (raw 0x04 d a s.field 0 s.bits)
  | .xor d a s => some (raw 0x05 d a s.field 0 s.bits)
  | .andn d a s => some (raw 0x06 d a s.field 0 s.bits)
  | .sll d a s => some (raw 0x07 d a s.field 0 s.bits)
  | .srl d a s => some (raw 0x08 d a s.field 0 s.bits)
  | .sra d a s => some (raw 0x09 d a s.field 0 s.bits)
  | .mul d a s => some (raw 0x0A d a s.field 0 s.bits)
  | .mulh d a s => some (raw 0x0B d a s.field 0 s.bits)
  | .mulhn d a s => some (raw 0x0C d a s.field 0 s.bits)
  | .div d a s => some (raw 0x0D d a s.field 0 s.bits)
  | .divn d a s => some (raw 0x0E d a s.field 0 s.bits)
  | .rem d a s => some (raw 0x0F d a s.field 0 s.bits)
  | .remn d a s => some (raw 0x10 d a s.field 0 s.bits)
  | .min d a s => some (raw 0x11 d a s.field 0 s.bits)
  | .max d a s => some (raw 0x12 d a s.field 0 s.bits)
  | .minn d a s => some (raw 0x13 d a s.field 0 s.bits)
  | .maxn d a s => some (raw 0x14 d a s.field 0 s.bits)
  | .slt d a s => some (raw 0x15 d a s.field 0 s.bits)
  | .sltn d a s => some (raw 0x16 d a s.field 0 s.bits)
  | .seq d a s => some (raw 0x17 d a s.field 0 s.bits)
  | .popc d a => some (raw 0x18 d a 0 0 0)
  | .clz d a => some (raw 0x19 d a 0 0 0)
  | .li d i => some (raw 0x1A d 0 0 0 i.toNat)
  | .lih d i => some (raw 0x1B d 0 0 0 i.toNat)
  | .lix d i => some (raw 0x1C d 0 0 0 i.toNat)
  | .beq a b o => some (raw 0x1D 0 a b 0 o.toNat)
  | .bne a b o => some (raw 0x1E 0 a b 0 o.toNat)
  | .blt a b o => some (raw 0x1F 0 a b 0 o.toNat)
  | .bge a b o => some (raw 0x20 0 a b 0 o.toNat)
  | .bltn a b o => some (raw 0x21 0 a b 0 o.toNat)
  | .bgen a b o => some (raw 0x22 0 a b 0 o.toNat)
  | .br o => some (raw 0x23 0 0 0 0 o.toNat)
  | .call o => some (raw 0x24 0 0 0 0 o.toNat)
  | .callr a => some (raw 0x25 0 a 0 0 0)
  | .ret => some (raw 0x26 0 0 0 0 0)
  | .bq o => some (raw 0x27 0 0 0 0 o.toNat)
  | .bqn o => some (raw 0x27 0 1 0 0 o.toNat)
  | .bmz o => some (raw 0x28 0 0 0 0 o.toNat)
  | .bmnz o => some (raw 0x28 0 1 0 0 o.toNat)
  | .ldB d a e => some (raw 0x29 d a 0 0 e.toNat)
  | .ldH d a e => some (raw 0x2A d a 0 0 e.toNat)
  | .ldW d a e => some (raw 0x2B d a 0 0 e.toNat)
  | .ldD d a e => some (raw 0x2C d a 0 0 e.toNat)
  | .ldBS d a e => some (raw 0x2D d a 0 0 e.toNat)
  | .ldHS d a e => some (raw 0x2E d a 0 0 e.toNat)
  | .ldWS d a e => some (raw 0x2F d a 0 0 e.toNat)
  | .stB a b e => some (raw 0x30 0 a b 0 e.toNat)
  | .stH a b e => some (raw 0x31 0 a b 0 e.toNat)
  | .stW a b e => some (raw 0x32 0 a b 0 e.toNat)
  | .stD a b e => some (raw 0x33 0 a b 0 e.toNat)
  | .amo op dbl ord sc d a b c =>
    some (raw 0x34 d a b c (op.code * 64 + dbl.toNat * 32 + ord.code * 8 + sc.code))
  | .fenceAcq sc => some (raw 0x35 0 0 0 0 (8 + sc.code))
  | .fenceRel sc => some (raw 0x35 0 0 0 0 (16 + sc.code))
  | .fenceAr sc => some (raw 0x35 0 0 0 0 (24 + sc.code))
  | .vdrain => some (raw 0x36 0 0 0 0 0)
  | .await a b => some (raw 0x37 0 a b 0 0)
  | .awaitEv a b => some (raw 0x37 0 a b 0 1)
  | .qpush q a => some (raw 0x38 (q6 q) a 0 0 0)
  | .qpop d q => some (raw 0x39 d (q6 q) 0 0 0)
  | .setvl d a => some (raw 0x3A d a 0 0 0)
  | .setvlGrow d a b => some (raw 0x3A d a b 0 1)
  | .setvlShrink d a => some (raw 0x3A d a 0 0 2)
  | .strip d a b z0 z1 z2 z3 o => some (raw 0x3B d a b 0
      (z3.code * 2 ^ 21 + z2.code * 2 ^ 18 + z1.code * 2 ^ 15 + z0.code * 2 ^ 12 + o.toNat))
  | .nest k dims a => some (raw 0x3C 0 a 0 0 (dims.val * 16 + k.val))
  | .launch d a => some (raw 0x3D d a 0 0 0)
  | .launchW d a => some (raw 0x3D d a 0 0 1)
  | .vcfg a => some (raw 0x40 0 a 0 0 0)
  | .setvl2 a b => some (raw 0x41 0 a b 0 0)
  | .vid g sel d => some (rawG g 0x42 (v6 d) 0 0 0 sel.code)
  | .vadd m d a b => some (rawX m 0x43 (v6 d) (v6 a) b.field (b.os * 2 ^ 22))
  | .vsub m d a b => some (rawX m 0x44 (v6 d) (v6 a) b.field (b.os * 2 ^ 22))
  | .vmul m d a b => some (rawX m 0x45 (v6 d) (v6 a) b.field (b.os * 2 ^ 22))
  | .vmulh m d a b => some (rawX m 0x46 (v6 d) (v6 a) b.field (b.os * 2 ^ 22))
  | .vdiv m d a b => some (rawX m 0x47 (v6 d) (v6 a) b.field (b.os * 2 ^ 22))
  | .vrem m d a b => some (rawX m 0x48 (v6 d) (v6 a) b.field (b.os * 2 ^ 22))
  | .vmin m d a b => some (rawX m 0x49 (v6 d) (v6 a) b.field (b.os * 2 ^ 22))
  | .vmax m d a b => some (rawX m 0x4A (v6 d) (v6 a) b.field (b.os * 2 ^ 22))
  | .vneg m d a => some (rawX m 0x4B (v6 d) (v6 a) 0 0)
  | .vabs m d a => some (rawX m 0x4C (v6 d) (v6 a) 0 0)
  | .vand g d a b => some (rawG g 0x4D (v6 d) (v6 a) b.field 0 (b.os * 2 ^ 22))
  | .vor g d a b => some (rawG g 0x4E (v6 d) (v6 a) b.field 0 (b.os * 2 ^ 22))
  | .vandn g d a b => some (rawG g 0x4F (v6 d) (v6 a) b.field 0 (b.os * 2 ^ 22))
  | .vxor g d a b => some (rawG g 0x50 (v6 d) (v6 a) b.field 0 (b.os * 2 ^ 22))
  | .vxnor g d a b => some (rawG g 0x51 (v6 d) (v6 a) b.field 0 (b.os * 2 ^ 22))
  | .vnot g d a => some (rawG g 0x52 (v6 d) (v6 a) 0 0 0)
  | .vsll m d a n => some (rawX m 0x53 (v6 d) (v6 a) n.field n.bits)
  | .vsrl m d a n => some (rawX m 0x54 (v6 d) (v6 a) n.field n.bits)
  | .vsra m d a n => some (rawX m 0x55 (v6 d) (v6 a) n.field n.bits)
  | .vfsl g d a b n => some (rawG g 0x56 (v6 d) (v6 a) (v6 b) 0 n.toNat)
  | .vfsr g d a b n => some (rawG g 0x57 (v6 d) (v6 a) (v6 b) 0 n.toNat)
  | .vlut3 g d a b c t => some (rawG g 0x58 (v6 d) (v6 a) (v6 b) (v6 c) t.toNat)
  | .vcmp g cc d a b => some (rawG g 0x59 (v6 d) (v6 a) b.field 0 (b.os * 2 ^ 22 + cc.code))
  | .vsel g d a b c => some (rawG g 0x5A (v6 d) (v6 a) b.field (v6 c) (b.os * 2 ^ 22))
  | .vmov g d b => match b with
    | .vec a => some (rawG g 0x5B (v6 d) (v6 a) 0 0 0)
    | _ => some (rawG g 0x5B (v6 d) 0 b.field 0 (b.os * 2 ^ 22))
  | .vslideup g i r d a k =>
    some (rawG g 0x5C (v6 d) (v6 a) k.field 0 (k.bits + i.toNat * 2 ^ 21 + r.toNat * 2 ^ 19))
  | .vslidedn g i r d a k =>
    some (rawG g 0x5D (v6 d) (v6 a) k.field 0 (k.bits + i.toNat * 2 ^ 21 + r.toNat * 2 ^ 19))
  | .vlscat g i d a b => some (rawG g 0x5E (v6 d) (v6 a) (v6 b) 0 (i.toNat * 2 ^ 21))
  | .mand g d a b => some (rawG g 0x60 (v6 d) (v6 a) (v6 b) 0 0)
  | .mor g d a b => some (rawG g 0x61 (v6 d) (v6 a) (v6 b) 0 0)
  | .mxor g d a b => some (rawG g 0x62 (v6 d) (v6 a) (v6 b) 0 0)
  | .mandn g d a b => some (rawG g 0x63 (v6 d) (v6 a) (v6 b) 0 0)
  | .mnot g d a => some (rawG g 0x64 (v6 d) (v6 a) 0 0 0)
  | .mmov g d a => some (rawG g 0x65 (v6 d) (v6 a) 0 0 0)
  | .mpush a => some (raw 0x66 0 (v6 a) 0 0 0)
  | .minv => some (raw 0x67 0 0 0 0 0)
  | .mpop => some (raw 0x68 0 0 0 0 0)
  | .mpopc g d a => some (rawG g 0x69 d.field (v6 a) 0 0 (d.inn * 2 ^ 21))
  | .vfadd m d a b => some (rawX m 0x80 (v6 d) (v6 a) b.field (b.os * 2 ^ 22))
  | .vfsub m d a b => some (rawX m 0x81 (v6 d) (v6 a) b.field (b.os * 2 ^ 22))
  | .vfmul m d a b => some (rawX m 0x82 (v6 d) (v6 a) b.field (b.os * 2 ^ 22))
  | .vfdiv m d a b => some (rawX m 0x83 (v6 d) (v6 a) b.field (b.os * 2 ^ 22))
  | .vfsqrt m d a => some (rawX m 0x84 (v6 d) (v6 a) 0 0)
  | .vfmin m d a b => some (rawX m 0x85 (v6 d) (v6 a) b.field (b.os * 2 ^ 22))
  | .vfmax m d a b => some (rawX m 0x86 (v6 d) (v6 a) b.field (b.os * 2 ^ 22))
  | .vfcmp m cc d a b => some (rawX m 0x87 (v6 d) (v6 a) b.field (b.os * 2 ^ 22 + cc.code))
  | .vcvt m d a t => some (rawX m 0x88 (v6 d) (v6 a) 0 t.toNat)
  | .vcvtLg m d a t => some (rawX m 0x88 (v6 d) (v6 a) 0 (2 ^ 20 + t.toNat))
  | .vtab g d a b n => some (rawG g 0x89 (v6 d) a (v6 b) 0 n.val)
  | .vkth g d a b => some (rawG g 0x8A d.field (v6 a) b.field 0 (b.os * 2 ^ 22 + d.inn * 2 ^ 21))
  | .vtopk g i d a b => some (rawG g 0x8B (v6 d) (v6 a) b.field 0 (b.os * 2 ^ 22 + i.toNat * 2 ^ 21))
  | .vtopp g i d a b => some (rawG g 0x8C (v6 d) (v6 a) b.field 0 (b.os * 2 ^ 22 + i.toNat * 2 ^ 21))
  | .vrsum g d a => some (rawG g 0x8D d.field (v6 a) 0 0 (d.inn * 2 ^ 21))
  | .vrmin g d a => some (rawG g 0x8E d.field (v6 a) 0 0 (d.inn * 2 ^ 21))
  | .vrmax g d a => some (rawG g 0x8F d.field (v6 a) 0 0 (d.inn * 2 ^ 21))
  | .vscanadd g i d a => some (rawG g 0x90 (v6 d) (v6 a) 0 0 (i.toNat * 2 ^ 21))
  | .vscanand g i d a => some (rawG g 0x91 (v6 d) (v6 a) 0 0 (i.toNat * 2 ^ 21))
  | .vfirst0 g d a => some (rawG g 0x92 d.field (v6 a) 0 0 (d.inn * 2 ^ 21))
  | .vpick g d a b => some (rawG g 0x93 d.field (v6 a) b.field 0 (b.os * 2 ^ 22 + d.inn * 2 ^ 21))
  | .vrand g d b => some (rawG g 0x94 (v6 d) 0 b.field 0 (b.os * 2 ^ 22))
  | .vscatl g d a => some (rawG g 0x95 (v6 d) a 0 0 0)
  | .vmload a b c => some (raw 0x96 0 a b c 0)
  | .vmicro g n d a b => some (rawG g 0x97 (v6 d) (v6 a) (v6 b) 0 n.toNat)
  | .vld g d a sc e => some (rawG g 0xA0 (v6 d) a 0 (scaleField sc) (scaleBits sc + e.toNat))
  | .vst g a b sc e => some (rawG g 0xA1 0 a (v6 b) (scaleField sc) (scaleBits sc + e.toNat))
  | .vstFree g a b sc e => some (rawG g 0xA1 0 a (v6 b) (scaleField sc) (2 ^ 23 + scaleBits sc + e.toNat))
  | .vlds g d a b e => some (rawG g 0xA2 (v6 d) a b 0 e.toNat)
  | .vsts g free a b c e => some (rawG g 0xA3 0 a b (v6 c) (free.toNat * 2 ^ 23 + e.toNat))
  | .tld g d a k e => some (rawG g 0xA4 (v6 d) a 0 0 (e.toNat * 64 + k.val))
  | .tst g a b k e => some (rawG g 0xA5 0 a (v6 b) 0 (e.toNat * 64 + k.val))
  | .vgather g mode d a i => some (rawG g 0xA6 (v6 d) a (v6 i) 0 (mode.val * 256))
  | .vscatter g mode a i c => some (rawG g 0xA7 0 a (v6 i) (v6 c) (mode.val * 256))
  | .vamo g op mode ord sc d a i c => some (rawG g 0xA8 (v6 d) a (v6 i) (v6 c)
      (op.code * 2 ^ 10 + mode.val * 256 + ord.code * 8 + sc.code))
  | .vred g op mode rel sc a i c => some (rawG g 0xA9 0 a (v6 i) (v6 c)
      (op.code * 2 ^ 10 + mode.val * 256 + rel.toNat * 16 + sc.code))
  | .racc m t v a i => some (rawX m 0xAA (v6 v) a (v6 i) t.code)
  | .rflush sc => some (raw 0xAB 0 0 0 0 sc.code)
  | .vfence sc => some (raw 0xAC 0 0 0 0 sc.code)
  | .arrive a b sc => some (raw 0xAD 0 a (v6 b) 0 sc.code)
  | .cpy d a => some (raw 0xAE d a 0 0 0)
  | .mcfg a => some (raw 0xC0 0 a 0 0 0)
  | .mmul g t a b => some (rawG g 0xC1 (t6 t) (v6 a) b 0 0)
  | .mst g d t b => some (rawG g 0xC2 (v6 d) (t6 t) b 0 0)
  | .mstm a t pitch sc => some (raw 0xC3 0 a (t6 t) (scaleField sc) (scaleBits sc + pitch.toNat))
  | .mzero t => some (raw 0xC4 (t6 t) 0 0 0 0)
  | .mlive set => some (raw 0xC5 0 0 0 0 set.toNat)
  | .zopen z a lev b => some (raw 0xD0 (t6 z) a b 0 lev.val)
  | .zadv z => some (raw 0xD1 0 (t6 z) 0 0 0)
  | .zldC g d z => some (rawG g 0xD2 (v6 d) (t6 z) 0 0 0)
  | .zldP g d z => some (rawG g 0xD2 (v6 d) (t6 z) 0 0 1)
  | .zldCK g d z => some (rawG g 0xD2 (v6 d) (t6 z) 0 0 2)
  | .zldPK g d z => some (rawG g 0xD2 (v6 d) (t6 z) 0 0 3)
  | .zldM g d z => some (rawG g 0xD3 (v6 d) (t6 z) 0 0 0)
  | .zisect z m => some (raw 0xD4 0 (t6 z) (t6 m) 0 0)
  | .zunion z m => some (raw 0xD5 0 (t6 z) (t6 m) 0 0)
  | .zskip z b => some (raw 0xD6 0 (t6 z) b 0 0)
  | .bzEnd z o => some (raw 0xD7 0 (t6 z) 0 0 o.toNat)
  | .zclose z => some (raw 0xD8 0 (t6 z) 0 0 0)
  | .mfsr d n => some (raw 0xE0 d n 0 0 0)
  | .mtsr n a => some (raw 0xE1 n a 0 0 0)
  | .tfence => some (raw 0xE2 0 0 0 0 0)
  | .yieldpt => some (raw 0xE3 0 0 0 0 0)
  | .ifence => some (raw 0xE4 0 0 0 0 0)
  | .vdead m n => some (raw 0xE5 (v6 n) 0 0 0 m.toNat)
  | .tret => some (raw 0xE6 0 0 0 0 0)
  | .exit => some (raw 0xE7 0 0 0 0 0)
  | .brk code => some (raw 0xE8 0 0 0 0 code.toNat)
  | .nop => some (raw 0xE9 0 0 0 0 0)
  | .pair .. => none
  | .popPhase | .mmulStep | .exitComplete | .laneQueuePush .. | .awaitedCondition | .pendingPush
  | .loadDataArrival .. | .elementReturn .. | .homeSliceAccess .. | .streamDeadlock | .faultRecordWrite
  | .copyChunkDone .. | .copyComplete .. | .streamFetchAhead .. | .accumulateRequest .. | .accumulatePerform ..
  | .acceptedReply .. | .refusalReply .. | .fabricRequestReceive .. | .fabricAck .. | .nakBackoffExpire ..
  | .replyTimeoutResend .. | .tcWatch | .stepEnd | .threadControlWrite .. | .debugBlockRead .. | .registerWrite ..
  | .doorbell .. | .hostRequest .. | .peerRequest .. | .selection | .waitEventReread .. | .groupPlacement ..
  | .launchCompletion .. | .save | .resumePlacement .. | .quadRetirement .. | .mailboxCompletion | .qcfg | .qenable
  | .qdisable | .qprio | .qreset | .setage | .ctxset | .ctxmod | .ctxfree | .tlbinv | .fqcfg | .replay | .preempt
  | .resume | .inventory | .pset | .tripclr | .idinfo | .attest | .ccmap | .dbgunlock | .sealcfg | .sealflush
  | .sealRequest .. | .batchClose .. | .errcnt | .scrubcfg | .scrubRead .. | .qretire | .telem | .partset | .fwstage
  | .fwfloor | .powerOn | .perst | .thermalTrip .. | .tdispStop | .ideStreamLoss | .reservedEncoding .. | .dataError ..
  | .packagePowerRemoved | .ideKmKeyProgramming | .tdiEntersRun => none

/-- A slot that takes no immediate: b in bits 13:9 (R178). -/
def rawShortB (op : Fin 128) (d a b : Fin 32) : RawShort := ⟨op, d, a, BitVec.ofNat 14 (b.val * 2 ^ 9)⟩
/-- A lane operand of a short slot (R179). -/
def v5 (v : Fin 16) : Fin 32 := v.castLE (by decide)

/-- The fields of a short instruction (R181). -/
def encodeShort : Short → RawShort
  | .nop => ⟨0, 0, 0, 0⟩
  | .alu o d a b => rawShortB (Fin.ofNat 128 o.code) d a b
  | .addi d a i => ⟨0x09, d, a, i⟩
  | .li d i => ⟨0x0A, d, 0, i⟩
  | .ldD d a i => ⟨0x0B, d, a, i⟩
  | .ldW d a i => ⟨0x0C, d, a, i⟩
  | .stD d a i => ⟨0x0D, d, a, i⟩
  | .stW d a i => ⟨0x0E, d, a, i⟩
  | .br i => ⟨0x10, 0, 0, i⟩
  | .beqz a i => ⟨0x11, 0, a, i⟩
  | .bnez a i => ⟨0x12, 0, a, i⟩
  | .bq i => ⟨0x13, 0, 0, i⟩
  | .bqn i => ⟨0x14, 0, 0, i⟩
  | .qpush q a => ⟨0x18, q.castLE (by decide), a, 0⟩
  | .qpop d q => ⟨0x19, d, q.castLE (m := 30) (by decide) |>.natAdd 2, 0⟩
  | .lane o d a b => rawShortB (Fin.ofNat 128 o.code) (v5 d) (v5 a) (v5 b)
  | .vmov d a => ⟨0x27, v5 d, v5 a, 0⟩

/-- The word of an instruction (R169, R177). A row that is no instruction word gets the word 0, which is none. -/
def encode : Instr → Word
  | .pair x y => BitVec.ofNat 64 (2 ^ 63 + (encodeShort x).pack * 2 ^ 32 + (encodeShort y).pack * 2)
  | i => match encodeRaw i with
    | some r => r.pack
    | none => 0

/-! ### The decoder -/

/-- The instruction of a word, or the reason why it is none (R183). -/
def decode (w : Word) : Except Reject Instr :=
  if !listedWord w then .error .unlistedOpcode
  else match parseWord w with
    | none => .error .reservedValue
    | some i =>
      if !i.wf then .error .illFormed
      else if encode i != w then .error .unusedField
      else .ok i

/-- The instruction of the bits that the opcode table gives a row: every row is one 64-bit word (R169). -/
def decodeTableWord (nbits w : Nat) : Option Instr :=
  match decode (BitVec.ofNat 64 (w % 2 ^ nbits)) with
  | .ok i => some i
  | .error _ => none

end Sys2Proof
end

