-- ==== Sys2Proof/Machine/State.lean ====
section
/-! DEFINITION. The state of the package, as plain data: everything the spec gives the machine, each field with the
rule that names it; the reasons a step can stop; and the state right after reset (R412 to R414). -/

namespace Sys2Proof.Machine

/-- Why the machine stops. Traps of a thread are no fault: they are next states (R215, R216). -/
inductive Fault where
  /-- Raised by step alone, when the package has no power and no outside event waits (R417: nothing runs). Safe. -/
  | unpowered
deriving DecidableEq, Repr

/-- Why an instruction has no meaning. -/
inductive Refusal where
  /-- Raised by an arm of exec whose instruction is not modelled yet. Safe. -/
  | notModelled (mnemonic : String)
deriving DecidableEq, Repr

/-- The trap causes of R215, in the order of their codes 0x01 to 0x10. -/
inductive Cause where
  | illegalWord | illegalConfig | badHandle | codeBound | memTranslation | memPermission | memAlign | hostAtomic
  | arith | fibreMalformed | featureAbsent | watch | brk | stepEnd | launch | streamDeadlock
deriving DecidableEq, Repr

/-- What a blocked control stream waits on (R35, R200, R113, R281). -/
inductive Wait where
  /-- The copy token of a register (R113). -/
  | token (r : Nat)
  /-- Data in q2, q3 (R18). -/
  | popQueue (q : Nat)
  /-- Room in q0, q1 (R18). -/
  | pushQueue (q : Nat)
  /-- A bit in bo (R18, R195). -/
  | bo
  /-- Room in the lane queue (R30). -/
  | laneRoom
  /-- The lane drain of vdrain (R108). -/
  | vdrain
  /-- The lane drain of vdead (R204). -/
  | vdead
  /-- The lane drain of a waiting system read (R21). -/
  | sysRead
  /-- The lane drain of tfence (R214). -/
  | tfence
  /-- The residual flush of a control-stream release (R103, R147). -/
  | flush
  /-- A barrier's phase differing from a value (R49): object, phase. -/
  | phase (a : Word) (p : Nat)
  /-- An event reaching a value (R206): address, value. -/
  | event (a : Word) (v : Word)
  /-- A pool entry for launch.w (R211). -/
  | pool
  /-- Room among the 16 copies of a thread (R281). -/
  | copies
deriving DecidableEq, Repr

/-- The thread states of R35; saved threads stand in State.saved. -/
inductive Status where
  | free
  | running
  | blocked (w : Wait)
  /-- Frozen, with what it was blocked on, if it was (R313). -/
  | frozen (w : Option Wait)
  /-- Waiting for REPLAY with this token (R402). -/
  | faulted (token : Nat)
  /-- At the stop point of a pre-emption (R60, R61). -/
  | preempting
  | exiting
deriving DecidableEq, Repr

/-- A pre-emption pending in a thread (R60, R61, R336) or an eviction (R391). -/
inductive Preempt where
  | none | soft | hard
  /-- An eviction: what its word was blocked on, and whether that has come about since. -/
  | evict (w : Wait) (ready : Bool)
  /-- A soft pre-emption or an eviction whose drain met a trap: no lane instruction starts any more (R407). -/
  | stopped (evicted : Option (Wait × Bool))
deriving DecidableEq, Repr

/-- What an entry of the lane queue does (R405 flags): an instruction, the lane part of a control word, or the probe
of bmz, bmnz or bz.end. -/
inductive EntryKind where
  | instr | part | probe
deriving DecidableEq, Repr

/-- An entry of the lane queue, or a held entry (R30, R405). -/
structure LaneEntry where
  /-- How many entries were pushed before it since task start. -/
  seq : Nat
  kind : EntryKind
  word : Word
  /-- Its address, bit 2 set for slot B of a pair (R180). -/
  addr : Word
  a : Word
  b : Word
  c : Word
  /-- b holds a value popped from q0 or q1 (R172). -/
  bPopped : Bool
  /-- The fewest lanes that the thread has owned since the push: lanes lost meanwhile are beyond VL (R40). -/
  lanes : Nat
deriving DecidableEq, Repr

/-- What a byte address resolves to: a cell with its home address (R311), a byte of the accessing thread's residual
tile, or a byte that reads zero and keeps nothing (R90, R285). -/
inductive Loc where
  | cell (a home : Nat)
  | rtile (site off : Nat)
  | void
deriving DecidableEq, Repr

/-- A read that an instruction makes as it runs, performed in part ahead of the step that completes the instruction (R364):
where its bytes lie, whether it is single-copy atomic (R95), and the bytes taken. -/
structure Early where
  locs : List Loc
  whole : Bool
  got : List (Nat × Byte)
deriving DecidableEq, Repr

/-- What an access does at its home slice (R198, R202, R268): a load into a scalar register, sign-extended or not; a
store of a value; an atomic with its operand and comparand, whose old value goes to a register. -/
inductive MemKind where
  | load (r : Nat) (signed : Bool)
  | store (value : Nat)
  | amo (r : Nat) (op : AmoOp) (v k : Nat)
deriving DecidableEq, Repr

/-- An access checked and not yet performed (R200, R364). -/
structure MemOp where
  /-- A number of its own among the accesses of its stream. -/
  id : Nat
  kind : MemKind
  /-- Where its bytes lie. -/
  locs : List Loc
  /-- Single-copy atomic, so that its bytes are performed together (R95); else each on its own (R96). -/
  whole : Bool
  /-- The bytes still to be performed, those of them on their way through the fabric (R116), and the bytes read. -/
  left : List Nat
  sent : List Nat
  got : List (Nat × Byte)
  /-- Of a lane store: its instruction by push number and address (R19, R267), its lane, and whether the elements of the
  instruction are performed in order (R109). -/
  seq : Nat
  addr : Word
  lane : Nat
  inOrder : Bool
  /-- Of a control-stream access: a store or atomic waits for the accesses with lower numbers (R103: fence.rel). Of a lane
  store: which of those in order among each other it is one of (R109, R269). -/
  rel : Nat
  /-- A younger load of the stream has taken bytes of this store (R99: same stream, same location). -/
  seen : Bool
deriving DecidableEq, Repr

/-- The two lengths, the type and the illegal state, one copy for each stream (R21, R23). -/
structure VState where
  vl : Nat
  vlo : Nat
  vli : Nat
  vtype : Word
  illegal : Bool
deriving DecidableEq, Repr

/-- A level record as captured at zopen (R154, R156). -/
structure LevelRec where
  ctl : Word
  size : Word
  arrA : Word
  arrB : Word
deriving DecidableEq, Repr

/-- A read ahead of a stream (R159, R160): the address and width of the entry and what the read gave, the value or
the cause of a deferred fault. -/
structure ReadAhead where
  va : Word
  size : Nat
  value : Nat
  fault : Option Cause
deriving DecidableEq, Repr

/-- A stream register (R157), with the captured level record and what was read ahead. fp is derived: a read ahead
holds a fault. -/
structure Stream where
  isOpen : Bool
  coord : Nat
  lv : Bool
  endPos : Nat
  pos : Nat
  parent : Nat
  desc : Word
  lev : Nat
  partner : Nat
  mode : Nat
  ended : Bool
  /-- The bounds of the fibre have been read and checked (R157). -/
  bounds : Bool
  lrec : LevelRec
  ahead : List ReadAhead
deriving DecidableEq, Repr

/-- How an entry of the residual tile stands towards a flush (R146, R147). -/
inductive FlushMark where
  /-- In no flush set. -/
  | none
  /-- In the set, its request of the start outstanding; with held start sums or without. -/
  | waitOld (hadHeld : Bool)
  /-- In the set, to be sent as a forced request. -/
  | mustSend
  /-- In the set, sent as a forced request. -/
  | sentForced
deriving DecidableEq, Repr

/-- An entry of the residual tile that is in use (R140). -/
structure REntry where
  idx : Nat
  line : Nat
  typ : Nat
  fl : Bool
  valid : BitVec 16
  sums : Vector Word 16
  stamp : Nat
  /-- Held back for the forced slot of its home slice, with the order in which it was chosen (R138). -/
  heldBack : Option Nat
  /-- Towards the flush of the lane stream (or of a save), and towards that of the control stream, which may go on beside it. -/
  flush : FlushMark
  cflush : FlushMark
deriving DecidableEq, Repr

/-- An addend waiting for its placement or its request (R135, R141): line, type, word, value. -/
structure Addend where
  /-- The virtual line of its target (R135). -/
  vline : Nat
  line : Nat
  typ : Nat
  word : Nat
  value : Word
  /-- Its racc: push number and address (R145). -/
  seq : Nat
  addr : Word
deriving DecidableEq, Repr

/-- A push whose queue is full (R444): 1 q2, 2 q3, 3 bo, the value, and the address of its instruction (R44). -/
structure PendPush where
  queue : Nat
  value : Word
  addr : Word
deriving DecidableEq, Repr

/-- A returning element in flight (R111, R267): the instruction by push number and address, the lane, the first cell and
the width in bits that it takes, and its source, accessed at its home slice before the element lands (R364): by an atomic
with its operand and comparand, or by a read, of which some bytes may have been taken already (R96, R110). Of a block
scale (R269): whether the type is binary, and the cells of the block's further lanes, which take it too. -/
structure Element where
  seq : Nat
  addr : Word
  lane : Nat
  cell : Nat
  width : Nat
  src : List Loc
  amo : Option (AmoOp × Nat × Nat)
  got : List (Nat × Byte)
  scale : Option Bool
  more : List Nat
deriving DecidableEq, Repr

/-- The mmul in progress (R295): its entry of the lane queue, its next lane, the flags it has collected, the presence
array as it read it (R292), empty where B is dense; and what was fixed when it started: the vector state, the matrix
configuration and the active lanes (R117, R290), for later instructions may run beside it (R296);
and the reads of its next step that have been performed in part (R364). -/
structure MmState where
  entry : LaneEntry
  next : Nat
  flags : Nat
  present : List Bool
  v : VState
  mcfg : Word
  act : List Nat
  early : List Early
deriving DecidableEq, Repr

/-- A lane instruction that has left the lane queue and is not complete (R267): push number and address, and the pass count
of its trace record, if it is to have one (R317, R318). -/
structure Going where
  seq : Nat
  addr : Word
  passes : Option Nat
deriving DecidableEq, Repr

/-- The task that a thread runs: its context, launch, ordinal (R32), depth (R211), image slot (R404), %wid (R19),
the launch's minimum of quads (R39), a number of its own for each binding, and whether it is stopped and only ends (R358).
All 0 where the thread is free. -/
structure Task where
  id : Nat
  ctx : Nat
  launch : Nat
  ordinal : Nat
  depth : Nat
  slot : Nat
  wid : Word
  minQuads : Nat
  ended : Bool
deriving DecidableEq, Repr

/-- Owned quads, tiles and weight segments of a thread (R36). -/
structure Alloc where
  quads : BitVec 16
  tiles : BitVec 8
  segs : BitVec 12
deriving DecidableEq, Repr

/-- A launch, from capture (or pool entry) to its signal step (R379 to R390). -/
structure Launch where
  id : Nat
  /-- Queue number, or 8,192 + die for a pool entry (R389). -/
  source : Nat
  /-- The captured record, sixteen words. -/
  words : List Word
  /-- Where the record was read (R400). -/
  recVa : Word
  depth : Nat
  /-- Priority bound of a pool entry, and the captured priority (R388). -/
  cap : Nat
  prio : Nat
  /-- It is still in the pool, unselected. -/
  pooled : Bool
  /-- Its wait condition has been met (R382); since when it is eligible. -/
  since : Option Nat
  /-- Time of selection (R387). -/
  selected : Nat
  /-- The task that launched it (R391). -/
  parent : Option Nat
  /-- The required mask (R357). -/
  mask : Nat
  /-- Ordinals of tasks not yet bound, in ascending order, and of tasks that are to be queued again (R357). -/
  todo : List Nat
  again : List Nat
  /-- Tasks bound and not exited. -/
  live : Nat
  /-- What the status word will say (R381): cause code and reason; and whether no further task of it is bound. -/
  status : Nat × Nat
  shut : Bool
  /-- Page counts of the placement map: group ordinal, die, count (R383); target die of each waiting placement
  group (R385). -/
  pages : List (Nat × Nat × Nat)
  targets : List (Nat × Nat)
  /-- Completion steps done (R381): 0 none, 1 status written, 2 event added; and the token it waits on. -/
  steps : Nat
  fault : Option Nat
deriving DecidableEq, Repr

/-- The control stream of a thread. -/
structure Ctrl where
  /-- Program counter; bits 2:0 name slot B or the pop phase (R180, R443). -/
  pc : Word
  /-- s0 to s63 (R9). -/
  s : Vector Word 64
  /-- Scalar loads and atomics in flight (R200): register and data. -/
  loads : List (Nat × Word)
  /-- Bit n: sn awaits a copy token (R113, R405). -/
  tokens : BitVec 64
  /-- Accesses checked and not yet performed (R200), oldest first, and how many there have been. -/
  accs : List MemOp
  accNo : Nat
  /-- Stores and atomics issued from now on wait for the accesses with lower numbers: the last release (R103). -/
  relNo : Nat
  /-- Of the overwritten words of State.stale, those from this number on may still be fetched (R168, R205). -/
  fetchFrom : Nat
  /-- The word in progress, kept where it has been executed in part: of a bmz, bmnz or bz.end whose probe has been pushed
  (R443), of a pair whose slot A has taken effect (R168, R180). -/
  popWord : Option Word
  /-- The loop buffer: the words of the body of the nest in progress that it holds, by number in the body (R54, R360). -/
  body : List (Nat × Word)
  /-- The launch whose record a waiting launch.w has captured and checked (R211). -/
  launchRec : Option Launch
  /-- Reads of the word in progress that have been performed in part (R364). -/
  early : List Early
  /-- Control copies of %vl, %vlo, %vli, %vtype (R21), of the mask-stack depth (R53), of the matrix configuration
  (R290), of %drawkey and %drawid (R213). -/
  v : VState
  depth : Nat
  mcfg : Word
  drawkey : BitVec 128
  drawid : BitVec 32
  /-- %tvec, %nestctr, %nestcfg (R19, R55). -/
  tvec : Word
  nestctr : Word
  nestcfg : Word
  /-- The control copies of R21 as they stood at the traps delivered to the user vector and not yet returned from, the
  last one first, each with the address of its frame (R218). -/
  trapV : List (Word × VState)
  /-- The residual flush of the word in progress has begun (R147). -/
  flush : Bool
  /-- Words committed since task start (R317). -/
  committed : Nat
deriving DecidableEq, Repr

/-- The queues of a thread. -/
structure Queues where
  /-- The lane queue (R30), the held entries (R216), how many entries were pushed since task start. -/
  lane : List LaneEntry
  held : List LaneEntry
  pushed : Nat
  /-- q0 to q3 and bo, head first (R18). -/
  q0 : List Word
  q1 : List Word
  q2 : List Word
  q3 : List Word
  bo : List Bool
  /-- The pending push (R444). -/
  pend : Option PendPush
deriving DecidableEq, Repr

/-- The lane stream of a thread. -/
structure Lane where
  /-- %vl, %vlo, %vli, %vtype as the lane stream has applied them (R21). -/
  v : VState
  /-- %vstart (R19). -/
  vstart : Nat
  /-- %xclass, %xflags, %xen, eight bits each (R24). -/
  xclass : BitVec 8
  xflags : BitVec 8
  xen : BitVec 8
  /-- %mstack.depth (R15). -/
  depth : Nat
  drawkey : BitVec 128
  drawid : BitVec 32
  /-- The matrix configuration (R288), the live set (R59), the mmuls in progress, oldest first (R295, R296). -/
  mcfg : Word
  live : BitVec 8
  mm : List MmState
  /-- What was fixed at the start of the mmuls that were stopped and stand in the lane queue again (R295), and the value of
  %vstart for the instructions after the first of them. -/
  kept : List MmState
  keptStart : Nat
  /-- Returning vector elements in flight (R111), and stores checked and not yet performed (R267), oldest first. -/
  returns : List Element
  stores : List MemOp
  /-- Reads of the instruction at the head of the lane queue that have been performed in part (R364). -/
  early : List Early
  /-- Lane instructions that have left the lane queue with accesses on their way (R267). -/
  going : List Going
  /-- z0 to z7 (R17). -/
  z : Vector Stream 8
  /-- The residual flush of the instruction at the head has begun (R146). -/
  flush : Bool
  /-- The lane-cycle record (R322): useful, masked off, beyond VL, start-up dead time, stalled. -/
  lcr : Vector Word 5
  /-- The physical quads in which a lane instruction has started since binding or resume (R322). -/
  started : BitVec 16
  /-- Lane instructions completed since task start (R317). -/
  done : Nat
  /-- Slots and mask columns that vdead has named (R204, R406). -/
  deadSlots : BitVec 32
  deadMasks : BitVec 32
deriving DecidableEq, Repr

/-- The residual tile of a thread (R140), and addends that wait for a placement (R142). -/
structure Resid where
  entries : List REntry
  place : List Addend
deriving DecidableEq, Repr

/-- Debug state of a thread: %dbgctl (R309), a pending TC_WATCH by watchpoint number (R312), a single step whose
word has been executed (R315). -/
structure Dbg where
  ctl : Word
  watch : Option Nat
  stepping : Bool
  /-- A stop of the cluster is on its way to the thread (R313). -/
  stop : Bool
deriving DecidableEq, Repr

/-- A thread of a unit (R6), with the state of the task it runs. -/
structure Thread where
  /-- die × 4,096 + cluster × 256 + unit × 16 + thread (R25). -/
  site : Nat
  status : Status
  preempt : Preempt
  task : Task
  alloc : Alloc
  c : Ctrl
  q : Queues
  l : Lane
  r : Resid
  dbg : Dbg
deriving DecidableEq, Repr

/-- A unit of movement of a saved thread (R406): 0 slot, 1 mask column, 2 segment; its rank or segment, its number,
where it was held (unit number and physical quad or segment), its bytes or mask bits, and whether it is evictable
(else it stands in the image). -/
structure MoveUnit where
  kind : Nat
  rank : Nat
  num : Nat
  uid : Nat
  phys : Nat
  data : List Host.Cell
  evictable : Bool
deriving DecidableEq, Repr

/-- A unit of movement of a thread that has been resumed and has not touched it yet (R406): its task, the context and image
slot of that. -/
structure Away where
  task : Nat
  ctx : Nat
  slot : Nat
  unit : MoveUnit
deriving DecidableEq, Repr

/-- A saved thread (R35, R404 to R410): what the device keeps of it beside its image slot. -/
structure Saved where
  th : Thread
  hard : Bool
  units : List MoveUnit
  /-- RESUME has made it eligible (R410), or it is ready after an eviction (R391). -/
  eligible : Bool
  /-- It was evicted at a blocked word (R391). -/
  evicted : Option Wait
deriving DecidableEq, Repr

/-- A unit (R6): the context it hosts, its usable quads (R25), quads whose retirement is pending (R438), the thread that
issued last (R35) and the thread whose mmul the matrix engine served last (R295). -/
structure UnitSt where
  host : Nat
  usable : BitVec 16
  pending : BitVec 16
  issued : Nat
  served : Nat
deriving DecidableEq, Repr

/-- A unit after boot, every quad usable; thread 0 is the next in turn (log entry 6). -/
def UnitSt.fresh : UnitSt := ⟨0, 0xFFFF, 0, 3, 3⟩

/-- The status set of a thread in its debug block (R314); its lcr field reads the frozen thread's record. -/
structure StatusSet where
  stopts : Word
  skidc : Nat
  skidl : Nat
  ptwin : Word
deriving DecidableEq, Repr

/-- The debug block of a cluster (R308, R310, R314). -/
structure Cluster where
  trbase : Word
  trsize : Word
  trptr : Word
  trctl : Word
  /-- Time stamp of the hit that raised the stop (R314). -/
  stopAt : Word
  wps : Vector (Vector Word 8) 16
  sets : Vector StatusSet 32
deriving DecidableEq, Repr

def Cluster.zero : Cluster :=
  ⟨0, 0, 0, 0, 0, Vector.replicate 16 (Vector.replicate 8 0), Vector.replicate 32 ⟨0, 0, 0, 0⟩⟩

/-- An entry of a translation cache (R397): whose cache (0 a unit's, 1 a cluster's, 2 a die's, and its number), context,
level (0 a leaf, 1 to 3 a table entry), first virtual address, bytes covered, the entry. -/
structure Tlb where
  kind : Nat
  num : Nat
  ctx : Nat
  lev : Nat
  va : Nat
  size : Nat
  leaf : Word
deriving DecidableEq, Repr

/-- A copy in flight (R281 to R284): the block as captured, the issuing task, and how far it has come. -/
structure Copy where
  id : Nat
  site : Nat
  taskId : Nat
  ctx : Nat
  token : Nat
  src : Word
  dst : Word
  ctl : Word
  counts : Vector Nat 6
  sstr : Vector Int 6
  dstr : Vector Int 6
  /-- Entries pushed to the lane queue before the cpy (R115). -/
  after : Nat
  /-- The chunk mask has been cleared (R115). -/
  cleared : Bool
  /-- Chunks not yet copied, and chunks done. -/
  todo : List Nat
  done : Nat
  /-- Bytes of chunks performed whose mask bit is not yet set. -/
  landed : List Nat
  /-- Status code once it stops early (R113). -/
  code : Nat
  /-- Waiting for the REPLAY of a translation fault (R113, R403). -/
  fault : Option Nat
  /-- Address of the cpy (R317). -/
  addr : Word
  /-- Elements moved, by flat index, of the chunks not yet copied; of an element moved in part, it and the first byte of
  each unit moved; and the bytes that the copy has overwritten, as they were before it (R96, R284). -/
  moved : List Nat
  parts : List (Nat × Nat)
  olds : List (Loc × Byte)
deriving DecidableEq, Repr

/-- Where an accumulate request stands (R136, R137): on its way to the home slice, accepted, or refused with its
reply on the way back. -/
inductive ReqPhase where
  | sent | accepted | refused
deriving DecidableEq, Repr

/-- An accumulate request (R135 to R138). -/
structure AccReq where
  id : Nat
  taskId : Nat
  site : Nat
  ctx : Nat
  line : Nat
  typ : Nat
  /-- Word number and sum of each word it carries. -/
  words : List (Nat × Word)
  /-- The entry of the residual tile that stays allocated for it; a victim's entry is freed (R142). -/
  entry : Option Nat
  forced : Bool
  phase : ReqPhase
  performed : Bool
  /-- The acceptance reply has been delivered. -/
  closed : Bool
  /-- The racc that sent it, by push number and address, until it has completed (R145); none for what the tile sends of
  held sums. -/
  racc : Option (Nat × Word)
  /-- A flush that a control-stream release began waits until it is performed (R147, R148). -/
  covered : Bool
deriving DecidableEq, Repr

/-- A request in a replay window (R116). -/
structure ChanReq where
  seq : Nat
  /-- The access and the bytes of it that the request performs. -/
  op : Nat
  bytes : List Nat
  /-- It is on its way to the receiver. -/
  inFlight : Bool
  /-- The receiver has applied it; its reply stands in the reply store. -/
  applied : Bool
deriving DecidableEq, Repr

/-- A channel of the fabric, source number and destination die (R116). -/
structure Chan where
  id : Nat
  source : Nat
  dst : Nat
  next : Nat
  window : List ChanReq
  /-- The receiver's next expected number. -/
  expected : Nat
  /-- Sequence numbers below this have been acknowledged in flight to the sender. -/
  acked : Nat
  /-- The number of a refused request, while the sender backs off; refusals since the last acceptance (log entry 3). -/
  refused : Option Nat
  nacks : Nat
deriving DecidableEq, Repr

/-- A context (R394), with what security keeps of it (R427 to R433). -/
structure Ctx where
  num : Nat
  ptroot : Nat
  codebase : Word
  codebound : Word
  imgbase : Nat
  imgcount : Nat
  bankkey : Nat
  rquota : Nat
  nakbackoff : Nat
  drawkey : BitVec 128
  dbgctl : Word
  ucode : Nat
  conf : Bool
  /-- Debug permitted by DBGUNLOCK (R429). -/
  unlocked : Bool
  /-- Context measurement (R430). -/
  cmeas : List Byte
deriving DecidableEq, Repr

/-- Sealed egress of a context (R432, R433). -/
structure Seal where
  ctx : Nat
  ringVa : Word
  lsize : Nat
  tailVa : Word
  batchPa : Nat
  batchLsize : Nat
  /-- Requests taken, seals made, batches closed. -/
  taken : Nat
  seq : Nat
  batch : Nat
  /-- Leaves of the open batch in order, and the time of the first. -/
  leaves : List (List Byte)
  firstTs : Nat
  /-- Physical pages made read-only (R432). -/
  frozen : List Nat
deriving DecidableEq, Repr

/-- A work queue (R374, R376). -/
structure Queue where
  num : Nat
  base : Nat
  headwb : Nat
  head : Nat
  tail : Nat
  ctx : Nat
  lsize : Nat
  maxprio : Nat
  weight : Nat
  /-- 0 disabled, 1 enabled, 2 error. -/
  state : Nat
  msix : Nat
  error : Nat
  /-- A valid configuration has been given (R372). -/
  configured : Bool
  /-- Latest probe of the head (R377): priority, wait event, wait value; eligible since (R382, R388). -/
  probe : Option (Nat × Word × Word)
  since : Option Nat
deriving DecidableEq, Repr

/-- A record for the fault queue (R400), its eight words, not yet written. -/
structure FaultRec where
  words : Vector Word 8
deriving DecidableEq, Repr

/-- What a replay token stands for (R403). -/
inductive TokenFor where
  | task (taskId : Nat) (code : Nat)
  | copy (id : Nat)
  | launch (id : Nat)
deriving DecidableEq, Repr

/-- A pre-emption request in progress (R407, R408): its range (code, and unit or task or group), whether it is hard, the
tasks of its range that are not saved yet, and how many have been saved. -/
structure PreReq where
  ctx : Nat
  range : Nat × Nat × Nat
  hard : Bool
  source : Nat
  tasks : List Nat
  saved : Nat
deriving DecidableEq, Repr

/-- The mailbox (R372). -/
structure Mailbox where
  cmd : Word
  args : Vector Word 7
  stat : Word
  res0 : Word
  res1 : Word
  /-- The command in progress came as a trusted request (R427). -/
  trusted : Bool
  /-- The command's row has run and it waits on other device work (R372): its result is ready at the next
  MAILBOX_COMPLETION whose condition holds. -/
  waiting : Bool
  /-- Tasks and lines of residual entries that a TLBINV waits for (R399). -/
  due : List (Nat × Nat)
deriving DecidableEq, Repr

/-- What the device has sent to the outside: an MSI-X vector, or the value of a read. -/
inductive HostOut where
  | msix (v : Nat)
  | value (bytes : List Byte)
  | linkDown
deriving DecidableEq, Repr

/-- A host write with Relaxed Ordering, arrived and not yet performed (R112). -/
structure Posted where
  pa : Nat
  data : List Byte
  trusted : Bool
deriving DecidableEq, Repr

/-- Host interface (R369 to R376, R401). -/
structure HostIf where
  mbox : Mailbox
  hbmwin : Nat
  agelimit : Nat
  /-- BAR4 size as log2 (R370). -/
  bar4 : Nat
  fqBase : Nat
  fqLsize : Nat
  fqTail : Nat
  fqHead : Nat
  fqWait : List FaultRec
  /-- MSI-X table and pending-bit array, bytes of BAR0 (R371). -/
  msixTable : List Host.Cell
  msixPending : List Host.Cell
  posted : List Posted
  /-- Outputs, newest first. -/
  out : List HostOut
deriving DecidableEq, Repr

/-- The scheduler (R374 to R393). -/
structure Sched where
  queues : List Queue
  launches : List Launch
  /-- Deficits of the sources (R389) and the source being visited. -/
  deficits : List (Nat × Nat)
  visit : Nat
  nextId : Nat
  nextToken : Nat
  tokens : List (Nat × TokenFor)
  preReqs : List PreReq
deriving DecidableEq, Repr

/-- Power and boot (R413 to R420). -/
structure Power where
  on : Bool
  phase : Nat
  code : Nat
  dies : BitVec 8
  state : Nat
  target : Nat
  busy : Bool
  trip : Bool
  temp : Nat
deriving DecidableEq, Repr

/-- Security: fuses, flash, identity and link (R421 to R426, R441). -/
structure Security where
  fwkeyh : List Byte
  /-- The device-unique key DEVK (R421): no agent reads it; what it encrypts and authenticates in flash is held plain. -/
  devk : List Byte
  fwfloor : Nat
  hmark : Nat
  rsv : Option Nat
  next : Nat
  /-- Active image, standby image, whether the standby bank is pending. -/
  active : List Byte
  standby : List Byte
  pendingBank : Bool
  /-- Measurement and version of the running firmware. -/
  fmeas : List Byte
  fwver : Nat
  boots : Nat
  ideUp : Bool
  bound : Bool
  tdiRun : Bool
  /-- Frames and stripes of confidential contexts: kind (0 frame, 1 cluster stripe, 2 die stripe), number, context. -/
  owned : List (Nat × Nat × Nat)
  /-- Contexts for which keys have been generated (R428). -/
  keyed : List Nat
  seals : List Seal
deriving DecidableEq, Repr

/-- Errors, scrub, partitions (R434 to R440), and the fuses of each die. -/
structure Fleet where
  errors : List ErrLoc
  /-- Seven counters of each die (R437). -/
  counters : Vector (Vector Nat 7) 8
  scrubMask : Nat
  scrubMs : Nat
  /-- Quads retired in flash: unit number and quad (R438). -/
  retired : List (Nat × Nat)
  /-- Harvest fuses: usable quads by unit, where not all sixteen; features of each die (R416). -/
  harvest : List (Nat × BitVec 16)
  feat : Vector Nat 8
  part : Vector Nat 8
  cfggen : Nat
deriving DecidableEq, Repr

/-- A move: a control stream executes a word, a lane stream its head, an event of a thread, an event of the device, or
the next outside event arrives. -/
inductive Move where
  | control (site : Nat)
  | lane (site : Nat)
  | event (site : Nat) (i : Instr)
  /-- A stop reaches the thread (R313). -/
  | stop (site : Nat)
  | device (i : Instr)
  /-- A host write with Relaxed Ordering is performed (R112). -/
  | posted (n : Nat)
  /-- An element of a chunk of a copy is moved (R284): copy and chunk. -/
  | element (id chunk : Nat)
  /-- Part of a read of an instruction in progress is performed ahead of the step that completes the instruction (R364): of
  the word in progress (0), of the head of the lane queue (1), of the next step of an mmul (2). -/
  | early (site which : Nat)
  /-- The boot sequence goes through a phase (R413). -/
  | boot
  | input
deriving DecidableEq, Repr

/-- The state of the machine. -/
structure State where
  /-- The thread in focus, on which a thread's step acts, and the others that are not free, by rising site. -/
  t : Thread
  others : List Thread
  saved : List Saved
  /-- Units of movement of bound threads that are held elsewhere or imaged (R406); and, of the model's own, the cells of
  such units that the move in progress has accessed: they are brought in and the move is made again (log entry 26). -/
  away : List Away
  touched : List Nat
  /-- Of the model's own: the reads that the move in progress has made as an instruction ran, newest first. -/
  reads : List Early
  /-- Memory: HBM, scratchpads, arrays, weight buffers, host and peer memory, by home address (R92, R141). -/
  mem : List Host.Cell
  /-- Mask columns (bits 31:0; bit 0 is %edone) and mask-stack columns (bits 47:32) by unit lane (R14, R15). -/
  cols : List (Nat × Word)
  /-- Accumulator tiles by unit, tile, row, column (R16). -/
  accs : List (Nat × Word)
  /-- Microcode entries 3,072 to 4,095 by unit (R124). -/
  micro : List (Nat × Word)
  units : List (Nat × UnitSt)
  clusters : List (Nat × Cluster)
  tlb : List Tlb
  /-- Leaves that have left the caches to others, not by TLBINV: accesses that they translated may still be due
  (R399). -/
  displaced : List Tlb
  /-- Words of code arenas that have been overwritten, oldest first: address and what was there (R168). -/
  stale : List (Nat × Word)
  copies : List Copy
  reqs : List AccReq
  chans : List Chan
  ctxs : List Ctx
  sched : Sched
  host : HostIf
  power : Power
  sec : Security
  fleet : Fleet
  /-- %gts (R19). -/
  gts : Nat
  /-- How many free values have been used (log entry 2). -/
  fresh : Nat
  /-- Outside events that have not yet been taken (log entry 3), in order. -/
  inputs : List Instr
  /-- The moves that have been possible and not made, and for how many steps (R57; log entry 3). -/
  waits : List (Move × Nat)
deriving DecidableEq, Repr

/-- A closed stream register (R157). -/
def Stream.closed : Stream :=
  ⟨false, 0, false, 0, 0, 0, 0, 0, 0, 0, false, false, ⟨0, 0, 0, 0⟩, []⟩

/-- The lengths and type of a task's start (R19): %vtype 0x90. -/
def VState.start : VState := ⟨0, 0, 0, 0x90, false⟩

/-- The word of the matrix configuration at task start (R288). -/
def mcfgStart : Word := 0xE6000FFF

/-- No task. -/
def Task.none : Task := ⟨0, 0, 0, 0, 0, 0, 0, 0, false⟩

/-- The control stream at task start (R19, R28). -/
def Ctrl.fresh : Ctrl where
  pc := 0
  s := Vector.replicate 64 0
  loads := []
  tokens := 0
  accs := []
  accNo := 0
  relNo := 0
  fetchFrom := 0
  popWord := none
  body := []
  launchRec := none
  early := []
  v := .start
  depth := 0
  mcfg := mcfgStart
  drawkey := 0
  drawid := 0
  tvec := 0
  nestctr := 0
  nestcfg := 0
  trapV := []
  flush := false
  committed := 0

/-- Empty queues (R28). -/
def Queues.empty : Queues := ⟨[], [], 0, [], [], [], [], [], none⟩

/-- The lane stream at task start (R19, R28, R288); every tile is live (R59). -/
def Lane.fresh : Lane where
  v := .start
  vstart := 0
  xclass := 0
  xflags := 0
  xen := 0
  depth := 0
  drawkey := 0
  drawid := 0
  mcfg := mcfgStart
  live := 0xFF
  mm := []
  kept := []
  keptStart := 0
  returns := []
  stores := []
  early := []
  going := []
  z := Vector.replicate 8 .closed
  flush := false
  lcr := Vector.replicate 5 0
  started := 0
  done := 0
  deadSlots := 0
  deadMasks := 0

/-- A free thread of a site: the values of R28 where R28 gives them (log entry 6). -/
def Thread.fresh (site : Nat) : Thread :=
  ⟨site, .free, .none, .none, ⟨0, 0, 0⟩, .fresh, .empty, .fresh, ⟨[], []⟩, ⟨0, none, false, false⟩⟩

/-- The mailbox after reset (log entry 6). -/
def Mailbox.zero : Mailbox := ⟨0, Vector.replicate 7 0, 0, 0, 0, false, false, []⟩

/-- The host interface after reset: AGELIMIT 100,000 (R373), BAR4 512 GiB, the rest zero (log entry 6). -/
def HostIf.fresh : HostIf where
  mbox := .zero
  hbmwin := 0
  agelimit := 100000
  bar4 := 39
  fqBase := 0
  fqLsize := 0
  fqTail := 0
  fqHead := 0
  fqWait := []
  msixTable := []
  msixPending := []
  posted := []
  out := []

/-- An idle scheduler; the visit of R389 has reached no source. -/
def Sched.empty : Sched := ⟨[], [], [], 8200, 1, 1, [], []⟩

/-- The registers BOOTSTAT and PSTAT at reset: phase 0, no die usable yet, PS0 (R414, R415, R419). -/
def Power.start : Power := ⟨true, 0, 0, 0, 0, 0, false, false, 0⟩

/-- Boot done, all dies usable, PS0 (R413, R415). -/
def Power.booted : Power := { Power.start with phase := 6, dies := 0xFF }

/-- The epoch and release of a firmware image: bytes 4 to 7 of its header (R422). -/
def firmwareVersion (image : List Byte) : Nat :=
  (image.getD 4 0).toNat + (image.getD 5 0).toNat * 2 ^ 8 + (image.getD 6 0).toNat * 2 ^ 16 + (image.getD 7 0).toNat * 2 ^ 24

/-- Fuses and flash as log entry 7 names them. -/
def Security.fresh : Security where
  fwkeyh := Config.firmwareKeyHash
  devk := Config.deviceKey
  fwfloor := 0
  hmark := 0
  rsv := none
  next := 0
  active := Config.factoryFirmware
  standby := []
  pendingBank := false
  fmeas := []
  fwver := 0
  boots := 1
  ideUp := false
  bound := false
  tdiRun := false
  owned := []
  keyed := []
  seals := []

/-- No error, no retirement, every die whole and in partition 0 (R440). -/
def Fleet.fresh : Fleet where
  errors := []
  counters := Vector.replicate 8 (Vector.replicate 7 0)
  scrubMask := 0
  scrubMs := 0
  retired := []
  harvest := []
  feat := Vector.replicate 8 0x7F
  part := Vector.replicate 8 0
  cfggen := 0

/-- The machine right after reset, at phase 0 of the first boot (R412 to R414): no task is bound. -/
def State.reset : State where
  t := .fresh 0
  others := []
  saved := []
  away := []
  touched := []
  reads := []
  mem := []
  cols := []
  accs := []
  micro := []
  units := []
  clusters := []
  tlb := []
  displaced := []
  stale := []
  copies := []
  reqs := []
  chans := []
  ctxs := []
  sched := .empty
  host := .fresh
  power := .start
  sec := .fresh
  fleet := .fresh
  gts := 0
  fresh := 0
  inputs := []
  waits := []

end Sys2Proof.Machine
end

