-- ==== Sys2Proof/Machine/Flags.lean ====
section
/-! DEFINITION. Number formats, rounding and flags (R22 to R24, R63 to R83): pure functions of bits. Every flag
computation of the lane and matrix instructions is here or is a union of what is here. -/

namespace Sys2Proof.Machine

/-! ### The flags of R24 -/

def flIV : Nat := 1
def flZD : Nat := 2
def flOV : Nat := 4
def flUN : Nat := 8
def flIX : Nat := 16
def flSV : Nat := 32
def flLR : Nat := 64
def flAS : Nat := 128

/-- A flag set where a condition holds. -/
def flagIf (c : Bool) (f : Nat) : Nat := if c then f else 0

/-- A result with its flags. -/
structure Flagged where
  val : Nat
  fl : Nat
deriving DecidableEq, Repr

/-! ### Element types (R22, R23) -/

/-- The fields of a legal %vtype. -/
structure VType where
  ew : Nat
  kind : Nat
  fe : Nat
  fm : Nat
  fin : Bool
  rm : Nat
  blk : Nat
  sat : Bool
deriving DecidableEq, Repr

/-- The fields of a %vtype value, legal or not (R22; ew code 0 is 128, R23). -/
def vtypeFields (w : Nat) : VType where
  ew := if w % 128 == 0 then 128 else w % 128
  kind := bits w 9 7
  fe := bits w 13 10
  fm := bits w 18 14
  fin := bits w 19 19 == 1
  rm := bits w 22 20
  blk := bits w 25 23
  sat := bits w 26 26 == 1

/-- R23. -/
def vtypeLegal (w : Nat) : Bool :=
  let v := vtypeFields w
  w / 2 ^ 27 == 0 && v.rm ≤ 4 && v.blk ≤ 5 && v.kind ≤ 3
    && (if v.kind ≤ 1 then v.fe == 0 && v.fm == 0 && !v.fin && v.blk == 0
        else if v.kind == 2 then 2 ≤ v.fe && v.fe ≤ 8 && v.fm ≤ 23 && 1 + v.fe + v.fm == v.ew
        else (v.ew == 8 || v.ew == 16) && v.fe == 0 && v.fm == 0 && !v.fin && (v.ew != 16 || v.blk == 0))
    && (!v.sat || v.kind ≤ 1)

/-- Block length of a blk code (R22): 0 none. -/
def blockLen (blk : Nat) : Nat := if blk == 0 then 0 else 8 * 2 ^ blk

def VType.blen (v : VType) : Nat := blockLen v.blk

/-- Slots of an element's group (R11). -/
def groupOf (ew : Nat) : Nat := if ew ≤ 16 then 1 else if ew ≤ 32 then 2 else if ew ≤ 64 then 4 else 8

/-- Bytes of an element's container (R265). -/
def containerOf (ew : Nat) : Nat :=
  if ew ≤ 8 then 1 else if ew ≤ 16 then 2 else if ew ≤ 32 then 4 else if ew ≤ 64 then 8 else 16

/-- An element type without rounding, blocks or saturation. -/
def intType (signed : Bool) (ew : Nat) : VType := ⟨ew, if signed then 0 else 1, 0, 0, false, 0, 0, false⟩
/-- f32 with a rounding mode. -/
def f32Type (rm : Nat) : VType := ⟨32, 2, 8, 23, false, rm, 0, false⟩

/-! ### Integers (R63, R64) -/

def intMin (signed : Bool) (w : Nat) : Int := if signed then -(2 ^ (w - 1) : Nat) else 0
def intMax (signed : Bool) (w : Nat) : Int := if signed then (2 ^ (w - 1) : Nat) - 1 else (2 ^ w : Nat) - 1

/-- The value of w bits as signed or natural. -/
def intVal (signed : Bool) (w x : Nat) : Int := if signed then sextNat w x else (x % 2 ^ w : Nat)

/-- R64: wrap, or saturate with SV. -/
def fitInt (signed sat : Bool) (w : Nat) (x : Int) : Flagged :=
  if !sat then ⟨wrapInt w x, 0⟩
  else if x > intMax signed w then ⟨wrapInt w (intMax signed w), flSV⟩
  else if x < intMin signed w then ⟨wrapInt w (intMin signed w), flSV⟩
  else ⟨wrapInt w x, 0⟩

/-! ### Rounding (R69) -/

/-- m × 2^sh, with more below where sticky, rounded to a natural magnitude under a mode for a sign; and whether it is
inexact. The code of the result is base more than its magnitude: a tie goes to the even code (R69). sticky is used only
where sh is negative. -/
def roundCode (rm : Nat) (neg : Bool) (base m : Nat) (sh : Int) (sticky : Bool) : Nat × Bool :=
  if 0 ≤ sh then (m * 2 ^ sh.toNat, sticky)
  else
    let k := (-sh).toNat
    let q := m / 2 ^ k
    let r := m % 2 ^ k
    let half := 2 ^ (k - 1)
    let inexact := r != 0 || sticky
    let above := half < r || (r == half && sticky)
    let tie := r == half && !sticky
    let up :=
      match rm with
      | 0 => above || (tie && (base + q) % 2 == 1)
      | 1 => above || tie
      | 2 => false
      | 3 => inexact && !neg
      | _ => inexact && neg
    (if up then q + 1 else q, inexact)

/-- As roundCode, where the code of the result has the parity of its magnitude. -/
def roundTo (rm : Nat) (neg : Bool) (m : Nat) (sh : Int) (sticky : Bool) : Nat × Bool := roundCode rm neg 0 m sh sticky

/-! ### Values -/

/-- The value of an element: (−1)^neg × m × 2^e, zero with its sign, infinite, or no number (binary NaN, or NaR). -/
inductive Val where
  | fin (neg : Bool) (m : Nat) (e : Int)
  | inf (neg : Bool)
  | nan
  | nar
deriving DecidableEq, Repr

def Val.isNan : Val → Bool
  | .nan | .nar => true
  | _ => false

def Val.isZero : Val → Bool
  | .fin _ m _ => m == 0
  | _ => false

def Val.neg? : Val → Bool
  | .fin n _ _ => n
  | .inf n => n
  | _ => false

/-- The opposite value. -/
def Val.negate : Val → Val
  | .fin n m e => .fin (!n) m e
  | .inf n => .inf (!n)
  | v => v

def Val.ofInt (x : Int) : Val := .fin (decide (x < 0)) x.natAbs 0

/-- x as a signed count of units 2^e, for e at or below its own exponent. -/
def Val.scaleInt (v : Val) (e : Int) : Int :=
  match v with
  | .fin n m x => let k : Int := (m * 2 ^ (x - e).toNat : Nat); if n then -k else k
  | _ => 0

/-- The lower of two exponents. -/
def minExp (a b : Val) : Int :=
  match a, b with
  | .fin _ _ x, .fin _ _ y => if x ≤ y then x else y
  | .fin _ _ x, _ => x
  | _, .fin _ _ y => y
  | _, _ => 0

/-- Comparison of two finite or infinite values: −1, 0, 1. -/
def Val.cmp (a b : Val) : Int :=
  let rank : Val → Int := fun | .inf true => -1 | .inf false => 1 | _ => 0
  if rank a != rank b then (if rank a < rank b then -1 else 1)
  else if rank a != 0 then 0
  else
    let e := minExp a b
    let x := a.scaleInt e
    let y := b.scaleInt e
    if x < y then -1 else if x == y then 0 else 1

/-! ### Binary floats (R65 to R68, R70) -/

/-- A float format. -/
structure Fmt where
  fe : Nat
  fm : Nat
  fin : Bool
deriving DecidableEq, Repr

def VType.fmt (v : VType) : Fmt := ⟨v.fe, v.fm, v.fin⟩

def Fmt.width (f : Fmt) : Nat := 1 + f.fe + f.fm
def Fmt.bias (f : Fmt) : Int := (2 ^ (f.fe - 1) : Nat) - 1
/-- The all-ones magnitude. -/
def Fmt.ones (f : Fmt) : Nat := 2 ^ (f.fe + f.fm) - 1
/-- The code of infinity's magnitude (fin = 0). -/
def Fmt.infMag (f : Fmt) : Nat := (2 ^ f.fe - 1) * 2 ^ f.fm
def Fmt.sign (f : Fmt) (neg : Bool) : Nat := if neg then 2 ^ (f.fe + f.fm) else 0
/-- The largest finite magnitude of a sign (R66, R70). -/
def Fmt.maxMag (f : Fmt) (neg : Bool) : Nat := if f.fin then (if neg then f.ones - 1 else f.ones) else f.infMag - 1
def Fmt.maxCode (f : Fmt) (neg : Bool) : Nat := f.sign neg + f.maxMag neg
/-- The canonical NaN and the flag of a format that has none (R68). -/
def Fmt.nan (f : Fmt) : Flagged :=
  if f.fin then ⟨2 ^ f.width - 1, 0⟩
  else if f.fm == 0 then ⟨2 ^ f.width - 1, flIV⟩
  else ⟨f.infMag + 2 ^ (f.fm - 1), 0⟩

/-- The value of a code (R66). -/
def Fmt.val (f : Fmt) (code : Nat) : Val :=
  let neg := code / 2 ^ (f.fe + f.fm) % 2 == 1
  let ex := code / 2 ^ f.fm % 2 ^ f.fe
  let frac := code % 2 ^ f.fm
  if f.fin && code % 2 ^ f.width == 2 ^ f.width - 1 then .nan
  else if ex == 0 then .fin neg frac (1 - f.bias - f.fm)
  else if !f.fin && ex == 2 ^ f.fe - 1 then (if frac == 0 then .inf neg else .nan)
  else .fin neg (2 ^ f.fm + frac) (ex - f.bias - f.fm)

/-- (−1)^neg × m × 2^e, with more below where sticky, as a code (R69, R70). -/
def Fmt.round (f : Fmt) (rm : Nat) (neg : Bool) (m : Nat) (e : Int) (sticky : Bool) : Flagged :=
  if m == 0 then ⟨f.sign neg, 0⟩
  else
    let emin : Int := 1 - f.bias
    let top : Int := (Nat.log2 m : Int) + e
    let q : Int := (if emin ≤ top then top else emin) - f.fm
    let base := (q - (emin - f.fm)).toNat * 2 ^ f.fm
    let (n, ix) := roundCode rm neg base m (e - q) sticky
    let mag := base + n
    let (u, _) := roundCode rm neg ((top - emin).natAbs * 2 ^ f.fm) m (e - (top - f.fm)) sticky
    let tiny := top < emin && !(top == emin - 1 && u == 2 ^ (f.fm + 1))
    if mag ≤ f.maxMag neg then ⟨f.sign neg + mag, flagIf ix flIX ||| flagIf (ix && tiny) flUN⟩
    else
      let toMax := f.fin || rm == 2 || (rm == 3 && neg) || (rm == 4 && !neg)
      ⟨if toMax then f.maxCode neg else f.sign neg + f.infMag, flOV ||| flIX⟩

/-- An exact value in a format (R71). Infinity into a format without infinities sets OV, the flag of R71's table, and not
IX beside it (DESIGN CHOICE: log entry 59). -/
def Fmt.ofVal (f : Fmt) (rm : Nat) : Val → Flagged
  | .nan => f.nan
  | .nar => let r := f.nan; ⟨r.val, r.fl ||| flIV⟩
  | .inf neg => if f.fin then ⟨f.maxCode neg, flOV⟩ else ⟨f.sign neg + f.infMag, 0⟩
  | .fin neg m e => f.round rm neg m e false

/-- An exact sum of units 2^e; a zero sum of opposites is −0 only under MI (R70). -/
def Fmt.ofSum (f : Fmt) (rm : Nat) (x : Int) (e : Int) : Flagged :=
  if x == 0 then ⟨f.sign (rm == 4), 0⟩ else f.round rm (decide (x < 0)) x.natAbs e false

/-- NaN by an invalid operation (R68). -/
def Fmt.invalid (f : Fmt) : Flagged := ⟨f.nan.val, flIV⟩

/-- Addition (R245). -/
def fAdd (f : Fmt) (rm : Nat) (a b : Val) : Flagged :=
  if a.isNan || b.isNan then f.nan
  else match a, b with
    | .inf x, .inf y => if x == y then f.ofVal rm (.inf x) else f.invalid
    | .inf x, _ => f.ofVal rm (.inf x)
    | _, .inf y => f.ofVal rm (.inf y)
    | _, _ =>
      let e := minExp a b
      let s := a.scaleInt e + b.scaleInt e
      if s == 0 && a.isZero && b.isZero && a.neg? == b.neg? then ⟨f.sign a.neg?, 0⟩ else f.ofSum rm s e

def fSub (f : Fmt) (rm : Nat) (a b : Val) : Flagged := fAdd f rm a b.negate

/-- Multiplication (R245). -/
def fMul (f : Fmt) (rm : Nat) (a b : Val) : Flagged :=
  if a.isNan || b.isNan then f.nan
  else
    let neg := a.neg? != b.neg?
    match a, b with
    | .fin _ m e, .fin _ n d => f.round rm neg (m * n) (e + d) false
    | _, _ => if a.isZero || b.isZero then f.invalid else f.ofVal rm (.inf neg)

/-- Division (R245): the quotient keeps 64 bits and a sticky bit. -/
def fDiv (f : Fmt) (rm : Nat) (a b : Val) : Flagged :=
  if a.isNan || b.isNan then f.nan
  else
    let neg := a.neg? != b.neg?
    match a, b with
    | .inf _, .inf _ => f.invalid
    | .inf _, _ => f.ofVal rm (.inf neg)
    | _, .inf _ => ⟨f.sign neg, 0⟩
    | .fin _ m e, .fin _ n d =>
      if n == 0 then
        if m == 0 then f.invalid
        else ⟨if f.fin then f.maxCode neg else f.sign neg + f.infMag, flZD⟩
      else if m == 0 then ⟨f.sign neg, 0⟩
      else f.round rm neg (m * 2 ^ 64 / n) (e - d - 64) (m * 2 ^ 64 % n != 0)
    | _, _ => f.nan

/-- Newton steps towards the integer square root, from above. -/
def sqrtGo : Nat → Nat → Nat → Nat
  | 0, _, x => x
  | k + 1, n, x => let y := (x + n / x) / 2; if y < x then sqrtGo k n y else x

/-- The integer square root. -/
def isqrt (n : Nat) : Nat := if n == 0 then 0 else sqrtGo (Nat.log2 n + 2) n (2 ^ (Nat.log2 n / 2 + 1))

/-- Square root (R245): 66 or more bits and a sticky bit. -/
def fSqrt (f : Fmt) (rm : Nat) : Val → Flagged
  | .fin neg m e =>
    if m == 0 then ⟨f.sign neg, 0⟩
    else if neg then f.invalid
    else
      let odd := e % 2 != 0
      let n := m * 2 ^ (if odd then 65 else 64)
      let e' := if odd then e - 65 else e - 64
      let r := isqrt n
      f.round rm false r (e' / 2) (r * r != n)
  | .inf true => f.invalid
  | .inf false => f.ofVal rm (.inf false)
  | _ => f.nan

/-- The order of R251 on binary values: by value with −0 below +0. -/
def fLess (a b : Val) : Bool :=
  a.cmp b == -1 || (a.isZero && b.isZero && a.neg? && !b.neg?)

/-- R246: which of two codes vfmin or vfmax delivers. -/
def fMinMax (f : Fmt) (max : Bool) (x y : Nat) : Flagged :=
  let a := f.val x
  let b := f.val y
  if a.isNan && b.isNan then f.nan
  else if a.isNan then ⟨y, 0⟩
  else if b.isNan then ⟨x, 0⟩
  else if max then ⟨if fLess a b then y else x, 0⟩
  else ⟨if fLess b a then y else x, 0⟩

/-- R247, R234: a comparison of two values. -/
def condHolds (cc : Cond) (c : Int) : Bool :=
  match cc with
  | .eq => c == 0 | .ne => c != 0 | .lt => c == -1 | .le => c != 1 | .gt => c == 1 | .ge => c != -1 | .un => false

def fCmp (cc : Cond) (a b : Val) : Flagged :=
  if a.isNan || b.isNan then
    ⟨(cc == .ne || cc == .un).toNat, flagIf (cc == .lt || cc == .le || cc == .gt || cc == .ge) flIV⟩
  else ⟨(condHolds cc (a.cmp b)).toNat, 0⟩

/-! ### Log codes (R73 to R79) -/

/-- The 256th root, rounded down: eight integer square roots. -/
def root256 (n : Nat) : Nat := isqrt (isqrt (isqrt (isqrt (isqrt (isqrt (isqrt (isqrt n)))))))

/-- T8[f] (R79). -/
def t8 : Nat → Nat
  | 0 => 1024 | 1 => 1117 | 2 => 1218 | 3 => 1328 | 4 => 1448 | 5 => 1579 | 6 => 1722 | _ => 1878

/-- T16[f] = round(2^(15 + f/256)) (R79): half of one more than the floor of its double. -/
def t16 (f : Nat) : Nat := (root256 (2 ^ (4096 + f)) + 1) / 2

/-- Steps an octave, code of 1.0, largest k (R73, R74). -/
def logStep (w : Nat) : Nat := if w == 8 then 8 else 256
def logBase (w : Nat) : Nat := if w == 8 then 64 else 16384
def logMax (w : Nat) : Nat := if w == 8 then 127 else 32767

/-- 2^(s/8) or 2^(s/256) by the tables: magnitude and exponent (R79, R80). -/
def antilog (w : Nat) (s : Int) : Nat × Int :=
  if w == 8 then (t8 (s % 8).toNat, s / 8 - 10) else (t16 (s % 256).toNat, s / 256 - 15)

/-- The value of a log code with a block scale in eighths of an octave (R73, R74, R79, R83). -/
def logVal (w code : Nat) (scale : Int) : Val :=
  let neg := code / 2 ^ (w - 1) % 2 == 1
  let k := code % 2 ^ (w - 1)
  if k == 0 then (if neg then .nar else .fin false 0 0)
  else
    let (m, e) := antilog w ((k : Int) - logBase w + scale * (logStep w / 8 : Nat))
    .fin neg m e

/-- round(step × log2 x) of m × 2^e, exactly (R77): half the floor of one more than twice it. -/
def logRound (w m : Nat) (e : Int) : Int :=
  let p := 2 * logStep w
  ((Nat.log2 (m ^ p) : Int) + p * e + 1) / 2

/-- Whether two magnitudes are equal. -/
def sameMag (m : Nat) (e : Int) (n : Nat) (d : Int) : Bool :=
  if e ≤ d then m == n * 2 ^ (d - e).toNat else m * 2 ^ (e - d).toNat == n

/-- A code limited to its range (R77): too large or too small sets LR. -/
def logFit (w : Nat) (neg : Bool) (k : Int) : Flagged :=
  if k > logMax w then ⟨(if neg then 2 ^ (w - 1) else 0) + logMax w, flLR⟩
  else if k < 1 then ⟨0, flLR⟩
  else ⟨(if neg then 2 ^ (w - 1) else 0) + k.toNat, 0⟩

/-- R77: a binary value as a log code, its scale taken off in eighths of an octave (R297). -/
def logOf (w : Nat) (scale : Int) : Val → Flagged
  | .fin neg m e =>
    if m == 0 then ⟨0, 0⟩
    else
      let r := logFit w neg (logBase w + logRound w m e - scale * (logStep w / 8 : Nat))
      match logVal w r.val scale with
      | .fin _ n d => ⟨r.val, r.fl ||| flagIf (!sameMag m e n d) flIX⟩
      | _ => r
  | .nar => ⟨2 ^ (w - 1), 0⟩
  | _ => ⟨2 ^ (w - 1), flIV⟩

/-- R75: an L8 code as an L16 code. -/
def widenLog (code : Nat) : Nat :=
  let k := code % 128
  (code / 128 % 2) * 32768 + (if k == 0 then 0 else 32 * k + 14336)

/-- R248: an L16 code as an L8 code. -/
def narrowLog (code : Nat) : Flagged :=
  let neg := code / 32768 % 2 == 1
  let k := code % 32768
  if k == 0 then ⟨if neg then 128 else 0, 0⟩
  else
    let d : Int := (k : Int) - 14336
    let q := d / 32
    let r := d % 32
    let k8 := if r > 16 || (r == 16 && q % 2 != 0) then q + 1 else q
    let f := logFit 8 neg k8
    ⟨f.val, f.fl ||| flagIf (r != 0 || f.fl != 0) flIX⟩

/-- R249: the code whose value approximates 2^y. -/
def logExp (w : Nat) : Val → Flagged
  | .nan => ⟨2 ^ (w - 1), flIV⟩
  | .nar => ⟨2 ^ (w - 1), flIV⟩
  | .inf true => ⟨0, 0⟩
  | .inf false => ⟨logMax w, flLR⟩
  | .fin neg m e =>
    let (n, ix) := roundTo 0 neg (logStep w * m) e false
    let k : Int := logBase w + (if neg then -(n : Int) else n)
    let f := logFit w false k
    ⟨f.val, f.fl ||| flagIf ix flIX⟩

/-! ### Elements of a type -/

/-- The value of an element's bits under a type, with its block scale (R83). -/
def elemVal (v : VType) (scale : Int) (x : Nat) : Val :=
  match v.kind with
  | 0 => .ofInt (sextNat v.ew x)
  | 1 => .ofInt (x % 2 ^ v.ew : Nat)
  | 2 =>
    match v.fmt.val x with
    | .fin n m e => .fin n m (e + scale / 8)
    | r => r
  | _ => logVal v.ew x scale

/-- R71: a value rounded to an integer of a type: outside the range the nearer bound with IV, the flag of R71's table.
Whether IX is set beside it, as R70's wording of IX could have it, the spec leaves open: it is not (DESIGN CHOICE: log
entry 59). -/
def intOfVal (signed : Bool) (w rm : Nat) : Val → Flagged
  | .fin neg m e =>
    let (n, ix) := roundTo rm neg m e false
    let x : Int := if neg then -(n : Int) else n
    if x > intMax signed w then ⟨wrapInt w (intMax signed w), flIV⟩
    else if x < intMin signed w then ⟨wrapInt w (intMin signed w), flIV⟩
    else ⟨wrapInt w x, flagIf ix flIX⟩
  | .inf neg => ⟨wrapInt w (if neg then intMin signed w else intMax signed w), flIV⟩
  | _ => ⟨0, flIV⟩

/-- A value as an element of a type, by the rules of R71 and R77. -/
def elemOf (v : VType) (x : Val) : Flagged :=
  match v.kind with
  | 0 => intOfVal true v.ew v.rm x
  | 1 => intOfVal false v.ew v.rm x
  | 2 => v.fmt.ofVal v.rm x
  | _ => logOf v.ew 0 x

/-- The canonical "no number" of a kind (R68, R251). -/
def elemNan (v : VType) : Nat := if v.kind == 2 then v.fmt.nan.val else 2 ^ (v.ew - 1)

/-- R133: the fx64 count of a value, as 64 bits. -/
def fxCount (rm : Nat) : Val → Flagged
  | .fin neg m e =>
    let (n, ix) := roundTo rm neg m (e + 32) false
    let x : Int := if neg then -(n : Int) else n
    if x > intMax true 64 then ⟨wrapInt 64 (intMax true 64), flIV ||| flagIf ix flIX⟩
    else if x < intMin true 64 then ⟨wrapInt 64 (intMin true 64), flIV ||| flagIf ix flIX⟩
    else ⟨wrapInt 64 x, flagIf ix flIX⟩
  | .inf neg => ⟨wrapInt 64 (if neg then intMin true 64 else intMax true 64), flIV⟩
  | _ => ⟨0, flIV⟩

/-! ### The matrix engine's numbers (R80 to R82, R297) -/

/-- R80, R81: the signed count of the product of two log codes of one width, at window exponent E: none where an
operand is NaR. -/
def productCount (w : Nat) (E : Int) (a b : Nat) (sa sb : Int) : Option Int :=
  let ka := a % 2 ^ (w - 1)
  let kb := b % 2 ^ (w - 1)
  let na := a / 2 ^ (w - 1) % 2 == 1
  let nb := b / 2 ^ (w - 1) % 2 == 1
  if (ka == 0 && na) || (kb == 0 && nb) then none
  else if ka == 0 || kb == 0 then some 0
  else
    let s : Int := (ka : Int) + kb - 2 * logBase w + (logStep w / 8 : Nat) * (sa + sb)
    let (m, e) := antilog w s
    let (n, _) := roundTo 0 false m (e - E) false
    some (if na != nb then -(n : Int) else n)

/-- R82: a saturating 64-bit sum, and whether it saturated. -/
def satAdd64 (x y : Int) : Int × Bool :=
  let s := x + y
  if s > intMax true 64 then (intMax true 64, true)
  else if s < intMin true 64 then (intMin true 64, true)
  else (s, false)

/-- ⌈8 log2 M⌉ of a positive magnitude (R297): the least j with 2^j at least M^8. -/
def ceil8Log (m : Nat) (e : Int) : Int :=
  let p := m ^ 8
  let l := Nat.log2 p
  (l : Int) + (if p == 2 ^ l then 0 else 1) + 8 * e

end Sys2Proof.Machine
end

