-- ==== Sys2Proof/Machine/Cells.lean ====
section
/-! DEFINITION. Sparse data in ONE canonical form: a list of address and value pairs, addresses strictly rising, no
pair whose value is what an unlisted address holds. Memory, mask columns, tiles, microcode, units and clusters are
held so; equal contents are equal lists. -/

namespace Sys2Proof.Machine

variable {β : Type} [DecidableEq β]

/-- What an address holds; d where it is not listed. -/
def cellGet (d : β) : List (Nat × β) → Nat → β
  | [], _ => d
  | (k, v) :: m, a => if k = a then v else cellGet d m a

/-- A pair put in its place. -/
def cellIns : List (Nat × β) → Nat → β → List (Nat × β)
  | [], a, v => [(a, v)]
  | (k, w) :: m, a, v => if a < k then (a, v) :: (k, w) :: m else (k, w) :: cellIns m a v

/-- The contents with one address changed. -/
def cellSet (d : β) (m : List (Nat × β)) (a : Nat) (v : β) : List (Nat × β) :=
  let m' := m.filter (fun p => p.1 != a)
  if v = d then m' else cellIns m' a v

/-- The contents with a range of addresses emptied. -/
def cellClear (m : List (Nat × β)) (lo len : Nat) : List (Nat × β) := m.filter (fun p => p.1 < lo || lo + len ≤ p.1)

/-- The pairs of a range, by their offset in it. -/
def cellSlice (m : List (Nat × β)) (lo len : Nat) : List (Nat × β) :=
  (m.filter (fun p => lo ≤ p.1 && p.1 < lo + len)).map (fun p => (p.1 - lo, p.2))

/-- A range given new contents, by offset. -/
def cellPut (d : β) (m : List (Nat × β)) (lo len : Nat) (new : List (Nat × β)) : List (Nat × β) :=
  new.foldl (fun m p => if p.1 < len then cellSet d m (lo + p.1) p.2 else m) (cellClear m lo len)

/-- Every address of a list is below those of the next pair. -/
def cellsRising : List (Nat × β) → Bool
  | [] => true
  | [_] => true
  | p :: q :: m => decide (p.1 < q.1) && cellsRising (q :: m)

/-- The canonical form. -/
def cellsWf (d : β) (m : List (Nat × β)) : Bool := cellsRising m && m.all (fun p => decide (p.2 ≠ d))

/-- The canonical form of memory, whose unlisted bytes read as 0 (log entry 5). -/
def Memory.wf (m : List Host.Cell) : Bool := cellsWf (0 : Byte) m

end Sys2Proof.Machine
end

