-- ==== Sys2Proof/Machine/Memory.lean ====
section
/-! DEFINITION. Where addresses live and how accesses are checked and performed (R88 to R97, R111, R112, R396, R397,
R427, R428, R434, R435), watchpoints and trace records (R308 to R319), and the threads of the package. -/

namespace Sys2Proof.Machine

/-! ### Free values, sites and threads -/

/-- The next free natural number, and the state that has used it. -/
def State.free (s : State) : Nat × State := (Config.freeNat s.fresh, { s with fresh := s.fresh + 1 })

/-- Some of a list of numbers that is not empty, one at least: a free choice. -/
def State.someOf (s : State) (l : List Nat) : List Nat × State :=
  let (k, s) := s.free
  let (m, s) := s.free
  (l.filter (fun j => j == l.getD (k % l.length) 0 || m.testBit j), s)

/-- Parts of a site number (R25). -/
def siteDie (site : Nat) : Nat := site / 4096 % 8
def siteCluster (site : Nat) : Nat := site / 256 % 16
def siteUnit (site : Nat) : Nat := site / 16 % 16
def siteThread (site : Nat) : Nat := site % 16
/-- Number of a cluster in the package, and of a unit. -/
def clusterNo (site : Nat) : Nat := siteDie site * 12 + siteCluster site
def uidOf (site : Nat) : Nat := clusterNo site * 8 + siteUnit site
/-- The site of thread 0 of a unit by its number. -/
def siteOfUid (uid : Nat) : Nat := uid / 96 * 4096 + uid / 8 % 12 * 256 + uid % 8 * 16

/-- Every thread that is not free, the thread in focus first. -/
def State.threads (s : State) : List Thread := s.t :: s.others

/-- The thread of a site. -/
def State.threadAt (s : State) (site : Nat) : Thread :=
  if s.t.site = site then s.t else (s.others.find? (fun t => t.site == site)).getD (Thread.fresh site)

/-- A thread put in its place among the others. -/
def insThread : List Thread → Thread → List Thread
  | [], x => [x]
  | y :: l, x => if x.site < y.site then x :: y :: l else y :: insThread l x

/-- A list of the others with the thread of one site replaced; a free thread that holds nothing is not listed. -/
def putThread (l : List Thread) (x : Thread) : List Thread :=
  let l' := l.filter (fun y => y.site != x.site)
  if x = Thread.fresh x.site then l' else insThread l' x

/-- The state with the thread of x's site replaced. -/
def State.setThread (s : State) (x : Thread) : State :=
  if s.t.site = x.site then { s with t := x } else { s with others := putThread s.others x }

/-- The state with another thread in focus. -/
def State.focus (s : State) (site : Nat) : State :=
  if s.t.site = site then s
  else { s with t := s.threadAt site, others := (putThread s.others s.t).filter (fun y => y.site != site) }

/-- The thread that runs a task, by the task's number. -/
def State.taskThread (s : State) (id : Nat) : Option Thread :=
  s.threads.find? (fun t => t.task.id == id && t.status != .free)

/-- A context by number. -/
def State.ctx? (s : State) (n : Nat) : Option Ctx := s.ctxs.find? (fun c => c.num == n)

/-- The record of no context. -/
def Ctx.zero : Ctx := ⟨0, 0, 0, 0, 0, 0, 0, 0, 0, 0, 0, 0, false, false, []⟩

def State.ctxD (s : State) (n : Nat) : Ctx := (s.ctx? n).getD Ctx.zero

/-- The partition of a die (R440). -/
def State.partOf (s : State) (die : Nat) : Nat := s.fleet.part.toArray.getD die 0
/-- A die is in a partition: only usable dies are in one (R413, R440). -/
def State.inPartition (s : State) (die part : Nat) : Bool := s.power.dies.getLsbD die && s.partOf die == part
/-- The partition of a context: that of the die that holds its top table (R440). -/
def State.ctxPart (s : State) (n : Nat) : Nat := s.partOf ((s.ctxD n).ptroot / 2 ^ 36 % 8)

/-- A unit's record. -/
def State.unitSt (s : State) (uid : Nat) : UnitSt := cellGet UnitSt.fresh s.units uid
def State.setUnit (s : State) (uid : Nat) (u : UnitSt) : State :=
  { s with units := cellSet UnitSt.fresh s.units uid u }
def State.cluster (s : State) (n : Nat) : Cluster := cellGet Cluster.zero s.clusters n
def State.setCluster (s : State) (n : Nat) (c : Cluster) : State :=
  { s with clusters := cellSet Cluster.zero s.clusters n c }

/-- Quads, tiles and segments of a unit that its threads own (R36). -/
def State.unitThreads (s : State) (uid : Nat) : List Thread :=
  s.threads.filter (fun t => t.status != .free && uidOf t.site == uid)
def State.ownedQuads (s : State) (uid : Nat) : BitVec 16 :=
  (s.unitThreads uid).foldl (fun m t => m ||| t.alloc.quads) 0
def State.ownedTiles (s : State) (uid : Nat) : BitVec 8 :=
  (s.unitThreads uid).foldl (fun m t => m ||| t.alloc.tiles) 0
def State.ownedSegs (s : State) (uid : Nat) : BitVec 12 :=
  (s.unitThreads uid).foldl (fun m t => m ||| t.alloc.segs) 0

/-! ### Bytes -/

def State.rd (s : State) (a : Nat) : Byte := cellGet 0 s.mem a
def State.wr (s : State) (a : Nat) (b : Byte) : State := { s with mem := cellSet 0 s.mem a b }

/-- n bytes from an address, little-endian (R3). -/
def rdBytes (rd : Nat → Byte) : Nat → Nat → Nat
  | 0, _ => 0
  | n + 1, a => (rd a).toNat + 256 * rdBytes rd n (a + 1)

/-- The bytes of a number, low byte first (R3). -/
def bytesOf : Nat → Nat → List Byte
  | 0, _ => []
  | n + 1, v => BitVec.ofNat 8 v :: bytesOf n (v / 256)

/-- The number of a list of bytes, low byte first. -/
def natOfBytes : List Byte → Nat
  | [] => 0
  | b :: l => b.toNat + 256 * natOfBytes l

def State.rdN (s : State) (a n : Nat) : Nat := rdBytes s.rd n a

/-- Bytes written from an address upwards. -/
def State.wrBytes (s : State) : Nat → List Byte → State
  | _, [] => s
  | a, b :: l => (s.wr a b).wrBytes (a + 1) l

def State.wrN (s : State) (a n v : Nat) : State := s.wrBytes a (bytesOf n v)

/-- Pairs of address and byte written in order. -/
def State.wrCells (s : State) (l : List Host.Cell) : State := l.foldl (fun s p => s.wr p.1 p.2) s

/-! ### Where the stores of the package lie: cell numbers -/

/-- First cell of a scratchpad: die, and cluster or 15 for the die's own (R141). -/
def scratchBase (die cl : Nat) : Nat := 0x10000000000 + die * 2 ^ 36 + cl * 2 ^ 32
/-- First cell of the arrays of a unit (R141): row view order. -/
def arrayBase (uid : Nat) : Nat := 0x20000000000 + uid / 96 * 2 ^ 36 + uid / 8 % 12 * 2 ^ 32 + uid % 8 * 2 ^ 28
/-- First cell of the weight buffer of a unit; a number of the model's own, in the form of R141. -/
def weightBase (uid : Nat) : Nat := 0x30000000000 + uid / 96 * 2 ^ 36 + uid / 8 % 12 * 2 ^ 32 + uid % 8 * 2 ^ 28

/-- First cell of the residual tile of a site, as errors name it (R434); a number of the model's own. -/
def rtileBase (site : Nat) : Nat := 0x50000000000 + site / 4096 % 8 * 2 ^ 36 + site % 4096 * 2 ^ 15

/-- Keys of the counts of a tile (R16). -/
def accKey (uid tile row col : Nat) : Nat := uid * 32768 + tile * 4096 + row * 128 + col

/-- The cells of a count of a tile, as errors name them (R434); numbers of the model's own. -/
def accBase (uid tile i n : Nat) : Nat := 0x40000000000 + uid / 96 * 2 ^ 36 + accKey (uid % 96) tile i n * 8
def accCells (uid tile i n : Nat) : List Nat := (List.range 8).map (accBase uid tile i n + ·)

/-- R94: the place of an offset in a cluster scratchpad under a key: row, bank, byte. -/
def clusterCell (o key : Nat) : Nat :=
  o / 2048 * 2048 + ((bits o 10 6 ^^^ bits o 15 11 ^^^ bits o 20 16 ^^^ bits key 4 0) % 32) * 64 + o % 64
/-- R94: the place of an offset in a die scratchpad under a key. -/
def dieCell (o key : Nat) : Nat :=
  o / 4096 * 4096 + ((bits o 11 6 ^^^ bits o 17 12 ^^^ bits o 23 18 ^^^ bits key 5 0) % 64) * 64 + o % 64

/-- The cell of a home address under a bank key (R94). -/
def homeCell (key h : Nat) : Nat :=
  if 0x10000000000 ≤ h && h < 0x20000000000 then
    let cl := h / 2 ^ 32 % 16
    let o := h % 2 ^ 32
    h - o + (if cl == 15 then dieCell o key else clusterCell o key)
  else h

/-- The scratchpad byte that an offset names under a key. -/
def scratchLoc (die cl o key : Nat) : Loc :=
  .cell (scratchBase die cl + (if cl == 15 then dieCell o key else clusterCell o key)) (scratchBase die cl + o)

/-- Size of a scratchpad (R88). -/
def scratchSize (cl : Nat) : Nat := if cl == 15 then 44 * 2 ^ 20 else 12 * 2 ^ 20

/-- Kinds of access; an atomic says whether R112 sends its operation to host memory. -/
inductive Access where
  | read
  | write
  | atomic (hostOk : Bool)
deriving DecidableEq, Repr

def Access.isAtomic : Access → Bool
  | .atomic _ => true
  | _ => false
def Access.isWrite : Access → Bool
  | .read => false
  | _ => true
/-- The code of R400 and R310. -/
def Access.code : Access → Nat
  | .read => 1 | .write => 2 | .atomic _ => 3

/-- No lane (R317, R400). -/
def noLane : Nat := 0xFFFFFFFF

/-- Who makes an access: the site whose local windows it uses, its context, its source number (R319), and whether it
acts for a thread; then its task and the address of the instruction (R317). -/
structure Agent where
  site : Nat
  ctx : Nat
  src : Nat
  forThread : Bool
  task : Nat
  pc : Word
  /-- The thread lane of an element of a vector access; noLane for none (R317). -/
  lane : Nat
deriving DecidableEq, Repr

/-- A refused access: cause, detail of R435 (0 none), address, access code. -/
structure AccFault where
  cause : Cause
  detail : Nat
  va : Nat
  access : Nat
deriving DecidableEq, Repr

/-! ### Confidential memory and sealed pages (R427, R428, R432) -/

/-- The context that a frame or stripe is assigned to. -/
def State.ownerOf (s : State) (kind num : Nat) : Option Nat :=
  (s.sec.owned.find? (fun p => p.1 == kind && p.2.1 == num)).map (·.2.2)

/-- A page that a seal has made read-only (R432). -/
def State.sealedPage (s : State) (pa : Nat) : Bool := s.sec.seals.any (fun x => x.frozen.contains (pa / 4096))

/-- The code arena or microcode area of a confidential context (R428). -/
def State.lockedCode (s : State) (pa : Nat) : Bool :=
  s.ctxs.any (fun c => c.conf && ((c.codebase.toNat ≤ pa && pa < c.codebound.toNat)
    || (c.ucode ≤ pa && pa < c.ucode + 8192)))

/-- Whether a context may make an access to HBM byte pa (R92, R428, R432, R440). -/
def State.hbmAllowed (s : State) (ctx : Nat) (write : Bool) (pa : Nat) : Bool :=
  s.inPartition (pa / 2 ^ 36) (s.ctxPart ctx)
    && (match s.ownerOf 0 (pa / 2 ^ 21) with | none => true | some c => c == ctx)
    && !(write && (s.sealedPage pa || s.lockedCode pa))

/-- Whether a context may touch a stripe of a scratchpad (R428, R440). -/
def State.scratchAllowed (s : State) (ctx die cl o : Nat) : Bool :=
  s.inPartition die (s.ctxPart ctx)
    && (match s.ownerOf (if cl == 15 then 2 else 1) ((die * 16 + cl) * 2 ^ 20 + o / (if cl == 15 then 4096 else 2048)) with
        | none => true | some c => c == ctx)

/-! ### Windows (R88 to R90, R285) -/

/-- A byte address at or above 0x00FF_0000_0000_0000: the order-1 checks of R184, and what it names. -/
def State.window (s : State) (ag : Agent) (k : Access) (va : Nat) : Option Loc :=
  let uid := uidOf ag.site
  let die := siteDie ag.site
  let cl := siteCluster ag.site
  let key := (s.ctxD ag.ctx).bankkey
  if 0x00FFFF0000000000 ≤ va then
    let o := va - 0x00FFFF0000000000
    if o < 2 ^ 24 then
      let q := o / 2 ^ 20
      if !(s.unitSt uid).usable.getLsbD q then none
      else if (s.ownedQuads uid).getLsbD q then some (.cell (arrayBase uid + o) (arrayBase uid + o))
      else some .void
    else none
  else if 0x00FFFE0000000000 ≤ va then
    let o := va - 0x00FFFE0000000000
    if o < scratchSize 0 && s.scratchAllowed ag.ctx die cl o then some (scratchLoc die cl o key) else none
  else if 0x00FFFD0000000000 ≤ va then
    let o := va - 0x00FFFD0000000000
    if o < scratchSize 15 && s.scratchAllowed ag.ctx die 15 o then some (scratchLoc die 15 o key) else none
  else if 0x00FFFC0000000000 ≤ va then
    let o := va - 0x00FFFC0000000000
    if o < 2 ^ 15 && k == .read then some (.rtile ag.site o) else none
  else if 0x00FFFB0000000000 ≤ va then
    let o := va - 0x00FFFB0000000000
    if o < 3 * 2 ^ 20 && !k.isAtomic then
      if (s.ownedSegs uid).getLsbD (o / 2 ^ 18) then some (.cell (weightBase uid + o) (weightBase uid + o))
      else some .void
    else none
  else if 0x00FF800000000000 ≤ va then
    let x := va - 0x00FF800000000000
    let d := x / 2 ^ 36
    let c := x / 2 ^ 32 % 16
    let o := x % 2 ^ 32
    if d ≤ 7 && (c ≤ 11 || c == 15) && o < scratchSize c && s.scratchAllowed ag.ctx d c o then
      some (scratchLoc d c o key)
    else none
  else none

/-! ### Stored bits in error (R434, R435, R437) -/

/-- The detail of R435 of an uncorrectable error that covers a cell: 1 HBM, 2 array parity, 3 other SRAM. -/
def badDetailOf (errors : List ErrLoc) (a : Nat) : Option Nat :=
  errors.findSome? (fun e => match e with
    | .hbmBad p => if a < 2 ^ 39 && p / 32 == a / 32 then some 1 else none
    | .arrayParity h _ => if h / 64 == a / 64 then some 2 else none
    | .sramBad h => if h / 8 == a / 8 then some 3 else none
    | _ => none)

def State.badDetail (s : State) (a : Nat) : Option Nat := badDetailOf s.fleet.errors a

/-- A write to some cells covers an error whole (R435). -/
def coversError (cells : List Nat) : ErrLoc → Bool
  | .hbmBad p | .hbmCorrectable p => (List.range 32).all (fun i => cells.contains (p / 32 * 32 + i))
  | .arrayParity h _ => (List.range 64).all (fun i => cells.contains (h / 64 * 64 + i))
  | .sramBad h | .sramCorrectable h _ => (List.range 8).all (fun i => cells.contains (h / 8 * 8 + i))

/-- The errors that a write to some cells covers whole are gone (R435). -/
def State.clearErrors (s : State) (cells : List Nat) : State :=
  if s.fleet.errors.isEmpty then s
  else { s with fleet := { s.fleet with errors := s.fleet.errors.filter (fun e => !coversError cells e) } }

/-- The first cell of the sector, row or word that is in error. -/
def errHome : ErrLoc → Nat
  | .hbmBad p | .hbmCorrectable p => p / 32 * 32
  | .arrayParity h _ => h / 64 * 64
  | .sramBad h | .sramCorrectable h _ => h / 8 * 8

/-- The errors in a range of cells that is written whole are gone (R435). -/
def State.wipeErrors (s : State) (lo len : Nat) : State :=
  if s.fleet.errors.isEmpty then s
  else { s with fleet := { s.fleet with
    errors := s.fleet.errors.filter (fun e => errHome e < lo || lo + len ≤ errHome e) } }

/-- A range of cells cleared: its bytes are 0. -/
def State.clearCells (s : State) (lo len : Nat) : State := { s.wipeErrors lo len with mem := cellClear s.mem lo len }

/-- A counter of R437 of a die advanced by a number, saturating. -/
def State.countBy (s : State) (die k n : Nat) : State :=
  let row := s.fleet.counters.toArray.getD die (Vector.replicate 7 0)
  let row' := row.setIfInBounds k (min (2 ^ 64 - 1) (row.toArray.getD k 0 + n))
  { s with fleet := { s.fleet with counters := s.fleet.counters.setIfInBounds die row' } }

/-- One of the counters of R437 of a die advanced, saturating. -/
def State.count (s : State) (die k : Nat) : State := s.countBy die k 1

/-- The die of a cell (R92, R141). -/
def dieOfCell (a : Nat) : Nat := a / 2 ^ 36 % 8

/-- The corrected errors that a read of some cells meets are counted (R437). -/
def State.correctedOf (s : State) (cells : List Nat) : List ErrLoc → State
  | [] => s
  | e :: l =>
    let s := match e with
      | .hbmCorrectable p => if cells.any (fun a => a < 2 ^ 39 && a / 32 == p / 32) then s.count (dieOfCell p) 0 else s
      | .sramCorrectable h _ => if cells.any (fun a => a / 8 == h / 8) then s.count (dieOfCell h) 4 else s
      | _ => s
    s.correctedOf cells l

def State.corrected (s : State) (cells : List Nat) : State := s.correctedOf cells s.fleet.errors

/-- The counter of R437 of a detail of R435. -/
def counterOf (detail : Nat) : Nat := if detail == 1 then 1 else if detail == 2 then 2 else 5

/-- A read of some cells, beside some errors: corrected ones are counted; the first cell that an uncorrectable one covers,
with its detail, counted too (R435, R437). -/
def State.meetOf (s : State) (errors : List ErrLoc) (cells : List Nat) : Option (Nat × Nat) × State :=
  let s := s.correctedOf cells errors
  match cells.findSome? (fun a => (badDetailOf errors a).map (fun d => (a, d))) with
  | none => (none, s)
  | some (a, d) => (some (a, d), s.count (dieOfCell a) (counterOf d))

def State.meet (s : State) (cells : List Nat) : Option (Nat × Nat) × State :=
  if s.fleet.errors.isEmpty then (none, s) else s.meetOf s.fleet.errors cells

/-- The cells of the sector, row or word that is in error. -/
def errCells (e : ErrLoc) : List Nat :=
  let n := match e with | .hbmBad _ | .hbmCorrectable _ => 32 | .arrayParity .. => 64 | _ => 8
  (List.range n).map (errHome e + ·)

/-- The error of the sector, row or word at a cell that takes data in error. -/
def badAt (a : Nat) : ErrLoc :=
  if a < 2 ^ 39 then .hbmBad a else if arrayBase 0 ≤ a && a < weightBase 0 then .arrayParity a 512 else .sramBad a

/-- A cell takes data in error: its sector, row or word is in error, for such data is never delivered (R435). -/
def State.markBad (s : State) (a : Nat) : State :=
  let e := badAt a
  { s with fleet := { s.fleet with errors := s.fleet.errors.filter (fun x => errHome x != errHome e) ++ [e] } }

/-- What becomes of some errors where the device moves stored bits for itself, each cell to where f places it, none where
it is not moved: a corrected error is counted, and data in error stays in error where it comes to stand (DESIGN CHOICE: log
entry 62; R435 says only that it is never delivered). -/
def State.carry (s : State) (errors : List ErrLoc) (f : Nat → Option Nat) : State :=
  errors.foldl (fun s e =>
    let dst := (errCells e).filterMap f
    if dst.isEmpty then s
    else match badDetailOf [e] (errHome e) with
      | none => s.correctedOf (errCells e) [e]
      | some d => dst.foldl State.markBad (s.count (dieOfCell (errHome e)) (counterOf d))) s

/-- Where a range of cells that is moved whole places a cell. -/
def shiftCell (src dst len a : Nat) : Option Nat := if src ≤ a && a < src + len then some (dst + (a - src)) else none

/-- The cells of some locations; those of a residual tile by their numbers of the model's own. -/
def locCells (l : List Loc) : List Nat :=
  l.filterMap (fun x => match x with | .cell a _ => some a | .rtile site o => some (rtileBase site + o) | .void => none)

/-- The check of R435 on an access whose bytes are known: corrected errors are counted; an uncorrectable one stops the
access, but for a write that covers it whole. -/
def State.errorCheck (s : State) (k : Access) (va : Nat) (ls : List Loc) : Except AccFault Unit × State :=
  if s.fleet.errors.isEmpty then (.ok (), s)
  else
    let cells := locCells ls
    let errors := if k == .write then s.fleet.errors.filter (fun e => !coversError cells e) else s.fleet.errors
    match s.meetOf errors cells with
    | (none, s) => (.ok (), s)
    | (some (_, d), s) => (.error ⟨.memPermission, d, va, k.code⟩, s)

/-! ### Translation (R396, R397) -/

/-- A leaf: the entry and the size of its page. -/
structure Leaf where
  entry : Nat
  size : Nat
deriving DecidableEq, Repr

/-- Index of an address at a level (R396). -/
def ptIndex (va lev : Nat) : Nat :=
  match lev with
  | 3 => bits va 55 39 | 2 => bits va 38 30 | 1 => bits va 29 21 | _ => bits va 20 12

/-- Bytes of address space that an entry of a level covers (R396). -/
def ptSpan (lev : Nat) : Nat :=
  match lev with
  | 3 => 2 ^ 39 | 2 => 2 ^ 30 | 1 => 2 ^ 21 | _ => 4096

/-- Why a walk stops: the cause, the detail of R435 (0 where no stored bit is in error), whether a table could not
be read (R400, access 4), and where the word lies that could not. -/
structure WalkFault where
  cause : Cause
  detail : Nat
  table : Bool
  pa : Nat
deriving DecidableEq, Repr

/-- What an entry says at its level (R396): the next table, or a leaf. -/
inductive PtStep where
  | table (t : Nat)
  | leaf (l : Leaf)
deriving DecidableEq, Repr

/-- An entry read at a level (R396). -/
def ptStep (lev e : Nat) : Except WalkFault PtStep :=
  let leaf := e / 32 % 2 == 1
  let c := e / 64 % 2 == 1
  if e % 2 == 0 then .error ⟨.memTranslation, 0, false, 0⟩
  else if e / 2 ^ 48 != 0 || bits e 11 7 != 0 || e / 2 % 2 == 1 || (leaf && (lev == 3 || lev == 0))
      || (leaf && c) then .error ⟨.memPermission, 0, false, 0⟩
  else if lev == 0 || leaf then
    let size := if lev == 2 then 2 ^ 30 else if lev == 1 then 2 ^ 21 else if c then 2 ^ 16 else 4096
    if bits e 47 12 * 4096 % size != 0 then .error ⟨.memPermission, 0, false, 0⟩ else .ok (.leaf ⟨e, size⟩)
  else .ok (.table (bits e 47 12 * 4096))

/-- A table word, or why the table may not be read: outside the HBM that the context may read, or a stored bit in error
(R396, R427, R435). -/
def State.ptRead (s : State) (ctx a : Nat) : Except WalkFault Nat :=
  if !(a < 2 ^ 39 && s.hbmAllowed ctx false a
      && (!(s.ctxD ctx).conf || s.ownerOf 0 (a / 2 ^ 21) == some ctx)) then .error ⟨.memPermission, 0, true, a⟩
  else if s.fleet.errors.any (fun e => match e with | .hbmBad p => p / 32 == a / 32 | _ => false) then
    .error ⟨.memPermission, 1, true, a⟩
  else .ok (s.rdN a 8)

/-- The walk of R396 from a table at a level, through memory alone. -/
def State.walkFrom (s : State) (ctx va : Nat) : Nat → Nat → Except WalkFault Leaf
  | lev, t =>
    match s.ptRead ctx (t + 8 * ptIndex va lev) with
    | .error f => .error f
    | .ok e =>
      match ptStep lev e with
      | .error f => .error f
      | .ok (.leaf l) => .ok l
      | .ok (.table t) =>
        match lev with
        | 0 => .error ⟨.memPermission, 0, false, 0⟩
        | l + 1 => s.walkFrom ctx va l t

/-- The walk of R396 through memory alone. -/
def State.walk0 (s : State) (ctx va : Nat) : Except WalkFault Leaf := s.walkFrom ctx va 3 (s.ctxD ctx).ptroot

/-- The translation caches that an access of an agent uses (R397): those of its unit, cluster and die; an agent that acts
for no thread uses the die's alone. Kind 0 unit, 1 cluster, 2 die, and the number of the unit, cluster or die. -/
def Agent.caches (ag : Agent) : List (Nat × Nat) :=
  (if ag.forThread then [(0, uidOf ag.site), (1, clusterNo ag.site)] else []) ++ [(2, siteDie ag.site)]

/-- Entries of a translation cache (R397). -/
def cacheSize (kind : Nat) : Nat := match kind with | 0 => 64 | 1 => 1024 | _ => 16384

/-- A leaf that leaves its cache, whose accesses may still be due (R399). -/
def State.displace (s : State) (e : Tlb) : State :=
  if e.lev == 0 && !s.displaced.contains e then { s with displaced := e :: s.displaced } else s

/-- An entry put into its cache; a full cache gives up one of its entries, a free choice (R397). -/
def State.cacheEntry (s : State) (e : Tlb) : State :=
  let mine := fun (x : Tlb) => x.kind == e.kind && x.num == e.num
  let same := fun (x : Tlb) => mine x && x.ctx == e.ctx && x.lev == e.lev && x.va == e.va && x.size == e.size
  if s.tlb.contains e then s
  else
    let l := s.tlb.filter (fun x => !same x)
    let s := (s.tlb.filter same).foldl State.displace s
    let held := l.filter mine
    if held.length < cacheSize e.kind then { s with tlb := e :: l }
    else
      let (n, s) := s.free
      let out := held[n % held.length]?
      out.toList.foldl State.displace { s with tlb := e :: l.filter (fun x => some x != out) }

/-- The entry of a level that a walk reads: from memory, or where the die's cache holds another, either (a free choice:
R397, a cached entry may serve until TLBINV). -/
def State.ptEntry (s : State) (ag : Agent) (va lev t : Nat) : Except WalkFault Nat × State :=
  let r := s.ptRead ag.ctx (t + 8 * ptIndex va lev)
  let s := s.corrected [t + 8 * ptIndex va lev]
  let hit := s.tlb.find? (fun x => x.kind == 2 && x.num == siteDie ag.site && x.ctx == ag.ctx && x.lev == lev
    && x.va ≤ va && va < x.va + x.size)
  match hit with
  | none => (r, s)
  | some x =>
    if (match r with | .ok e => e == x.leaf.toNat | .error _ => false) then (r, s)
    else
      let (n, s) := s.free
      if n % 2 == 0 then (.ok x.leaf.toNat, s) else (r, s)

/-- The leaf among the sixteen level-0 entries around the one found: where the entries of a 64 KiB page differ, any of
them may serve (R396), a free choice, and the walk reads it (R435, R437). -/
def State.sixteen (s : State) (ctx va t : Nat) (l : Leaf) : Except WalkFault Leaf × State :=
  if l.size != 65536 then (.ok l, s)
  else
    let pages := (List.range 16).map (fun j => match s.ptRead ctx (t + 8 * (ptIndex va 0 / 16 * 16 + j)) with
      | .ok e => (match ptStep 0 e with | .ok (.leaf l') => some l' | _ => none)
      | .error _ => none)
    if pages.all (· == some l) then (.ok l, s)
    else
      let (n, s) := s.free
      let a := t + 8 * (ptIndex va 0 / 16 * 16 + n % 16)
      match s.ptRead ctx a, pages[n % 16]? with
      | .error f, _ => (.error f, s)
      | .ok _, some (some l') => (.ok (if l'.size == 65536 then l' else l), s.corrected [a])
      | .ok _, _ => (.ok l, s.corrected [a])

/-- A walk through memory and the die's cached table entries (R396, R397); the table entries it finds are cached. -/
def State.walkCached (s : State) (ag : Agent) (va : Nat) : Nat → Nat → Except WalkFault Leaf × State
  | lev, t =>
    match s.ptEntry ag va lev t with
    | (.error f, s) => (.error f, s)
    | (.ok e, s) =>
      match ptStep lev e with
      | .error f => (.error f, s)
      | .ok (.leaf l) => if lev == 0 then s.sixteen ag.ctx va t l else (.ok l, s)
      | .ok (.table t) =>
        match lev with
        | 0 => (.error ⟨.memPermission, 0, false, 0⟩, s)
        | l + 1 =>
          (s.cacheEntry ⟨2, siteDie ag.site, ag.ctx, lev, va / ptSpan lev * ptSpan lev, ptSpan lev,
            BitVec.ofNat 64 e⟩).walkCached ag va l t

/-- A translation (R396, R397): a walk, whose leaf is cached, or a cached leaf; where they differ, which one serves is a
free choice. -/
def State.translate (s : State) (ag : Agent) (va : Nat) : Except WalkFault Leaf × State :=
  let hits := (s.tlb.filter (fun x => x.lev == 0 && x.ctx == ag.ctx && x.va ≤ va && va < x.va + x.size
    && ag.caches.contains (x.kind, x.num))).map (fun x => (⟨x.leaf.toNat, x.size⟩ : Leaf))
  let walked := fun (s : State) =>
    match s.walkCached ag va 3 (s.ctxD ag.ctx).ptroot with
    | (.error f, s) => (Except.error f, s)
    | (.ok l, s) => (.ok l, ag.caches.foldl (fun s c =>
        s.cacheEntry ⟨c.1, c.2, ag.ctx, 0, va / l.size * l.size, l.size, BitVec.ofNat 64 l.entry⟩) s)
  match hits with
  | [] => walked s
  | h :: r =>
    if r.all (· == h) && (match s.walk0 ag.ctx va with | .ok l => l == h | .error _ => false) then (.ok h, s)
    else
      let (n, s) := s.free
      match (h :: r)[n % (r.length + 2)]? with
      | some l => (.ok l, s)
      | none => walked s

/-- The pages of an access translated, one after the other, each address by one leaf (R95, R396): base of the page and
leaf, with the address that faulted. -/
def State.translatePages (s : State) (ag : Agent) : List Nat → List (Nat × Leaf) →
    Except (WalkFault × Nat) (List (Nat × Leaf)) × State
  | [], acc => (.ok acc, s)
  | va :: r, acc =>
    if acc.any (fun p => p.1 ≤ va && va < p.1 + p.2.size) then s.translatePages ag r acc
    else match s.translate ag va with
      | (.error f, s) => (.error (f, va), s)
      | (.ok l, s) => s.translatePages ag r ((va / l.size * l.size, l) :: acc)

/-- The completer of an AtomicOp (R112): 0 the host, 1 to 4 the peers of the ports. -/
def completerOf (pa : Nat) : Nat := if pa < 0xC00000000000 then 0 else 1 + (pa - 0xC00000000000) / 2 ^ 44 % 4

/-- The physical address of a translated byte and the checks of orders 4 and 5 of R184 (R92, R112, R396). -/
def State.leafLoc (s : State) (ag : Agent) (k : Access) (n va : Nat) (l : Leaf) : Except Cause Loc :=
  let e := l.entry
  let pa := bits e 47 12 * 4096 + va % l.size
  let allowed := match k with
    | .read => e / 4 % 2 == 1
    | .write => e / 8 % 2 == 1
    | .atomic _ => e / 4 % 8 == 7
  if !allowed then .error .memPermission
  else if pa < 2 ^ 39 then
    if s.hbmAllowed ag.ctx k.isWrite pa then .ok (.cell pa pa) else .error .memPermission
  else if pa < 2 ^ 47 then .error .memPermission
  else match k with
    | .atomic ok => if ok && Config.atomicCompleter (completerOf pa) n then .ok (.cell pa pa) else .error .hostAtomic
    | _ => .ok (.cell pa pa)

/-- First byte of the windows (R88). -/
def windowsBase : Nat := 0x00FF000000000000

/-- Order 1 of R184 for one byte. -/
def State.windowOk (s : State) (ag : Agent) (k : Access) (va : Nat) : Bool :=
  va < windowsBase || (va < 2 ^ 56 && (s.window ag k va).isSome)

/-- The location of a byte whose page has been translated: orders 4 and 5 of R184. -/
def State.byteLoc (s : State) (ag : Agent) (k : Access) (size : Nat) (pages : List (Nat × Leaf)) (va : Nat) :
    Except Cause Loc :=
  if va < windowsBase then
    match pages.find? (fun p => p.1 ≤ va && va < p.1 + p.2.size) with
    | some p => s.leafLoc ag k size va p.2
    | none => .error .memTranslation
  else match s.window ag k va with
    | some l => .ok l
    | none => .error .memPermission

/-- Orders 4 and 5 of R184 on some bytes: the first that fails. -/
def State.byteLocs (s : State) (ag : Agent) (k : Access) (size : Nat) (pages : List (Nat × Leaf)) :
    List Nat → Except AccFault (List Loc)
  | [] => .ok []
  | va :: r =>
    match s.byteLoc ag k size pages va with
    | .error c => .error ⟨c, 0, va, k.code⟩
    | .ok l =>
      match s.byteLocs ag k size pages r with
      | .ok ls => .ok (l :: ls)
      | .error f => .error f

/-- The addresses of the bytes of an access (R174). -/
def vaBytes (size va : Nat) : List Nat := (List.range size).map (fun i => (va + i) % 2 ^ 64)

/-- Orders 3 to 5 of R184: every page is translated before any permission is looked at. -/
def State.resolve (s : State) (ag : Agent) (k : Access) (size va : Nat) : Except AccFault (List Loc) × State :=
  match s.translatePages ag ((vaBytes size va).filter (· < windowsBase)) [] with
  | (.error (f, a), s) => (.error ⟨f.cause, f.detail, a, if f.table then 4 else k.code⟩,
      if f.detail == 1 then s.count (dieOfCell f.pa) 1 else s)
  | (.ok pages, s) => (s.byteLocs ag k size pages (vaBytes size va), s)

/-- The die whose home slice serves a home address; host and peer memory at the die of its port (R92, R141, R442). -/
def dieOfHome (h : Nat) : Nat :=
  if h < 2 ^ 47 then h / 2 ^ 36 % 8
  else if h < 0xC00000000000 then 0
  else match (h - 0xC00000000000) / 2 ^ 44 % 4 with | 0 => 0 | 1 => 3 | 2 => 4 | _ => 7

/-- The die of a location: where the home slice of its first cell lies; host and peer memory at the die of its port
(R92, R141, R442). -/
def homeDie (here : Nat) (ls : List Loc) : Nat :=
  match ls.findSome? (fun l => match l with | .cell _ h => some h | _ => none) with
  | none => here
  | some h => dieOfHome h

/-- The requests of an access to another die may have been sent again, a free number of times, before each was performed
once (R116, R437); the requests of a control stream stand in its channels instead (log entry 24). -/
def State.resends (s : State) (ag : Agent) (ls : List Loc) : State :=
  if homeDie (siteDie ag.site) ls == siteDie ag.site then s
  else let (n, s) := s.free; s.countBy (siteDie ag.site) 6 n

/-- Owned quads in ascending physical order (R7). -/
def Alloc.quadList (a : Alloc) : List Nat := (List.range 16).filter (fun q => a.quads.getLsbD q)

/-- The unit of movement a cell of an array or weight buffer belongs to: kind, unit number, quad or segment, slot. -/
def moveKey (a : Nat) : Option (Nat × Nat × Nat × Nat) :=
  let uid := (a / 2 ^ 36 % 8 * 12 + a / 2 ^ 32 % 16) * 8 + a / 2 ^ 28 % 16
  if 0x30000000000 ≤ a && a < 0x40000000000 then some (2, uid, a % 2 ^ 28 / 2 ^ 18, 0)
  else if 0x20000000000 ≤ a && a < 0x30000000000 then some (0, uid, a % 2 ^ 28 / 2 ^ 20, a % 64 / 2)
  else none

/-- A unit that is away belongs at a cell: to a slot of a quad that its thread owns, or to a weight segment. -/
def State.belongs (s : State) (a : Nat) (x : Away) : Bool :=
  match moveKey a, s.taskThread x.task with
  | some (kind, uid, phys, num), some t => uidOf t.site == uid && kind == x.unit.kind
      && (if kind == 2 then x.unit.num == phys else x.unit.num == num && t.alloc.quadList[x.unit.rank]? == some phys)
  | _, _ => false

/-- An access to some locations touches the units that are away from there (R406). -/
def State.touch (s : State) (ls : List Loc) : State :=
  if s.away.isEmpty then s
  else { s with touched := s.touched ++ (locCells ls).filter (fun a => s.away.any (s.belongs a)) }

/-- The checks of R184, orders 1 to 5, and of R435 on an access of size bytes; the locations of its bytes. -/
def State.check (s : State) (ag : Agent) (k : Access) (size va : Nat) : Except AccFault (List Loc) × State :=
  if !(List.range size).all (fun i => s.windowOk ag k ((va + i) % 2 ^ 64)) then
    (.error ⟨.memPermission, 0, va, k.code⟩, s)
  else if k.isAtomic && va % size != 0 then (.error ⟨.memAlign, 0, va, k.code⟩, s)
  else
    match s.resolve ag k size va with
    | (.error f, s) => (.error f, s)
    | (.ok ls, s) =>
      match s.errorCheck k va ls with
      | (.error f, s) => (.error f, s)
      | (.ok (), s) => (.ok ls, if ag.forThread && ag.src == ag.site then s.touch ls else (s.touch ls).resends ag ls)

/-! ### Reading and writing locations -/

/-- A field of a 64-bit word at a bit position. -/
def field (v lo : Nat) : Nat := v * 2 ^ lo

/-- The tag word of a residual-tile entry (R140); out says that a request for its line is outstanding, its own or that of
another type or of a victim. -/
def REntry.tag (e : REntry) (out : Bool) : Nat := field e.line 22 + field e.typ 20 + field out.toNat 16 + e.valid.toNat

/-- Width in bytes of the sums of a type code (R140): 0 i32, 1 i64, 2 fx64, 3 f32. -/
def accWidth (typ : Nat) : Nat := if typ == 1 || typ == 2 then 8 else 4

/-- The sum of a word of an entry; zero where its valid bit is clear (R140). -/
def REntry.sum (e : REntry) (j : Nat) : Nat := if e.valid.getLsbD j then (e.sums.toArray.getD j 0).toNat else 0

/-- A byte of an entry as the residual-tile window shows it (R140). -/
def REntry.byte (e : REntry) (out : Bool) (o : Nat) : Byte :=
  if o < 8 then BitVec.ofNat 8 (e.tag out / 2 ^ (8 * o))
  else if o < 72 then
    let w := accWidth e.typ
    BitVec.ofNat 8 (e.sum ((o - 8) / w) / 2 ^ (8 * ((o - 8) % w)))
  else if o < 80 then BitVec.ofNat 8 (e.stamp / 2 ^ (8 * (o - 72)))
  else 0

/-- A request of a task for a line is outstanding: its reply has not reached the thread (R136). -/
def State.lineOut (s : State) (task line : Nat) : Bool :=
  s.reqs.any (fun r => r.taskId == task && r.line == line && !r.closed)

/-- A byte of the residual tile of a site (R140, R144). -/
def State.rtileByte (s : State) (site off : Nat) : Byte :=
  let t := s.threadAt site
  match t.r.entries.find? (fun e => e.idx == off / 128) with
  | some e => e.byte (s.lineOut t.task.id e.line) (off % 128)
  | none => 0

def State.rdLoc (s : State) : Loc → Byte
  | .cell a _ => s.rd a
  | .rtile site o => s.rtileByte site o
  | .void => 0

def State.rdLocs (s : State) (ls : List Loc) : Nat := natOfBytes (ls.map s.rdLoc)

/-- The bytes of a value paired with the cells that keep them. -/
def locWrites : List Loc → List Byte → List Host.Cell
  | .cell a _ :: ls, b :: bs => (a, b) :: locWrites ls bs
  | _ :: ls, _ :: bs => locWrites ls bs
  | _, _ => []

/-! ### Units of movement of saved threads (R406) -/

/-- First cell in an image slot of the quad rank's slots, of the mask column, or of the segment, that a unit of movement
belongs to (R404). -/
def MoveUnit.imageBase (m : MoveUnit) (slotBase : Nat) : Nat :=
  match m.kind with
  | 0 => slotBase + 0x200000 + 2 ^ 20 * m.rank
  | 1 => slotBase + 0x100000 + 2048 * (32 * m.rank + m.num)
  | _ => slotBase + 0x1200000 + 2 ^ 18 * m.num

/-- The same in the arrays and weight buffers of a unit, for slots and segments. -/
def MoveUnit.placeBase (m : MoveUnit) (uid q : Nat) : Nat :=
  if m.kind == 2 then weightBase uid + 2 ^ 18 * m.num else arrayBase uid + q * 2 ^ 20

/-- Cells that its part of an image slot takes. -/
def MoveUnit.span (m : MoveUnit) : Nat := match m.kind with | 0 => 2 ^ 20 | 1 => 2048 | _ => 2 ^ 18

/-- The cells of a unit of movement in an image slot (R404): slots lie two bytes in each 64-byte row. -/
def MoveUnit.imageCells (m : MoveUnit) (slotBase : Nat) : List Host.Cell :=
  m.data.map (fun p => (m.imageBase slotBase + (if m.kind == 0 then 64 * (p.1 / 2) + 2 * m.num + p.1 % 2 else p.1), p.2))

/-- Where a unit of movement, moved from one first cell to another, places a cell: none where the cell is not of it. -/
def MoveUnit.shift (m : MoveUnit) (src dst a : Nat) : Option Nat :=
  if m.kind == 0 && a % 64 / 2 != m.num then none else shiftCell src dst m.span a

/-- The cells of the image that a unit of movement covers. -/
def MoveUnit.imageCovers (m : MoveUnit) (slotBase a : Nat) : Bool :=
  (m.shift (m.imageBase slotBase) 0 a).isSome

/-- Image slot i of a context (R404). -/
def slotBaseOf (c : Ctx) (i : Nat) : Nat := c.imgbase + i * (21 * 2 ^ 20)

/-- The lanes whose bit is set in packed bytes. -/
def unpackColumn (l : List Host.Cell) : List Nat :=
  l.flatMap (fun p => ((List.range 8).filter (fun b => p.2.getLsbD b)).map (8 * p.1 + ·))

/-- The bytes of slot n of a quad, two of each lane in turn. -/
def slotBytes (cells : List Host.Cell) (n : Nat) : List Host.Cell :=
  (cells.filter (fun p => p.1 % 64 / 2 == n)).map (fun p => (p.1 / 64 * 2 + p.1 % 2, p.2))

/-- The contents of a unit of movement: where it was given up, or in the image. -/
def State.unitData (s : State) (base : Nat) (m : MoveUnit) : List Host.Cell :=
  if m.evictable then m.data
  else match m.kind with
    | 0 => slotBytes (cellSlice s.mem (m.imageBase base) m.span) m.num
    | _ => cellSlice s.mem (m.imageBase base) m.span

/-- A byte of memory that is read-only to every requester (R428, R432). -/
def State.readOnly (s : State) (a : Nat) : Bool := a < 2 ^ 39 && (s.sealedPage a || s.lockedCode a)

/-- A location in a frame or stripe that another context owns (R428). -/
def State.foreign (s : State) (ctx : Nat) : Loc → Bool
  | .cell _ h =>
    let o := h % 2 ^ 32
    let cl := h / 2 ^ 32 % 16
    let owner := if h < 2 ^ 39 then s.ownerOf 0 (h / 2 ^ 21)
      else if 2 ^ 40 ≤ h && h < 2 ^ 41 then
        s.ownerOf (if cl == 15 then 2 else 1)
          (((h - 2 ^ 40) / 2 ^ 36 * 16 + cl) * 2 ^ 20 + o / (if cl == 15 then 4096 else 2048))
      else none
    owner.any (· != ctx)
  | _ => false

/-- What a write of a context that was checked earlier finds at its home slice: nothing where the bytes have become
another context's or read-only meanwhile, and the write is discarded there (R428, R432; DEDUCED: log entry 60). -/
def State.homeTakes (s : State) (ctx : Nat) (l : Loc) : Bool :=
  !s.foreign ctx l && (match l with | .cell _ h => !s.readOnly h | _ => true)

/-- The same as a location to write. -/
def State.homeLoc (s : State) (ctx : Nat) (l : Loc) : Loc := if s.homeTakes ctx l then l else .void

/-- A range of memory given new contents by the device itself, by offset: what is read-only keeps its bytes (R428, R432). -/
def State.putRange (s : State) (base len : Nat) (l : List Host.Cell) : State :=
  let s' : State := { s.wipeErrors base len with mem := cellPut 0 s.mem base len l }
  if s.sec.seals.isEmpty && s.ctxs.all (fun c => !c.conf) then s'
  else s'.wrCells (((List.range len).filter (fun i => s.readOnly (base + i))).map (fun i => (base + i, s.rd (base + i))))

/-- Some cells that a unit of movement covers in an image zeroed, but read-only ones. -/
def State.clearImage (s : State) (m : MoveUnit) (b : Nat) : State :=
  { s with mem := s.mem.filter (fun p => !m.imageCovers b p.1 || s.readOnly p.1) }

/-- An evictable unit written back to its holder's image, a slot of a context (R406). The sectors that it covers whole are
written whole (R435). -/
def State.writeBack (s : State) (ctx slot : Nat) (m : MoveUnit) : State :=
  let b := slotBaseOf (s.ctxD ctx) slot
  let s := if m.kind == 0 then s else s.wipeErrors (m.imageBase b) m.span
  (s.clearImage m b).wrCells ((m.imageCells b).filter (fun p => !s.readOnly p.1))

/-- An evictable unit stands in a place: the unit number and the quad or segment where it was held. -/
def MoveUnit.standsAt (m : MoveUnit) (kind uid phys num : Nat) : Bool :=
  m.evictable && m.kind == kind && m.uid == uid && m.phys == phys && (kind == 2 || m.num == num)

/-- A unit that stands in its holder's image. -/
def MoveUnit.imaged (m : MoveUnit) : MoveUnit := { m with evictable := false, data := [] }

/-- The units of bound threads that stand in a place go to the images. -/
def State.evictAway (s : State) (kind uid phys num : Nat) : State :=
  if s.away.any (fun x => x.unit.standsAt kind uid phys num) then
    let s := (s.away.filter (fun x => x.unit.standsAt kind uid phys num)).foldl (fun s x => s.writeBack x.ctx x.slot x.unit) s
    { s with away := s.away.map (fun x => if x.unit.standsAt kind uid phys num then { x with unit := x.unit.imaged } else x) }
  else s

/-- The first write to a unit of movement that a thread gave up: it goes to the holder's image (R406). -/
def State.evictUnit (s : State) (kind uid phys num : Nat) : State :=
  (s.saved.foldl (fun s x =>
    let hit := fun (m : MoveUnit) => m.standsAt kind uid phys num
    if x.units.any hit then
      let s := (x.units.filter hit).foldl (fun s m => s.writeBack x.th.task.ctx x.th.task.slot m) s
      { s with saved := s.saved.map (fun y => if y.th.task.id == x.th.task.id then
          { y with units := y.units.map (fun m => if hit m then m.imaged else m) } else y) }
    else s) s).evictAway kind uid phys num

/-- Every unit of movement that a write touches first goes to its holder's image. -/
def State.evictFor (s : State) (a : Nat) : State :=
  if s.saved.isEmpty && s.away.isEmpty then s
  else match moveKey a with
    | some (kind, uid, phys, num) => s.evictUnit kind uid phys num
    | none => s

/-- Some context's code arena covers an HBM address (R168). -/
def State.inArena (s : State) (a : Nat) : Bool :=
  a < 2 ^ 39 && s.ctxs.any (fun c => c.codebase.toNat ≤ a && a < c.codebound.toNat)

/-- The words of code arenas that a write touches, as they are before it: until its next ifence a thread may still fetch
them (R168). -/
def State.oldWords (s : State) (l : List Host.Cell) : List (Nat × Word) :=
  (((l.map (fun p => p.1 / 8 * 8)).eraseDups).filter s.inArena).map (fun a => (a, BitVec.ofNat 64 (s.rdN a 8)))

/-- An access of a control stream is a load that has taken some of its bytes and not all. -/
def MemOp.torn (op : MemOp) : Bool :=
  !op.got.isEmpty && !op.left.isEmpty && op.whole && (match op.kind with | .load .. => true | _ => false)

/-- R95: a single-copy-atomic load that has taken some of its bytes starts anew where an access writes just its bytes. -/
def MemOp.anew (cells : List Nat) (op : MemOp) : MemOp :=
  if op.torn && locCells op.locs == cells then { op with left := List.range op.locs.length, got := [] } else op

/-- The same of a returning element that has taken some of its bytes. -/
def Element.anew (cells : List Nat) (e : Element) : Element :=
  if locCells e.src == cells then { e with got := [] } else e

/-- The same of a read performed ahead: a single-copy-atomic one of which some bytes are left. -/
def Early.anew (cells : List Nat) (e : Early) : Early :=
  if e.whole && e.got.length < e.locs.length && locCells e.locs == cells then { e with got := [] } else e

/-- Some load of a thread on its way has taken some of its bytes. -/
def Thread.torn (t : Thread) : Bool :=
  t.c.accs.any MemOp.torn || t.l.returns.any (fun e => !e.got.isEmpty) || !t.c.early.isEmpty || !t.l.early.isEmpty

/-- The loads of a thread on their way that a write to some cells makes start anew. -/
def Thread.anew (cells : List Nat) (t : Thread) : Thread :=
  { t with
    c := { t.c with accs := t.c.accs.map (MemOp.anew cells), early := t.c.early.map (Early.anew cells) }
    l := { t.l with returns := t.l.returns.map (Element.anew cells), early := t.l.early.map (Early.anew cells) } }

/-- The same of every thread. -/
def State.loadsAnew (s : State) (cells : List Nat) : State :=
  if s.threads.any Thread.torn then
    { s with
      t := s.t.anew cells
      others := s.others.map (Thread.anew cells) }
  else s

/-- Pairs of cell and byte written, saved threads' units first moved out of the way; what becomes of errors (R435) and of
loads on their way (R95) there. -/
def State.store (s : State) (l : List Host.Cell) : State :=
  let s' : State := { l.foldl (fun s p => (s.evictFor p.1).wr p.1 p.2) s with stale := s.stale ++ s.oldWords l }
  (s'.clearErrors (l.map (·.1))).loadsAnew (l.map (·.1))

/-- A write by the device itself: what is read-only to every requester keeps its bytes (R428, R432). Where it would
overwrite a sector, row or word in error only in part, it leaves that out, and the error is counted (R435, which has such a
write of a thread stop: DEDUCED, log entry 62). -/
def State.innerStore (s : State) (l : List Host.Cell) : State :=
  let l := l.filter (fun p => !s.readOnly p.1)
  if s.fleet.errors.isEmpty then s.store l
  else
    let part := s.fleet.errors.filter (fun e => !coversError (l.map (·.1)) e)
    (s.meetOf part (l.map (·.1))).2.store (l.filter (fun p => (badDetailOf part p.1).isNone))

/-- Bytes from an address upwards. -/
def cellsFrom (a : Nat) (l : List Byte) : List Host.Cell := ((List.range l.length).zip l).map (fun p => (a + p.1, p.2))

/-- A number of some bytes written by the device itself. -/
def State.innerN (s : State) (a n v : Nat) : State := s.innerStore (cellsFrom a (bytesOf n v))

/-- Words written by the device itself from a base, each by its offset; sectors that they overwrite together are written
whole (R435). -/
def State.putWords (s : State) (base : Nat) (l : List (Nat × Nat)) : State :=
  let s := if s.fleet.errors.isEmpty then s
    else s.clearErrors ((l.flatMap (fun p => (List.range 8).map (base + p.1 + ·))).filter (fun a => !s.readOnly a))
  l.foldl (fun s p => s.innerN (base + p.1) 8 p.2) s

/-- What the device writes for the outside, of a command, a ring or a trace: as a write by the device itself, and frames
of confidential contexts keep their bytes where the outside that asked is not trusted (R428; DEDUCED: log entry 60). -/
def State.deviceStore (s : State) (trusted : Bool) (l : List Host.Cell) : State :=
  s.innerStore (l.filter (fun p => trusted || !(p.1 < 2 ^ 39 && (s.ownerOf 0 (p.1 / 2 ^ 21)).isSome)))

/-! ### Debug: watchpoints, stops, trace (R308 to R319) -/

/-- A bit field of a 64-bit word. -/
def wbits (w : Word) (hi lo : Nat) : Nat := bits w.toNat hi lo

/-- The thread that an agent acts for, by its task: at its site, at another one, or saved (R62, R312). -/
def State.agentThread (s : State) (ag : Agent) : Option Thread :=
  if !ag.forThread then none
  else if (s.threadAt ag.site).task.id == ag.task then some (s.threadAt ag.site)
  else match s.taskThread ag.task with
    | some t => some t
    | none => (s.saved.find? (fun x => x.th.task.id == ag.task)).map (·.th)

/-- %dbgctl.en of the thread an agent acts for; host and peer requests always count as enabled (R309, R311). -/
def State.agentEnabled (s : State) (ag : Agent) : Bool :=
  !ag.forThread || (match s.agentThread ag with | some t => t.dbg.ctl.getLsbD 0 | none => false)

/-- A TC_WATCH becomes pending in the thread an agent acts for, the first one only (R312). -/
def State.setWatch (s : State) (ag : Agent) (n : Nat) : State :=
  match s.agentThread ag with
  | none => s
  | some t =>
    if t.dbg.watch.isSome then s
    else
      let t := { t with dbg := { t.dbg with watch := some n } }
      if (s.saved.any (fun x => x.th.task.id == t.task.id)) && (s.taskThread t.task.id).isNone then
        { s with saved := s.saved.map (fun x => if x.th.task.id == t.task.id then { x with th := t } else x) }
      else s.setThread t

/-- A trace record of 64 bytes (R317) in the cluster's buffer: at TRSIZE, TRPTR returns to 0 under wrap, whenever wrap was
set; without it writing stops and overflow is set. R317 leaves open when: the model sets overflow at the first record that
no longer fits (DESIGN CHOICE: log entry 61). -/
def State.traceRecord (s : State) (cl : Nat) (rec : List Nat) : State :=
  let c := s.cluster cl
  let wrap := c.trctl.getLsbD 0
  if c.trsize == 0 then s
  else if c.trptr.toNat ≥ c.trsize.toNat && !wrap then s.setCluster cl { c with trctl := c.trctl ||| 2 }
  else
    let at' := if c.trptr.toNat ≥ c.trsize.toNat then 0 else c.trptr.toNat
    let bytes := (rec.map (bytesOf 8)).flatten
    let s := s.deviceStore false ((List.range bytes.length).zip bytes |>.map (fun p => (c.trbase.toNat + at' + p.1, p.2)))
    let p := if at' + 64 ≥ c.trsize.toNat && wrap then 0 else at' + 64
    s.setCluster cl { s.cluster cl with trptr := BitVec.ofNat 64 p }

/-- The address of an instruction as a trace record shows it: bit 2 for slot B (R317). -/
def recordPc (pc : Word) : Nat := pc.toNat / 8 * 8 + pc.toNat / 4 % 2 * 4

/-- A trace record for a thread (R317), in the buffer of the thread's own cluster: a watch-hit record too, wherever the
watchpoint lies, of which R317 does not say (DESIGN CHOICE: log entry 61). -/
def State.traceWrite (s : State) (th : Thread) (src kind lane : Nat) (pc : Word) (seq x y z : Nat) : State :=
  s.traceRecord (clusterNo th.site)
    [s.gts, src + kind * 2 ^ 16 + lane * 2 ^ 32, recordPc pc, seq, x, y, z, 0]

/-- A trace record of an event of a thread, a watch hit, stop, step or trap, where one of its traces is on (R309,
R317). -/
def State.trace (s : State) (th : Thread) (src kind lane : Nat) (pc : Word) (seq x y z : Nat) : State :=
  if th.dbg.ctl.getLsbD 0 && (th.dbg.ctl.getLsbD 4 || th.dbg.ctl.getLsbD 5) then
    s.traceWrite th src kind lane pc seq x y z
  else s

/-- The reads that a thread's instructions have performed ahead are forgotten: the instructions make them again. -/
def Thread.noEarly (t : Thread) : Thread := { t with c := { t.c with early := [] }, l := { t.l with early := [] } }

/-- A thread that a stop reaches (R313, R316): fz is set, fetched-ahead words are discarded; a running or blocked
thread is frozen. -/
def Thread.freeze (t : Thread) : Thread :=
  let t := { t.noEarly with
    dbg := { t.dbg with ctl := t.dbg.ctl ||| 4, stop := false }
    c := { t.noEarly.c with popWord := none, body := [] } }
  match t.status with
  | .running => { t with status := .frozen none }
  | .blocked w => { t with status := .frozen (some w) }
  | _ => t

/-- The number of a thread's status set in its cluster's debug block (R314). -/
def setNo (site : Nat) : Nat := siteUnit site * 4 + siteThread site

/-- A stop in a cluster (R313, R314): it is on its way to every thread with debug enabled. -/
def State.stopCluster (s : State) (cl : Nat) : State :=
  let c := s.cluster cl
  if c.trctl.getLsbD 2 then s
  else
    let hit := fun (t : Thread) => clusterNo t.site == cl && t.status != .free && t.dbg.ctl.getLsbD 0
    let sets := (s.threads.filter hit).foldl (fun v t => v.setIfInBounds (setNo t.site)
      ⟨BitVec.ofNat 64 s.gts, 0, 0, (v.toArray.getD (setNo t.site) ⟨0, 0, 0, 0⟩).ptwin⟩) c.sets
    let s := s.setCluster cl { c with trctl := c.trctl ||| 4, stopAt := BitVec.ofNat 64 s.gts, sets := sets }
    let mark := fun (t : Thread) => if hit t then { t with dbg := { t.dbg with stop := true } } else t
    { s with
      t := mark s.t
      others := s.others.map mark }

/-- The stop of their cluster reaches some threads (R313, R317). -/
def State.stopReaches (s : State) (p : Thread → Bool) : State :=
  let due := fun (t : Thread) => t.dbg.stop && p t
  let s := (s.threads.filter due).foldl (fun s t => s.trace t t.site 5 noLane t.c.pc t.c.committed 0 0 0) s
  let reach := fun (t : Thread) => if due t then t.freeze else t
  { s with
    t := reach s.t
    others := s.others.map reach }

/-- The thread in focus is in a stop whose time stamp lies before now (R314): up to the freeze, and after it. -/
def State.skidding (s : State) : Bool :=
  let c := s.cluster (clusterNo s.t.site)
  let frozen := match s.t.status with | .frozen _ => c.trctl.getLsbD 2 | _ => false
  (s.t.dbg.stop || frozen) && (c.sets.toArray.getD (setNo s.t.site) ⟨0, 0, 0, 0⟩).stopts.toNat < s.gts

/-- Some words committed and lane instructions completed of the thread in focus are counted, where it is in a stop
(R314). -/
def State.skid (s : State) (words lane : Nat) : State :=
  if !s.skidding then s
  else
    let c := s.cluster (clusterNo s.t.site)
    let x := c.sets.toArray.getD (setNo s.t.site) ⟨0, 0, 0, 0⟩
    s.setCluster (clusterNo s.t.site) { c with sets := c.sets.setIfInBounds (setNo s.t.site) { x with
      skidc := x.skidc + words
      skidl := x.skidl + lane } }

/-- The skid counts of a thread after a move of it (R314): a word committed or a lane instruction completed with a time
stamp later than the stop's, up to the freeze and, for a lane instruction that had started, after it. -/
def State.skids (before s : State) : State :=
  let t := before.t
  if !before.skidding || s.t.task.id != t.task.id then s
  else
    let cl := clusterNo t.site
    let x := (before.cluster cl).sets.toArray.getD (setNo t.site) ⟨0, 0, 0, 0⟩
    let c := s.cluster cl
    s.setCluster cl { c with sets := c.sets.setIfInBounds (setNo t.site) { x with
      skidc := x.skidc + (if s.t.c.committed == t.c.committed then 0 else 1)
      skidl := x.skidl + (if s.t.l.done == t.l.done then 0 else 1) } }

/-- R310: a watchpoint that fires at all: its type, none where a reserved field or a forbidden kind is set. -/
def wpType (w : Vector Word 8) : Nat :=
  let c := w[0]
  let ty := wbits c 1 0
  if wbits c 63 48 != 0 || wbits c 15 14 != 0 || (2 ≤ ty && (c.getLsbD 2 || c.getLsbD 4)) then 0 else ty

/-- R311: the source and value filters of a watchpoint. -/
def wpFilter (w : Vector Word 8) (src value : Nat) : Bool :=
  let c := w[0]
  let m := wbits c 47 32
  (src &&& m) == (wbits c 31 16 &&& m)
    && (!c.getLsbD 5 || (value &&& w[4].toNat) == (w[3].toNat &&& w[4].toNat))

/-- The seq of a record of a source (R317): words committed of a control stream, lane instructions completed of a lane
stream; 0 of the copy and matrix engines, which threads share and of which R317 does not say (DESIGN CHOICE: log entry
61), so that ts never falls in seq order (R320). -/
def Agent.seq (ag : Agent) (t : Thread) : Nat :=
  if ag.src == ag.site then t.c.committed else if ag.src == ag.site + 4 then t.l.done else 0

/-- A hit of watchpoint n of a cluster (R312): its record; then a stop, or a TC_WATCH pending in the thread. -/
def State.wpHit (s : State) (cl n : Nat) (ag : Agent) (kind where_ value lane : Nat) : State :=
  let c := s.cluster cl
  let w := c.wps.toArray.getD n (Vector.replicate 8 0)
  let tr := w[0].getLsbD 7
  let w' := (((w.set 5 (BitVec.ofNat 64 s.gts)).set 6 (BitVec.ofNat 64 (2 ^ 63 + kind * 2 ^ 56 + ag.src))).set 7
    (BitVec.ofNat 64 where_)).set 0 (if w[0].getLsbD 6 then w[0] &&& ~~~3#64 else w[0])
  let s := s.setCluster cl { c with wps := c.wps.setIfInBounds n w' }
  let s := match s.agentThread ag with
    | some t => s.trace t ag.src 4 lane ag.pc (ag.seq t) n where_ value
    | none => s
  if tr && ag.forThread then s.setWatch ag n else s.stopCluster cl

/-- R311: the value that a memory watchpoint compares: the aligned 8 bytes at WPLO, or the value of a read of at most
8 bytes; of a wider read, its bytes there. -/
def State.watched (s : State) (ag : Agent) (k : Access) (lo n v : Nat) : Nat :=
  if k == .read && n ≤ 8 then v
  else natOfBytes ((List.range 8).map (fun i => s.rd (homeCell (s.ctxD ag.ctx).bankkey (lo / 8 * 8 + i))))

/-- R311: an access performed at a home slice, by the home addresses of its bytes and the value it read: every memory
watchpoint of the home slice's partition that it hits. The address hit is the first of them in the watchpoint's
range. -/
def State.watchMem (s : State) (ag : Agent) (k : Access) (homes : List Nat) (v : Nat) : State :=
  if s.clusters.isEmpty || !s.agentEnabled ag then s
  else
    s.clusters.foldl (fun s p =>
      (List.range 16).foldl (fun s n =>
        let w := (s.cluster p.1).wps.toArray.getD n (Vector.replicate 8 0)
        let lo := wbits w[1] 47 0
        let on := match k with | .read => w[0].getLsbD 2 | .write => w[0].getLsbD 3 | .atomic _ => w[0].getLsbD 4
        match homes.find? (fun h => wpType w == 1 && on && lo ≤ h && h ≤ wbits w[2] 47 0
            && s.partOf (p.1 / 12) == s.partOf (dieOfHome h)) with
        | none => s
        | some h =>
          let value := s.watched ag k lo homes.length v
          if wpFilter w ag.src value then s.wpHit p.1 n ag k.code h value ag.lane else s) s) s

/-- R311: a slot written in a unit lane: every register-slot watchpoint of the cluster that it hits. WPWHERE holds the
slot and the unit lane in the places that WPLO and WPHI give them (R310, R311; DEDUCED: log entry 61). -/
def State.watchSlot (s : State) (ag : Agent) (uid lane slot : Nat) : State :=
  if s.clusters.isEmpty || !s.agentEnabled ag then s
  else
    let cl := uid / 8
    (List.range 16).foldl (fun s n =>
      let w := (s.cluster cl).wps.toArray.getD n (Vector.replicate 8 0)
      let value := s.rdN (arrayBase uid + 64 * lane + 2 * slot) 2
      if wpType w == 3 && w[0].getLsbD 3 && wbits w[0] 10 8 == uid % 8
          && wbits w[1] 17 0 ≤ lane && lane ≤ wbits w[2] 17 0
          && wbits w[1] 28 24 ≤ slot && slot ≤ wbits w[2] 28 24 && wpFilter w ag.src value then
        s.wpHit cl n ag 2 (slot * 2 ^ 24 + lane) value ag.lane
      else s) s

/-- R311: a count of a tile written: every accumulator watchpoint of the cluster that it hits. WPWHERE holds the row and
the column in the places that WPLO and WPHI give them, the tile above (R310, R311; DEDUCED: log entry 61). -/
def State.watchAcc (s : State) (ag : Agent) (uid tile row col value : Nat) : State :=
  if s.clusters.isEmpty || !s.agentEnabled ag then s
  else
    let cl := uid / 8
    (List.range 16).foldl (fun s n =>
      let w := (s.cluster cl).wps.toArray.getD n (Vector.replicate 8 0)
      if wpType w == 2 && w[0].getLsbD 3 && wbits w[0] 10 8 == uid % 8 && wbits w[0] 13 11 == tile
          && wbits w[1] 4 0 ≤ row && row ≤ wbits w[2] 4 0
          && wbits w[1] 14 8 ≤ col && col ≤ wbits w[2] 14 8 && wpFilter w ag.src value then
        s.wpHit cl n ag 2 (tile * 2 ^ 16 + col * 2 ^ 8 + row) value 0xFFFFFFFF
      else s) s

/-- The home address of the first cell among locations. -/
def homeOf (ls : List Loc) : Option Nat :=
  ls.findSome? (fun l => match l with | .cell _ h => some h | _ => none)

/-- The home addresses of the cells among locations. -/
def locHomes (ls : List Loc) : List Nat := ls.filterMap (fun l => match l with | .cell _ h => some h | _ => none)

/-- The slots that a write to home addresses touches: unit, unit lane, slot number (R141). -/
def slotsAt (homes : List Nat) : List (Nat × Nat × Nat) :=
  (homes.filterMap (fun h =>
    if 0x20000000000 ≤ h && h < 0x30000000000 then
      some ((h / 2 ^ 36 % 8 * 12 + h / 2 ^ 32 % 16) * 8 + h / 2 ^ 28 % 16, h % 2 ^ 28 / 64, h % 64 / 2)
    else none)).eraseDups

/-- An access performed, with the value of a read: the memory watchpoints, and for row-view writes the slot
watchpoints. -/
def State.watchLocs (s : State) (ag : Agent) (k : Access) (ls : List Loc) (v : Nat) : State :=
  if s.clusters.isEmpty then s
  else
    let s := s.watchMem ag k (locHomes ls) v
    if k.isWrite then (slotsAt (locHomes ls)).foldl (fun s p => s.watchSlot ag p.1 p.2.1 p.2.2) s else s

/-- A read of bytes whose checks have passed. -/
def State.readLocs (s : State) (ag : Agent) (ls : List Loc) : Nat × State := (s.rdLocs ls, s.watchLocs ag .read ls (s.rdLocs ls))

/-- A write of bytes whose checks have passed. -/
def State.writeLocs (s : State) (ag : Agent) (k : Access) (ls : List Loc) (v : Nat) : State :=
  (s.store (locWrites ls (bytesOf ls.length v))).watchLocs ag k ls v

/-- The granule of a location (R95). -/
def granuleOf : Loc → Nat
  | .cell _ h => if h < 2 ^ 39 then 32 else if h < 2 ^ 47 then 64 else 8
  | .rtile .. => 8
  | .void => 64

/-- R95: an access is single-copy atomic where its address is a multiple of its size and its bytes lie within one
granule. -/
def wholeAccess (va : Nat) (ls : List Loc) : Bool :=
  let n := ls.length
  va % n == 0 && (match ls with
    | l :: _ => n ≤ granuleOf l && va % granuleOf l + n ≤ granuleOf l
    | [] => true)

/-- The value of a read: of the bytes that have been taken ahead, those (R364); of the others, what they hold now. -/
def earlyValue (es : List Early) (now : Loc → Byte) (ls : List Loc) : Nat :=
  match es.find? (fun e => e.locs == ls) with
  | none => natOfBytes (ls.map now)
  | some e => natOfBytes ((List.range ls.length).map (fun i =>
      ((e.got.find? (fun p => p.1 == i)).map (·.2)).getD (now (ls.getD i .void))))

/-- Memory with the bytes that some reads have taken ahead. -/
def State.overlay (s : State) (es : List Early) : State :=
  es.foldl (fun s e => e.got.foldl (fun s p => match e.locs.getD p.1 .void with
    | .cell a _ => s.wr a p.2
    | _ => s) s) s

/-- A read that an instruction makes as it runs noted (log entry 10). -/
def State.noteRead (s : State) (ls : List Loc) (whole : Bool) : State := { s with reads := ⟨ls, whole, []⟩ :: s.reads }

/-- A checked read of size bytes at a virtual address by the lane stream in focus, as its instruction runs. -/
def State.load (s : State) (ag : Agent) (size va : Nat) : Except AccFault Nat × State :=
  match s.check ag .read size va with
  | (.error f, s) => (.error f, s)
  | (.ok ls, s) =>
    let v := earlyValue s.t.l.early s.rdLoc ls
    (.ok v, (s.noteRead ls (wholeAccess va ls)).watchLocs ag .read ls v)

/-- A checked write of size bytes at a virtual address. -/
def State.put (s : State) (ag : Agent) (size va v : Nat) : Except AccFault Unit × State :=
  match s.check ag .write size va with
  | (.error f, s) => (.error f, s)
  | (.ok ls, s) => (.ok (), s.writeLocs ag .write ls v)

/-- The operations of R202 on n bits: old value and operand to the new value; cas is handled by its user. -/
def amoFun (op : AmoOp) (n old v : Nat) : Nat :=
  let lt := decide (sextNat n old < sextNat n v)
  match op with
  | .add => (old + v) % 2 ^ n
  | .and => old &&& v
  | .or => old ||| v
  | .xor => old ^^^ v
  | .min => if lt then old else v
  | .max => if lt then v else old
  | .minn => if old < v then old else v
  | .maxn => if old < v then v else old
  | .swap => v
  | .cas => v

/-- Whether R112 sends an operation to host or peer memory. -/
def AmoOp.hostOk : AmoOp → Bool
  | .add | .swap | .cas => true
  | _ => false

/-- An atomic on bytes whose checks have passed (R111, R202): the old value. A failed cas writes nothing. -/
def State.amoLocs (s : State) (ag : Agent) (op : AmoOp) (ls : List Loc) (v k : Nat) : Nat × State :=
  let n := 8 * ls.length
  let old := s.rdLocs ls
  if op == .cas && old != k then (old, s.watchMem ag (.atomic true) (locHomes ls) old)
  else (old, s.writeLocs ag (.atomic true) ls (amoFun op n old v))

end Sys2Proof.Machine
end

