-- ==== Sys2Proof/Machine/Record.lean ====
section
/-! DEFINITION. The launch record (R379), the shape of a launch and its groups (R31 to R34, R384), features (R27). -/

namespace Sys2Proof.Machine

/-- Word k of a captured record. -/
def Launch.w (l : Launch) (k : Nat) : Nat := (l.words.getD k 0).toNat

def Launch.entry (l : Launch) : Nat := l.w 0
def Launch.ctx (l : Launch) : Nat := bits (l.w 1) 15 0
def Launch.prioField (l : Launch) : Nat := bits (l.w 1) 23 16
def Launch.flags (l : Launch) : Nat := bits (l.w 1) 31 24
def Launch.restartable (l : Launch) : Bool := l.flags % 2 == 1
def Launch.interrupt (l : Launch) : Bool := l.flags / 2 % 2 == 1
def Launch.quads (l : Launch) : Nat := bits (l.w 1) 39 32
def Launch.tiles (l : Launch) : Nat := bits (l.w 1) 47 40
def Launch.wseg (l : Launch) : Nat := bits (l.w 1) 55 48
def Launch.shape (l : Launch) : Nat := l.w 2
/-- Width of field k (R31). -/
def Launch.width (l : Launch) (k : Nat) : Nat := bits l.shape (7 * k + 6) (7 * k)
/-- Binding code of level j, 1 to 6 (R33). -/
def Launch.binding (l : Launch) (j : Nat) : Nat := bits l.shape (3 * j + 41) (3 * j + 39)
/-- Extent of field k (R379: stored less one). -/
def Launch.extent (l : Launch) (k : Nat) : Nat := l.w (3 + k) + 1
def Launch.args (l : Launch) : Nat := l.w 9
def Launch.pmap (l : Launch) : Nat := l.w 10
def Launch.wev (l : Launch) : Nat := l.w 11
def Launch.wval (l : Launch) : Nat := l.w 12
def Launch.sev (l : Launch) : Nat := l.w 13
def Launch.stat (l : Launch) : Nat := l.w 14

/-- Tasks of a level-k group (R33): the product of the extents below level k. -/
def Launch.groupSize (l : Launch) (k : Nat) : Nat := ((List.range k).map l.extent).foldl (· * ·) 1
/-- Tasks of the launch (R31). -/
def Launch.total (l : Launch) : Nat := l.groupSize 6

/-- %wid of an ordinal (R31, R32): fields peeled off from field k upwards, at bit o. -/
def widFrom (l : Launch) : Nat → Nat → Nat → Nat → Nat
  | 0, _, _, _ => 0
  | n + 1, k, o, ord => ord % l.extent k * 2 ^ o + widFrom l n (k + 1) (o + l.width k) (ord / l.extent k)
def Launch.widOf (l : Launch) (ord : Nat) : Word := BitVec.ofNat 64 (widFrom l 6 0 0 ord)

/-- The outermost level whose binding satisfies a test (R34, R384). -/
def Launch.outermost (l : Launch) (p : Nat → Bool) : Option Nat := [6, 5, 4, 3, 2, 1].find? (fun j => p (l.binding j))

/-- The outermost bound level, package included (R34, R395). -/
def Launch.boundLevel (l : Launch) : Option Nat := l.outermost (fun c => c != 0)
/-- The level of the placement groups (R384). -/
def Launch.placeLevel (l : Launch) : Option Nat := l.outermost (fun c => 1 ≤ c && c ≤ 3)
/-- Tasks of a placement group, and how many there are (R384). -/
def Launch.placeSize (l : Launch) : Nat := match l.placeLevel with | some k => l.groupSize k | none => 1
def Launch.placeCount (l : Launch) : Nat := l.total / l.placeSize
/-- The outermost bound group of a task (R34): all its ordinals share this number; none where it is in no group. -/
def Launch.boundGroup (l : Launch) (ord : Nat) : Option Nat := l.boundLevel.map (fun k => ord / l.groupSize k)

/-- Two tasks are pre-empted, resumed and stopped together (R34). -/
def Launch.together (l : Launch) (a b : Nat) : Bool :=
  a == b || (match l.boundGroup a with | some g => l.boundGroup b == some g | none => false)

def State.launch? (s : State) (id : Nat) : Option Launch := s.sched.launches.find? (fun l => l.id == id)

/-- A launch replaced by its new record. -/
def State.setLaunch (s : State) (l : Launch) : State :=
  { s with sched := { s.sched with launches := s.sched.launches.map (fun x => if x.id == l.id then l else x) } }

/-- %feat of a die: fuses, and whether boot found it usable (R27, R413, R416). -/
def State.feat (s : State) (die : Nat) : Nat := if s.power.dies.getLsbD die then s.fleet.feat.toArray.getD die 0 else 0

/-- Dies of a partition that are usable. -/
def State.partDies (s : State) (part : Nat) : List Nat :=
  (List.range 8).filter (fun d => s.power.dies.getLsbD d && s.partOf d == part)

/-- A die has every feature of a mask (R357, R385). -/
def State.dieHas (s : State) (die mask : Nat) : Bool := (s.feat die &&& mask) == mask

/-- A number put into a rising list. -/
def insertNat : Nat → List Nat → List Nat
  | n, [] => [n]
  | n, m :: l => if n < m then n :: m :: l else if n == m then m :: l else m :: insertNat n l

/-- Bits set in a word of w bits. -/
def popc (w x : Nat) : Nat := ((List.range w).filter (fun i => x.testBit i)).length

/-- The number of a cause (R215). -/
def Cause.code : Cause → Nat
  | .illegalWord => 1 | .illegalConfig => 2 | .badHandle => 3 | .codeBound => 4 | .memTranslation => 5
  | .memPermission => 6 | .memAlign => 7 | .hostAtomic => 8 | .arith => 9 | .fibreMalformed => 10
  | .featureAbsent => 11 | .watch => 12 | .brk => 13 | .stepEnd => 14 | .launch => 15 | .streamDeadlock => 16

end Sys2Proof.Machine
end

