-- ==== Sys2Proof/Machine/Ops.lean ====
section
/-! DEFINITION. The named operations of a thread: scalar registers and tokens (R9, R113, R200), program counter and
nests (R54), queues (R18), the lane queue (R30), pending stores (R200), the end of a task (R358), and TAKING A TRAP as
one operation (R215 to R217, R400 to R402, R444) with the return from one beside it (R218). -/

namespace Sys2Proof.Machine

/-- What a step answers. -/
abbrev Res := Host.Outcome State Fault Refusal

/-! ### The thread in focus -/

def State.mapT (s : State) (f : Thread → Thread) : State := { s with t := f s.t }
def State.mapC (s : State) (f : Ctrl → Ctrl) : State := { s with t := { s.t with c := f s.t.c } }
def State.mapQ (s : State) (f : Queues → Queues) : State := { s with t := { s.t with q := f s.t.q } }
def State.mapL (s : State) (f : Lane → Lane) : State := { s with t := { s.t with l := f s.t.l } }
def State.mapR (s : State) (f : Resid → Resid) : State := { s with t := { s.t with r := f s.t.r } }
def State.mapD (s : State) (f : Dbg → Dbg) : State := { s with t := { s.t with dbg := f s.t.dbg } }

/-- Address of the head of the lane queue (R180). -/
def Queues.headAddr (q : Queues) : Word := match q.lane with | e :: _ => e.addr | [] => 0

/-- An agent of a thread with its source number (R319), for the instruction at an address. -/
def Thread.agent (t : Thread) (src : Nat) (pc : Word) : Agent := ⟨t.site, t.task.ctx, src, true, t.task.id, pc, noLane⟩

/-- The agents of the thread in focus: control stream, lane stream, matrix engine. -/
def State.ctlAgent (s : State) : Agent := s.t.agent s.t.site s.t.c.pc
def State.laneAgent (s : State) : Agent := s.t.agent (s.t.site + 4) s.t.q.headAddr
def State.matrixAgent (s : State) : Agent := s.t.agent (s.t.site / 16 * 16 + 10) s.t.q.headAddr
/-- The lane stream in the access of a lane's element. -/
def State.elemAgent (s : State) (l : Nat) : Agent := { s.laneAgent with lane := l }

/-- Lanes owned by a thread (R37). -/
def Alloc.lanes (a : Alloc) : Nat := 16384 * popc 16 a.quads.toNat

/-- The context of the task in focus. -/
def State.ctxT (s : State) : Ctx := s.ctxD s.t.task.ctx

/-! ### Scalar registers (R9, R113, R200) -/

/-- The value of a register: s0 is zero; a load in flight stalls its reader until its data is there (R200), so the
reader sees that data. -/
def Ctrl.reg (c : Ctrl) (r : SReg) : Word :=
  if r = 0 then 0 else match c.loads.find? (fun p => p.1 == r.val) with
    | some p => p.2
    | none => c.s[r]

/-- A register written; s0 discards; a load in flight to it has arrived before (R200). -/
def Ctrl.setReg (c : Ctrl) (r : SReg) (v : Word) : Ctrl :=
  if r = 0 then c else { c with s := c.s.set r.val v, loads := c.loads.filter (fun p => p.1 != r.val) }

/-- A register made the destination of a load whose data is in flight (R200); s0 discards. -/
def Ctrl.setLoad (c : Ctrl) (r : SReg) (v : Word) : Ctrl :=
  if r = 0 then c else { c with loads := (r.val, v) :: c.loads.filter (fun p => p.1 != r.val) }

def State.reg (s : State) (r : SReg) : Word := s.t.c.reg r
def State.setReg (s : State) (r : SReg) (v : Word) : State := s.mapC (·.setReg r v)
def State.setLoad (s : State) (r : SReg) (v : Word) : State := s.mapC (·.setLoad r v)

/-- A register by number, for the registers that instructions reach by counting. -/
def sreg (n : Nat) : SReg := Fin.ofNat 64 n

/-- The second operand of R174. -/
def State.src2 (s : State) : Src2 → Word
  | .reg b => s.reg b
  | .imm v => v.signExtend 64

/-- The stack pointer and the link register (R9, R50). -/
def spReg : SReg := 62
def lrReg : SReg := 63

/-- A control stream that stalls (R35): a running thread is blocked. -/
def State.block (s : State) (w : Wait) : State :=
  match s.t.status with
  | .running => s.mapT (fun t => { t with status := .blocked w })
  | .blocked _ => s.mapT (fun t => { t with status := .blocked w })
  | _ => s

/-- The register that an access loads. -/
def MemOp.dest (op : MemOp) : Option Nat :=
  match op.kind with
  | .load r _ => some r
  | .amo r .. => some r
  | .store _ => none

/-- A register awaits a copy token (R113), or a load or atomic that has not been performed (R200). -/
def Ctrl.awaits (c : Ctrl) (r : SReg) : Bool := c.tokens.getLsbD r.val || c.accs.any (fun op => op.dest == some r.val)

/-- The first of some registers that is not ready (R113, R200). -/
def State.waiting (s : State) (rs : List SReg) : Option SReg := rs.find? (fun r => r != 0 && s.t.c.awaits r)

/-- What an instruction does once every register it reads or writes is ready (R113, R200); else it stalls. -/
def State.withRegs (s : State) (rs : List SReg) (k : State → Res) : Res :=
  match s.waiting rs with
  | some r => .next (s.block (.token r.val))
  | none => k s

/-! ### Program counter and nests (R54, R55, R180) -/

/-- The address of the word in progress. -/
def State.wordAddr (s : State) : Word := s.t.c.pc &&& ~~~7#64

def State.setPc (s : State) (a : Word) : State := s.mapC (fun c => { c with pc := a })

/-- The word has been committed: one more, and on to the next word (R169, R317). -/
def State.advance (s : State) : State :=
  s.mapC (fun c => { c with pc := (c.pc &&& ~~~7#64) + 8, committed := c.committed + 1 })

/-- A taken branch (R176). -/
def State.branch (s : State) (target : Word) : State :=
  s.mapC (fun c => { c with pc := target, committed := c.committed + 1 })

/-- The target of a branch offset in words (R176). -/
def State.target {w : Nat} (s : State) (o : BitVec w) : Word := s.wordAddr + 8 * o.signExtend 64

/-- An arithmetic instruction's end: the result and on. -/
def State.result (s : State) (d : SReg) (v : Word) : State := (s.setReg d v).advance

def nestAct (cfg : Word) : Bool := cfg.getLsbD 63
def nestSus (cfg : Word) : Bool := cfg.getLsbD 49
/-- Fields of %nestcfg (R55). -/
def nestLen (cfg : Word) : Nat := wbits cfg 62 59 + 1
def nestDims (cfg : Word) : Nat := wbits cfg 58 56 + 1
def nestDesc (cfg : Word) : Nat := wbits cfg 55 50
def nestBody (cfg : Word) : Nat := wbits cfg 44 0 * 8

/-- The loop counters stepped from dimension j upwards (R54; log entry 11: dimension 0 is the innermost): the new
counters and the dimension that stepped, none after the last iteration. -/
def nestCount (count : Nat → Nat) (ctr : Nat) : Nat → Nat → Option (Nat × Nat)
  | 0, _ => none
  | n + 1, j =>
    let i := bits ctr (10 * j + 9) (10 * j)
    if i < count j then some (ctr + 2 ^ (10 * j), j)
    else nestCount count (ctr - i * 2 ^ (10 * j)) n (j + 1)

/-- The registers that the step of a nest reads (R54). -/
def nestRegs (cfg : Word) : List SReg :=
  (List.range (nestDims cfg)).map (fun j => sreg (nestDesc cfg + j)) ++ [sreg 56, sreg 57, sreg 58, sreg 59]

/-- The program counter stands at the end of the body of a nest in progress. -/
def State.nestEnd (s : State) : Bool :=
  nestAct s.t.c.nestcfg && s.t.c.pc.toNat == nestBody s.t.c.nestcfg + 8 * nestLen s.t.c.nestcfg

/-- The register that the step of a nest waits for at the end of the body (R54, R113, R200): the control stream stalls. -/
def State.nestWaits (s : State) : Option SReg := if s.nestEnd then s.waiting (nestRegs s.t.c.nestcfg) else none

/-- The end of a nest's body, met at fetch (R54, R210): the next iteration, or the end of the nest; it waits for its
registers. -/
def State.nestStep (s : State) : State :=
  let cfg := s.t.c.nestcfg
  if s.nestEnd && (s.waiting (nestRegs cfg)).isNone then
    let desc := fun j => s.reg (sreg (nestDesc cfg + j))
    match nestCount (fun j => wbits (desc j) 61 52) s.t.c.nestctr.toNat (nestDims cfg) 0 with
    | none => s.mapC (fun c => { c with nestcfg := c.nestcfg &&& ~~~(1#64 <<< 63) })
    | some (ctr, j) =>
      let d := (desc j).toNat
      let s := (List.range 4).foldl (fun s k =>
        let r := sreg (56 + k)
        s.setReg r (s.reg r + BitVec.ofInt 64 (sextNat 13 (d / 2 ^ (13 * k))))) s
      s.mapC (fun c => { c with nestctr := BitVec.ofNat 64 ctr, pc := BitVec.ofNat 64 (nestBody cfg) })
  else s

/-! ### Fetching a word (R168, R205) -/

/-- What memory has held at the address of a word since the thread last discarded what it had fetched ahead, and no longer
holds. -/
def State.oldFetches (s : State) (a : Word) : List Word :=
  (((s.stale.drop s.t.c.fetchFrom).filter (fun p => p.1 == a.toNat)).map (·.2)).filter
    (fun w => w.toNat != s.rdN a.toNat 8)

/-- A word of the arena as the thread in focus fetches it (R168): the word that memory holds, or one that it held before;
which one is a free choice. -/
def State.fetchWord (s : State) (a : Word) : Word × State :=
  let now := BitVec.ofNat 64 (s.rdN a.toNat 8)
  match s.oldFetches a with
  | [] => (now, s)
  | l => let (n, s) := s.free; ((now :: l)[n % (l.length + 1)]?.getD now, s)

/-- What a thread had fetched ahead is discarded (R205, R316). -/
def Ctrl.refetch (c : Ctrl) (stale : List (Nat × Word)) : Ctrl := { c with fetchFrom := stale.length }

/-! ### Queues (R18, R444) -/

/-- Entries of a queue. -/
def queueDepth : Nat := 16

def Queues.get (q : Queues) : Nat → List Word
  | 0 => q.q0 | 1 => q.q1 | 2 => q.q2 | _ => q.q3
def Queues.set (q : Queues) (k : Nat) (l : List Word) : Queues :=
  match k with
  | 0 => { q with q0 := l } | 1 => { q with q1 := l } | 2 => { q with q2 := l } | _ => { q with q3 := l }

/-- A result pushed by the lane instruction at the head to q2 or q3; a full queue makes it the pending push (R444). -/
def Queues.push (q : Queues) (k : Nat) (v : Word) : Queues :=
  if (q.get k).length < queueDepth then q.set k (q.get k ++ [v]) else { q with pend := some ⟨k - 1, v, q.headAddr⟩ }

/-- An outcome bit pushed to bo (R43). -/
def Queues.pushBo (q : Queues) (b : Bool) : Queues :=
  if q.bo.length < queueDepth then { q with bo := q.bo ++ [b] }
  else { q with pend := some ⟨3, if b then 1 else 0, q.headAddr⟩ }

/-- Whether the pending push has room (R444). -/
def Queues.pendRoom (q : Queues) : Bool :=
  match q.pend with
  | none => false
  | some p => if p.queue == 3 then q.bo.length < queueDepth else (q.get (p.queue + 1)).length < queueDepth

/-- The pending push enters its queue where that has room (R444). -/
def Queues.deliver (q : Queues) : Queues :=
  match q.pend with
  | none => q
  | some p =>
    if q.pendRoom then
      let q := { q with pend := none }
      if p.queue == 3 then { q with bo := q.bo ++ [p.value == 1] }
      else q.set (p.queue + 1) (q.get (p.queue + 1) ++ [p.value])
    else q

/-! ### The lane queue (R30) -/

def laneDepth : Nat := 64

/-- An entry at the tail of the lane queue, with the operand values read at push. -/
def State.pushEntry (s : State) (k : EntryKind) (word a b c : Word) : State :=
  let e := fun (q : Queues) => (⟨q.pushed, k, word, s.t.c.pc, a, b, c, false, s.t.alloc.lanes⟩ : LaneEntry)
  s.mapQ (fun q => { q with lane := q.lane ++ [e q], pushed := q.pushed + 1 })

/-- Room for an entry (R30), or the control stream stalls. -/
def State.withRoom (s : State) (k : State → Res) : Res :=
  if s.t.q.lane.length < laneDepth then k s else .next (s.block .laneRoom)

/-- The lane part of a control word (R21, R37, R52, R59, R213), carried through the lane queue with three values. -/
def State.pushPart (s : State) (i : Instr) (a b c : Word) : State := s.pushEntry .part (encode i) a b c

/-- Depth of a recorded word (R51). -/
def vstateDepth (w : Word) : Nat := wbits w 55 51

/-- What the re-issue of a held entry does to the control stream's copies (R53, R213, R218, R290): the mask-stack depth,
the matrix configuration, and the draw registers that an mtsr writes again. -/
def Ctrl.reissue (c : Ctrl) (e : LaneEntry) : Ctrl :=
  match e.kind, decode e.word with
  | .instr, .ok (.mpush _) => { c with depth := c.depth + 1 }
  | .instr, .ok .mpop => { c with depth := c.depth - 1 }
  | .instr, .ok (.mcfg _) => { c with mcfg := e.a }
  | .part, .ok (.mtsr n _) =>
    if n == 0x12 then { c with drawkey := BitVec.ofNat 128 (c.drawkey.toNat / 2 ^ 64 * 2 ^ 64 + e.a.toNat) }
    else if n == 0x13 then { c with drawkey := BitVec.ofNat 128 (e.a.toNat * 2 ^ 64 + c.drawkey.toNat % 2 ^ 64) }
    else if n == 0x14 then { c with drawid := e.a.setWidth 32 }
    else c
  | .part, .ok .ret => { c with depth := vstateDepth e.a }
  | .part, .ok .tret => { c with depth := vstateDepth e.a }
  | _, _ => c

/-! ### Accesses on their way (R95, R96, R99, R107, R109, R200, R267, R364) -/

/-- Two accesses touch a byte in common. -/
def locsMeet (a b : List Loc) : Bool := a.any (fun l => match l with | .cell .. => b.contains l | _ => false)
def MemOp.overlaps (a b : MemOp) : Bool := locsMeet a.locs b.locs

/-- A byte of a residual tile. -/
def Loc.inTile : Loc → Bool
  | .rtile .. => true
  | _ => false

/-- The value of byte i of a store. -/
def MemOp.byte (op : MemOp) (i : Nat) : Byte :=
  match op.kind with
  | .store v => BitVec.ofNat 8 (v / 256 ^ i)
  | _ => 0

/-- The byte of a location as a stream sees it: that of its youngest store among some older accesses that has not been
performed there, before memory (R106, R107). A frame or stripe that has become another context's reads as R428 has a
request of no right to it (DEDUCED: log entry 60). -/
def State.fwdByte (s : State) (older : List MemOp) (l : Loc) : Byte :=
  let hit := older.foldl (fun acc op => match op.kind with
    | .store _ => (match op.locs.findIdx? (· == l) with
      | some i => if op.left.contains i then some (op.byte i) else acc
      | none => acc)
    | _ => acc) (none : Option Byte)
  match l, hit with
  | .cell .., some b => b
  | l, _ => if s.foreign s.t.task.ctx l then 0xFF else s.rdLoc l

/-- An atomic whose checks have passed at its home slice (R111): on bytes that the context may still write, as amoLocs has
it; else nothing is written. -/
def State.homeAmo (s : State) (ag : Agent) (op : AmoOp) (ls : List Loc) (v k : Nat) : Nat × State :=
  if ls.all (s.homeTakes ag.ctx) then s.amoLocs ag op ls v k else (natOfBytes (ls.map (s.fwdByte [])), s)

/-- The locations of some bytes of an access. -/
def MemOp.part (op : MemOp) (is : List Nat) : List Loc := is.map (fun i => op.locs.getD i .void)

/-- Some bytes of an access performed, as the stream sees memory beside its older accesses: the access with what is left
of it, or the value it loads once nothing is, which is what a watchpoint compares (R311). -/
def State.perform (s : State) (ag : Agent) (older : List MemOp) (op : MemOp) (is : List Nat) :
    (MemOp × Option (Nat × Word)) × State :=
  let ls := op.part is
  let op' := { op with left := op.left.filter (fun i => !is.contains i), sent := op.sent.filter (fun i => !is.contains i) }
  match op.kind with
  | .store _ => ((op', none), s.writeLocs ag .write (ls.map (s.homeLoc ag.ctx)) (natOfBytes (is.map op.byte)))
  | .load r signed =>
    let bs := ls.map (s.fwdByte older)
    let got := op.got ++ is.zip bs
    let v := natOfBytes ((List.range op.locs.length).map (fun i => ((got.find? (fun p => p.1 == i)).map (·.2)).getD 0))
    let x := if signed then BitVec.ofInt 64 (sextNat (8 * op.locs.length) v) else BitVec.ofNat 64 v
    if op'.left.isEmpty then (({ op' with got := got }, some (r, x)), s.watchLocs ag .read op.locs v)
    else (({ op' with got := got }, none), s)
  | .amo r o v k =>
    let (old, s) := s.homeAmo ag o op.locs v k
    (({ op' with left := [] }, some (r, BitVec.ofNat 64 old)), s)

/-- A control-stream access is performed after an older one of the thread (R99, R103, R107): one to a common byte, but
that a load passes older stores, whose bytes it takes; and, for a store or an atomic, one before the last release. -/
def MemOp.after (op x : MemOp) : Bool :=
  match op.kind with
  | .load .. => x.overlaps op && (match x.kind with | .store _ => false | _ => true)
  | _ => x.overlaps op || x.id < op.rel

/-- A control-stream access may be performed: no older one that it follows waits. -/
def State.accFree (s : State) (n : Nat) (op : MemOp) : Bool := !(s.t.c.accs.take n).any op.after

/-- A load that takes bytes of older stores keeps them before what follows it (R99: same location, transitive): they are
marked, so that an acquire waits for them (R103). -/
def MemOp.see (x op : MemOp) : MemOp :=
  match op.kind, x.kind with
  | .load .., .store _ => if x.overlaps op then { x with seen := true } else x
  | _, _ => x

/-- Some bytes of access n of the control stream performed; once nothing of it is left it is off the list, and the data
of a load or atomic is on its way to its register (R200). -/
def State.performAcc (s : State) (n : Nat) (is : List Nat) : State :=
  match s.t.c.accs[n]? with
  | none => s
  | some op =>
    let ((op', ld), s) := s.perform { s.ctlAgent with pc := op.addr } (s.t.c.accs.take n) op is
    let s := s.mapC (fun c => { c with accs := if op'.left.isEmpty then c.accs.eraseIdx n else c.accs.set n op' })
    let s := s.mapC (fun c => { c with accs := (c.accs.take n).map (fun x => x.see op) ++ c.accs.drop n })
    match ld with
    | some (r, v) => s.setLoad (sreg r) v
    | none => s

/-- The first accesses of the control stream performed whole, in order. -/
def State.performFirst (s : State) : Nat → State
  | 0 => s
  | n + 1 => ((match s.t.c.accs with | op :: _ => s.performAcc 0 op.left | [] => s)).performFirst n

/-- The channels of a source emptied: what they carried has been performed (R116). -/
def State.clearChans (s : State) (src : Nat) : State :=
  { s with chans := s.chans.map (fun (c : Chan) => if c.source == src then
    { c with window := [], expected := c.next, acked := c.next, refused := none } else c) }

/-- Every access of the control stream performed in order (R103, R116). -/
def State.drainAccs (s : State) : State :=
  if s.t.c.accs.isEmpty then s else (s.performFirst s.t.c.accs.length).clearChans s.t.site

/-- The accesses on their way, marked where they are of some kind, or are followed by marked ones, or stand before marked
ones in the fabric (R116). -/
def accSet (p : MemOp → Bool) : List MemOp → List (Bool × MemOp)
  | [] => []
  | x :: l =>
    let r := accSet p l
    (p x || r.any (fun m => m.1 && (m.2.after x || !(m.2.sent.isEmpty || x.sent.isEmpty))), x) :: r

/-- The marked accesses of the control stream, from the nth one on, performed whole, in order; the others stay on their
way. -/
def State.performMarked (s : State) : List (Bool × MemOp) → Nat → State
  | [], _ => s
  | (true, _) :: l, n => ((match s.t.c.accs[n]? with | some x => s.performAcc n x.left | none => s)).performMarked l n
  | (false, _) :: l, n => s.performMarked l (n + 1)

/-- The accesses of the control stream of some kind performed whole, with those that they follow. -/
def State.performSome (s : State) (p : MemOp → Bool) : State := s.performMarked (accSet p s.t.c.accs) 0

/-- How many accesses reach up to the last one of some kind. -/
def lastOf (p : MemOp → Bool) : List MemOp → Nat
  | [] => 0
  | op :: l => let n := lastOf p l; if n == 0 then (if p op then 1 else 0) else n + 1

/-- The loads and atomics of the control stream performed, with what they follow (R103: fence.acq): older stores of which
no load has taken bytes stay on their way. -/
def State.drainReads (s : State) : State := s.performSome (fun op => op.dest.isSome || op.seen)

/-- Loads and atomics of the control stream to some bytes performed, with what they follow (R107). -/
def State.drainOver (s : State) (ls : List Loc) : State :=
  s.performSome (fun op => op.dest.isSome && locsMeet op.locs ls)

/-- The byte of a location as the control stream sees it (R107). -/
def State.ownByte (s : State) (l : Loc) : Byte := s.fwdByte s.t.c.accs l

/-- A checked read by the control stream whose value it waits for, as its instruction runs: it sees the thread's own
stores. -/
def State.cload (s : State) (size va : Nat) : Except AccFault Nat × State :=
  match s.check s.ctlAgent .read size va with
  | (.error f, s) => (.error f, s)
  | (.ok ls, s) =>
    let s := (s.drainOver ls).resends s.ctlAgent ls
    let s := s.mapC (fun c => { c with accs := c.accs.map (fun x => { x with seen := x.seen || locsMeet x.locs ls }) })
    let v := earlyValue s.t.c.early s.ownByte ls
    (.ok v, (s.noteRead ls (wholeAccess va ls)).watchLocs s.ctlAgent .read ls v)

/-- An access of the control stream whose checks have passed becomes its youngest one on its way (R200). -/
def Ctrl.issue (c : Ctrl) (kind : MemKind) (va : Nat) (ls : List Loc) : Ctrl :=
  { c with
    accs := c.accs ++ [⟨c.accNo, kind, ls, wholeAccess va ls, List.range ls.length, [], [], 0, c.pc, noLane, false,
      c.relNo, false⟩]
    accNo := c.accNo + 1 }

/-- A checked access of the control stream issued (R198, R200). -/
def State.issue (s : State) (k : Access) (kind : MemKind) (size va : Nat) : Except AccFault Unit × State :=
  match s.check s.ctlAgent k size va with
  | (.error f, s) => (.error f, s)
  | (.ok ls, s) => (.ok (), s.mapC (·.issue kind va ls))

/-- A checked control-stream store: it waits to be performed (R200). -/
def State.cstore (s : State) (size va v : Nat) : Except AccFault Unit × State :=
  s.issue .write (.store (v % 2 ^ (8 * size))) size va

/-! ### Lane-stream accesses on their way (R109, R111, R267, R364) -/

/-- The agent of a lane store on its way. -/
def State.opAgent (s : State) (op : MemOp) : Agent := { s.laneAgent with pc := op.addr, lane := op.lane }

/-- A request's words lie at a location. -/
def AccReq.covers (r : AccReq) (l : Loc) : Bool :=
  match l with
  | .cell _ h => h / 64 == r.line && r.words.any (fun p => p.1 == h % 64 / accWidth r.typ)
  | _ => false

/-- An older racc of the lane stream has sent words to some bytes that are not yet performed: its writes (R99, R145). -/
def State.accHolds (s : State) (seq : Nat) (ls : List Loc) : Bool :=
  s.reqs.any (fun r => r.taskId == s.t.task.id && !r.performed && (match r.racc with | some p => p.1 < seq | none => false)
    && ls.any r.covers)

/-- A lane store may be performed: no older lane store to a common byte, no older element of the same ordered
instruction (R109), no load of an older instruction from its bytes (R107) and no older racc to them (R145) waits. Overlapping stores of
one mstm are performed in the order of its list, though R299 has any (DESIGN CHOICE: log entry 30). -/
def State.laneStoreFree (s : State) (n : Nat) (op : MemOp) : Bool :=
  !s.accHolds op.seq op.locs && !(s.t.l.stores.take n).any (fun x => x.overlaps op
      || (op.inOrder && x.inOrder && x.seq == op.seq && x.lane != op.lane && x.rel == op.rel))
    && !s.t.l.returns.any (fun e => e.seq < op.seq && locsMeet e.src op.locs)

/-- Some bytes of lane store n performed. -/
def State.performLane (s : State) (n : Nat) (is : List Nat) : State :=
  match s.t.l.stores[n]? with
  | none => s
  | some op =>
    let ((op', _), s) := s.perform (s.opAgent op) [] op is
    s.mapL (fun l => { l with stores := if op'.left.isEmpty then l.stores.eraseIdx n else l.stores.set n op' })

/-- An access of the lane stream on its way that is an atomic. -/
def MemOp.rmw (op : MemOp) : Bool := match op.kind with | .amo .. => true | _ => false

/-- An element in flight follows an older access to a common byte, where either is an atomic (R107, R111). -/
def Element.follows (e : Element) (op : MemOp) : Bool :=
  op.seq < e.seq && locsMeet op.locs e.src && (e.amo.isSome || op.rmw)

/-- An element in flight follows an older one from a common byte (R99, R107, R111). -/
def Element.after (e x : Element) : Bool := (x.seq < e.seq || x.amo.isSome) && locsMeet x.src e.src

/-- An element may land: nothing that it follows waits. -/
def State.elementFree (s : State) (n : Nat) (e : Element) : Bool :=
  !s.accHolds e.seq e.src && !(s.t.l.returns.take n).any e.after && !s.t.l.stores.any e.follows

/-- Some access of the lane stream on its way waits for an older racc (R145). -/
def State.accWaits (s : State) : Bool :=
  s.t.l.returns.any (fun e => s.accHolds e.seq e.src) || s.t.l.stores.any (fun op => s.accHolds op.seq op.locs)

/-- A byte of an element in flight as its read gives it: with the lane stream's own older stores before memory (R107). -/
def State.elementByte (s : State) (e : Element) (i : Nat) : Byte :=
  s.fwdByte (s.t.l.stores.filter (fun op => op.seq < e.seq)) (e.src.getD i .void)

/-- The value of an element in flight that is not an atomic: the bytes that it has taken, and those at its source for the
rest. -/
def State.elementValue (s : State) (e : Element) : Nat :=
  natOfBytes ((List.range e.src.length).map (fun i =>
    ((e.got.find? (fun p => p.1 == i)).map (·.2)).getD (s.elementByte e i)))

/-- The access of an element at its home slice (R111, R311, R364): its value. -/
def State.elementAccess (s : State) (e : Element) : Nat × State :=
  let ag := { s.laneAgent with pc := e.addr, lane := e.lane }
  match e.amo with
  | some (op, v, k) => s.homeAmo ag op e.src v k
  | none => (s.elementValue e, s.watchLocs ag .read e.src (s.elementValue e))

/-- The cells that an element of a width takes, columns above it keeping their contents (R12). -/
def State.widthCells (s : State) (a w x : Nat) : List Host.Cell :=
  let n := (w + 7) / 8
  let old := s.rdN a n
  (List.range n).zip (bytesOf n (old / 2 ^ w * 2 ^ w + x % 2 ^ w)) |>.map (fun p => (a + p.1, p.2))

/-- A binary-kind scale as it is used: its low three bits cleared, with the flag where they are not zero (R83). -/
def octaveScale (n : Int) : Int × Nat := (n - n % 8, flagIf (n % 8 != 0) flIV)

/-- What an element of a value writes, and the flags that its read sets (R269). -/
def Element.gives (e : Element) (v : Nat) : Nat × Nat :=
  match e.scale with
  | some true => let x := octaveScale (sextNat 8 v); (wrapInt 8 x.1, x.2)
  | _ => (v, 0)

/-- An element in flight that lands: its access is performed, its columns are written and its valid bit is set (R111,
R267, R364); the watchpoints of the slots written (R311). -/
def State.land (s : State) (e : Element) : State :=
  let (v, s) := s.elementAccess e
  let (x, fl) := e.gives v
  let cells := (e.cell :: e.more).flatMap (fun c => s.widthCells c e.width x)
  let s := (s.store cells).mapL (fun l => { l with xflags := l.xflags ||| BitVec.ofNat 8 fl })
  if s.clusters.isEmpty then s
  else
    let slots := (cells.map (fun p => p.1 % 2 ^ 28 / 2)).eraseDups
    slots.foldl (fun s n => s.watchSlot { s.laneAgent with pc := e.addr, lane := e.lane } (uidOf s.t.site) (n / 32)
      (n % 32)) s

/-- The first lane stores performed whole, in order. -/
def State.performLanes (s : State) : Nat → State
  | 0 => s
  | n + 1 => ((match s.t.l.stores with | op :: _ => s.performLane 0 op.left | [] => s)).performLanes n

/-- An element in flight lands, after the older stores that it follows. -/
def State.landAfter (s : State) (e : Element) : State := (s.performLanes (lastOf e.follows s.t.l.stores)).land e

/-- Every element in flight lands, oldest first. -/
def State.settle (s : State) : State := (s.t.l.returns.foldl State.landAfter s).mapL (fun l => { l with returns := [] })

/-- The elements that satisfy a condition, and those that they follow. -/
def landSet (p : Element → Bool) : List Element → List Element
  | [] => []
  | e :: l => let r := landSet p l; if p e || r.any (fun x => x.after e) then e :: r else r

/-- The elements in flight that satisfy a condition land, with those that they follow; the others stay. -/
def State.settleIf (s : State) (p : Element → Bool) : State :=
  let go := landSet p s.t.l.returns
  if go.any (fun e => s.t.l.stores.any e.follows) then s.settle
  else (go.foldl State.land s).mapL (fun l => { l with returns := l.returns.filter (fun e => !go.contains e) })

/-- Every access of the lane stream performed (R103, R108). -/
def State.drainLane (s : State) : State := s.settle.performLanes s.settle.t.l.stores.length

/-- Lane stores to some bytes performed, with what stands before them. -/
def State.drainLaneOver (s : State) (ls : List Loc) : State :=
  if s.t.l.stores.any (fun op => locsMeet op.locs ls) || s.t.l.returns.any (fun e => locsMeet e.src ls) then
    s.settle.performLanes (lastOf (fun op => locsMeet op.locs ls) s.settle.t.l.stores)
  else s

/-! ### Completion of lane instructions (R19, R108, R145, R267) -/

/-- Accumulate requests of a racc of the task that are not yet performed (R145). -/
def State.accBusy (s : State) : Bool :=
  s.reqs.any (fun r => r.taskId == s.t.task.id && r.racc.isSome && !r.performed)

/-- Accumulate requests of the task, whatever sent them, that are not yet performed (R146, R148). -/
def State.accOpen (s : State) : Bool := s.reqs.any (fun r => r.taskId == s.t.task.id && !r.performed)

/-- A started lane instruction that needs further steps (R46, R295, R146, R142). -/
def Thread.laneBusy (t : Thread) : Bool := !t.l.mm.isEmpty || t.l.flush || !t.r.place.isEmpty

/-- The mmuls in progress put back at the head of the lane queue, the first to go on from its next lane (R61, R295). What
was fixed at their start is kept for them, the presence arrays among it, which are read once (R292); the spec names no
place for it (DESIGN CHOICE: log entry 64). -/
def Thread.stopMmul (t : Thread) : Thread :=
  match t.l.mm with
  | [] => t
  | m :: ms => { t with
    q := { t.q with lane := (m :: ms).map (·.entry) ++ t.q.lane }
    l := { t.l with
      mm := []
      kept := m :: ms
      keptStart := t.l.vstart
      vstart := m.next
      xflags := t.l.xflags ||| BitVec.ofNat 8 ((m :: ms).foldl (fun f m => f ||| m.flags) 0) } }

/-- Every lane instruction has completed (R108, R145, R267); elements and stores in flight count as not. -/
def State.laneIdle (s : State) : Bool :=
  s.t.q.lane.isEmpty && s.t.q.pend.isNone && s.t.l.returns.isEmpty && s.t.l.stores.isEmpty && !s.t.laneBusy && !s.accBusy

/-- The instructions that have left the lane queue and are not complete (R145, R267): push number and address. -/
def State.openInstrs (s : State) : List (Nat × Word) :=
  s.t.l.mm.map (fun m => (m.entry.seq, m.entry.addr))
    ++ s.t.l.returns.map (fun e => (e.seq, e.addr)) ++ s.t.l.stores.map (fun op => (op.seq, op.addr))
    ++ s.t.r.place.map (fun a => (a.seq, a.addr))
    ++ (s.reqs.filter (fun r => r.taskId == s.t.task.id && !r.performed)).filterMap (·.racc)

/-- The cells of the rows of A that the mmuls in progress read (R292, R296), as memory holds them: slots of every lane. -/
def State.inRows (s : State) (slots : List Nat) (a : Nat) : Bool :=
  let base := arrayBase (uidOf s.t.site)
  base ≤ a && a < base + 2 ^ 24 && slots.contains (a % 64 / 2)

/-- The oldest of some instructions by push number. -/
def oldest : List (Nat × Word) → Option (Nat × Word)
  | [] => none
  | p :: l => match oldest l with
    | some q => if q.1 < p.1 then some q else some p
    | none => some p

/-- %vcp (R19, R44, R45, R267): the oldest incomplete lane instruction: one with accesses on their way, else one that
waits to push its result, else the head of the lane queue, else the oldest of the entries that a user trap holds (R216);
at an idle lane stream, the control word. DEDUCED: log entry 12. -/
def State.vcp (s : State) : Word :=
  match oldest s.openInstrs, s.t.q.pend, s.t.q.lane, s.t.q.held with
  | some p, _, _, _ => p.2
  | none, some p, _, _ => p.addr
  | none, none, e :: _, _ => e.addr
  | none, none, [], e :: _ => e.addr
  | none, none, [], [] => s.t.c.pc

/-! ### Vector-state word (R51) -/

/-- R51 of a depth and a vector state. -/
def vstateWord (depth : Nat) (v : VState) : Word :=
  BitVec.ofNat 64 (depth % 32 * 2 ^ 51 + v.vtype.toNat % 2 ^ 27 * 2 ^ 24 + v.vl % 2 ^ 19)

/-- A grant of lanes (R37): the request, at most the owned lanes, whole blocks. -/
def grant (lanes : Nat) (vtype : Word) (req : Nat) : Nat :=
  let g := if req < lanes then req else lanes
  let b := (vtypeFields vtype.toNat).blen
  if b == 0 then g else g - g % b

/-- The vector state that a grant leaves (R37): two-length mode ends. -/
def VState.granted (v : VState) (lanes req : Nat) : VState :=
  { v with vl := grant lanes v.vtype req, vlo := 0, vli := 0 }

/-- R225: a type applied as vcfg applies it. -/
def VState.config (v : VState) (w : Word) : VState :=
  if !vtypeLegal w.toNat then { v with illegal := true }
  else
    let b := (vtypeFields w.toNat).blen
    if v.vlo == 0 then { v with vtype := w, illegal := false, vl := if b == 0 then v.vl else v.vl - v.vl % b }
    else
      let p := v.vl / v.vlo
      if b > p then { v with illegal := true } else { v with vtype := w, illegal := false }

/-- R41: the least power of two at or above n, for n ≥ 1. -/
def ceilPow2 (n : Nat) : Nat := if n ≤ 1 then 1 else 2 ^ (Nat.log2 (n - 1) + 1)

/-- R41: the two-length state of an outer length already bounded and an inner length. -/
def VState.two (v : VState) (outer inner : Nat) : VState :=
  if inner == 0 || outer == 0 then { v with vl := 0, vlo := 0, vli := 0 }
  else { v with vl := outer * ceilPow2 inner, vlo := outer, vli := inner }

/-- The outer length that R41 grants. -/
def twoOuter (lanes outer inner : Nat) : Nat :=
  if inner == 0 then 0 else if outer < lanes / ceilPow2 inner then outer else lanes / ceilPow2 inner

/-- R52: the vector state that a recorded word leaves, with the lanes owned now. -/
def VState.restore (v : VState) (lanes : Nat) (w : Word) : VState :=
  let v1 := { v with vlo := 0, vli := 0 }.config (BitVec.ofNat 64 (wbits w 50 24))
  v1.granted lanes (wbits w 18 0)

/-- R218: as R52, and in two-length mode where the frame's outer length is not zero. -/
def VState.restore2 (v : VState) (lanes : Nat) (w two : Word) : VState :=
  let v1 := v.restore lanes w
  let o := wbits two 18 0
  if o == 0 then v1 else v1.two (twoOuter lanes o (wbits two 50 32)) (wbits two 50 32)

/-! ### The end of a task (R221, R357, R358) -/

/-- R358: a task that is stopped ends as an exit does: queued lane instructions are discarded, one that has started
completes; one whose push waits counts as completed (R444), and nothing takes the push. -/
def Thread.stopTask (t : Thread) : Thread :=
  { t with
    status := .exiting
    preempt := .none
    task := { t.task with ended := true }
    c := { t.c with flush := false }
    q := { t.q with lane := if t.l.flush then t.q.lane.take 1 else [], held := [], pend := none } }

/-- A task of a launch has ended: one that is to be queued again waits for its next binding (R357). -/
def State.launchLeft (s : State) (launch ord : Nat) : State :=
  match s.launch? launch with
  | none => s
  | some l =>
    let l := { l with live := l.live - 1 }
    if l.again.contains ord then
      s.setLaunch { l with
        again := l.again.filter (· != ord)
        todo := if l.shut then l.todo else insertNat ord l.todo }
    else s.setLaunch l

/-- What a task leaves behind when it ends: tokens are no longer outstanding, requests no longer wait for it. -/
def State.forgetTask (s : State) (task : Nat) : State :=
  { s with sched := { s.sched with tokens := s.sched.tokens.filter (fun p => match p.2 with
    | .task id _ => id != task
    | _ => true) } }

/-- A saved thread that has been stopped ends once the copies that it started have completed (R357, R358). -/
def State.endSaved (s : State) (task : Nat) : State :=
  match s.saved.find? (fun x => x.th.task.id == task && x.th.status == .exiting) with
  | none => s
  | some x =>
    if s.copies.any (fun c => c.taskId == task) then s
    else State.launchLeft { s with saved := s.saved.filter (fun y => y.th.task.id != task) } x.th.task.launch x.th.task.ordinal

/-- A task ended under R358, at a fault; its launch carries the trap code in its status. -/
def State.failTask (s : State) (t : Thread) (code : Nat) : State :=
  let s := s.setThread t.stopTask
  match s.launch? t.task.launch with
  | none => s
  | some l => s.setLaunch { l with status := if l.status == (0, 0) then (code, 0) else l.status }

/-- R357: what a task's TC_FEATURE_ABSENT on a bit does to its launch and to the tasks of its bound group. -/
def State.featureAbsent (s : State) (bit : Nat) : State :=
  let me := s.t
  let s := { s with t := s.t.stopTask }
  match s.launch? me.task.launch with
  | none => s
  | some l =>
    let l := { l with mask := l.mask ||| 2 ^ bit }
    if l.restartable && (s.partDies (s.ctxPart me.task.ctx)).any (fun d => s.dieHas d l.mask) then
      let same := fun (t : Thread) => t.task.launch == l.id && l.together me.task.ordinal t.task.ordinal
      let mine := fun (t : Thread) => same t && t.status != .free
      let bound := s.threads.filter mine
      let away := (s.saved.filter (fun x => same x.th)).map (·.th)
      let s := s.setLaunch { l with
        again := l.again ++ (bound ++ away).map (·.task.ordinal)
        targets := [] }
      let s := bound.foldl (fun s t => s.forgetTask t.task.id) s
      let s := { s with
        others := s.others.map (fun t => if mine t then t.stopTask else t)
        saved := s.saved.map (fun x => if same x.th then { x with th := x.th.stopTask } else x) }
      away.foldl (fun s t => s.endSaved t.task.id) s
    else s.setLaunch { l with status := (Cause.featureAbsent.code, 0), shut := true, todo := [], targets := [] }

/-! ### Taking a trap (R215 to R217, R400 to R402) -/

/-- A trap as it is raised. -/
structure Trap where
  cause : Cause
  /-- Bits 63:16 of the cause word (R217). -/
  detail : Nat
  reason : Nat
  stream : Nat
  va : Nat
  access : Nat
  /-- Detail of R435; 0 where the cause is no data error. -/
  dataErr : Nat
  /-- The %feat bit of R357. -/
  feat : Nat
  lane : Option Nat
  /-- Raised by the lane stream. -/
  laneSide : Bool
deriving DecidableEq, Repr

/-- A trap of the control stream with nothing but its cause. -/
def Trap.of (c : Cause) : Trap := ⟨c, 0, 0, 0, 0, 0, 0, 0, none, false⟩
/-- A trap of the lane stream with nothing but its cause. -/
def Trap.lane' (c : Cause) : Trap := { Trap.of c with laneSide := true }
/-- The trap of a refused access. -/
def AccFault.trap (f : AccFault) (laneSide : Bool) (lane : Option Nat) : Trap :=
  { Trap.of f.cause with va := f.va, access := f.access, dataErr := f.detail, lane := lane, laneSide := laneSide }

/-- What a fetch meets in the word at an address (R435, R437). -/
def State.fetchMeets (s : State) (tr : Trap) (a : Word) : Option Trap × State :=
  match s.meet ((List.range 8).map (a.toNat + ·)) with
  | (some (_, d), s) => (some { tr with dataErr := d }, s)
  | (none, s) => (none, s)

/-- The frame of a word fetched is assigned to another context (R428), or the word has an uncorrectable error (R435); what
the fetch meets is counted (R437). -/
def State.fetchError (s : State) (a : Word) : Option Trap × State :=
  let tr := { Trap.of .memPermission with va := a.toNat, access := 1 }
  match s.ownerOf 0 (a.toNat / 2 ^ 21) with
  | some c => if c == s.t.task.ctx then s.fetchMeets tr a else (some tr, s)
  | none => s.fetchMeets tr a

/-- The cause word (R217). -/
def Trap.word (t : Trap) : Nat :=
  t.detail % 2 ^ 48 * 2 ^ 16 + t.stream % 8 * 2 ^ 13 + t.reason % 32 * 2 ^ 8 + t.cause.code

/-- The causes that may go to the user vector (R216). -/
def Cause.user : Cause → Bool
  | .arith | .brk | .watch | .stepEnd | .fibreMalformed => true
  | _ => false

/-- A fault-queue record (R400): its eight words. -/
def faultWords (ts src ctx code kind access detail va pc vcp lane vstart wid token : Nat) : FaultRec :=
  ⟨#v[BitVec.ofNat 64 ts,
    BitVec.ofNat 64 (src + ctx * 2 ^ 16 + code * 2 ^ 32 + kind * 2 ^ 40 + access * 2 ^ 48 + detail * 2 ^ 56),
    BitVec.ofNat 64 va, BitVec.ofNat 64 pc, BitVec.ofNat 64 vcp, BitVec.ofNat 64 (lane % 2 ^ 32 + vstart * 2 ^ 32),
    BitVec.ofNat 64 wid, BitVec.ofNat 64 token]⟩

/-- A record made ready for the ring (R401). -/
def State.addFault (s : State) (r : FaultRec) : State :=
  { s with host := { s.host with fqWait := s.host.fqWait ++ [r] } }

/-- A fresh replay token and what it stands for (R403). -/
def State.newToken (s : State) (f : TokenFor) : Nat × State :=
  (s.sched.nextToken, { s with sched := { s.sched with
    nextToken := s.sched.nextToken + 1, tokens := s.sched.tokens ++ [(s.sched.nextToken, f)] } })

/-- R431: debug is locked for a context. -/
def State.locked (s : State) (ctx : Nat) : Bool := (s.ctxD ctx).conf && !(s.ctxD ctx).unlocked

/-- A record that no thread's trap makes (R400, R431): no pc, %vcp, lane or %vstart. -/
def State.deviceRecord (s : State) (src ctx code kind access detail va wid token : Nat) : FaultRec :=
  if s.locked ctx then faultWords s.gts src ctx code kind access 0 (va / 4096 * 4096) 0 0 0 0 0 token
  else faultWords s.gts src ctx code kind access detail va 0 0 0xFFFFFFFF 0 wid token

/-- The device reads some ranges of bytes for itself, for a context: whether it meets an uncorrectable error. That is
counted and recorded, kind 5 with token 0 as for a copy, since R435 has no bad data delivered and names no agent for these
reads (DEDUCED: log entry 62). -/
def State.selfRead (s : State) (ctx : Nat) (ranges : List (Nat × Nat)) : Bool × State :=
  if s.fleet.errors.isEmpty then (false, s)
  else match s.meet (ranges.flatMap (fun p => (List.range p.2).map (p.1 + ·))) with
    | (none, s) => (false, s)
    | (some (a, d), s) =>
      let (n, s) := s.free
      (true, s.addFault (s.deviceRecord (n % 65536) ctx Cause.memPermission.code 5 1 d a 0 0))

/-- The record of a trap of the thread in focus (R400, R431), kind 0, or 5 for a data error. -/
def State.trapRecord (s : State) (tr : Trap) (token : Nat) : FaultRec :=
  let t := s.t
  let hide := s.locked t.task.ctx
  let z := fun n => if hide then 0 else n
  let detail := if tr.dataErr != 0 then tr.dataErr
    else if tr.cause == .featureAbsent then tr.feat else if tr.cause == .fibreMalformed then tr.reason else 0
  faultWords s.gts (if tr.laneSide then t.site + 4 else t.site) t.task.ctx tr.cause.code
    (if tr.dataErr != 0 then 5 else 0) tr.access (if hide && tr.cause != .featureAbsent then 0 else detail)
    (if hide then tr.va / 4096 * 4096 else tr.va) (z t.c.pc.toNat) (z s.vcp.toNat)
    (z (tr.lane.getD 0xFFFFFFFF)) (z t.l.vstart) (z t.task.wid.toNat) token

/-- R168: an address at which a fetch is allowed. -/
def Ctx.fetchable (c : Ctx) (a : Word) : Bool :=
  a.toNat % 8 == 0 && c.codebase.toNat ≤ a.toNat && a.toNat < c.codebound.toNat

/-- The checks of four words from an address for writing: where they lie. -/
def State.checkWords (s : State) (k : Access) (va : Nat) : Nat → Except AccFault (List (List Loc)) × State
  | 0 => (.ok [], s)
  | n + 1 =>
    match s.check s.ctlAgent k 8 va with
    | (.error f, s) => (.error f, s)
    | (.ok ls, s) =>
      match s.checkWords k ((va + 8) % 2 ^ 64) n with
      | (.ok r, s) => (.ok (ls :: r), s)
      | (.error f, s) => (.error f, s)

/-- A thread that goes on after a trap delivered to it. A lane trap of an exiting thread that goes to the user vector
makes the thread run its handler: R216 delivers, R221 says that the control stream issues nothing more; the model
follows R216. DESIGN CHOICE: log entry 22. -/
def Thread.unblock (t : Thread) : Thread :=
  match t.status with
  | .blocked _ => { t with status := .running }
  | .frozen (some _) => { t with status := .frozen none }
  | .exiting => { t with status := .running }
  | _ => t

/-- The accesses of the control stream performed up to the last one that loads a register. -/
def State.drainFor (s : State) (r : SReg) : State :=
  s.performSome (fun op => op.dest == some r.val)

/-- Stores of words whose checks have passed become the youngest accesses of the control stream (R200). -/
def Ctrl.issueWords (c : Ctrl) : Nat → List (List Loc) → List Nat → Ctrl
  | va, ls :: l, v :: vs => (c.issue (.store v) va ls).issueWords (va + 8) l vs
  | _, _, _ => c

/-- Delivery to the user vector (R216, R217): none where it must go to the fault queue. The held entries have not run, so
the control copies of the mask-stack depth and of the matrix configuration take the lane stream's values, against which
the handler's instructions are checked (R53, R290; DEDUCED: log entry 22). -/
def State.trapUser (s : State) (tr : Trap) : Option State :=
  let s := s.drainFor spReg
  let c := s.t.c
  let sp := c.reg spReg
  if !tr.cause.user || s.t.task.ended || c.tvec == 0 || tr.dataErr != 0 || sp.toNat % 16 != 0 || !s.t.q.held.isEmpty
      || nestSus c.nestcfg || !s.ctxT.fetchable c.tvec then none
  else
    let a := sp - 32
    match s.checkWords .write a.toNat 4 with
    | (.error _, _) => none
    | (.ok locs, s) =>
      let lv := s.t.l.v
      let frame : List Nat := [c.pc.toNat, tr.word, lv.vli * 2 ^ 32 + lv.vlo, (vstateWord s.t.l.depth lv).toNat]
      let s := s.mapC (·.issueWords a.toNat locs frame)
      let s := s.setReg spReg a
      let s := s.mapQ (fun q => { q with held := q.lane, lane := [] })
      let s := s.mapC (fun c => { c with
        trapV := (a, c.v) :: c.trapV
        depth := s.t.l.depth
        mcfg := s.t.l.mcfg
        nestcfg := if nestAct c.nestcfg then (c.nestcfg &&& ~~~(1#64 <<< 63)) ||| (1#64 <<< 49) else c.nestcfg
        flush := false
        popWord := none
        launchRec := none
        pc := c.tvec })
      some (s.mapT Thread.unblock)

/-- Delivery to the driver's fault queue (R400, R402): the thread is faulted, but for TC_STEP, whose thread stays
frozen (R315), and TC_FEATURE_ABSENT, whose task ends (R357). -/
def State.trapDriver (s : State) (tr : Trap) : State :=
  if tr.cause == .stepEnd then s.addFault (s.trapRecord tr 0)
  else if tr.cause == .featureAbsent then (s.addFault (s.trapRecord tr 0)).featureAbsent tr.feat
  else
    let (token, s) := s.newToken (.task s.t.task.id tr.cause.code)
    let s := s.addFault (s.trapRecord tr token)
    s.mapT (fun t => { t with status := .faulted token })

/-- A trap met during the drain: nothing later starts (R407). -/
def Preempt.stop : Preempt → Preempt
  | .soft => .stopped Option.none
  | .evict w r => .stopped (some (w, r))
  | p => p

/-- TAKING A TRAP of the thread in focus (R216, R402). Every started lane instruction completes first: its accesses are
performed, and while one needs further steps, or its accumulate requests are not performed, the trap waits. A trap met during the drain of a pre-emption is neither delivered nor
recorded (R407): the instruction and every later one become held entries. The trace record shows the address of the
instruction (R317), that of a brk too, whose trap resumes at the next word (R219). -/
def State.trap (s : State) (tr : Trap) : State :=
  if s.t.status == .preempting then s.mapT (fun t => { t with preempt := t.preempt.stop })
  else if s.t.laneBusy || s.accBusy then s
  else
    let s := s.drainLane.mapT Thread.noEarly
    let lane := tr.lane.getD 0xFFFFFFFF
    let s := if tr.laneSide then s.trace s.t (s.t.site + 4) 7 lane s.t.q.headAddr s.t.l.done tr.word 0 0
      else s.trace s.t s.t.site 7 lane (if tr.cause == .brk then s.t.c.pc - 8 else s.t.c.pc) s.t.c.committed tr.word 0 0
    match s.trapUser tr with
    | some s => s
    | none => s.trapDriver tr

/-- The entry of a trap as an outcome. -/
def State.raise (s : State) (tr : Trap) : Res := .next (s.trap tr)

/-- The control copies that a return from a trap restores, and what is left of the kept ones (R218): those of the trap
whose frame stands at its address; of the last one, where a handler has moved the frame; with none kept, those of task
start, of which R218 says nothing (DESIGN CHOICE: log entry 59). -/
def Ctrl.trapCopies (c : Ctrl) (frame : Word) : VState × List (Word × VState) :=
  match c.trapV.dropWhile (fun p => p.1 != frame), c.trapV with
  | p :: l, _ => (p.2, l)
  | [], p :: l => (p.2, l)
  | [], [] => (.start, [])

/-- THE RETURN FROM A TRAP (R218), once its frame has been read and its depth checked: the registers it restores. The
vector state is applied in the lane stream; the held entries are re-issued after it. The control copies take their
values at the trap returned from. -/
def State.trapReturn (s : State) (resume two vst : Word) : State :=
  let sp := s.reg spReg
  let s := s.setReg spReg (sp + 32)
  let s := s.pushPart .tret vst two (BitVec.ofNat 64 s.t.alloc.lanes)
  let held := s.t.q.held
  let s := s.mapQ (fun q => { q with lane := q.lane ++ held, held := [] })
  let s := s.mapC (fun c => held.foldl Ctrl.reissue { c with depth := vstateDepth vst })
  s.mapC (fun c => { c with
    v := (c.trapCopies sp).1
    trapV := (c.trapCopies sp).2
    nestcfg := if nestSus c.nestcfg then (c.nestcfg &&& ~~~(1#64 <<< 49)) ||| (1#64 <<< 63) else c.nestcfg
    pc := resume
    committed := c.committed + 1 })

end Sys2Proof.Machine
end

