-- ==== Sys2Proof/Machine/Passes.lean ====
section
/-! DEFINITION. The passes of the built-in routines (R131), as the pass trace shows them (R318). -/

namespace Sys2Proof.Machine

/-- Passes of a routine: a number that it always takes, at most a number, or a number that R131 does not state. -/
inductive Passes where
  | just (n : Nat)
  | upTo (n : Nat)
  | unstated
deriving DecidableEq, Repr

/-- More passes of the same routine. -/
def Passes.plus (p : Passes) (n : Nat) : Passes :=
  match p with
  | .just k => if n == 0 then .just k else .upTo (k + n)
  | .upTo k => .upTo (k + n)
  | .unstated => .unstated

/-- The group of a vector operand is a slot group given by its base. -/
def isAt (b : BSrc) (v : VReg) : Bool := b == .vec v

/-- Passes of an in-place operation, and of one on three distinct groups. -/
def inPlace (d a : VReg) (b : BSrc) (n more : Nat) : Passes := .upTo (if d == a || isAt b d then n else n + more)

/-- Passes of a comparison popcount per value of the exponent (R131). -/
def floatRounds (vt : VType) : Nat := 2 ^ vt.fe * (vt.fm + 2)

/-- The passes of a conversion from a type u (R131, R248); those of an integer to L8 or L16 are stated nowhere. -/
def cvtPasses (vt u : VType) : Passes :=
  let w := max vt.ew u.ew
  if u.kind == vt.kind && u.ew == vt.ew && u.fe == vt.fe && u.fm == vt.fm && u.fin == vt.fin then .upTo (2 * w)
  else if vt.kind == 3 then
    if u.kind == 3 then .upTo (4 * w + 8)
    else if u.kind == 2 then .upTo (2 * u.fe + 2 * 2 ^ min u.fm (if vt.ew == 8 then 4 else 9) + 8)
    else .unstated
  else if u.kind == 3 then .upTo (4 * w + 2 * 2 ^ (if u.ew == 8 then 3 else 8) + 8)
  else .upTo (4 * w + 8)

/-- The passes of each class of R131, R223 and R244, without those of the x modifier and of saturation; none of what the
matrix engine or the row port alone does (R287, R298). A table that gives one number gives a maximum (R131). -/
def passesOf (vt : VType) : Instr → Passes
  | .vadd _ d a b => inPlace d a b (4 * vt.ew + 1) (2 * vt.ew)
  | .vsub _ d a b => if d == a then .upTo (4 * vt.ew + 1) else .upTo ((if isAt b d then 7 else 6) * vt.ew + 1)
  | .vmov _ _ b => .upTo (match b with | .vec _ => 2 * vt.ew | _ => vt.ew)
  | .vcfg _ | .setvl2 .. => .just 0
  | .vand _ d a b | .vor _ d a b | .vandn _ d a b => inPlace d a b vt.ew (2 * vt.ew)
  | .vxor _ d a b | .vxnor _ d a b => inPlace d a b (3 * vt.ew) (2 * vt.ew)
  | .vlut3 _ _ _ _ _ t => let n := popc 8 t.toNat; .upTo (vt.ew * (1 + min n (8 - n)))
  | .vsll _ _ _ n | .vsrl _ _ _ n | .vsra _ _ _ n => match n with
    | .imm _ => .upTo (2 * vt.ew)
    | .b (.vec _) => .upTo (max 1 (Nat.log2 (2 * vt.ew - 1)) * (2 * vt.ew + 1))
    | .b _ => .upTo (2 * vt.ew)
  | .vfsl .. | .vfsr .. => .upTo (4 * vt.ew)
  | .vcmp .. => .upTo (2 * vt.ew + 1)
  | .vfcmp .. => .upTo (2 * vt.ew + 5)
  | .vmin .. | .vmax .. => .upTo (4 * vt.ew + 1)
  | .vfmin .. | .vfmax .. => .upTo (4 * vt.ew + 7)
  | .vneg .. => .upTo (6 * vt.ew + 1)
  | .vabs .. => .upTo (8 * vt.ew + 3)
  | .vnot _ d a => .upTo (if d == a then 3 * vt.ew else 2 * vt.ew)
  | .vsel .. => .upTo (2 * vt.ew)
  | .vmul .. => .upTo (4 * vt.ew * vt.ew + vt.ew)
  | .vmulh .. => .upTo (8 * vt.ew * vt.ew + 2 * vt.ew)
  | .vdiv .. | .vrem .. => .upTo (vt.ew * (4 * vt.ew + 4) + 2)
  | .vid .. => .upTo (min vt.ew 18)
  | .mand .. | .mor .. | .mxor .. | .mandn .. | .mnot .. | .mmov .. => .upTo 3
  | .mpush _ => .upTo 1
  | .minv => .upTo 3
  | .mpop => .just 0
  | .bmz _ | .bmnz _ => .just 1
  | .mpopc _ d _ => .just (match d with | .vec _ => 0 | _ => 1)
  | .vrsum .. => if vt.kind < 2 then .upTo vt.ew else .upTo (floatRounds vt)
  | .vrmin .. | .vrmax .. | .vkth .. => .upTo vt.ew
  | .vtopk .. => .upTo (vt.ew + 19)
  | .vtopp .. => .upTo (if vt.kind == 2 then vt.ew * (1 + floatRounds vt)
    else if vt.kind == 3 then vt.ew * (2 * vt.ew + 3) else vt.ew * (vt.ew + 1))
  | .vfadd .. | .vfsub .. => .upTo (2 * vt.fe * (vt.fm + 3) + 10 * vt.fm + 24)
  | .vfmul .. => .upTo (4 * (vt.fm + 1) * (vt.fm + 1) + 6 * vt.fe + 12)
  | .vfdiv .. | .vfsqrt .. => .upTo ((vt.fm + 2) * (4 * (vt.fe + vt.fm) + 8))
  | .vcvt _ _ _ t => cvtPasses vt (vtypeFields t.toNat)
  | .vcvtLg _ _ _ t => .upTo (4 * max vt.ew (vtypeFields t.toNat).ew + 16)
  | .vscatl .. => .upTo (4 * (vt.fm + 1) * (vt.fm + 1) + 2 * vt.fe * (vt.fm + 3) + 6 * vt.fe + 10 * vt.fm + 36)
  | .vtab _ _ _ _ n => .upTo (2 * 2 ^ n.val)
  | .vrand .. => .upTo 6464
  | .vfirst0 .. | .vmload .. | .vslideup .. | .vslidedn .. | .vlscat .. | .vscanadd .. | .vscanand .. | .vpick .. | .vld .. | .vst .. | .vstFree ..
  | .vlds .. | .vsts .. | .tld .. | .tst .. | .vgather .. | .vscatter .. | .vamo .. | .vred .. | .racc .. | .mmul ..
  | .zldC .. | .zldP .. | .zldCK .. | .zldPK .. | .zldM .. | .mcfg .. | .mst .. | .mstm .. | .mzero .. | .mlive .. =>
    .just 0
  | _ => .unstated

/-- The exception mask of an instruction (R72). -/
def exceptionMask : Instr → Nat
  | .vadd m .. | .vsub m .. | .vmul m .. | .vmulh m .. | .vdiv m .. | .vrem m .. | .vmin m .. | .vmax m ..
  | .vneg m .. | .vabs m .. | .vsll m .. | .vsrl m .. | .vsra m .. | .vfadd m .. | .vfsub m .. | .vfmul m ..
  | .vfdiv m .. | .vfsqrt m .. | .vfmin m .. | .vfmax m .. | .vfcmp m .. | .vcvt m .. | .vcvtLg m .. | .racc m .. =>
    m.x.val
  | _ => 0

/-- An integer instruction that can overflow (R131), or whose flags include SV (R223, R244). -/
def canOverflow : Instr → Bool
  | .vadd .. | .vsub .. | .vmul .. | .vdiv .. | .vrem .. | .vneg .. | .vabs .. | .vsll .. | .vrsum .. | .vscanadd .. =>
    true
  | _ => false

/-- The passes of an instruction (R131): the x modifier adds 2, saturation 2w + 2. -/
def VType.passes (vt : VType) (i : Instr) : Passes :=
  ((passesOf vt i).plus (if exceptionMask i == 0 then 0 else 2)).plus
    (if vt.sat && canOverflow i && vt.kind < 2 then 2 * vt.ew + 2 else 0)

end Sys2Proof.Machine
end

