-- ==== Sys2Proof/Machine/Operands.lean ====
section
/-! DEFINITION. Operand forms of lane instructions: thread lanes and unit lanes (R7), elements, slots and groups (R11
to R13), mask columns and the mask stack (R14, R15), the active set (R8, R117), segments (R42), block scales (R83,
R84), scalar and queue operands (R172), writing results, the exception mask and the flags (R72), the completion of a
lane instruction (R19, R317, R322), and the checks made at decode (R27, R184). -/

namespace Sys2Proof.Machine

/-! ### Lanes (R7, R8, R41, R42) -/

/-- Unit lane of a thread lane (R7). -/
def Alloc.unitLane (a : Alloc) (l : Nat) : Nat := 16384 * a.quadList.getD (l / 16384) 0 + l % 16384

def State.uid (s : State) : Nat := uidOf s.t.site
def State.unitLane (s : State) (l : Nat) : Nat := s.t.alloc.unitLane l
def State.lanes (s : State) : Nat := s.t.alloc.lanes

/-- The element type of the lane stream (R22). -/
def State.vt (s : State) : VType := vtypeFields s.t.l.v.vtype.toNat

/-- The stride P of inner segments (R41); 0 outside two-length mode. -/
def VState.stride (v : VState) : Nat := if v.vlo == 0 then 0 else ceilPow2 v.vli

/-- R8, R14, R40, R41: lane l is below VL. -/
def VState.below (v : VState) (lanes l : Nat) : Bool :=
  decide (l < v.vl) && decide (l < lanes) && (v.vlo == 0 || decide (l % v.stride < v.vli))

/-- The lanes that the head of the lane queue acts on at most: those owned, ever since its push (R40). -/
def State.ownLanes (s : State) : Nat := match s.t.q.lane with | e :: _ => min e.lanes s.lanes | [] => s.lanes

def State.below (s : State) (l : Nat) : Bool := s.t.l.v.below s.ownLanes l

/-- The lanes below VL, ascending. -/
def State.belowLanes (s : State) : List Nat := (List.range s.t.l.v.vl).filter s.below

/-- Inner and outer index of a lane (R227). -/
def VState.inner (v : VState) (l : Nat) : Nat := if v.vlo == 0 then l else l % v.stride
def VState.outer (v : VState) (l : Nat) : Nat := if v.vlo == 0 then 0 else l / v.stride

/-- First lane and length of the segments an instruction acts on (R42, R237). -/
def VState.segments (v : VState) (inn : Bool) : List (Nat × Nat) :=
  if inn && v.vlo != 0 then (List.range v.vlo).map (fun o => (o * v.stride, v.vli)) else [(0, v.vl)]

/-- First lane and length of the segment of a lane. -/
def VState.segment (v : VState) (inn : Bool) (l : Nat) : Nat × Nat :=
  if inn && v.vlo != 0 then (v.outer l * v.stride, v.vli) else (0, v.vl)

/-! ### Mask columns and the mask stack (R14, R15, R53) -/

/-- Key of the columns of a unit lane. -/
def colKey (uid ul : Nat) : Nat := uid * 262144 + ul

/-- The mask columns of a thread lane. -/
def State.colWord (s : State) (l : Nat) : Word := cellGet 0 s.cols (colKey s.uid (s.unitLane l))

/-- A mask register's bit in a lane; m0 is "below VL" (R14). -/
def State.mask (s : State) (m : MReg) (l : Nat) : Bool :=
  if m = 0 then s.below l else (s.colWord l).getLsbD m.val

/-- Entry i of the mask stack in a lane. -/
def State.stackBit (s : State) (i l : Nat) : Bool := (s.colWord l).getLsbD (32 + i)

/-- The mask-stack top in a lane; all ones at depth 0 (R15). -/
def State.top (s : State) (l : Nat) : Bool := s.t.l.depth == 0 || s.stackBit (s.t.l.depth - 1) l

/-- The guard of R171 in a lane. -/
def State.guard (s : State) (g : Guard) (l : Nat) : Bool := g.reg == 0 || (s.mask g.reg l != g.inv)

/-- R117. -/
def State.active (s : State) (g : Guard) (l : Nat) : Bool :=
  s.below l && decide (s.t.l.vstart ≤ l) && s.guard g l && s.top l

/-- The active lanes, ascending. -/
def State.actives (s : State) (g : Guard) : List Nat := (List.range s.t.l.v.vl).filter (s.active g)

/-- No guard. -/
def noGuard : Guard := ⟨0, false⟩

/-- A guard without exception mask. -/
def plainGuard (g : Guard) : GuardX := ⟨g, 0⟩

/-- A bit of a word set or cleared. -/
def putBit (w : Word) (i : Nat) (b : Bool) : Word :=
  if b then w ||| (1#64 <<< i) else w &&& ~~~(1#64 <<< i)

/-- A column bit of a unit lane written; a mask column that a saved thread gave up there moves to its image (R406). -/
def State.setColAt (s : State) (uid ul i : Nat) (b : Bool) : State :=
  let s := if (s.saved.isEmpty && s.away.isEmpty) || 32 ≤ i then s else s.evictUnit 1 uid (ul / 16384) i
  let k := colKey uid ul
  { s with cols := cellSet 0 s.cols k (putBit (cellGet 0 s.cols k) i b) }

def State.setCol (s : State) (i l : Nat) (b : Bool) : State := s.setColAt s.uid (s.unitLane l) i b

/-- Bits of column i written in some lanes. -/
def State.setCols (s : State) (i : Nat) (l : List (Nat × Bool)) : State :=
  l.foldl (fun s p => s.setCol i p.1 p.2) s

/-! ### Elements, groups and block scales (R11, R12, R83, R84) -/

/-- First cell of slot v of a thread lane (R13). -/
def State.slotCell (s : State) (v l : Nat) : Nat := arrayBase s.uid + 64 * s.unitLane l + 2 * v

/-- The element of width w of the group at v in a lane (R12). -/
def State.elem (s : State) (w v l : Nat) : Nat := s.rdN (s.slotCell v l) ((w + 7) / 8) % 2 ^ w

/-- The cells that an element written to a group takes: columns above w keep their contents (R12). -/
def State.elemCells (s : State) (w v l x : Nat) : List Host.Cell :=
  let n := (w + 7) / 8
  let a := s.slotCell v l
  let old := s.rdN a n
  (List.range n).zip (bytesOf n (old / 2 ^ w * 2 ^ w + x % 2 ^ w)) |>.map (fun p => (a + p.1, p.2))

/-- The first lane of the block of a lane (R83). -/
def VState.blockFirst (v : VState) (b l : Nat) : Nat :=
  let i := v.inner l
  l - i % b

/-- Whether a type has block scales in its registers (R84). -/
def VType.scaled (v : VType) : Bool := v.blk != 0

/-- First cell of the scale byte of a group (R84). -/
def State.scaleCell (s : State) (vt : VType) (v l : Nat) : Nat :=
  if vt.kind == 3 then s.slotCell v l + 1 else s.slotCell (v + groupOf vt.ew) l

/-- A scale as an instruction uses it (R83): its value and the flag of a binary scale that is no whole octave. R232,
R233 and R235 say that their instructions set no flag; where they read such a scale the model follows R83, sets IV and
uses the scale with the three bits cleared (DESIGN CHOICE: log entry 59). -/
def useScale (vt : VType) (x : Nat) : Int × Nat :=
  let n := sextNat 8 x
  if vt.kind == 3 then (n, 0) else octaveScale n

/-- The block scale of a lane's element: 0 where the type has none (R83, R84). -/
def State.scale (s : State) (vt : VType) (v l : Nat) : Int × Nat :=
  if vt.scaled then useScale vt (s.rd (s.scaleCell vt v (s.t.l.v.blockFirst vt.blen l))).toNat else (0, 0)

/-- What a lane receives: element bits, scale of a scaled type, flags. -/
structure LaneVal where
  lane : Nat
  val : Nat
  scale : Int
  fl : Nat
deriving DecidableEq, Repr

/-- The cells of a lane's result in a group of a type (R12, R84). -/
def State.valCells (s : State) (vt : VType) (v : Nat) (x : LaneVal) : List Host.Cell :=
  s.elemCells vt.ew v x.lane x.val
    ++ (if vt.scaled then [(s.scaleCell vt v x.lane, BitVec.ofInt 8 x.scale)] else [])

/-- The register-slot watchpoints of the slots written in some lanes (R311); the lane field of a record of a hit is
0xFFFFFFFF, for the instruction accesses no memory and R317 does not say (DESIGN CHOICE: log entry 61). -/
def State.watchSlots (s : State) (lanes : List Nat) (slots : List Nat) : State :=
  if s.clusters.isEmpty then s
  else lanes.foldl (fun s l => slots.foldl (fun s v => s.watchSlot s.laneAgent s.uid (s.unitLane l) v) s) s

/-- The slots that a result of a type occupies. -/
def VType.slots (vt : VType) (v : Nat) : List Nat :=
  (List.range groupOf' |>.map (v + ·)) ++ (if vt.kind == 2 && vt.scaled then [v + groupOf vt.ew] else [])
where groupOf' := (vt.ew + 15) / 16

/-- Results written to a group (R12, R84, R222): every operand has been read before. -/
def State.writeLanes (s : State) (vt : VType) (v : Nat) (xs : List LaneVal) : State :=
  (s.store (xs.flatMap (s.valCells vt v))).watchSlots (xs.map (·.lane)) (vt.slots v)

/-- The union of the flags of some lanes (R72). -/
def flagsOf (xs : List LaneVal) : Nat := xs.foldl (fun f x => f ||| x.fl) 0

/-! ### Scalar and queue operands (R30, R172) -/

/-- The value of scalar operand a, b or c: as read at push, from the entry at the head of the lane queue. -/
def State.opA (s : State) (r : SReg) : Word := match s.t.q.lane with | e :: _ => e.a | [] => s.reg r
def State.opB (s : State) (r : SReg) : Word := match s.t.q.lane with | e :: _ => e.b | [] => s.reg r
def State.opC (s : State) (r : SReg) : Word := match s.t.q.lane with | e :: _ => e.c | [] => s.reg r

/-- Operand b once known: a vector group, or a scalar value V. -/
inductive BVal where
  | lanes (v : Nat)
  | scalar (w : Word)
deriving DecidableEq, Repr

/-- The head entry holding a popped value (R172). -/
def LaneEntry.hold (e : LaneEntry) (w : Word) : LaneEntry := { e with b := w, bPopped := true }

/-- A queue operand popped when the instruction starts; a value that the entry holds is used and nothing is popped
(R172). An empty queue: none. -/
def State.popOperand (s : State) (k : Nat) : Option (Word × State) :=
  match s.t.q.lane with
  | e :: l =>
    if e.bPopped then some (e.b, s)
    else match s.t.q.get k with
      | [] => none
      | w :: r => some (w, s.mapQ (fun q => { q.set k r with lane := e.hold w :: l }))
  | [] => match s.t.q.get k with
    | [] => none
    | w :: r => some (w, s.mapQ (fun q => q.set k r))

/-- Operand b and the state that has read it (R172); none where its queue is empty. -/
def State.operandB (s : State) (b : BSrc) : Option (BVal × State) :=
  match b with
  | .vec v => some (.lanes v.val, s)
  | .scalar r => some (.scalar (s.opB r), s)
  | .q0 => (s.popOperand 0).map (fun p => (.scalar p.1, p.2))
  | .q1 => (s.popOperand 1).map (fun p => (.scalar p.1, p.2))

/-- A required scalar operand and the state that has read it (R243). -/
def State.operandS (s : State) (b : SQSrc) : Option (Word × State) :=
  match b with
  | .scalar r => some (s.opB r, s)
  | .q0 => s.popOperand 0
  | .q1 => s.popOperand 1

/-- Operand b; an empty queue stalls the lane stream, which waits (R18). -/
def State.withB (s : State) (b : BSrc) (k : BVal → State → Res) : Res :=
  match s.operandB b with
  | some (v, s) => k v s
  | none => .next s

/-- A required scalar operand, or the wait. -/
def State.withSQ (s : State) (b : SQSrc) (k : Word → State → Res) : Res :=
  match s.operandS b with
  | some (w, s) => k w s
  | none => .next s

/-- The element that every lane receives from V (R172). -/
def scalarElem (vt : VType) (w : Word) : Nat :=
  if vt.ew ≤ 64 then w.toNat % 2 ^ vt.ew
  else if vt.kind == 0 then wrapInt vt.ew w.toInt else w.toNat

/-- The scale that every block takes from V (R172). -/
def scalarScale (vt : VType) (w : Word) : Int :=
  if vt.kind == 3 && vt.scaled then sextNat 8 (w.toNat / 256) else 0

/-- Operand b of a lane. -/
def State.bElem (s : State) (vt : VType) (b : BVal) (l : Nat) : Nat :=
  match b with
  | .lanes v => s.elem vt.ew v l
  | .scalar w => scalarElem vt w

/-- Scale of operand b of a lane. -/
def State.bScale (s : State) (vt : VType) (b : BVal) (l : Nat) : Int × Nat :=
  match b with
  | .lanes v => s.scale vt v l
  | .scalar w => (scalarScale vt w, 0)

/-! ### Row-port reads (R91, R131, R365) -/

/-- The row-port read of a lane's data row: where its stored bits are in error, the access of the lane stops precisely, as a
read of the row view at the row's address would (R130, R435; DEDUCED: log entry 62). -/
def State.readRow (s : State) (l : Nat) : Except AccFault Unit × State :=
  let a := arrayBase s.uid + 64 * s.unitLane l
  s.errorCheck .read (0x00FFFF0000000000 + 64 * s.unitLane l) ((List.range 64).map (fun i => .cell (a + i) (a + i)))

/-- What an access of a lane does once the row port has read its row. -/
def State.onRow (s : State) (l : Nat) (k : State → Except AccFault Unit × State) : Except AccFault Unit × State :=
  match s.readRow l with
  | (.error f, s) => (.error f, s)
  | (.ok (), s) => k s

/-- The rows of some lanes read, up to the first in error: the lane and its fault. -/
def State.readRows (s : State) : List Nat → Option (Nat × AccFault) × State
  | [] => (none, s)
  | l :: r => match s.readRow l with
    | (.error f, s) => (some (l, f), s)
    | (.ok (), s) => s.readRows r

/-- What an instruction does that moves the rows of some lanes through the row port; else it traps. -/
def State.overRows (s : State) (lanes : List Nat) (k : State → Res) : Res :=
  if s.fleet.errors.isEmpty then k s
  else match s.readRows lanes with
    | (some (l, f), s) => s.raise (f.trap true (some l))
    | (none, s) => k s

/-! ### Completion of a lane instruction -/

/-- One of the five counters of R322 advanced. -/
def addLcr (v : Vector Word 5) (k n : Nat) : Vector Word 5 :=
  v.setIfInBounds k (v.toArray.getD k 0 + BitVec.ofNat 64 n)

/-- The lane cycles of one owned quad (R322) over n cycles of an instruction with some active lanes: the quad runs for
k of them and waits for the others. -/
def State.quadCycles (s : State) (act : List Nat) (k n m q : Nat) (v : Vector Word 5) : Vector Word 5 :=
  let m := if s.t.l.started.getLsbD (s.t.alloc.quadList.getD q 0) then 0 else m % (n - k + 1)
  let here := fun (l : List Nat) => (l.filter (fun x => x / 16384 == q)).length
  let a := here act
  let b := here s.belowLanes
  addLcr (addLcr (addLcr (addLcr (addLcr v 0 (a * k)) 1 ((b - a) * k)) 2 ((16384 - b) * k)) 3 (16384 * m))
    4 (16384 * (n - k - m))

/-- The lane cycles of an instruction with some active lanes (R322): a free number of cycles, of which each owned quad
runs a free number; log entry 4. -/
def State.laneCycles (s : State) (act : List Nat) : State :=
  let (n, s) := s.free
  let (lcr, fresh) := (List.range s.t.alloc.quadList.length).foldl (fun p q =>
    (s.quadCycles act (Config.freeNat p.2 % (n + 1)) n (Config.freeNat (p.2 + 1)) q p.1, p.2 + 2)) (s.t.l.lcr, s.fresh)
  { s.mapL (fun l => { l with started := s.t.alloc.quads, lcr := lcr }) with fresh := fresh }

/-- A scalar register of a short slot, banked (R179). -/
def bankS (hi : Bool) (r : Fin 32) : SReg := sreg (if hi then r.val + 32 else r.val)
/-- A vector slot of a short slot, banked (R179). -/
def bankV (hi : Bool) (r : Fin 16) : VReg := Fin.ofNat 32 (if hi then r.val + 16 else r.val)

/-- The lane instruction of a short slot (R181): unguarded, no exception mask, os = 00. -/
def laneShort (hi : Bool) : Short → Option Instr
  | .lane o d a b =>
    let g := noGuard
    let m := plainGuard g
    let d := bankV hi d
    let a := bankV hi a
    let b := BSrc.vec (bankV hi b)
    some (match o with
      | .vadd => .vadd m d a b | .vsub => .vsub m d a b | .vand => .vand g d a b | .vor => .vor g d a b
      | .vxor => .vxor g d a b | .vmin => .vmin m d a b | .vmax => .vmax m d a b)
  | .vmov d a => some (.vmov noGuard (bankV hi d) (.vec (bankV hi a)))
  | _ => none

/-- The instruction of an entry; a pair's slot is named by bit 2 of the address (R180). -/
def LaneEntry.instr (e : LaneEntry) : Option Instr :=
  match decode e.word with
  | .ok (.pair a b) => if e.addr.getLsbD 2 then laneShort true b else laneShort false a
  | .ok i => some i
  | .error _ => none

/-- The canonical routine that an instruction runs (R125 to R127): its entry and its groups in roles a, b and d. Two
points are the model's choice (DESIGN CHOICE: log entry 59). With the x modifier, to which R131 gives two more passes,
the words of the canonical routine alone are traced. vadd vD, vD, vD matches R125's binding, but the canonical words run
on one group give no sum: the instruction delivers R228's sum, and the trace shows the words run with a = d. -/
def canonicalOf (vt : VType) : Instr → Option (Nat × Nat × Nat × Nat)
  | .vadd _ d a (.vec b) =>
    if vt.sat then none else if d = a then some (0, b.val, 0, d.val) else if d = b then some (0, a.val, 0, d.val) else none
  | .vsub _ d a (.vec b) => if !vt.sat && d = a then some (8, b.val, 0, d.val) else none
  | .vmov _ d (.vec a) => some (16, a.val, 0, d.val)
  | _ => none

/-- Whether an entry runs a routine whose passes are traced one by one (R318). -/
def LaneEntry.perPass (e : LaneEntry) (vt : VType) : Bool :=
  match e.instr with
  | some (.vmicro ..) => true
  | some i => (canonicalOf vt i).isSome
  | none => false

/-- The pass count that the trace shows (R131, R318): where R131 gives a maximum, a free number up to it, and where it
gives none, a free number (log entry 4). -/
def State.passCount (s : State) (p : Passes) : Nat × State :=
  match p with
  | .just n => (n, s)
  | .upTo n => let (k, s) := s.free; (k % (n + 1), s)
  | .unstated => s.free

/-- The pass count of the trace record of the lane instruction at the head of the lane queue: of every one under instruction
trace, 0; under pass trace of a built-in routine, its passes (R317, R318); none where it is to have no record. -/
def State.countPasses (s : State) : Option Nat × State :=
  let d := s.t.dbg.ctl
  let it := d.getLsbD 4
  let pt := d.getLsbD 5
  let per := match s.t.q.lane with | e :: _ => e.perPass s.vt | [] => false
  if d.getLsbD 0 && (it || (pt && !per)) then
    let p := match s.t.q.lane.head?.bind LaneEntry.instr with
      | some i => if pt && !per then s.vt.passes i else .just 0
      | none => .just 0
    let (n, s) := s.passCount p
    (some n, s)
  else (none, s)

/-- The record of a lane instruction that completes (R317), and one more of them completed. -/
def State.laneRecord (s : State) (a : Word) (passes : Option Nat) : State :=
  let s := match passes with
    | some n => s.traceWrite s.t (s.t.site + 4) 2 noLane a (s.t.l.done + 1) n 0 0
    | none => s
  s.mapL (fun l => { l with done := l.done + 1 })

/-- Address and push number of the instruction at the head of the lane queue (R180). -/
def State.laneAddr (s : State) : Word := match s.t.q.lane with | e :: _ => e.addr | [] => s.t.c.pc
def State.laneSeq (s : State) : Nat := match s.t.q.lane with | e :: _ => e.seq | [] => s.t.q.pushed

/-- The head of the lane queue leaves; %vstart is 0 (R19), and every quad has started it (R322). Its instruction is
complete, one more of them (R317), unless accesses of it are on their way (R267). -/
def State.lanePop (s : State) : State :=
  let (passes, s) := s.countPasses
  let seq := s.laneSeq
  let addr := s.laneAddr
  let s := if s.openInstrs.any (fun p => p.1 == seq) then s.mapL (fun l => { l with going := l.going ++ [⟨seq, addr, passes⟩] })
    else s.laneRecord addr passes
  (s.mapQ (fun q => { q with lane := q.lane.tail })).mapL (fun l => { l with vstart := 0, started := s.t.alloc.quads })

/-- The lane instructions of the thread in focus whose accesses have all been performed complete (R267, R314, R317). -/
def State.finishLanes (s : State) : State :=
  let opened := s.openInstrs.map (·.1)
  let (still, ended) := s.t.l.going.partition (fun g => opened.contains g.seq)
  let s := s.mapL (fun l => { l with going := still })
  ended.foldl (fun s g => (s.laneRecord g.addr g.passes).skid 0 1) s

/-- The same of every thread. -/
def State.finishAll (s : State) : State :=
  (s.threads.filter (fun t => !t.l.going.isEmpty)).foldl (fun s t => (s.focus t.site).finishLanes) s

/-- Sticky flags (R24, R72). -/
def State.addFlags (s : State) (fl : Nat) : State :=
  s.mapL (fun l => { l with xflags := l.xflags ||| BitVec.ofNat 8 fl })

/-- A lane instruction complete, its active lanes act, its flags fl. -/
def State.laneEnd (s : State) (act : List Nat) (fl : Nat) : State := ((s.addFlags fl).laneCycles act).lanePop

/-- A lane instruction complete that ran in no quad, its flags fl. -/
def State.laneDone (s : State) (fl : Nat) : State := (s.addFlags fl).lanePop

/-- The lanes of some results. -/
def lanesOf (xs : List LaneVal) : List Nat := xs.map (·.lane)

/-- The mask target of the x modifier (R72): 0 means none. -/
def State.writeX (s : State) (x : MReg) (xs : List LaneVal) : State :=
  if x = 0 then s
  else s.setCols x.val (xs.map (fun v => (v.lane, v.fl &&& s.t.l.xclass.toNat != 0)))

/-- Each active lane is given a value of a type in group d, flags and exception mask included; the instruction is
complete. -/
def State.gives (s : State) (m : GuardX) (vt : VType) (d : VReg) (f : Nat → LaneVal) : State :=
  let xs := (s.actives m.g).map f
  ((s.writeLanes vt d.val xs).writeX m.x xs).laneEnd (lanesOf xs) (flagsOf xs)

/-- Each active lane is given a mask bit in column d, flags and exception mask included; the instruction is
complete. Where the exception mask names the same column, its bit stands: R72 does not say which of the two is written
last (DESIGN CHOICE: log entry 59). -/
def State.givesMask (s : State) (m : GuardX) (d : MReg) (f : Nat → LaneVal) : State :=
  let xs := (s.actives m.g).map f
  ((s.setCols d.val (xs.map (fun x => (x.lane, x.val != 0)))).writeX m.x xs).laneEnd (lanesOf xs) (flagsOf xs)

def State.laneResult (s : State) (m : GuardX) (vt : VType) (d : VReg) (f : Nat → LaneVal) : Res :=
  .next (s.gives m vt d f)
def State.maskResult (s : State) (m : GuardX) (d : MReg) (f : Nat → LaneVal) : Res := .next (s.givesMask m d f)

/-! ### Checks at decode (R27, R184 orders 3 to 5) -/

/-- The %feat bits that an instruction needs (R182; R27: 0 KZL.1, 1 KZM.1, 2 KZZ.1, 3 KZA.1, 6 user microcode). -/
def needOf : Instr → Nat
  | .bq _ | .bqn _ | .bmz _ | .bmnz _ | .vdrain | .qpush .. | .qpop .. | .setvl .. | .setvlGrow .. | .setvlShrink ..
  | .strip .. | .vdead .. => 1
  | .vcfg .. | .setvl2 .. | .vid .. | .vadd .. | .vsub .. | .vmul .. | .vmulh .. | .vdiv .. | .vrem .. | .vmin ..
  | .vmax .. | .vneg .. | .vabs .. | .vand .. | .vor .. | .vandn .. | .vxor .. | .vxnor .. | .vnot .. | .vsll ..
  | .vsrl .. | .vsra .. | .vfsl .. | .vfsr .. | .vlut3 .. | .vcmp .. | .vsel .. | .vmov .. | .vslideup ..
  | .vslidedn .. | .vlscat .. | .mand .. | .mor .. | .mxor .. | .mandn .. | .mnot .. | .mmov .. | .mpush .. | .minv
  | .mpop | .mpopc .. | .vfadd .. | .vfsub .. | .vfmul .. | .vfdiv .. | .vfsqrt .. | .vfmin .. | .vfmax ..
  | .vfcmp .. | .vcvt .. | .vcvtLg .. | .vtab .. | .vkth .. | .vtopk .. | .vtopp .. | .vrsum .. | .vrmin ..
  | .vrmax .. | .vscanadd .. | .vscanand .. | .vfirst0 .. | .vpick .. | .vrand .. | .vscatl .. | .vld .. | .vst ..
  | .vstFree .. | .vlds .. | .vsts .. | .tld .. | .tst .. | .vgather .. | .vscatter .. | .vamo .. | .vred ..
  | .vfence .. | .arrive .. => 1
  | .vmload .. | .vmicro .. => 65
  | .racc .. | .rflush .. => 8
  | .mcfg .. | .mmul .. | .mst .. | .mstm .. | .mzero .. | .mlive .. => 2
  | .zopen .. | .zadv .. | .zldC .. | .zldP .. | .zldCK .. | .zldPK .. | .zldM .. | .zisect .. | .zunion ..
  | .zskip .. | .bzEnd .. | .zclose .. => 4
  | _ => 0

/-- The lowest bit of a mask that is set. -/
def lowestBit (x : Nat) : Nat := ((List.range 64).find? x.testBit).getD 0

/-- Needed features that the die does not have: the trap of R27 on the lowest-numbered of them. -/
def State.lacks (s : State) (need : Nat) : Option Trap :=
  let miss := need &&& (0x7F ^^^ (s.feat (siteDie s.t.site) &&& 0x7F))
  if miss == 0 then none else some { Trap.of .featureAbsent with feat := lowestBit miss }

/-- The fields of a matrix configuration word (R288). -/
structure MCfg where
  rblk : Nat
  rrm : Nat
  rfmt : Nat
  e : Int
  afmt : Bool
  bsc : Bool
  bsp : Bool
  bfmt : Nat
  n : Nat
  g : Nat
deriving DecidableEq, Repr

def MCfg.of (w : Word) : MCfg where
  rblk := wbits w 40 38
  rrm := wbits w 37 35
  rfmt := wbits w 34 32
  e := sextNat 8 (wbits w 31 24)
  afmt := w.getLsbD 17
  bsc := w.getLsbD 16
  bsp := w.getLsbD 15
  bfmt := wbits w 14 12
  n := wbits w 11 5 + 1
  g := wbits w 4 0 + 1

/-- R288, R289: the word has no reserved bit or code. -/
def mcfgLegal (w : Word) : Bool :=
  let c := MCfg.of w
  wbits w 63 41 == 0 && wbits w 23 18 == 0 && c.rblk ≤ 4 && c.rrm ≤ 4 && c.rfmt ≤ 3 && c.bfmt ≤ 2
    && (c.rblk == 0 || c.rfmt == 2)

/-- R289: the features that a configuration needs. -/
def mcfgNeed (w : Word) : Nat :=
  (if wbits w 14 12 == 2 then 16 else 0) + (if w.getLsbD 15 then 32 else 0)

/-- Rounded readout of a configuration is scaled (R297). -/
def MCfg.scaledOut (c : MCfg) : Bool := c.rfmt == 2 && c.rblk != 0

/-- Order 4 of R184 from the word and the control copies, but for values of scalar registers: whether the type does
not suit the instruction (R223, R243, R248, R251, R264 to R278, R293, R299, R305). -/
def configBad (vt : VType) (mc : MCfg) : Instr → Bool
  | .vid .. | .vadd .. | .vsub .. | .vmul .. | .vmulh .. | .vdiv .. | .vrem .. | .vmin .. | .vmax .. | .vneg ..
  | .vabs .. | .vsll .. | .vsrl .. | .vsra .. | .vcmp .. | .mpopc _ (.vec _) _ => 1 < vt.kind
  | .vfsl _ _ _ _ n | .vfsr _ _ _ _ n => 1 < vt.kind || vt.ew < n.toNat
  | .vlscat .. => vt.scaled
  | .vfadd .. | .vfsub .. | .vfmul .. | .vfdiv .. | .vfsqrt .. | .vfmin .. | .vfmax .. | .vfcmp .. | .vscatl .. =>
    vt.kind != 2 || vt.scaled
  | .vcvt _ _ _ t => !vtypeLegal t.toNat
  | .vcvtLg _ _ _ t => !vtypeLegal t.toNat || (vtypeFields t.toNat).kind == 3 || vt.kind != 3
  | .vkth _ (.queue _) _ _ | .vrmin _ (.queue _) _ | .vrmax _ (.queue _) _ => vt.scaled || 64 < vt.ew
  | .vtab .. | .vkth .. | .vtopk .. | .vtopp .. | .vrmin .. | .vrmax .. | .vscanand .. | .vpick ..
  | .vfirst0 _ (.queue _) _ => vt.scaled
  | .vrsum .. | .vscanadd .. => vt.kind == 3 || vt.scaled
  | .vfirst0 _ (.vec _) _ => 1 < vt.kind
  | .vld _ _ _ sc _ | .vst _ _ _ sc _ | .vstFree _ _ _ sc _ => sc.isSome != vt.scaled
  | .vlds .. | .vsts .. | .vgather .. | .vscatter .. => vt.scaled
  | .vamo .. | .vred .. => 1 < vt.kind || !(vt.ew == 32 || vt.ew == 64)
  | .racc _ t _ _ _ => t == .fx64 && vt.kind == 3
  | .mmul .. => vt.kind < 2 || (vt.kind == 2 && vt.scaled)
  | .mstm _ _ _ sc => sc.isSome != mc.scaledOut
  | .zldC .. | .zldP .. | .zldCK .. | .zldPK .. => vt.kind != 1
  | _ => false

/-- A group named by an instruction: its base, its size, whether it holds elements of %vtype. -/
structure Group where
  base : Nat
  size : Nat
  elem : Bool
deriving DecidableEq, Repr

/-- R11, R84: the group is aligned, and the scale slot of a scaled binary type exists. -/
def Group.ok (vt : VType) (g : Group) : Bool :=
  g.base % g.size == 0 && !(g.elem && vt.kind == 2 && vt.scaled && 31 < g.base + g.size)

def bGroups (k : Nat) (elem : Bool) : BSrc → List Group
  | .vec v => [⟨v.val, k, elem⟩]
  | _ => []

def redGroups (k : Nat) (elem : Bool) : RedDst → List Group
  | .vec v => [⟨v.val, k, elem⟩]
  | .queue _ => []

/-- Slots of an index group (R272). -/
def indexSlots (mode : Fin 3) : Nat := if mode == 2 then 4 else 2

/-- The groups that an instruction names; R84 counts for those of vmicro too (R222, R238, R248, R256, R258, R264, R272, R298, R305). -/
def groupsOf (vt : VType) (mc : MCfg) : Instr → List Group
  | .vid _ _ d | .vscatl _ d _ => [e d]
  | .vadd _ d a b | .vsub _ d a b | .vmul _ d a b | .vmulh _ d a b | .vdiv _ d a b | .vrem _ d a b
  | .vmin _ d a b | .vmax _ d a b | .vand _ d a b | .vor _ d a b | .vandn _ d a b | .vxor _ d a b | .vxnor _ d a b
  | .vfadd _ d a b | .vfsub _ d a b | .vfmul _ d a b | .vfdiv _ d a b | .vfmin _ d a b | .vfmax _ d a b
  | .vsel _ d a b _ => [e d, e a] ++ bGroups (groupOf vt.ew) true b
  | .vsll _ d a n | .vsrl _ d a n | .vsra _ d a n => [e d, e a] ++ (match n with
    | .b b => bGroups (groupOf vt.ew) true b | .imm _ => [])
  | .vneg _ d a | .vabs _ d a | .vnot _ d a | .vfsqrt _ d a | .vslideup _ _ _ d a _ | .vslidedn _ _ _ d a _
  | .vscanadd _ _ d a => [e d, e a]
  | .vfsl _ d a b _ | .vfsr _ d a b _ | .vmicro _ _ d a b => [e d, e a, e b]
  | .vlut3 _ d a b c _ => [e d, e a, e b, e c]
  | .vcmp _ _ _ a b | .vfcmp _ _ _ a b => e a :: bGroups (groupOf vt.ew) true b
  | .vmov _ d b => e d :: bGroups (groupOf vt.ew) true b
  | .vlscat _ _ d a b => [e d, e a, ⟨b.val, 2, false⟩]
  | .mpopc _ d _ | .vfirst0 _ d _ => redGroups (groupOf vt.ew) true d
  | .vcvt _ d a t | .vcvtLg _ d a t =>
    let u := vtypeFields t.toNat
    let g := groupOf u.ew
    [e d, ⟨a.val, g, false⟩] ++ (if u.kind == 2 && vt.scaled then
      [if 31 < a.val + g then ⟨1, 2, false⟩ else ⟨a.val + g, 1, false⟩] else [])
  | .vtab _ d _ _ _ => [e d]
  | .vkth _ d a _ | .vrsum _ d a | .vrmin _ d a | .vrmax _ d a => e a :: redGroups (groupOf vt.ew) true d
  | .vtopk _ _ _ a _ | .vtopp _ _ _ a _ => [e a]
  | .vpick _ d a b => e a :: (redGroups 2 false d ++ bGroups 4 false b)
  | .vrand _ d b => ⟨d.val, 4, false⟩ :: bGroups 4 false b
  | .vld _ d _ _ _ | .vlds _ d _ _ _ | .zldC _ d _ | .zldP _ d _ | .zldCK _ d _ | .zldPK _ d _ => [e d]
  | .vst _ _ b _ _ | .vstFree _ _ b _ _ => [e b]
  | .vsts _ _ _ _ c _ => [e c]
  | .vgather _ mode d _ i => [e d, ⟨i.val, indexSlots mode, false⟩]
  | .vscatter _ mode _ i c => [e c, ⟨i.val, indexSlots mode, false⟩]
  | .vamo _ _ mode _ _ d _ i c => [e d, e c, ⟨i.val, indexSlots mode, false⟩]
  | .vred _ _ mode _ _ _ i c => [e c, ⟨i.val, indexSlots mode, false⟩]
  | .racc _ t v _ i => [⟨i.val, 2, false⟩, match t with
    | .i32 => ⟨v.val, 2, false⟩ | .f32 => ⟨v.val, 2, false⟩ | .i64 => ⟨v.val, 4, false⟩ | .fx64 => e v]
  | .mmul _ _ a _ => [⟨a.val, groupOf vt.ew, false⟩]
  | .mst _ d _ _ => [⟨d.val, if mc.rfmt == 1 then 2 else 1, false⟩]
  | _ => []
where
  e (v : VReg) : Group := ⟨v.val, groupOf vt.ew, true⟩

/-- The tiles that an instruction names (R16, R300). -/
def tilesOf : Instr → BitVec 8
  | .mmul _ t _ _ => 1#8 <<< t.val
  | .mst _ _ t _ => 1#8 <<< t.val
  | .mstm _ t _ _ => 1#8 <<< t.val
  | .mzero t => 1#8 <<< t.val
  | .mlive set => set
  | _ => 0

/-- Order 4 of R184 on the values of scalar registers read at push (R41, R226, R289, R298). -/
def State.operandBad (s : State) (vt : VType) : Instr → Bool
  | .setvl2 _ b =>
    let n := (s.reg b).toNat
    262144 < n || (n != 0 && ceilPow2 n < vt.blen)
  | .mcfg a => !mcfgLegal (s.reg a)
  | .mst _ _ _ b => 32 ≤ (s.reg b).toNat
  | _ => false

/-- Order 5 of R184 beyond group alignment: tile ownership, the depth of the mask stack (R53), the rows of A and the
place of B (R292, R293). -/
def State.handleBad (s : State) (vt : VType) (mc : MCfg) (i : Instr) : Bool :=
  (tilesOf i &&& ~~~s.t.alloc.tiles) != 0 || (match i with
    | .mpush _ => 16 ≤ s.t.c.depth
    | .minv | .mpop => s.t.c.depth == 0
    | .mmul _ _ a b => 32 < a.val + mc.g * groupOf vt.ew || (s.reg b).toNat % 64 != 0
    | _ => false)

/-- The trap that a lane instruction takes at decode, on the values of the control stream (R184, R222). -/
def State.laneTrap (s : State) (i : Instr) : Option Trap :=
  let v := s.t.c.v
  let vt := vtypeFields v.vtype.toNat
  let mc := MCfg.of s.t.c.mcfg
  match s.lacks (needOf i ||| (match i with | .mcfg a => mcfgNeed (s.reg a) | _ => 0)) with
  | some t => some t
  | none =>
    match i with
    | .vcfg _ => none
    | i =>
      if v.illegal || configBad vt mc i || s.operandBad vt i then some (Trap.of .illegalConfig)
      else if !(groupsOf vt mc i).all (Group.ok vt) || s.handleBad vt mc i then some (Trap.of .badHandle)
      else none

end Sys2Proof.Machine
end

