-- ==== Sys2Proof/Machine/Microcode.lean ====
section
/-! DEFINITION. Microcode words: pass words, control words, the canonical routines (R118 to R127), and the checks on them
(R124). -/

namespace Sys2Proof.Machine

/-! ### Words (R118, R119, R122) -/

/-- The canonical routines, entries 0 to 20 (R126, R127). -/
def canonical : List Word :=
  [0x0020000030000000, 0x8000000000000000, 0x3968018070000000, 0x3B40018070000000, 0x3E64018070080000,
   0x3C48018070080000, 0x9000000000000000, 0xA000000000000000]
  ++ [0x0024000030000000, 0x8000000000000000, 0x3D68018070000000, 0x3F40018070000000, 0x3A64018070000000,
   0x3848018070000000, 0x9000000000000000, 0xA000000000000000]
  ++ [0x8000000000000000, 0x2448018040080000, 0x2040018040000000, 0x9000000000000000, 0xA000000000000000]

/-- An entry of the unit's microcode table (R124). -/
def State.microWord (s : State) (uid e : Nat) : Word :=
  if e < 3072 then canonical.getD e 0 else cellGet 0 s.micro (uid * 4096 + e)

/-- A selector of a pass word (R119), k = 0, 1, 2 for X, Y, Z, with its enables, key and value (R118). -/
structure Sel where
  cen : Bool
  key : Bool
  wen : Bool
  val : Bool
  role : Nat
  base : Nat
  li : Bool
deriving DecidableEq, Repr

def selOf (w : Word) (k : Nat) : Sel where
  cen := w.getLsbD (61 - k)
  key := w.getLsbD (58 - k)
  wen := w.getLsbD (55 - k)
  val := w.getLsbD (52 - k)
  role := wbits w (49 - 10 * k) (48 - 10 * k)
  base := wbits w (47 - 10 * k) (41 - 10 * k)
  li := w.getLsbD (40 - 10 * k)

def selsOf (w : Word) : List Sel := [selOf w 0, selOf w 1, selOf w 2]

/-- An open loop (R122): its count, index, direction, shift bits, and the entry after it. -/
structure Loop where
  n : Nat
  i : Nat
  down : Bool
  shift : Nat
  body : Nat
deriving DecidableEq, Repr

/-- The count of a loop word (R122). -/
def loopCount (vt : VType) (w : Word) : Nat :=
  match wbits w 58 56 with
  | 0 => vt.ew | 1 => vt.fm | 2 => vt.fe | 3 => vt.ew - 1 | _ => wbits w 6 0

/-- The offset of a selector inside open loops, innermost first (R119, R122). -/
def selOffset (x : Sel) (ls : List Loop) : Nat :=
  x.base + match ls with
    | [] => 0
    | [l] => if x.li then l.i else 0
    | l :: o :: _ =>
      (if x.li then l.i else 0) + (if l.shift / 2 ^ x.role % 2 == 1 then o.i else 0)

/-- R124: the checks that vmload makes on a word. -/
def microWordOk (w : Word) : Bool :=
  match wbits w 63 62 with
  | 0 => wbits w 18 0 == 0 && skipOk
  | 1 => wbits w 18 0 == 0 && wbits w 55 53 == 0 && skipOk
  | 2 => (match wbits w 61 60 with
    | 0 => wbits w 58 56 ≤ 4 && wbits w 51 7 == 0
      && (if wbits w 58 56 == 4 then wbits w 6 0 != 0 else wbits w 6 0 == 0)
    | 1 => wbits w 59 0 == 0
    | 2 => wbits w 59 0 == 0
    | _ => false)
  | _ => false
where
  skipOk : Bool := !w.getLsbD 19 || (w.getLsbD 61 && w.getLsbD 58)

/-! ### The checks at the start of a routine (R124) -/

/-- The base slots of roles a, b and d. -/
structure Roles where
  a : Nat
  b : Nat
  d : Nat
deriving DecidableEq, Repr

/-- The column of a selector: a data column, or a scratch column. -/
def selColumn (r : Roles) (x : Sel) (off : Nat) : Bool × Nat :=
  match x.role with
  | 0 => (true, 16 * r.a + off) | 1 => (true, 16 * r.b + off) | 2 => (true, 16 * r.d + off) | _ => (false, off)

/-- A selector's column exists. -/
def selOk (r : Roles) (x : Sel) (ls : List Loop) : Bool :=
  if !x.cen && !x.wen then true
  else match selColumn r x (selOffset x ls) with
    | (true, c) => c < 512
    | (false, c) => c < 16

/-- The structure of a routine from an entry, each open loop at its largest index: whether its control words fit, and
whether every reachable column exists. Words that a context's microcode area brought in (R411) have met no check of
vmload; what R124 would refuse in them the model takes as follows, for the spec does not say: a word of kind 11 as a
compare-write, a reserved bound as an immediate one, and a skip or write-enable bit that is not legal as no bit (DESIGN
CHOICE: log entry 59). -/
def microCheck (tbl : Nat → Word) (vt : VType) (r : Roles) : Nat → Nat → List Loop → Bool × Bool
  | 0, _, _ => (false, true)
  | k + 1, e, ls =>
    if 4096 ≤ e then (false, true)
    else
      let w := tbl e
      if wbits w 63 62 == 2 then
        match wbits w 61 60 with
        | 0 =>
          let n := loopCount vt w
          if ls.length == 2 || (wbits w 55 52 != 0 && ls.isEmpty) then (false, true)
          else microCheck tbl vt r k (e + 1) (⟨n, n - 1, false, wbits w 55 52, e + 1⟩ :: ls)
        | 1 => match ls with
          | [] => (false, true)
          | _ :: ls => microCheck tbl vt r k (e + 1) ls
        | 2 => (ls.isEmpty, true)
        | _ => (false, true)
      else
        let here := ls.any (fun l => l.n == 0) || (selsOf w).all (fun x => selOk r x ls)
        let rest := microCheck tbl vt r k (e + 1) ls
        (rest.1, here && rest.2)

end Sys2Proof.Machine
end

