-- ==== Sys2Proof/Machine/Residual.lean ====
section
/-! DEFINITION. Residual accumulate: the residual tile and its requests (R135 to R143, R146), and the steps of home
slice and reply (R137, R141, R143). The forms of racc and rflush stand with the memory instructions. -/

namespace Sys2Proof.Machine

/-! ### Lines and home slices (R93, R94, R141) -/

/-- A number for the home slice of a home address (R93, R94, R111). -/
def homeSlice (key h : Nat) : Nat :=
  if h < 2 ^ 39 then
    let g := h % 2 ^ 36 / 256
    h / 2 ^ 36 * 96 + (g ^^^ g / 2 ^ 7 ^^^ g / 2 ^ 14 ^^^ g / 2 ^ 21) % 96
  else if h < 0x20000000000 then
    1000 + h / 2 ^ 32 % 2 ^ 7 * 64 + homeCell key h / 64 % (if h / 2 ^ 32 % 16 == 15 then 64 else 32)
  else 100000 + h / 2 ^ 28 % 2 ^ 11

/-- Words of a line for a type (R135). -/
def lineWords (typ : Nat) : Nat := 64 / accWidth typ

/-- The addition of R132 and R139: held or stored sum first. -/
def accAdd (typ x y : Nat) : Nat :=
  match typ with
  | 0 => (x + y) % 2 ^ 32
  | 3 => let f : Fmt := ⟨8, 23, false⟩; (fAdd f 0 (f.val x) (f.val y)).val
  | _ => (x + y) % 2 ^ 64

/-! ### Entries (R140, R141) -/

/-- An entry is in use (R140). -/
def REntry.inUse (e : REntry) : Bool := e.fl || e.valid != 0

/-- A sum added to a word of an entry (R141). -/
def REntry.add (e : REntry) (now j : Nat) (v : Word) : REntry :=
  let x := if e.valid.getLsbD j then BitVec.ofNat 64 (accAdd e.typ (e.sums.toArray.getD j 0).toNat v.toNat) else v
  { e with sums := e.sums.setIfInBounds j x, valid := e.valid ||| (1#16 <<< j), stamp := now }

/-- The words that an entry holds. -/
def REntry.words (e : REntry) : List (Nat × Word) :=
  ((List.range 16).filter (fun j => e.valid.getLsbD j)).map (fun j => (j, e.sums.toArray.getD j 0))

/-- An entry whose sums have left it. -/
def REntry.cleared (e : REntry) : REntry := { e with valid := 0, sums := Vector.replicate 16 0, heldBack := none }

/-- The cells of an entry in the tile of a site, and those of one of its sums, as errors name them (R434). -/
def REntry.cells (e : REntry) (site : Nat) : List Nat := (List.range 128).map (rtileBase site + 128 * e.idx + ·)
def REntry.sumCells (e : REntry) (site j : Nat) : List Nat :=
  (List.range (accWidth e.typ)).map (rtileBase site + 128 * e.idx + 8 + j * accWidth e.typ + ·)

/-- A new entry. -/
def REntry.new (idx line typ : Nat) : REntry :=
  ⟨idx, line, typ, false, 0, Vector.replicate 16 0, 0, none, .none, .none⟩

/-- Entries of the residual tile. -/
def residEntries : Nat := 256

def Resid.find (r : Resid) (line typ : Nat) : Option REntry :=
  r.entries.find? (fun e => e.line == line && e.typ == typ)
/-- An entry replaced; one no longer in use is freed (R143). -/
def Resid.put (r : Resid) (e : REntry) : Resid :=
  let l := r.entries.map (fun x => if x.idx == e.idx then e else x)
  { r with entries := l.filter (fun x => x.idx != e.idx || x.inUse) }
def Resid.insert (r : Resid) (e : REntry) : Resid :=
  let l := r.entries.filter (fun x => x.idx < e.idx)
  { r with entries := l ++ e :: r.entries.filter (fun x => e.idx < x.idx) }
/-- The lowest-numbered free entry (R141). -/
def Resid.freeIdx (r : Resid) : Option Nat :=
  (List.range residEntries).find? (fun i => !r.entries.any (fun e => e.idx == i))
/-- An entry of the line is held back (R138). -/
def Resid.lineHeld (r : Resid) (line : Nat) : Bool := r.entries.any (fun e => e.line == line && e.heldBack.isSome)
/-- The order number of the next entry held back (R138). -/
def Resid.nextHeld (r : Resid) : Nat := r.entries.foldl (fun n e => match e.heldBack with | some k => max n (k + 1) | none => n) 0

/-! ### Requests (R136, R138) -/

/-- The bank key of the task in focus. -/
def State.key (s : State) : Nat := s.ctxT.bankkey

/-- The thread in focus has a forced request outstanding to a home slice (R138). -/
def State.forcedBusy (s : State) (slice : Nat) : Bool :=
  s.reqs.any (fun r => r.taskId == s.t.task.id && r.forced && !r.closed && homeSlice s.key (r.line * 64) == slice)

/-- A request of the thread in focus for the line is outstanding (R136). -/
def State.lineBusy (s : State) (line : Nat) : Bool := s.lineOut s.t.task.id line

/-- A request sent (R135); racc names the instruction that completes with it (R145). -/
def State.sendReq (s : State) (line typ : Nat) (words : List (Nat × Word)) (entry : Option Nat) (forced : Bool)
    (racc : Option (Nat × Word)) (covered : Bool) : State :=
  let r : AccReq := ⟨s.sched.nextId, s.t.task.id, s.t.site, s.t.task.ctx, line, typ, words, entry, forced, .sent, false,
    false, racc, covered⟩
  { s with
    reqs := s.reqs ++ [r]
    sched := { s.sched with nextId := s.sched.nextId + 1 } }

/-- The words of an entry as the tile reads them to send them: one with an uncorrectable error is never delivered as data
(R435). R435 names no agent for this read: the word is left out and a kind-5 record with token 0 is written, as for a copy
(DEDUCED: log entry 62). -/
def State.sendWords (s : State) (e : REntry) : List (Nat × Word) × State :=
  if s.fleet.errors.isEmpty then (e.words, s)
  else e.words.foldl (fun (acc : List (Nat × Word) × State) p =>
    match acc.2.meet (e.sumCells s.t.site p.1) with
    | (none, s) => (acc.1 ++ [p], s)
    | (some (_, d), s) => (acc.1, s.addFault (s.deviceRecord s.t.site s.t.task.ctx Cause.memPermission.code 5 1 d
        (0x00FFFC0000000000 + 128 * e.idx + 8 + p.1 * accWidth e.typ) s.t.task.wid.toNat 0))) ([], s)

/-- A mark when the entry's sums leave as a forced request, when its request is accepted (its start sums have travelled, or
those that it held beside the request must), and when it is refused (R146). -/
def FlushMark.sent : FlushMark → FlushMark
  | .mustSend => .sentForced
  | m => m
def FlushMark.accepted : FlushMark → FlushMark
  | .waitOld true => .mustSend
  | _ => .none
def FlushMark.refused : FlushMark → FlushMark
  | .none => .none
  | _ => .mustSend

/-- The sums of an entry sent as a forced request; the entry stays allocated until the reply (R141, R146). -/
def State.sendForced (s : State) (e : REntry) : State :=
  let (ws, s) := s.sendWords e
  let s := s.sendReq e.line e.typ ws (some e.idx) true none (e.cflush != .none)
  s.mapR (·.put { e.cleared with fl := true, flush := e.flush.sent, cflush := e.cflush.sent })

/-- Held-back entries in the order in which they were chosen: each leaves where its slot and its line are free and no
earlier one of its home slice stays (R136, R138). -/
def State.sendHeld (s : State) : List REntry → List Nat → State
  | [], _ => s
  | e :: l, stay =>
    let slice := homeSlice s.key (e.line * 64)
    if stay.contains slice || s.forcedBusy slice || s.lineBusy e.line then s.sendHeld l (slice :: stay)
    else (s.sendForced e).sendHeld l stay

/-- Held-back entries that may leave now do (R138). -/
def State.pumpHeld (s : State) : State :=
  let due := s.t.r.entries.filter (fun e => e.heldBack.isSome)
  s.sendHeld (due.mergeSort (fun a b => a.heldBack.getD 0 ≤ b.heldBack.getD 0)) []

/-- An entry made due to leave as a forced request (R138). -/
def State.makeDue (s : State) (e : REntry) : State :=
  let e := { e with heldBack := match e.heldBack with | some k => some k | none => some s.t.r.nextHeld }
  (s.mapR (·.put e)).pumpHeld

/-- A free entry for a line, by a victim where none is free (R142): none where the placement waits. An entry whose line
has an outstanding request, of another type, is no victim, for its forced request obeys R136 (DEDUCED: log entry 59). -/
def State.takeEntry (s : State) (line typ : Nat) : Option (REntry × State) :=
  match s.t.r.freeIdx with
  | some i => let e := REntry.new i line typ; some (e, (s.clearErrors (e.cells s.t.site)).mapR (·.insert e))
  | none =>
    let cand := s.t.r.entries.filter (fun e => !e.fl && e.valid != 0 && e.heldBack.isNone
      && !s.forcedBusy (homeSlice s.key (e.line * 64)) && !s.lineBusy e.line)
    match cand with
    | [] => none
    | c :: l =>
      let v := l.foldl (fun v e => if e.stamp < v.stamp || (e.stamp == v.stamp && e.idx < v.idx) then e else v) c
      let (ws, s) := s.sendWords v
      let s := (s.sendReq v.line v.typ ws none true none false).clearErrors (v.cells s.t.site)
      let e := REntry.new v.idx line typ
      some (e, s.mapR (fun r => { r with entries := r.entries.map (fun x => if x.idx == v.idx then e else x) }))

/-- Words put into an entry of their line and type: sent with its held sums, or held where a request of the line is
outstanding or an entry of it is held back (R136, R138, R141); none where the placement waits (R142). Sums that leave
at once count as added to the entry for its stamp, of which R140 and R141 do not speak (DESIGN CHOICE: log entry 63). -/
def State.placeWords (s : State) (line typ : Nat) (words : List (Nat × Word)) (racc : Nat × Word) : Option State :=
  let got := match s.t.r.find line typ with
    | some e => some (e, s)
    | none => s.takeEntry line typ
  match got with
  | none => none
  | some (e, s) =>
    let e := words.foldl (fun e p => e.add s.gts p.1 p.2) e
    if s.lineBusy line || s.t.r.lineHeld line then some (s.mapR (·.put e))
    else
      let (ws, s) := s.sendWords e
      let s := s.sendReq line typ ws (some e.idx) false (some racc) false
      some (s.mapR (·.put { e.cleared with fl := true }))

/-- An entry of the line that holds sums of another type (R141). -/
def Resid.otherType (r : Resid) (line typ : Nat) : Option REntry :=
  r.entries.find? (fun e => e.line == line && e.typ != typ && e.valid != 0)

/-- Words that a racc has formed for one line (R135, R136, R141), placed or not: sums of another type first leave as a
forced request. -/
def State.placeLine (s : State) (line typ : Nat) (words : List (Nat × Word)) (racc : Nat × Word) : Bool × State :=
  let s := match s.t.r.otherType line typ with
    | some e => if e.fl then s else s.makeDue e
    | none => s
  if (s.t.r.otherType line typ).isSome then (false, s)
  else match s.placeWords line typ words racc with
    | some s => (true, s)
    | none => (false, s)

/-- Addends of one request taken from the front of the waiting ones: of one instruction, virtual line and type. -/
def Addend.with (a x : Addend) : Bool := x.seq == a.seq && x.vline == a.vline && x.line == a.line && x.typ == a.typ
def frontLine (l : List Addend) : List Addend × List Addend :=
  match l with
  | [] => ([], [])
  | a :: _ => (l.takeWhile a.with, l.dropWhile a.with)

/-- Waiting placements made in order, as far as they can be (R142). -/
def State.placeAll (s : State) : Nat → State
  | 0 => s
  | n + 1 =>
    match frontLine s.t.r.place with
    | ([], _) => s
    | (a :: l, rest) =>
      match s.placeLine a.line a.typ ((a :: l).map (fun x => (x.word, x.value))) (a.seq, a.addr) with
      | (false, s) => s
      | (true, s) => (s.mapR (fun r => { r with place := rest })).placeAll n

/-! ### Flushes (R146, R147) -/

/-- The mark of an entry in use as a flush starts (R146). -/
def REntry.startMark (e : REntry) : FlushMark := if e.fl then .waitOld (e.valid != 0) else .mustSend

/-- The flush set taken: every entry in use (R146), whether another flush of the thread holds it too or not; entries whose
request is not outstanding are due to leave. -/
def State.flushSet (s : State) (mark : REntry → REntry) : State :=
  let s := s.mapR (fun r => { r with entries := r.entries.map mark })
  s.t.r.entries.foldl (fun s e =>
    match s.t.r.entries.find? (fun x => x.idx == e.idx) with
    | some e => if e.fl then s else s.makeDue e
    | none => s) s

/-- A flush of the lane stream, or of a save, starts. -/
def State.laneFlushStart (s : State) : State := s.flushSet (fun e => { e with flush := e.startMark })

/-- A flush of the control stream starts; it covers the requests outstanding for its entries and those of sums that the
tile has given up (R142, R148). -/
def State.startFlush (s : State) : State :=
  let id := s.t.task.id
  State.flushSet { s with reqs := s.reqs.map (fun r =>
    if r.taskId == id && (r.forced || (r.entry.isSome && !r.closed)) then { r with covered := true } else r) }
    (fun e => { e with cflush := e.startMark })

/-- The flush set of the lane stream is empty (R146). -/
def Resid.flushed (r : Resid) : Bool := r.entries.all (fun e => e.flush == .none)

/-- A flush of the control stream is over: the flush set is empty, and what it covers has been performed (R147, R148). -/
def State.ctlFlushed (s : State) : Bool :=
  s.t.r.entries.all (fun e => e.cflush == .none)
    && !s.reqs.any (fun r => r.taskId == s.t.task.id && r.covered && !r.performed)

/-- The tile holds nothing, and no sums that it has given up are on their way (R142, R148). -/
def State.nothingHeld (s : State) : Bool :=
  s.t.r.entries.isEmpty && !s.reqs.any (fun r => r.taskId == s.t.task.id && r.forced && !r.performed)

/-- The flush of a control-stream release (R103, R147): the residual tile is flushed; then what follows. A flush of the
lane stream that is under way goes on beside it. -/
def State.withFlush (s : State) (k : State → Res) : Res :=
  if s.t.c.flush then
    if s.ctlFlushed then k (s.mapC (fun c => { c with flush := false })) else .next (s.block .flush)
  else if s.nothingHeld then k s
  else .next ((s.startFlush.mapC (fun c => { c with flush := true })).block .flush)

/-- A full fence of the control stream, or what waits as one does (R103): the accesses before it are performed and the
residual tile is flushed; then what follows. -/
def State.withRelease (s : State) (k : State → Res) : Res := s.drainAccs.withFlush k

/-! ### Steps of the home slice and the replies -/

def State.req? (s : State) (id : Nat) : Option AccReq := s.reqs.find? (fun r => r.id == id)
def State.setReq (s : State) (r : AccReq) : State :=
  { s with reqs := s.reqs.map (fun x => if x.id == r.id then r else x) }

/-- The line's pending count (R137). Lines are told apart by the home-line number of R141 alone, for contexts of different
bank keys too, of which R137 does not speak (DESIGN CHOICE: log entry 63). -/
def State.pendingCount (s : State) (line : Nat) : Nat :=
  (s.reqs.filter (fun r => r.line == line && r.phase == .accepted && !r.performed)).length

/-- ACCUMULATE_REQUEST: a request reaches its home slice (R137, R138). Accepted requests stand in the list in the order
of their acceptance. -/
def execAccumulateRequest (id : Nat) (s : State) : Res :=
  match s.req? id with
  | none => .next s
  | some r =>
    if r.phase != .sent then .next s
    else if r.forced || s.pendingCount r.line < (s.ctxD r.ctx).rquota then
      .next { s with reqs := s.reqs.filter (fun x => x.id != id) ++ [{ r with phase := .accepted }] }
    else .next (s.setReq { r with phase := .refused })

/-- A word of a request performed at its home slice (R137, R139). Bytes that have become read-only or another context's
meanwhile discard it (R428, R432). A word in error stays as it is, and the error is recorded (R435; log entry 62). The
access has no instruction at hand: where no racc sent it, a record of it gives pc 0 (R317; DESIGN CHOICE, log entry 61). -/
def State.performWord (s : State) (r : AccReq) (j : Nat) (v : Word) : State :=
  let w := accWidth r.typ
  let h := r.line * 64 + j * w
  let c := homeCell (s.ctxD r.ctx).bankkey h
  let locs := (List.range w).map (fun i => Loc.cell (c + i) (h + i))
  if !locs.all (s.homeTakes r.ctx) then s
  else match s.selfRead r.ctx [(c, w)] with
  | (true, s) => s
  | (false, s) =>
  let pc := match r.racc with | some p => p.2 | none => 0
  s.writeLocs ⟨r.site, r.ctx, r.site + 4, true, r.taskId, pc, noLane⟩ (.atomic false) locs
    (accAdd r.typ (s.rdLocs locs) v.toNat)

/-- A request leaves the list once it has been performed and its acceptance has been delivered. -/
def State.dropReq (s : State) : State := { s with reqs := s.reqs.filter (fun r => !(r.performed && r.closed)) }

/-- ACCUMULATE_PERFORM: an accepted request is performed as one read-modify-write, in the order of acceptance of its
line (R137). -/
def execAccumulatePerform (id : Nat) (s : State) : Res :=
  match s.req? id with
  | none => .next s
  | some r =>
    let first := s.reqs.find? (fun x => x.line == r.line && x.phase == .accepted && !x.performed)
    if first.map (·.id) != some id then .next s
    else
      let s := r.words.foldl (fun s p => s.performWord r p.1 p.2) s
      .next (s.setReq { r with performed := true }).dropReq

/-- The thread that runs a task brought into focus; none where no thread does. -/
def State.focusTask (s : State) (id : Nat) : Option State := (s.taskThread id).map (fun t => s.focus t.site)

/-- After a reply: entries held back leave, waiting placements go on (R138, R142). -/
def State.afterReply (s : State) : State :=
  let s := s.pumpHeld
  s.placeAll s.t.r.place.length

/-- An entry that its reply has reached: due to leave where a flush still has sums of it to send (R146). -/
def State.replied (s : State) (e : REntry) : State :=
  if e.flush == .mustSend || e.cflush == .mustSend then s.makeDue e else s.mapR (·.put e)

/-- ACCEPTED_REPLY (R143, R146): fl clears; the entry is freed where it holds nothing, leaves the flush set where its
start sums have travelled, and is due to leave where they have not. -/
def execAcceptedReply (id : Nat) (s : State) : Res :=
  match s.req? id with
  | none => .next s
  | some r =>
    if r.phase != .accepted || r.closed then .next s
    else
      let s := (s.setReq { r with closed := true }).dropReq
      match s.focusTask r.taskId with
      | none => .next s
      | some s =>
        match r.entry.bind (fun i => s.t.r.entries.find? (fun e => e.idx == i)) with
        | none => .next s.afterReply
        | some e =>
          .next (s.replied { e with fl := false, flush := e.flush.accepted, cflush := e.cflush.accepted }).afterReply

/-- REFUSAL_REPLY (R137, R141, R146): the sums go back to the entry whose request was refused, and its fl clears; an
entry of the flush set is due to leave as a forced request. -/
def execRefusalReply (id : Nat) (s : State) : Res :=
  match s.req? id with
  | none => .next s
  | some r =>
    if r.phase != .refused then .next s
    else
      let s := { s with reqs := s.reqs.filter (fun x => x.id != id) }
      match s.focusTask r.taskId with
      | none => .next s
      | some s =>
        match r.entry.bind (fun i => s.t.r.entries.find? (fun e => e.idx == i)) with
        | none => .next s
        | some e =>
          let e := r.words.foldl (fun e p => e.add s.gts p.1 p.2) { e with fl := false }
          .next (s.replied { e with flush := e.flush.refused, cflush := e.cflush.refused }).afterReply

end Sys2Proof.Machine
end

