-- ==== Sys2Proof/Machine/Scalar.lean ====
section
/-! DEFINITION. Scalar arithmetic and logic (R175, R191 to R193), branches (R194 to R196, R443), calls (R50 to R52,
R197). -/

namespace Sys2Proof.Machine

/-! ### Arithmetic and logic (R191 to R193) -/

/-- The scalar registers of a second operand. -/
def src2Regs : Src2 → List SReg
  | .reg b => [b]
  | .imm _ => []

/-- op sD, sA, B: the result of a function of A and B (R191). -/
def State.alu (s : State) (d a : SReg) (b : Src2) (f : Word → Word → Word) : Res :=
  s.withRegs (d :: a :: src2Regs b) fun s => .next (s.result d (f (s.reg a) (s.src2 b)))

/-- A truth value as a register value. -/
def boolWord (c : Bool) : Word := if c then 1 else 0

def execAdd (d a : SReg) (b : Src2) (s : State) : Res := s.alu d a b (· + ·)
def execSub (d a : SReg) (b : Src2) (s : State) : Res := s.alu d a b (· - ·)
def execAnd (d a : SReg) (b : Src2) (s : State) : Res := s.alu d a b (· &&& ·)
def execOr (d a : SReg) (b : Src2) (s : State) : Res := s.alu d a b (· ||| ·)
def execXor (d a : SReg) (b : Src2) (s : State) : Res := s.alu d a b (· ^^^ ·)
def execAndn (d a : SReg) (b : Src2) (s : State) : Res := s.alu d a b (fun x y => x &&& ~~~y)
def execSll (d a : SReg) (b : Src2) (s : State) : Res := s.alu d a b (fun x y => x <<< (y.toNat % 64))
def execSrl (d a : SReg) (b : Src2) (s : State) : Res := s.alu d a b (fun x y => x >>> (y.toNat % 64))
def execSra (d a : SReg) (b : Src2) (s : State) : Res := s.alu d a b (fun x y => x.sshiftRight (y.toNat % 64))
def execMul (d a : SReg) (b : Src2) (s : State) : Res := s.alu d a b (· * ·)
def execMulh (d a : SReg) (b : Src2) (s : State) : Res :=
  s.alu d a b (fun x y => BitVec.ofInt 64 (x.toInt * y.toInt / 2 ^ 64))
def execMulhn (d a : SReg) (b : Src2) (s : State) : Res :=
  s.alu d a b (fun x y => BitVec.ofNat 64 (x.toNat * y.toNat / 2 ^ 64))
def execDiv (d a : SReg) (b : Src2) (s : State) : Res :=
  s.alu d a b (fun x y => if y = 0 then BitVec.allOnes 64 else x.sdiv y)
def execDivn (d a : SReg) (b : Src2) (s : State) : Res :=
  s.alu d a b (fun x y => if y = 0 then BitVec.allOnes 64 else x.udiv y)
def execRem (d a : SReg) (b : Src2) (s : State) : Res :=
  s.alu d a b (fun x y => if y = 0 then x else x.srem y)
def execRemn (d a : SReg) (b : Src2) (s : State) : Res :=
  s.alu d a b (fun x y => if y = 0 then x else x.umod y)
def execMin (d a : SReg) (b : Src2) (s : State) : Res := s.alu d a b (fun x y => if x.slt y then x else y)
def execMax (d a : SReg) (b : Src2) (s : State) : Res := s.alu d a b (fun x y => if x.slt y then y else x)
def execMinn (d a : SReg) (b : Src2) (s : State) : Res := s.alu d a b (fun x y => if x.ult y then x else y)
def execMaxn (d a : SReg) (b : Src2) (s : State) : Res := s.alu d a b (fun x y => if x.ult y then y else x)
def execSlt (d a : SReg) (b : Src2) (s : State) : Res := s.alu d a b (fun x y => boolWord (x.slt y))
def execSltn (d a : SReg) (b : Src2) (s : State) : Res := s.alu d a b (fun x y => boolWord (x.ult y))
def execSeq (d a : SReg) (b : Src2) (s : State) : Res := s.alu d a b (fun x y => boolWord (x == y))

/-- One bits of a word (R193). -/
def popcount (x : Word) : Nat := popc 64 x.toNat
/-- Zero bits above the highest one bit of a word (R193). -/
def leadingZeros (x : Word) : Nat := if x = 0 then 64 else 63 - Nat.log2 x.toNat

def execPopc (d a : SReg) (s : State) : Res :=
  s.withRegs [d, a] fun s => .next (s.result d (BitVec.ofNat 64 (popcount (s.reg a))))
def execClz (d a : SReg) (s : State) : Res :=
  s.withRegs [d, a] fun s => .next (s.result d (BitVec.ofNat 64 (leadingZeros (s.reg a))))

/-! ### Constants (R175) -/

def execLi (d : SReg) (i : BitVec 24) (s : State) : Res :=
  s.withRegs [d] fun s => .next (s.result d (i.signExtend 64))
def execLih (d : SReg) (i : BitVec 24) (s : State) : Res :=
  s.withRegs [d] fun s =>
    .next (s.result d ((s.reg d &&& ~~~(0xFFFFFF#64 <<< 24)) ||| (i.zeroExtend 64 <<< 24)))
def execLix (d : SReg) (i : BitVec 16) (s : State) : Res :=
  s.withRegs [d] fun s =>
    .next (s.result d ((s.reg d &&& 0x0000FFFFFFFFFFFF#64) ||| (i.zeroExtend 64 <<< 48)))

/-! ### Branches (R176, R194) -/

/-- A branch to an offset where a condition holds, else on to the next word. -/
def State.branchIf {w : Nat} (s : State) (c : Bool) (o : BitVec w) : State :=
  if c then s.branch (s.target o) else s.advance

/-- A conditional branch on two registers. -/
def State.condBranch (s : State) (a b : SReg) (o : BitVec 24) (f : Word → Word → Bool) : Res :=
  s.withRegs [a, b] fun s => .next (s.branchIf (f (s.reg a) (s.reg b)) o)

def execBeq (a b : SReg) (o : BitVec 24) (s : State) : Res := s.condBranch a b o (fun x y => x == y)
def execBne (a b : SReg) (o : BitVec 24) (s : State) : Res := s.condBranch a b o (fun x y => x != y)
def execBlt (a b : SReg) (o : BitVec 24) (s : State) : Res := s.condBranch a b o (fun x y => x.slt y)
def execBge (a b : SReg) (o : BitVec 24) (s : State) : Res := s.condBranch a b o (fun x y => !x.slt y)
def execBltn (a b : SReg) (o : BitVec 24) (s : State) : Res := s.condBranch a b o (fun x y => x.ult y)
def execBgen (a b : SReg) (o : BitVec 24) (s : State) : Res := s.condBranch a b o (fun x y => !x.ult y)
def execBr (o : BitVec 24) (s : State) : Res := .next (s.branch (s.target o))

/-- The check of R27 on an instruction of the control stream. -/
def State.withFeat (s : State) (need : Nat) (k : State → Res) : Res :=
  match s.lacks need with
  | some t => s.raise t
  | none => k s

/-- The head of bo popped; the control stream stalls while bo is empty (R18, R195). -/
def State.popBo (s : State) (k : Bool → State → Res) : Res :=
  match s.t.q.bo with
  | [] => .next (s.block .bo)
  | b :: l => k b (s.mapQ (fun q => { q with bo := l }))

def execBq (o : BitVec 24) (s : State) : Res :=
  s.withFeat 1 fun s => s.popBo fun b s => .next (s.branchIf b o)
def execBqn (o : BitVec 24) (s : State) : Res :=
  s.withFeat 1 fun s => s.popBo fun b s => .next (s.branchIf (!b) o)

/-- The pop phase of a word follows the push of its probe (R443). -/
def State.toPop (s : State) (w : Word) : State := s.mapC (fun c => { c with pc := s.wordAddr ||| 2, popWord := some w })

/-- The first phase of bmz and bmnz (R196, R443): a probe enters the lane queue; the pop phase of the word follows. -/
def State.pushProbe (s : State) (i : Instr) : Res :=
  s.withFeat 1 fun s => s.withRoom fun s => .next ((s.pushEntry .probe (encode i) 0 0 0).toPop (encode i))

def execBmz (o : BitVec 24) (s : State) : Res := s.pushProbe (.bmz o)
def execBmnz (o : BitVec 24) (s : State) : Res := s.pushProbe (.bmnz o)

/-- The word whose pop phase is due: the one whose probe was pushed, or after a return or resume to it, the word as it is
fetched (R168, R443). -/
def State.popPhaseWord (s : State) : Word × State :=
  match s.t.c.popWord with
  | some w => (w, s)
  | none => let (w, s) := s.fetchWord s.wordAddr; (w, s.mapC (fun c => { c with popWord := some w }))

/-- The bit popped, the word of the pop phase is done. -/
def State.endPop (s : State) (c : Bool) (o : BitVec 24) : State :=
  (s.mapC (fun x => { x with popWord := none })).branchIf c o

/-- The pop phase (R443, R196): the popped bit decides the branch of bmz, bmnz or bz.end; any other word there traps
TC_CODE_BOUND. -/
def execPopPhase (s : State) : Res :=
  let (w, s) := s.popPhaseWord
  match decode w with
  | .ok (.bmz o) => s.popBo fun b s => .next (s.endPop b o)
  | .ok (.bmnz o) => s.popBo fun b s => .next (s.endPop (!b) o)
  | .ok (.bzEnd _ o) => s.popBo fun b s => .next (s.endPop b o)
  | _ => s.raise (Trap.of .codeBound)

/-! ### Calls (R50 to R52, R197) -/

/-- The window check and then the alignment of an operand of some bytes (R184). -/
def State.alignFault (s : State) (ag : Agent) (k : Access) (size va align : Nat) : Option AccFault :=
  if !(List.range size).all (fun i => s.windowOk ag k ((va + i) % 2 ^ 64)) then
    some ⟨.memPermission, 0, va, k.code⟩
  else if va % align != 0 then some ⟨.memAlign, 0, va, k.code⟩
  else none

/-- The push of a call record and the jump (R50, R51). -/
def State.callTo (s : State) (target : Word) : Res :=
  let sp := s.reg spReg - 16
  let ra := s.wordAddr + 8
  match s.alignFault s.ctlAgent .write 16 sp.toNat 16 with
  | some f => s.raise (f.trap false none)
  | none =>
    match s.cstore 8 sp.toNat ra.toNat with
    | (.error f, s') => s'.raise (f.trap false none)
    | (.ok (), s1) =>
      match s1.cstore 8 (sp + 8).toNat (vstateWord s.t.c.depth s.t.c.v).toNat with
      | (.error f, _) => s.raise (f.trap false none)
      | (.ok (), s2) => .next (((s2.setReg lrReg ra).setReg spReg sp).branch target)

def execCall (o : BitVec 24) (s : State) : Res :=
  s.withRegs [spReg, lrReg] fun s => s.callTo (s.target o)

/-- Bits 2:0 of a target that R180 admits for callr and ret. -/
def targetOk (a : Word) : Bool := a.toNat % 8 == 0 || a.toNat % 8 == 4

def execCallr (a : SReg) (s : State) : Res :=
  s.withRegs [spReg, lrReg, a] fun s =>
    if targetOk (s.reg a) then s.callTo (s.reg a) else s.raise (Trap.of .codeBound)

/-- The return (R50, R52): the record is loaded; then the address and the depth are checked, for which nothing waits on the
lane stream; then the record is popped and the vector-state word applied, in the control copies here and in the lane stream
through the lane queue, once that has room: until then the instruction stalls and runs again. -/
def execRet (s : State) : Res :=
  s.withRegs [spReg] fun s0 =>
    let s := s0
    let sp := s.reg spReg
    match s.alignFault s.ctlAgent .read 16 sp.toNat 16 with
    | some f => s.raise (f.trap false none)
    | none =>
      match s.cload 8 sp.toNat with
      | (.error f, s) => s.raise (f.trap false none)
      | (.ok ra, s) =>
        match s.cload 8 (sp + 8).toNat with
        | (.error f, s) => s.raise (f.trap false none)
        | (.ok w, s) =>
          let ra := BitVec.ofNat 64 ra
          let w := BitVec.ofNat 64 w
          if !targetOk ra then s.raise (Trap.of .codeBound)
          else if s.t.c.depth < vstateDepth w then s.raise (Trap.of .badHandle)
          else if laneDepth ≤ s.t.q.lane.length then .next (s0.block .laneRoom)
          else
            let lanes := s.t.alloc.lanes
            let s := s.pushPart .ret w 0 (BitVec.ofNat 64 lanes)
            let s := s.setReg spReg (sp + 16)
            let s := s.mapC (fun c => { c with v := c.v.restore lanes w, depth := vstateDepth w })
            .next (s.branch ra)

end Sys2Proof.Machine
end

