-- ==== Sys2Proof/Machine/ScalarMem.lean ====
section
/-! DEFINITION. Scalar loads and stores (R198 to R200), atomics (R201, R202), fences (R103, R203), draining and waiting
(R108, R204, R206). -/

namespace Sys2Proof.Machine

/-! ### Loads and stores -/

/-- The address of a scalar access (R174, R198). -/
def State.dispAddr {w : Nat} (s : State) (a : SReg) (e : BitVec w) : Word := s.reg a + e.signExtend 64

/-- A load of some bytes, extended (R198): checked here, performed later; its destination awaits the data (R200). -/
def State.loadTo {w : Nat} (s : State) (size : Nat) (signed : Bool) (d a : SReg) (e : BitVec w) : Res :=
  s.withRegs [d, a] fun s =>
    match s.issue .read (.load d.val signed) size (s.dispAddr a e).toNat with
    | (.error f, s) => s.raise (f.trap false none)
    | (.ok (), s) => .next s.advance

/-- A store of the low bytes of a register (R198, R200). -/
def State.storeFrom {w : Nat} (s : State) (size : Nat) (a b : SReg) (e : BitVec w) : Res :=
  s.withRegs [a, b] fun s =>
    match s.cstore size (s.dispAddr a e).toNat (s.reg b).toNat with
    | (.error f, s) => s.raise (f.trap false none)
    | (.ok (), s) => .next s.advance

def execLdB (d a : SReg) (e : BitVec 24) (s : State) : Res := s.loadTo 1 false d a e
def execLdH (d a : SReg) (e : BitVec 24) (s : State) : Res := s.loadTo 2 false d a e
def execLdW (d a : SReg) (e : BitVec 24) (s : State) : Res := s.loadTo 4 false d a e
def execLdD (d a : SReg) (e : BitVec 24) (s : State) : Res := s.loadTo 8 false d a e
def execLdBS (d a : SReg) (e : BitVec 24) (s : State) : Res := s.loadTo 1 true d a e
def execLdHS (d a : SReg) (e : BitVec 24) (s : State) : Res := s.loadTo 2 true d a e
def execLdWS (d a : SReg) (e : BitVec 24) (s : State) : Res := s.loadTo 4 true d a e
def execStB (a b : SReg) (e : BitVec 24) (s : State) : Res := s.storeFrom 1 a b e
def execStH (a b : SReg) (e : BitVec 24) (s : State) : Res := s.storeFrom 2 a b e
def execStW (a b : SReg) (e : BitVec 24) (s : State) : Res := s.storeFrom 4 a b e
def execStD (a b : SReg) (e : BitVec 24) (s : State) : Res := s.storeFrom 8 a b e

/-! ### Atomics (R201, R202, R111, R112) -/

/-- A read-modify-write checked here and performed later at its home slice; the old value loads sD (R202, R200). -/
def State.amoAt (s : State) (op : AmoOp) (size : Nat) (d a b c : SReg) (k : State → State) : Res :=
  let v := (s.reg b).toNat % 2 ^ (8 * size)
  let cmp := (s.reg c).toNat % 2 ^ (8 * size)
  match s.issue (.atomic (AmoOp.hostOk op)) (.amo d.val op v cmp) size (s.reg a).toNat with
  | (.error f, s) => s.raise (f.trap false none)
  | (.ok (), s) => .next (k s).advance

/-- An ordering attribute releases (R173, R103). -/
def ordRel : Ordering4 → Bool
  | .rel | .ar => true
  | _ => false

/-- An ordering attribute acquires (R173, R103). -/
def ordAcq : Ordering4 → Bool
  | .acq | .ar => true
  | _ => false

/-- A release of the control stream begins here: stores and atomics issued from now on wait for every access before it;
loads do not (R103). -/
def State.markRelease (s : State) : State := s.mapC (fun c => { c with relNo := c.accNo })

/-- An atomic: with a release the residual tile is flushed first, and it and later stores wait for the accesses before it;
with an acquire the loads and atomics so far, itself included, are performed before anything after it (R103). -/
def execAmo (op : AmoOp) (dbl : Bool) (ord : Ordering4) (_ : Scope) (d a b c : SReg) (s : State) : Res :=
  s.withRegs [d, a, b, c] fun s =>
    let k := fun (s : State) => if ordAcq ord then s.drainReads else s
    if ordRel ord then s.withFlush fun s => s.markRelease.amoAt op (if dbl then 8 else 4) d a b c k
    else s.amoAt op (if dbl then 8 else 4) d a b c k

/-! ### Fences (R103, R203) -/

/-- An acquire: every load and atomic before it is performed before any access after it. -/
def execFenceAcq (_ : Scope) (s : State) : Res := .next s.drainReads.advance
/-- A release: the residual tile is flushed; every access before it is performed before any store or atomic after it. -/
def execFenceRel (_ : Scope) (s : State) : Res := s.withFlush fun s => .next s.markRelease.advance
/-- A full fence: every access before it is performed before any access after it, and the residual tile is flushed. -/
def execFenceAr (_ : Scope) (s : State) : Res := s.withRelease fun s => .next s.advance

/-! ### Draining and waiting (R108, R206, R49) -/

/-- What an instruction does once every earlier lane instruction has completed; else it stalls. -/
def State.drained (s : State) (w : Wait) (k : State → Res) : Res := if s.laneIdle then k s else .next (s.block w)

def execVdrain (s : State) : Res := s.withFeat 1 fun s => s.drained .vdrain fun s => .next s.advance

/-- The wait on a barrier's phase (R49, R206): its 4-byte phase word at sA + 8 against the low half of sB. -/
def execAwait (a b : SReg) (s : State) : Res :=
  s.withRegs [a, b] fun s =>
    let va := s.reg a
    match s.alignFault s.ctlAgent .read 16 va.toNat 16 with
    | some f => s.raise (f.trap false none)
    | none =>
      match s.cload 4 (va + 8).toNat with
      | (.error f, s) => s.raise (f.trap false none)
      | (.ok v, s) =>
        let p := (s.reg b).toNat % 2 ^ 32
        if v == p then .next (s.block (.phase va p)) else .next s.advance

/-- The wait on an event (R206): the natural 64-bit word at sA against sB. -/
def execAwaitEv (a b : SReg) (s : State) : Res :=
  s.withRegs [a, b] fun s =>
    let va := s.reg a
    match s.alignFault s.ctlAgent .read 8 va.toNat 8 with
    | some f => s.raise (f.trap false none)
    | none =>
      match s.cload 8 va.toNat with
      | (.error f, s) => s.raise (f.trap false none)
      | (.ok v, s) =>
        if v < (s.reg b).toNat then .next (s.block (.event va (s.reg b))) else .next s.advance

end Sys2Proof.Machine
end

