-- ==== Sys2Proof/Machine/Queue.lean ====
section
/-! DEFINITION. Queues (R207), vector lengths (R37 to R40, R208), strip (R56, R209), nests (R54, R55, R210). -/

namespace Sys2Proof.Machine

def execQpush (q : QReg) (a : SReg) (s : State) : Res :=
  s.withFeat 1 fun s => s.withRegs [a] fun s =>
    if (s.t.q.get q.val).length < queueDepth then
      .next (s.mapQ (fun x => x.set q.val (x.get q.val ++ [s.reg a]))).advance
    else .next (s.block (.pushQueue q.val))

def execQpop (d : SReg) (q : QReg) (s : State) : Res :=
  s.withFeat 1 fun s => s.withRegs [d] fun s =>
    match s.t.q.get q.val with
    | [] => .next (s.block (.popQueue q.val))
    | v :: l => .next ((s.mapQ (fun x => x.set q.val l)).result d v)

/-! ### Vector lengths -/

/-- R23: the illegal state traps TC_ILLEGAL_CONFIG in the setvl family and strip. -/
def State.withLegal (s : State) (k : State → Res) : Res :=
  if s.t.c.v.illegal then s.raise (Trap.of .illegalConfig) else k s

/-- The grant of a request (R37): to sVL, to the control copies, and in the lane stream after every earlier lane
instruction. -/
def State.grantTo (s : State) (i : Instr) (d : SReg) (req : Nat) : State :=
  let v := s.t.c.v.granted s.lanes req
  let s := s.pushPart i (BitVec.ofNat 64 v.vl) 0 0
  (s.setReg d (BitVec.ofNat 64 v.vl)).mapC (fun c => { c with v := v })

def execSetvl (d a : SReg) (s : State) : Res :=
  s.withFeat 1 fun s => s.withLegal fun s => s.withRegs [d, a] fun s => s.withRoom fun s =>
    .next (s.grantTo (.setvl d a) d (s.reg a).toNat).advance

/-! ### Granting quads, tiles and segments (R36, R38, R40) -/

/-- A quad granted: every slot and mask column reads zero (R40); what a saved thread gave up there stands in its units
of movement (R406). -/
def State.clearQuad (s : State) (uid q : Nat) : State :=
  { s.clearCells (arrayBase uid + q * 2 ^ 20) (2 ^ 20) with
    cols := cellClear s.cols (colKey uid (q * 16384)) 16384 }

/-- A tile granted or cleared reads zero (R16, R40). -/
def State.clearTile (s : State) (uid t : Nat) : State :=
  { s.wipeErrors (accBase uid t 0 0) 32768 with accs := cellClear s.accs (accKey uid t 0 0) 4096 }

/-- A segment granted reads zero (R40, R285). -/
def State.clearSeg (s : State) (uid g : Nat) : State :=
  s.clearCells (weightBase uid + g * 2 ^ 18) (2 ^ 18)

/-- Free quads, tiles and segments of a unit, ascending (R36). A quad whose retirement is pending is not granted
(R438). -/
def State.freeQuads (s : State) (uid : Nat) : List Nat :=
  let u := s.unitSt uid
  let own := s.ownedQuads uid
  (List.range 16).filter (fun q => u.usable.getLsbD q && !u.pending.getLsbD q && !own.getLsbD q)
def State.freeTiles (s : State) (uid : Nat) : List Nat :=
  (List.range 8).filter (fun t => !(s.ownedTiles uid).getLsbD t)
def State.freeSegs (s : State) (uid : Nat) : List Nat :=
  (List.range 12).filter (fun g => !(s.ownedSegs uid).getLsbD g)

/-- Some quads, tiles and segments given to the thread in focus (R36, R40). -/
def State.giveQuads (s : State) (qs : List Nat) : State :=
  qs.foldl (fun s q => (s.clearQuad s.uid q).mapT (fun t =>
    { t with alloc := { t.alloc with quads := t.alloc.quads ||| (1#16 <<< q) } })) s
def State.giveTiles (s : State) (ts : List Nat) : State :=
  ts.foldl (fun s n => (s.clearTile s.uid n).mapT (fun t =>
    { t with alloc := { t.alloc with tiles := t.alloc.tiles ||| (1#8 <<< n) } })) s
def State.giveSegs (s : State) (gs : List Nat) : State :=
  gs.foldl (fun s g => (s.clearSeg s.uid g).mapT (fun t =>
    { t with alloc := { t.alloc with segs := t.alloc.segs ||| (1#12 <<< g) } })) s

/-- The quads that setvl.grow acquires (R38): free ones above the highest owned, until the lanes suffice. -/
def State.growQuads (s : State) (req : Nat) : List Nat :=
  let top := s.t.alloc.quadList.getLastD 0
  let cand := (s.freeQuads s.uid).filter (fun q => s.t.alloc.quads == 0 || top < q)
  cand.take ((req + 16383) / 16384 - s.t.alloc.quadList.length)

/-- setvl.grow (R38). -/
def execSetvlGrow (d a b : SReg) (s : State) : Res :=
  s.withFeat 1 fun s => s.withLegal fun s => s.withRegs [d, a, b] fun s => s.withRoom fun s =>
    let req := (s.reg a).toNat
    let res := (s.reg b).toNat
    let tiles := min (res % 16) 8
    let segs := min (res / 16 % 16) 12
    let s := s.giveQuads (s.growQuads req)
    let s := s.giveTiles ((s.freeTiles s.uid).take (tiles - popc 8 s.t.alloc.tiles.toNat))
    let s := s.giveSegs ((s.freeSegs s.uid).take (segs - popc 12 s.t.alloc.segs.toNat))
    .next (s.grantTo (.setvlGrow d a b) d req).advance

/-- The quads left after a shrink to n of the lowest rank (R39). -/
def Alloc.keep (a : Alloc) (n : Nat) : Alloc :=
  { a with quads := (a.quadList.take n).foldl (fun m q => m ||| (1#16 <<< q)) 0 }

/-- Entries of a queue after quads have been released: the lanes lost stay beyond VL for them (R40). -/
def LaneEntry.lose (n : Nat) (e : LaneEntry) : LaneEntry := { e with lanes := min e.lanes n }

/-- The same of an mmul in progress, or of one that was stopped. -/
def MmState.lose (n : Nat) (m : MmState) : MmState := { m with entry := m.entry.lose n }

/-- setvl.shrink (R39); elements in flight have landed before their quads are released (DEDUCED: log entry 66). -/
def execSetvlShrink (d a : SReg) (s : State) : Res :=
  s.withFeat 1 fun s => s.withLegal fun s => s.withRegs [d, a] fun s => s.withRoom fun s =>
    let s := s.settle.grantTo (.setvlShrink d a) d (s.reg a).toNat
    let n := max ((s.t.c.v.vl + 16383) / 16384) s.t.task.minQuads
    let s := { s with away := s.away.filter (fun x => !(x.task == s.t.task.id && x.unit.kind != 2 && n ≤ x.unit.rank)) }
    .next (s.mapT (fun t =>
      let a := t.alloc.keep n
      { t with
        alloc := a
        q := { t.q with lane := t.q.lane.map (·.lose a.lanes), held := t.q.held.map (·.lose a.lanes) }
        l := { t.l with
          started := t.l.started &&& a.quads
          mm := t.l.mm.map (·.lose a.lanes)
          kept := t.l.kept.map (·.lose a.lanes) } })).advance

/-! ### strip (R56, R209) -/

/-- The advance of a pointer (R56). -/
def stripStep (vl blen : Nat) : StripSz → Nat
  | .none => 0 | .b1 => vl | .b2 => 2 * vl | .b4 => 4 * vl | .b8 => 8 * vl
  | .blk => (vl + blen - 1) / blen

/-- The pointers of a strip, advanced. -/
def State.stripPtrs (s : State) (b : SReg) (vl blen : Nat) (zs : List StripSz) : State :=
  (zs.zip (List.range 4)).foldl (fun s p =>
    if p.1 == .none then s
    else
      let r := sreg (b.val + p.2)
      s.setReg r (s.reg r + BitVec.ofNat 64 (stripStep vl blen p.1))) s

def execStrip (d a b : SReg) (z0 z1 z2 z3 : StripSz) (o : BitVec 12) (s : State) : Res :=
  s.withFeat 1 fun s =>
    let zs := [z0, z1, z2, z3]
    let blen := (vtypeFields s.t.c.v.vtype.toNat).blen
    if s.t.c.v.illegal || (zs.contains .blk && blen == 0) then s.raise (Trap.of .illegalConfig)
    else
      let ptrs := (List.range (stripCount z1 z2 z3)).map (fun j => sreg (b.val + j))
      s.withRegs ([d, a] ++ ptrs) fun s => s.withRoom fun s =>
        let vl := s.t.c.v.vl
        let rem := (s.reg d).toNat - vl
        if rem != 0 && grant s.lanes s.t.c.v.vtype rem == 0 then s.raise (Trap.of .illegalConfig)
        else
          let s := s.setReg d (BitVec.ofNat 64 rem)
          let s := s.stripPtrs b vl blen zs
          let s := s.grantTo (.strip d a b z0 z1 z2 z3 o) a rem
          .next (s.branchIf (rem != 0) o)

/-! ### Nests (R54, R210) -/

/-- R54: the words that may not stand in a nest's body. -/
def noNestBody : Instr → Bool
  | .beq .. | .bne .. | .blt .. | .bge .. | .bltn .. | .bgen .. | .br .. | .bq .. | .bqn .. | .bmz .. | .bmnz ..
  | .bzEnd .. | .call .. | .callr .. | .ret | .nest .. | .strip .. | .launch .. | .launchW .. | .exit | .yieldpt
  | .tret => true
  | .pair _ b => b.transfers
  | _ => false

/-- A body word is admitted at capture (R54). -/
def bodyOk (w : Word) : Bool :=
  match decode w with
  | .ok i => !noNestBody i
  | .error _ => false

/-- The words of a body from number k on, fetched one after the other from an address into the loop buffer (R54, R168,
R360); the trap of the first that cannot be fetched (R428, R435). -/
def State.fetchBody (s : State) (a : Word) (k : Nat) : Nat → Except Trap (List (Nat × Word)) × State
  | 0 => (.ok [], s)
  | n + 1 => match s.fetchError a with
    | (some t, s) => (.error t, s)
    | (none, s) =>
      let (w, s) := s.fetchWord a
      match s.fetchBody (a + 8) (k + 1) n with
      | (.error t, s) => (.error t, s)
      | (.ok l, s) => (.ok ((k, w) :: l), s)

/-- The capture of a nest (R54, R55, R210): its body stands in the loop buffer from here on (R360). -/
def execNest (k : Fin 16) (dims : Fin 8) (a : SReg) (s : State) : Res :=
  if nestSus s.t.c.nestcfg then s.raise (Trap.of .badHandle)
  else
    let n := dims.val + 1
    let regs := (List.range n).map (fun j => sreg (a.val + j))
    s.withRegs regs fun s =>
      let body := (s.wordAddr + 8).toNat
      let words := (List.range (k.val + 1)).map (fun j => body + 8 * j)
      if !words.all (fun w => s.ctxT.fetchable (BitVec.ofNat 64 w)) then s.raise (Trap.of .codeBound)
      else match s.fetchBody (s.wordAddr + 8) 0 (k.val + 1) with
      | (.error t, s) => s.raise t
      | (.ok ws, s) =>
        if !ws.all (fun p => bodyOk p.2) || regs.any (fun r => wbits (s.reg r) 63 62 != 0) then s.raise (Trap.of .illegalWord)
        else
          let cfg := 2 ^ 63 + k.val * 2 ^ 59 + dims.val * 2 ^ 56 + a.val * 2 ^ 50 + body / 8 % 2 ^ 45
          .next (s.mapC (fun c => { c with nestcfg := BitVec.ofNat 64 cfg, nestctr := 0, body := ws })).advance

end Sys2Proof.Machine
end

