-- ==== Sys2Proof/Machine/System.lean ====
section
/-! DEFINITION. System registers (R19 to R27, R212, R213), tfence and the trap return (R214, R218), brk, nop, yieldpt
and exit (R219 to R221), ifence (R205), vdead (R204), and the entry of lane instructions into the lane queue (R30,
R184, R226). -/

namespace Sys2Proof.Machine

/-! ### System registers -/

/-- %quads (R25). -/
def State.quadsReg (s : State) : Word :=
  let u := (s.unitSt s.uid).usable
  BitVec.ofNat 64 (s.t.site * 2 ^ 48 + s.t.alloc.quads.toNat * 2 ^ 32 + popc 16 u.toNat * 2 ^ 16 + u.toNat)

/-- The set lanes of mask column 0 in the quads where the column has not been brought in since the thread was resumed. -/
def State.edoneAway (s : State) : Nat :=
  ((s.away.filter (fun x => x.task == s.t.task.id && x.unit.kind == 1 && x.unit.num == 0)).map (fun x =>
    (unpackColumn (s.unitData (slotBaseOf (s.ctxD x.ctx) x.slot) x.unit)).length)).foldl (· + ·) 0

/-- %edone: the count of set lanes in mask column 0 (R14, R19), wherever the column stands (R406). -/
def State.edone (s : State) : Nat :=
  ((List.range s.lanes).filter (fun l => (s.colWord l).getLsbD 0)).length + s.edoneAway

/-- What a read of a system register returns (R19, R21, R213). -/
def State.sysRead (s : State) (n : Nat) : Word :=
  let c := s.t.c
  let l := s.t.l
  match n with
  | 0x00 => BitVec.ofNat 64 c.v.vl
  | 0x01 => BitVec.ofNat 64 c.v.vlo
  | 0x02 => BitVec.ofNat 64 c.v.vli
  | 0x03 => c.v.vtype
  | 0x04 => BitVec.ofNat 64 l.vstart
  | 0x05 => s.vcp
  | 0x06 => BitVec.ofNat 64 s.edone
  | 0x07 => l.xclass.setWidth 64
  | 0x08 => l.xflags.setWidth 64
  | 0x09 => l.xen.setWidth 64
  | 0x0A => BitVec.ofNat 64 l.depth
  | 0x0B => s.t.task.wid
  | 0x0C => s.quadsReg
  | 0x0D => BitVec.ofNat 64 (s.feat (siteDie s.t.site))
  | 0x0E => 0x335666
  | 0x0F => BitVec.ofNat 64 s.ctxT.bankkey
  | 0x10 => BitVec.ofNat 64 s.ctxT.rquota
  | 0x11 => 0x00FFFC0000000000
  | 0x12 => c.drawkey.setWidth 64
  | 0x13 => BitVec.ofNat 64 (c.drawkey.toNat / 2 ^ 64)
  | 0x14 => c.drawid.setWidth 64
  | 0x15 => BitVec.ofNat 64 s.gts
  | 0x16 => c.tvec
  | 0x17 => c.nestctr
  | 0x18 => c.nestcfg
  | 0x19 => if s.locked s.t.task.ctx then 0 else s.t.dbg.ctl
  | 0x1A => s.ctxT.codebase
  | 0x1B => s.ctxT.codebound
  | 0x1C => BitVec.ofNat 64 s.ctxT.nakbackoff
  | _ => 0

/-- R21: a read of these registers first waits as vdrain does. -/
def sysWaits (n : Nat) : Bool := n == 4 || (6 ≤ n && n ≤ 10)

def execMfsr (d : SReg) (n : Fin 64) (s : State) : Res :=
  s.withRegs [d] fun s =>
    if sysWaits n.val then s.drained .sysRead fun s => .next (s.result d (s.sysRead n.val))
    else .next (s.result d (s.sysRead n.val))

/-- The control copies that a write of a draw register sets at once (R213). -/
def Ctrl.writeDraw (c : Ctrl) (n : Nat) (v : Word) : Ctrl :=
  if n == 0x12 then { c with drawkey := BitVec.ofNat 128 (c.drawkey.toNat / 2 ^ 64 * 2 ^ 64 + v.toNat) }
  else if n == 0x13 then { c with drawkey := BitVec.ofNat 128 (v.toNat * 2 ^ 64 + c.drawkey.toNat % 2 ^ 64) }
  else if n == 0x14 then { c with drawid := v.setWidth 32 }
  else c

/-- A write (R212): %tvec takes effect at once; every other one travels through the lane queue (R21, R213); a reserved
bit of a flag register traps (R24). -/
def execMtsr (n : Fin 64) (a : SReg) (s : State) : Res :=
  s.withRegs [a] fun s =>
    let v := s.reg a
    if n == 0x16 then .next (s.mapC (fun c => { c with tvec := v &&& 0xFFFFFFFFFFFF#64 })).advance
    else if (n == 7 || n == 8 || n == 9) && wbits v 63 8 != 0 then s.raise (Trap.of .illegalConfig)
    else s.withRoom fun s => .next ((s.pushPart (.mtsr n a) v 0 0).mapC (·.writeDraw n.val v)).advance

/-- The lane part of a write (R212, R213). -/
def Lane.writeSys (l : Lane) (n : Nat) (v : Word) : Lane :=
  match n with
  | 0x04 => { l with vstart := v.toNat % 2 ^ 19 }
  | 0x07 => { l with xclass := v.setWidth 8 }
  | 0x08 => { l with xflags := v.setWidth 8 }
  | 0x09 => { l with xen := v.setWidth 8 }
  | 0x12 => { l with drawkey := BitVec.ofNat 128 (l.drawkey.toNat / 2 ^ 64 * 2 ^ 64 + v.toNat) }
  | 0x13 => { l with drawkey := BitVec.ofNat 128 (v.toNat * 2 ^ 64 + l.drawkey.toNat % 2 ^ 64) }
  | 0x14 => { l with drawid := v.setWidth 32 }
  | _ => l

/-! ### Traps taken by the program, code, yield points, exit -/

/-- tfence (R214). -/
def execTfence (s : State) : Res :=
  s.drained .tfence fun s =>
    let x := s.t.l.xflags &&& s.t.l.xen
    if x != 0 then s.raise { Trap.of .arith with detail := x.toNat } else .next s.advance

/-- Four words of a frame, loaded as scalar accesses. -/
def State.loadWords (s : State) (va : Word) : Nat → Except AccFault (List Word) × State
  | 0 => (.ok [], s)
  | n + 1 =>
    match s.cload 8 va.toNat with
    | (.error f, s) => (.error f, s)
    | (.ok v, s) =>
      match s.loadWords (va + 8) n with
      | (.ok l, s) => (.ok (BitVec.ofNat 64 v :: l), s)
      | (.error f, s) => (.error f, s)

/-- Bits 2:0 of a trap-return target (R180, R443). -/
def resumeOk (a : Word) : Bool := targetOk a || a.toNat % 8 == 2

/-- Room in the lane queue for the held entries and the lane part of tret; an empty lane queue admits them all. -/
def State.tretRoom (s : State) : Bool :=
  s.t.q.lane.isEmpty || s.t.q.lane.length + s.t.q.held.length < laneDepth

/-- tret (R218): the loads and the checks first (R52); then it waits for room in the lane queue. -/
def execTret (s : State) : Res :=
  s.withRegs [spReg] fun s0 =>
    let s := s0
    let sp := s.reg spReg
    match s.alignFault s.ctlAgent .read 32 sp.toNat 16 with
    | some f => s.raise (f.trap false none)
    | none =>
      match s.loadWords sp 4 with
      | (.error f, s) => s.raise (f.trap false none)
      | (.ok [resume, _, two, vst], s) =>
        if !resumeOk resume then s.raise (Trap.of .codeBound)
        else if s.t.c.depth < vstateDepth vst then s.raise (Trap.of .badHandle)
        else if !s.tretRoom then .next (s0.block .laneRoom)
        else .next (s.trapReturn resume two vst)
      | (.ok _, s) => .next s

/-- ifence (R205): the thread's own accesses are performed, and what it had fetched ahead is discarded. -/
def execIfence (s : State) : Res :=
  let s := s.drainAccs
  .next (s.mapC (·.refetch s.stale)).advance

/-- yieldpt (R59, R220): the clearing of tiles outside the live set travels through the lane queue; with a soft
pre-emption pending it is the stop point (R60). -/
def execYieldpt (s : State) : Res :=
  s.withRoom fun s =>
    let s := (s.pushPart .yieldpt 0 0 0).advance
    .next (if s.t.preempt == .soft then s.mapT (fun t => { t with status := .preempting }) else s)

/-- exit (R221, R62): the thread is exiting, the control stream issues nothing more, a pending soft pre-emption is
discarded. In a user handler the held entries are dropped: the spec does not say what becomes of them (DESIGN CHOICE: log
entry 59). -/
def execExit (s : State) : Res :=
  .next (s.mapT (fun t => { t with
    status := .exiting
    preempt := if t.preempt == .soft then .none else t.preempt
    q := { t.q with held := [] }
    c := { t.c with committed := t.c.committed + 1, flush := false } }))

/-- brk (R219, R316): the trap with resume at the next word; with bs and en also a stop of the cluster. -/
def execBrk (code : BitVec 16) (s : State) : Res :=
  if s.t.laneBusy || s.accBusy then .next s
  else
    let d := s.t.dbg.ctl
    let cl := clusterNo s.t.site
    let s := s.advance.trap { Trap.of .brk with detail := code.toNat }
    .next (if d.getLsbD 0 && d.getLsbD 6 then s.stopCluster cl else s)

def execNop (s : State) : Res := .next s.advance

/-- A word that is no instruction (R183); of a pair the trap address is the pair's (R180). -/
def execReservedEncoding (_ : Word) (s : State) : Res := (s.setPc s.wordAddr).raise (Trap.of .illegalWord)

/-! ### The lane queue (R30) -/

/-- Operand registers a, b and c that are read at push (R30, R172): s0 where there is none. -/
def laneRegs : Instr → SReg × SReg × SReg
  | .vcfg a => (a, 0, 0)
  | .setvl2 a b => (a, b, 0)
  | .vadd _ _ _ b | .vsub _ _ _ b | .vmul _ _ _ b | .vmulh _ _ _ b | .vdiv _ _ _ b | .vrem _ _ _ b
  | .vmin _ _ _ b | .vmax _ _ _ b | .vand _ _ _ b | .vor _ _ _ b | .vandn _ _ _ b | .vxor _ _ _ b
  | .vxnor _ _ _ b | .vsel _ _ _ b _ | .vfadd _ _ _ b | .vfsub _ _ _ b | .vfmul _ _ _ b | .vfdiv _ _ _ b
  | .vfmin _ _ _ b | .vfmax _ _ _ b | .vcmp _ _ _ _ b | .vfcmp _ _ _ _ b | .vmov _ _ b | .vpick _ _ _ b
  | .vrand _ _ b => (0, bReg b, 0)
  | .vsll _ _ _ n | .vsrl _ _ _ n | .vsra _ _ _ n => (0, match n with | .b b => bReg b | .imm _ => 0, 0)
  | .vslideup _ _ _ _ _ k | .vslidedn _ _ _ _ _ k => (0, match k with | .scalar r => r | _ => 0, 0)
  | .vkth _ _ _ b | .vtopk _ _ _ _ b | .vtopp _ _ _ _ b => (0, match b with | .scalar r => r | _ => 0, 0)
  | .vtab _ _ a _ _ | .vscatl _ _ a => (a, 0, 0)
  | .vmload a b c => (a, b, c)
  | .vld _ _ a sc _ => (a, 0, sc.getD 0)
  | .vst _ a _ sc _ | .vstFree _ a _ sc _ => (a, 0, sc.getD 0)
  | .vlds _ _ a b _ => (a, b, 0)
  | .vsts _ _ a b _ _ => (a, b, 0)
  | .tld _ _ a _ _ | .tst _ a _ _ _ => (a, 0, 0)
  | .vgather _ _ _ a _ | .vscatter _ _ a _ _ | .vamo _ _ _ _ _ _ a _ _ | .vred _ _ _ _ _ a _ _
  | .racc _ _ _ a _ => (a, 0, 0)
  | .arrive a _ _ => (a, 0, 0)
  | .mcfg a => (a, 0, 0)
  | .mmul _ _ _ b | .mst _ _ _ b => (0, b, 0)
  | .mstm a _ _ sc => (a, 0, sc.getD 0)
  | .zopen _ a _ b => (a, b, 0)
  | .zskip _ b => (0, b, 0)
  | _ => (0, 0, 0)
where
  bReg : BSrc → SReg
    | .scalar r => r
    | _ => 0

/-- The instructions of the lane stream (R29). -/
def isLane : Instr → Bool
  | .vcfg .. | .setvl2 .. | .vid .. | .vadd .. | .vsub .. | .vmul .. | .vmulh .. | .vdiv .. | .vrem .. | .vmin ..
  | .vmax .. | .vneg .. | .vabs .. | .vand .. | .vor .. | .vandn .. | .vxor .. | .vxnor .. | .vnot .. | .vsll ..
  | .vsrl .. | .vsra .. | .vfsl .. | .vfsr .. | .vlut3 .. | .vcmp .. | .vsel .. | .vmov .. | .vslideup ..
  | .vslidedn .. | .vlscat .. | .mand .. | .mor .. | .mxor .. | .mandn .. | .mnot .. | .mmov .. | .mpush .. | .minv
  | .mpop | .mpopc .. | .vfadd .. | .vfsub .. | .vfmul .. | .vfdiv .. | .vfsqrt .. | .vfmin .. | .vfmax ..
  | .vfcmp .. | .vcvt .. | .vcvtLg .. | .vtab .. | .vkth .. | .vtopk .. | .vtopp .. | .vrsum .. | .vrmin ..
  | .vrmax .. | .vscanadd .. | .vscanand .. | .vfirst0 .. | .vpick .. | .vrand .. | .vscatl .. | .vmload ..
  | .vmicro .. | .vld .. | .vst .. | .vstFree .. | .vlds .. | .vsts .. | .tld .. | .tst .. | .vgather ..
  | .vscatter .. | .vamo .. | .vred .. | .racc .. | .rflush .. | .vfence .. | .arrive .. | .mcfg .. | .mmul ..
  | .mst .. | .mstm .. | .mzero .. | .mlive .. | .zopen .. | .zadv .. | .zldC .. | .zldP .. | .zldCK .. | .zldPK ..
  | .zldM .. | .zisect .. | .zunion .. | .zskip .. | .bzEnd .. | .zclose .. => true
  | _ => false

/-- What the push of an instruction does to the control copies (R21, R53, R226, R290). -/
def State.pushCopies (s : State) (i : Instr) (a b : Word) : State :=
  s.mapC (fun c => match i with
    | .vcfg _ => { c with v := c.v.config a }
    | .setvl2 .. => { c with v := c.v.two a.toNat b.toNat }
    | .mpush _ => { c with depth := c.depth + 1 }
    | .mpop => { c with depth := c.depth - 1 }
    | .mcfg _ => { c with mcfg := a }
    | _ => c)

/-- The value of operand a that the entry takes: for setvl2 the outer length that R41 grants (R226). -/
def State.pushA (s : State) (i : Instr) (a b : Word) : Word :=
  match i with
  | .setvl2 .. => BitVec.ofNat 64 (twoOuter s.lanes a.toNat b.toNat)
  | _ => a

/-- A lane instruction whose registers are ready (R113, R200) and that passes its checks at decode enters the lane queue
(R30); bz.end goes on to its pop phase (R443). -/
def State.enqueue (s : State) (i : Instr) (w : Word) : Res :=
  let (ra, rb, rc) := laneRegs i
  s.withRegs [ra, rb, rc] fun s =>
  match s.laneTrap i with
  | some t => s.raise t
  | none =>
    s.withRoom fun s =>
      let b := s.reg rb
      let a := s.pushA i (s.reg ra) b
      match i with
      | .bzEnd .. => .next ((s.pushEntry .probe w a b (s.reg rc)).toPop w)
      | _ => .next ((s.pushEntry .instr w a b (s.reg rc)).pushCopies i a b).advance

/-- A lane instruction run: by the lane stream from the head of the lane queue, its decode checks passed at push; or,
with the lane queue empty, with its decode checks here and its operands as the registers stand. -/
def State.laneRun (s : State) (i : Instr) (k : State → Res) : Res :=
  match s.t.q.lane with
  | _ :: _ => k s
  | [] => match s.laneTrap i with
    | some t => s.raise t
    | none =>
      let (ra, rb, _) := laneRegs i
      k (s.pushCopies i (s.pushA i (s.reg ra) (s.reg rb)) (s.reg rb))

/-- LANE_QUEUE_PUSH: a fetched lane instruction is decoded, checked and pushed (R30, R184). -/
def execLaneQueuePush (w : Word) (s : State) : Res :=
  match decode w with
  | .error _ => s.raise (Trap.of .illegalWord)
  | .ok i => if isLane i then s.enqueue i w else .next s

/-! ### Pairs (R177 to R181) -/

/-- A short instruction with the effect of its single-form equivalent (R181). -/
def State.runShort (s : State) (hi : Bool) (w : Word) (x : Short) : Res :=
  let r := bankS hi
  match x with
  | .nop => execNop s
  | .alu o d a b =>
    match o with
    | .add => execAdd (r d) (r a) (.reg (r b)) s | .sub => execSub (r d) (r a) (.reg (r b)) s
    | .and => execAnd (r d) (r a) (.reg (r b)) s | .or => execOr (r d) (r a) (.reg (r b)) s
    | .xor => execXor (r d) (r a) (.reg (r b)) s | .sll => execSll (r d) (r a) (.reg (r b)) s
    | .srl => execSrl (r d) (r a) (.reg (r b)) s | .sra => execSra (r d) (r a) (.reg (r b)) s
  | .addi d a i => execAdd (r d) (r a) (.imm (i.signExtend 23)) s
  | .li d i => execLi (r d) (i.signExtend 24) s
  | .ldD d a i => execLdD (r d) (r a) (i.signExtend 24) s
  | .ldW d a i => execLdW (r d) (r a) (i.signExtend 24) s
  | .stD d a i => execStD (r a) (r d) (i.signExtend 24) s
  | .stW d a i => execStW (r a) (r d) (i.signExtend 24) s
  | .br i => execBr (i.signExtend 24) s
  | .beqz a i => execBeq (r a) 0 (i.signExtend 24) s
  | .bnez a i => execBne (r a) 0 (i.signExtend 24) s
  | .bq i => execBq (i.signExtend 24) s
  | .bqn i => execBqn (i.signExtend 24) s
  | .qpush q a => execQpush (q.castLE (by decide)) (r a) s
  | .qpop d q => execQpop (r d) (Fin.ofNat 4 (q.val + 2)) s
  | .lane .. => match laneShort hi x with | some i => s.enqueue i w | none => .next s
  | .vmov .. => match laneShort hi x with | some i => s.enqueue i w | none => .next s

/-- Slot B of a pair, its address in the program counter (R180); until it has been executed the word is kept, so that both
slots are of one word (R168). -/
def State.slotB (s : State) (a b : Short) : Res :=
  match (s.mapC (fun c => { c with pc := s.wordAddr ||| 4, popWord := some (encode (.pair a b)) })).runShort true
      (encode (.pair a b)) b with
  | .next t => .next (if t.t.c.committed = s.t.c.committed then t else t.mapC (fun c => { c with popWord := none }))
  | r => r

/-- PAIR (R180): slot A and then slot B in one step; a stall or a trap in slot A holds slot B; a stall or a trap in
slot B leaves slot A's effects, with the program counter at slot B. -/
def execPair (a b : Short) (s : State) : Res :=
  if s.t.c.pc.getLsbD 2 then s.slotB a b
  else
    match s.runShort false (encode (.pair a b)) a with
    | .next t =>
      if t.t.c.committed = s.t.c.committed then .next t
      else
        let t := t.mapC (fun c => { c with pc := s.t.c.pc, committed := s.t.c.committed })
        t.slotB a b
    | r => r

/-! ### vdead (R59, R204) -/

/-- Slots of a group of an element type: its scale slot is one of them, where the type has one (R84). -/
def Group.slots (vt : VType) (g : Group) : List Nat :=
  (List.range (g.size + (if g.elem && vt.kind == 2 && vt.scaled then 1 else 0))).map (g.base + ·)

/-- The slots that an instruction writes; those of vmicro, which its routine names, are not among them. -/
def slotsWritten (vt : VType) (mc : MCfg) (i : Instr) : List Nat :=
  match i with
  | .vid _ _ d | .vadd _ d .. | .vsub _ d .. | .vmul _ d .. | .vmulh _ d .. | .vdiv _ d .. | .vrem _ d ..
  | .vmin _ d .. | .vmax _ d .. | .vneg _ d _ | .vabs _ d _ | .vand _ d .. | .vor _ d .. | .vandn _ d ..
  | .vxor _ d .. | .vxnor _ d .. | .vnot _ d _ | .vsll _ d .. | .vsrl _ d .. | .vsra _ d .. | .vfsl _ d ..
  | .vfsr _ d .. | .vlut3 _ d .. | .vsel _ d .. | .vmov _ d _ | .vslideup _ _ _ d .. | .vslidedn _ _ _ d ..
  | .vlscat _ _ d .. | .mpopc _ (.vec d) _ | .vfadd _ d .. | .vfsub _ d .. | .vfmul _ d .. | .vfdiv _ d ..
  | .vfsqrt _ d _ | .vfmin _ d .. | .vfmax _ d .. | .vcvt _ d .. | .vcvtLg _ d .. | .vtab _ d .. | .vkth _ (.vec d) ..
  | .vrsum _ (.vec d) _ | .vrmin _ (.vec d) _ | .vrmax _ (.vec d) _ | .vscanadd _ _ d _ | .vfirst0 _ (.vec d) _
  | .vrand _ d _ | .vscatl _ d _ | .vld _ d .. | .vlds _ d .. | .vgather _ _ d ..
  | .vamo _ _ _ _ _ d .. | .mst _ d .. | .zldC _ d _ | .zldP _ d _ | .zldCK _ d _ | .zldPK _ d _ =>
    match (groupsOf vt mc i).find? (fun g => g.base == d.val) with | some g => g.slots vt | none => [d.val]
  | .vpick _ (.vec d) .. => [d.val, d.val + 1]
  | .tld _ d _ k _ => (List.range (k.val + 1)).map (d.val + ·)
  | _ => []

/-- The mask columns that an instruction writes. -/
def masksWritten : Instr → List Nat
  | .vcmp _ _ d _ _ | .mand _ d _ _ | .mor _ d _ _ | .mxor _ d _ _ | .mandn _ d _ _ | .mnot _ d _ | .mmov _ d _
  | .vtopk _ _ d _ _ | .vtopp _ _ d _ _ | .vscanand _ _ d _ => [d.val]
  | .vfcmp m _ d _ _ => [d.val, m.x.val]
  | .zldM _ d _ => [d.val, d.val + 1]
  | .vadd m .. | .vsub m .. | .vmul m .. | .vmulh m .. | .vdiv m .. | .vrem m .. | .vmin m .. | .vmax m ..
  | .vneg m .. | .vabs m .. | .vsll m .. | .vsrl m .. | .vsra m .. | .vfadd m .. | .vfsub m .. | .vfmul m ..
  | .vfdiv m .. | .vfsqrt m .. | .vfmin m .. | .vfmax m .. | .vcvt m .. | .vcvtLg m .. | .racc m .. => [m.x.val]
  | _ => []

/-- The slots that an element in flight takes. -/
def Element.slots (e : Element) : List Nat :=
  let lo := e.cell % 64
  (List.range ((lo + (e.width + 7) / 8 + 1) / 2 - lo / 2)).map (lo / 2 + ·)

/-- vdead (R204, R59): once every earlier lane instruction has completed (R367), the last writer of it among them, the slot
or mask column is zero in every owned lane and dead. -/
def execVdead (mask : Bool) (n : Fin 32) (s : State) : Res :=
  s.withFeat 1 fun s => s.drained .vdead fun s =>
      let lanes := List.range s.lanes
      let s := { s with away := s.away.filter (fun x => !(x.task == s.t.task.id && x.unit.kind == (if mask then 1 else 0)
        && x.unit.num == n.val)) }
      let s := if mask then
          (s.setCols n.val (lanes.map (fun l => (l, false)))).mapL
            (fun l => { l with deadMasks := l.deadMasks ||| (1#32 <<< n.val) })
        else
          let cells := lanes.flatMap (fun l => [(s.slotCell n.val l, (0 : Byte)), (s.slotCell n.val l + 1, 0)])
          (s.store cells).mapL (fun l => { l with deadSlots := l.deadSlots ||| (1#32 <<< n.val) })
      .next s.advance

end Sys2Proof.Machine
end

