-- ==== Sys2Proof/Machine/Micro.lean ====
section
/-! DEFINITION. The sequencer: the run of a routine (R117 to R123, R128), and the pass trace (R318). -/

namespace Sys2Proof.Machine

/-! ### Running a routine (R123) -/

/-- A routine in progress: the machine, the scratch columns of the active lanes, P, passes run; newest first, the entry
words of its pass records (x, y, z of R317) where the pass trace is on; and the slots written by lane, where a cluster
has been touched by the driver (R311). -/
structure Micro where
  s : State
  scr : List (Nat × Nat)
  p : Nat
  passes : Nat
  log : List (Nat × Nat × Nat)
  wrote : List (Nat × Nat)

/-- A column's bit in a lane. -/
def Micro.col (m : Micro) (r : Roles) (x : Sel) (ls : List Loop) (l : Nat) : Bool :=
  match selColumn r x (selOffset x ls) with
  | (true, c) => (m.s.rd (m.s.slotCell 0 l + c / 8)).getLsbD (c % 8)
  | (false, c) => match m.scr.find? (fun p => p.1 == l) with | some p => p.2.testBit c | none => false

/-- A column's bit written in a lane. -/
def Micro.put (m : Micro) (r : Roles) (x : Sel) (ls : List Loop) (l : Nat) : Micro :=
  match selColumn r x (selOffset x ls) with
  | (true, c) =>
    let a := m.s.slotCell 0 l + c / 8
    let old := m.s.rd a
    let bit : Byte := 1#8 <<< (c % 8)
    let here := (l, c / 16)
    { m with
      s := m.s.store [(a, if x.val then old ||| bit else old &&& ~~~bit)]
      wrote := if m.s.clusters.isEmpty || m.wrote.contains here then m.wrote else here :: m.wrote }
  | (false, c) =>
    let put := fun (n : Nat) => if x.val then n ||| 2 ^ c else n &&& (0xFFFF ^^^ 2 ^ c)
    { m with scr := m.scr.map (fun p => if p.1 == l then (p.1, put p.2) else p) }

/-- First thread lane of the pass-trace window (R314). -/
def State.traceWindow (s : State) : Nat :=
  wbits ((s.cluster (clusterNo s.t.site)).sets.toArray.getD (setNo s.t.site) ⟨0, 0, 0, 0⟩).ptwin 17 0

/-- The passes of a routine are traced: the trace is on, and an owned quad holds the window (R318). -/
def State.passesTraced (s : State) : Bool :=
  s.t.dbg.ctl.getLsbD 0 && s.t.dbg.ctl.getLsbD 5 && decide (s.traceWindow < s.lanes)

/-- The pass-trace record of a pass (R318); a routine's passes count from 1 (R325). -/
def Micro.record (m : Micro) (e : Nat) (w : Word) (tag : List Nat) (skipped : Bool) : Micro :=
  if m.s.passesTraced then
    let win := m.s.traceWindow
    let y := if skipped then 0
      else (tag.filter (fun l => win ≤ l && l < win + 64)).foldl (fun y l => y + 2 ^ (l - win)) 0
    let z := e * 2 ^ 20 + (m.passes + 1) % 2 ^ 16 + (if skipped then 2 ^ 63 else 0)
    { m with log := (w.toNat, y, z) :: m.log }
  else m

/-- One pass over the active lanes (R117, R120, R121, R123). -/
def Micro.pass (m : Micro) (r : Roles) (act : List Nat) (e : Nat) (w : Word) (ls : List Loop) : Micro :=
  let xs := selsOf w
  let tag := act.filter (fun l => xs.all (fun x => !x.cen || m.col r x ls l == x.key))
  let quad := fun l => l / 16384
  let win := m.s.traceWindow
  let skipped := w.getLsbD 19 && !act.any (fun l => quad l == quad win && m.col r (selOf w 0) ls l)
  let m' := if wbits w 63 62 == 1 then
      { m with p := m.p + tag.length * 2 ^ (match ls with | l :: _ => l.i | [] => 0) }
    else tag.foldl (fun m l => (xs.filter (·.wen)).foldl (fun m x => m.put r x ls l) m) m
  let m' := m'.record e w tag skipped
  { m' with passes := m'.passes + 1 }

/-- The entry after the next that matches a loop word (R122). -/
def afterNext (tbl : Nat → Word) : Nat → Nat → Nat → Nat
  | 0, e, _ => e
  | k + 1, e, depth =>
    let w := tbl e
    if wbits w 63 62 == 2 && wbits w 61 60 == 0 then afterNext tbl k (e + 1) (depth + 1)
    else if wbits w 63 62 == 2 && wbits w 61 60 == 1 then
      (if depth == 0 then e + 1 else afterNext tbl k (e + 1) (depth - 1))
    else afterNext tbl k (e + 1) depth

/-- A routine from an entry, inside open loops (R122, R123). -/
def Micro.run (tbl : Nat → Word) (vt : VType) (r : Roles) (act : List Nat) : Nat → Nat → List Loop → Micro → Micro
  | 0, _, _, m => m
  | k + 1, e, ls, m =>
    let w := tbl e
    if wbits w 63 62 == 2 then
      match wbits w 61 60 with
      | 0 =>
        let n := loopCount vt w
        let down := w.getLsbD 59
        if n == 0 then Micro.run tbl vt r act k (afterNext tbl 4096 (e + 1) 0) ls m
        else Micro.run tbl vt r act k (e + 1) (⟨n, if down then n - 1 else 0, down, wbits w 55 52, e + 1⟩ :: ls) m
      | 1 => match ls with
        | [] => m
        | l :: o =>
          if l.down then
            (if l.i == 0 then Micro.run tbl vt r act k (e + 1) o m
             else Micro.run tbl vt r act k l.body ({ l with i := l.i - 1 } :: o) m)
          else if l.i + 1 == l.n then Micro.run tbl vt r act k (e + 1) o m
          else Micro.run tbl vt r act k l.body ({ l with i := l.i + 1 } :: o) m
      | _ => m
    else Micro.run tbl vt r act k (e + 1) ls (m.pass r act e w ls)

/-- Steps that suffice for every routine: at most 1,024 words in loops of at most 128 iterations, two deep. -/
def microFuel : Nat := 2 ^ 25

/-- A routine run from an entry over the active lanes, its scratch columns at zero. -/
def State.runMicro (s : State) (e : Nat) (r : Roles) (act : List Nat) : Micro :=
  Micro.run (s.microWord s.uid) s.vt r act microFuel e [] ⟨s, act.map (fun l => (l, 0)), 0, 0, [], []⟩

/-- The pass records of a routine that has run, in the order of its passes (R318). -/
def Micro.records (m : Micro) (s : State) : State :=
  m.log.reverse.foldl (fun s p =>
    s.traceWrite s.t (s.t.site + 4) 3 s.traceWindow s.laneAddr s.t.l.done p.1 p.2.1 p.2.2) s

/-- The pass trace of a canonical routine (R125, R318). -/
def State.tracePasses (s : State) (e : Nat) (r : Roles) (act : List Nat) : State := (s.runMicro e r act).records s

end Sys2Proof.Machine
end

