-- ==== Sys2Proof/Machine/LaneInt.lean ====
section
/-! DEFINITION. Lane instructions 0x40 to 0x69: configuration, lane identity, integers, logic, shifts, compare, select,
moves between lanes, masks and the mask stack (R222 to R241). -/

namespace Sys2Proof.Machine

/-! ### Configuration (R225, R226) -/

def execVcfg (a : SReg) (s : State) : Res :=
  s.laneRun (.vcfg a) fun s =>
    let w := s.opA a
    .next (s.mapL (fun l => { l with v := l.v.config w })).lanePop

/-- setvl2 (R41, R226): the lengths are those of its push. -/
def execSetvl2 (a b : SReg) (s : State) : Res :=
  s.laneRun (.setvl2 a b) fun s =>
    let inner := (s.opB b).toNat
    let outer := match s.t.q.lane with
      | e :: _ => e.a.toNat
      | [] => (s.pushA (.setvl2 a b) (s.reg a) (s.reg b)).toNat
    .next (s.mapL (fun l => { l with v := l.v.two outer inner })).lanePop

/-! ### Lane identity (R227) -/

def execVid (g : Guard) (sel : VidSel) (d : VReg) (s : State) : Res :=
  s.laneRun (.vid g sel d) fun s =>
    let v := s.t.l.v
    let f := match sel with | .lane => fun l => l | .inner => v.inner | .outer => v.outer
    s.laneResult (plainGuard g) s.vt d fun l => ⟨l, f l % 2 ^ s.vt.ew, 0, 0⟩

/-! ### Integer arithmetic (R228, R229) -/

/-- An integer result under the type's wrap or saturation (R64, R228). -/
def VType.fit (vt : VType) (x : Int) : Flagged := fitInt (vt.kind == 0) vt.sat vt.ew x
/-- The value of an integer element (R63). -/
def VType.int (vt : VType) (x : Nat) : Int := intVal (vt.kind == 0) vt.ew x

/-- An instruction of vA and b whose lanes compute a result from both elements. -/
def State.intBin (s : State) (i : Instr) (m : GuardX) (d a : VReg) (b : BSrc) (f : VType → Nat → Nat → Flagged) :
    Res :=
  s.laneRun i fun s => s.withB b fun b s =>
    let vt := s.vt
    s.laneResult m vt d fun l =>
      let r := f vt (s.elem vt.ew a.val l) (s.bElem vt b l)
      ⟨l, r.val, 0, r.fl⟩

/-- An instruction of vA alone. -/
def State.intUn (s : State) (i : Instr) (m : GuardX) (d a : VReg) (f : VType → Nat → Flagged) : Res :=
  s.laneRun i fun s =>
    let vt := s.vt
    s.laneResult m vt d fun l =>
      let r := f vt (s.elem vt.ew a.val l)
      ⟨l, r.val, 0, r.fl⟩

/-- X = op(A, B), then R228's wrap or saturation. -/
def intFn (f : Int → Int → Int) (vt : VType) (x y : Nat) : Flagged := vt.fit (f (vt.int x) (vt.int y))

/-- An instruction with the pass trace of the canonical routine that it runs, where it runs one to its end (R125,
R318). -/
def withTrace (s : State) (i : Instr) (g : Guard) (f : State → Res) : Res :=
  match canonicalOf s.vt i with
  | none => f s
  | some (e, a, b, d) =>
    if s.passesTraced && (match f s with | .next t => t.t.l.done != s.t.l.done | _ => false) then
      f (s.tracePasses e ⟨a, b, d⟩ (s.actives g))
    else f s

def execVadd (m : GuardX) (d a : VReg) (b : BSrc) (s : State) : Res :=
  withTrace s (.vadd m d a b) m.g (fun s => s.intBin (.vadd m d a b) m d a b (intFn (· + ·)))
def execVsub (m : GuardX) (d a : VReg) (b : BSrc) (s : State) : Res :=
  withTrace s (.vsub m d a b) m.g (fun s => s.intBin (.vsub m d a b) m d a b (intFn (· - ·)))
def execVmul (m : GuardX) (d a : VReg) (b : BSrc) (s : State) : Res :=
  s.intBin (.vmul m d a b) m d a b (intFn (· * ·))
def execVmulh (m : GuardX) (d a : VReg) (b : BSrc) (s : State) : Res :=
  s.intBin (.vmulh m d a b) m d a b fun vt x y => ⟨wrapInt vt.ew (vt.int x * vt.int y / (2 ^ vt.ew : Nat)), 0⟩

/-- Division (R228, R229): by zero all ones with ZD. -/
def execVdiv (m : GuardX) (d a : VReg) (b : BSrc) (s : State) : Res :=
  s.intBin (.vdiv m d a b) m d a b fun vt x y =>
    if vt.int y == 0 then ⟨2 ^ vt.ew - 1, flZD⟩ else vt.fit ((vt.int x).tdiv (vt.int y))
/-- Remainder (R228, R229): by zero the dividend with ZD. -/
def execVrem (m : GuardX) (d a : VReg) (b : BSrc) (s : State) : Res :=
  s.intBin (.vrem m d a b) m d a b fun vt x y =>
    if vt.int y == 0 then ⟨x, flZD⟩ else vt.fit ((vt.int x).tmod (vt.int y))
def execVmin (m : GuardX) (d a : VReg) (b : BSrc) (s : State) : Res :=
  s.intBin (.vmin m d a b) m d a b (intFn (fun x y => if x < y then x else y))
def execVmax (m : GuardX) (d a : VReg) (b : BSrc) (s : State) : Res :=
  s.intBin (.vmax m d a b) m d a b (intFn (fun x y => if x < y then y else x))
def execVneg (m : GuardX) (d a : VReg) (s : State) : Res :=
  s.intUn (.vneg m d a) m d a fun vt x => vt.fit (-(vt.int x))
def execVabs (m : GuardX) (d a : VReg) (s : State) : Res :=
  s.intUn (.vabs m d a) m d a fun vt x => vt.fit (vt.int x).natAbs

/-! ### Bitwise logic (R224, R232, R233) -/

/-- A bitwise instruction: the block scales of vA go with the result (R224). -/
def State.logic (s : State) (i : Instr) (g : Guard) (d a : VReg) (b : BSrc) (f : Nat → Nat → Nat) : Res :=
  s.laneRun i fun s => s.withB b fun b s =>
    let vt := s.vt
    s.laneResult (plainGuard g) vt d fun l =>
      let sc := s.scale vt a.val l
      ⟨l, f (s.elem vt.ew a.val l) (s.bElem vt b l), sc.1, sc.2⟩

/-- The complement of w bits. -/
def notBits (w x : Nat) : Nat := 2 ^ w - 1 - x % 2 ^ w

def execVand (g : Guard) (d a : VReg) (b : BSrc) (s : State) : Res :=
  s.logic (.vand g d a b) g d a b (· &&& ·)
def execVor (g : Guard) (d a : VReg) (b : BSrc) (s : State) : Res :=
  s.logic (.vor g d a b) g d a b (· ||| ·)
def execVandn (g : Guard) (d a : VReg) (b : BSrc) (s : State) : Res :=
  s.logic (.vandn g d a b) g d a b (fun x y => x &&& notBits s.vt.ew y)
def execVxor (g : Guard) (d a : VReg) (b : BSrc) (s : State) : Res :=
  s.logic (.vxor g d a b) g d a b (· ^^^ ·)
def execVxnor (g : Guard) (d a : VReg) (b : BSrc) (s : State) : Res :=
  s.logic (.vxnor g d a b) g d a b (fun x y => notBits s.vt.ew (x ^^^ y))
def execVnot (g : Guard) (d a : VReg) (s : State) : Res :=
  s.logic (.vnot g d a) g d a (.vec a) (fun x _ => notBits s.vt.ew x)

/-- The table of R233 on w bits. -/
def lut3 (t : BitVec 8) (w x y z : Nat) : Nat :=
  (List.range w).foldl (fun r i =>
    let j := (x.testBit i).toNat * 4 + (y.testBit i).toNat * 2 + (z.testBit i).toNat
    if t.getLsbD j then r + 2 ^ i else r) 0

def execVlut3 (g : Guard) (d a b c : VReg) (t : BitVec 8) (s : State) : Res :=
  s.laneRun (.vlut3 g d a b c t) fun s =>
    let vt := s.vt
    s.laneResult (plainGuard g) vt d fun l =>
      let sc := s.scale vt a.val l
      ⟨l, lut3 t vt.ew (s.elem vt.ew a.val l) (s.elem vt.ew b.val l) (s.elem vt.ew c.val l), sc.1, sc.2⟩

/-! ### Shifts (R230, R231) -/

/-- A shift by the amount of each lane. -/
def State.shift (s : State) (i : Instr) (m : GuardX) (d a : VReg) (n : ShiftSrc) (f : VType → Nat → Nat → Flagged) :
    Res :=
  match n with
  | .imm n => s.intUn i m d a (fun vt x => f vt x n.toNat)
  | .b b => s.intBin i m d a b f

def execVsll (m : GuardX) (d a : VReg) (n : ShiftSrc) (s : State) : Res :=
  s.shift (.vsll m d a n) m d a n fun vt x k =>
    if vt.ew ≤ k && !vt.sat then ⟨0, 0⟩
    else vt.fit (vt.int x * (2 ^ min k 128 : Nat))
def execVsrl (m : GuardX) (d a : VReg) (n : ShiftSrc) (s : State) : Res :=
  s.shift (.vsrl m d a n) m d a n fun vt x k => ⟨x / 2 ^ min k vt.ew, 0⟩
def execVsra (m : GuardX) (d a : VReg) (n : ShiftSrc) (s : State) : Res :=
  s.shift (.vsra m d a n) m d a n fun vt x k => ⟨wrapInt vt.ew (sextNat vt.ew x / (2 ^ min k vt.ew : Nat)), 0⟩

/-- A funnel shift (R231). -/
def State.funnel (s : State) (i : Instr) (g : Guard) (d a b : VReg) (f : Nat → Nat → Nat → Nat) : Res :=
  s.intBin i (plainGuard g) d a (.vec b) fun vt x y => ⟨f vt.ew x y % 2 ^ vt.ew, 0⟩

def execVfsl (g : Guard) (d a b : VReg) (n : BitVec 7) (s : State) : Res :=
  s.funnel (.vfsl g d a b n) g d a b fun w u v => u * 2 ^ n.toNat + v / 2 ^ (w - n.toNat)
def execVfsr (g : Guard) (d a b : VReg) (n : BitVec 7) (s : State) : Res :=
  s.funnel (.vfsr g d a b n) g d a b fun w u v => v / 2 ^ n.toNat + u * 2 ^ (w - n.toNat)

/-! ### Compare, select, move (R234 to R236) -/

/-- The order of two integers as Val.cmp gives it. -/
def intCmp (x y : Int) : Int := if x < y then -1 else if x = y then 0 else 1

def execVcmp (g : Guard) (cc : Cond) (d : MReg) (a : VReg) (b : BSrc) (s : State) : Res :=
  s.laneRun (.vcmp g cc d a b) fun s => s.withB b fun b s =>
    let vt := s.vt
    s.maskResult (plainGuard g) d fun l =>
      let c := intCmp (vt.int (s.elem vt.ew a.val l)) (vt.int (s.bElem vt b l))
      ⟨l, (condHolds cc c).toNat, 0, 0⟩

/-- vsel (R235, R224): the block's scale comes from the source that its first lane selects. -/
def execVsel (g : Guard) (d a : VReg) (b : BSrc) (c : MReg) (s : State) : Res :=
  s.laneRun (.vsel g d a b c) fun s => s.withB b fun b s =>
    let vt := s.vt
    s.laneResult (plainGuard g) vt d fun l =>
      let f := s.t.l.v.blockFirst vt.blen l
      let sc := if s.mask c f then s.scale vt a.val l else s.bScale vt b l
      let sc := if vt.scaled then sc else (0, 0)
      ⟨l, if s.mask c l then s.elem vt.ew a.val l else s.bElem vt b l, sc.1, sc.2⟩

def execVmov (g : Guard) (d : VReg) (b : BSrc) (s : State) : Res :=
  withTrace s (.vmov g d b) g (fun s => s.laneRun (.vmov g d b) fun s => s.withB b fun b s =>
    let vt := s.vt
    s.laneResult (plainGuard g) vt d fun l =>
      let sc := s.bScale vt b l
      ⟨l, s.bElem vt b l, sc.1, sc.2⟩)

/-! ### Moving elements between lanes (R237, R238) -/

/-- The lane that a slide reads for lane l, where there is one (R237). -/
def State.slideSource (s : State) (up inn rot : Bool) (k l : Nat) : Option Nat :=
  let (base, n) := s.t.l.v.segment inn l
  let i : Int := l - base
  let j := if up then i - k else i + k
  let j := if rot then j % n else j
  if 0 ≤ j && j < n && s.below (base + j.toNat) then some (base + j.toNat) else none

/-- A slide by k lanes (R237): k and, rotating, the segment's length are whole blocks. -/
def State.slide (s : State) (g : Guard) (up inn rot : Bool) (d a : VReg) (k : Nat) : Res :=
  let vt := s.vt
  let n := (s.t.l.v.segment inn 0).2
  if vt.scaled && (k % vt.blen != 0 || (rot && n % vt.blen != 0)) then s.raise (Trap.lane' .illegalConfig)
  else
    let from' := (s.actives g).filterMap (s.slideSource up inn rot k)
    s.overRows (from' ++ (if vt.scaled then from'.map (s.t.l.v.blockFirst vt.blen) else [])) fun s =>
    let xs := (s.actives g).filterMap (fun l => (s.slideSource up inn rot k l).map (fun j =>
      let sc := s.scale vt a.val j
      (⟨l, s.elem vt.ew a.val j, sc.1, sc.2⟩ : LaneVal)))
    .next ((s.writeLanes vt d.val xs).laneEnd (s.actives g) (flagsOf xs))

/-- The distance of a slide and the state that has read it (R237); none where its queue is empty. -/
def State.operandK (s : State) (k : SlideSrc) : Option (Nat × State) :=
  match k with
  | .imm k => some (k.toNat, s)
  | .scalar r => some ((s.opB r).toNat, s)
  | .q0 => (s.operandS .q0).map (fun p => (p.1.toNat, p.2))
  | .q1 => (s.operandS .q1).map (fun p => (p.1.toNat, p.2))

/-- The distance of a slide, or the wait. -/
def State.withSlide (s : State) (k : SlideSrc) (f : Nat → State → Res) : Res :=
  match s.operandK k with
  | some (n, s) => f n s
  | none => .next s

def execVslideup (g : Guard) (inn rot : Bool) (d a : VReg) (k : SlideSrc) (s : State) : Res :=
  s.laneRun (.vslideup g inn rot d a k) fun s => s.withSlide k fun k s => s.slide g true inn rot d a k
def execVslidedn (g : Guard) (inn rot : Bool) (d a : VReg) (k : SlideSrc) (s : State) : Res :=
  s.laneRun (.vslidedn g inn rot d a k) fun s => s.withSlide k fun k s => s.slide g false inn rot d a k

/-- vlscat (R238): ascending, so that the highest-numbered lane that names a target wins. -/
def execVlscat (g : Guard) (inn : Bool) (d a b : VReg) (s : State) : Res :=
  s.laneRun (.vlscat g inn d a b) fun s => s.overRows (s.actives g) fun s =>
    let vt := s.vt
    let xs := (s.actives g).filterMap (fun l =>
      let (base, n) := s.t.l.v.segment inn l
      let t := s.elem 32 b.val l
      if t < n && s.active g (base + t) then some (⟨base + t, s.elem vt.ew a.val l, 0, 0⟩ : LaneVal) else none)
    .next ((s.writeLanes vt d.val xs).laneEnd (s.actives g) 0)

/-! ### Masks and the mask stack (R239 to R241, R53) -/

/-- A mask instruction: a bit of each active lane. -/
def State.maskLogic (s : State) (i : Instr) (g : Guard) (d : MReg) (f : State → Nat → Bool) : Res :=
  s.laneRun i fun s => s.maskResult (plainGuard g) d fun l => ⟨l, (f s l).toNat, 0, 0⟩

def execMand (g : Guard) (d a b : MReg) (s : State) : Res :=
  s.maskLogic (.mand g d a b) g d fun s l => s.mask a l && s.mask b l
def execMor (g : Guard) (d a b : MReg) (s : State) : Res :=
  s.maskLogic (.mor g d a b) g d fun s l => s.mask a l || s.mask b l
def execMxor (g : Guard) (d a b : MReg) (s : State) : Res :=
  s.maskLogic (.mxor g d a b) g d fun s l => s.mask a l != s.mask b l
def execMandn (g : Guard) (d a b : MReg) (s : State) : Res :=
  s.maskLogic (.mandn g d a b) g d fun s l => s.mask a l && !s.mask b l
def execMnot (g : Guard) (d a : MReg) (s : State) : Res :=
  s.maskLogic (.mnot g d a) g d fun s l => !s.mask a l
def execMmov (g : Guard) (d a : MReg) (s : State) : Res :=
  s.maskLogic (.mmov g d a) g d fun s l => s.mask a l

/-- An instruction on the mask-stack columns of every owned lane (R53). -/
def State.stackStep (s : State) (entry : Nat) (depth : Nat) (f : Nat → Bool) : Res :=
  let xs := (List.range s.ownLanes).map (fun l => (l, f l))
  .next (((s.setCols (32 + entry) xs).mapL (fun l => { l with depth := depth })).laneEnd s.belowLanes 0)

def execMpush (a : MReg) (s : State) : Res :=
  s.laneRun (.mpush a) fun s =>
    let k := s.t.l.depth
    s.stackStep k (k + 1) fun l => s.top l && s.mask a l
def execMinv (s : State) : Res :=
  s.laneRun .minv fun s =>
    let k := s.t.l.depth
    s.stackStep (k - 1) k fun l => (k ≤ 1 || s.stackBit (k - 2) l) && !s.top l
def execMpop (s : State) : Res :=
  s.laneRun .mpop fun s =>
    .next ((s.mapL (fun l => { l with depth := l.depth - 1 })).laneDone 0)

/-- A scalar result pushed to a queue (R43, R444). -/
def State.pushQ (s : State) (q : QReg) (v : Nat) : State := s.mapQ (·.push q.val (BitVec.ofNat 64 v))

/-- mpopc (R241). -/
def execMpopc (g : Guard) (d : RedDst) (a : MReg) (s : State) : Res :=
  s.laneRun (.mpopc g d a) fun s =>
    let act := s.actives g
    match d with
    | .queue q => .next ((s.pushQ q (act.filter (s.mask a)).length).laneEnd act 0)
    | .vec d =>
      let vt := s.vt
      s.laneResult (plainGuard g) vt d fun l =>
        let seg := s.t.l.v.segment true l
        ⟨l, (act.filter (fun k => s.mask a k && s.t.l.v.segment true k == seg)).length % 2 ^ vt.ew, 0, 0⟩

end Sys2Proof.Machine
end

