-- ==== Sys2Proof/Machine/LaneParts.lean ====
section
/-! DEFINITION. What the lane stream does beside its instructions: the lane parts of control words (R21, R37, R52, R59,
R212, R213, R218) and the probes of bmz and bmnz (R43, R196); and when its head may start (R18, R142, R444). -/

namespace Sys2Proof.Machine

/-- Every count of a tile of the thread written as zero (R59, R300), with the accumulator watchpoints (R311); a
record of a hit names the matrix engine as source, of which R319 does not speak (DESIGN CHOICE: log entry 61). -/
def State.zeroTile (s : State) (n : Nat) : State :=
  let s := s.clearTile s.uid n
  if s.clusters.isEmpty then s
  else (List.range 4096).foldl (fun s k => s.watchAcc s.matrixAgent s.uid n (k / 128) (k % 128) 0) s

/-- The owned tiles outside a live set (R59). -/
def State.deadTiles (s : State) (live : BitVec 8) : List Nat :=
  (List.range 8).filter (fun n => s.t.alloc.tiles.getLsbD n && !live.getLsbD n)

/-- What the lane part of a control word does. -/
def State.partEffect (s : State) (e : LaneEntry) : State :=
  match decode e.word with
  | .ok (.setvl ..) | .ok (.setvlGrow ..) | .ok (.setvlShrink ..) | .ok (.strip ..) =>
    s.mapL (fun l => { l with v := { l.v with vl := e.a.toNat, vlo := 0, vli := 0 } })
  | .ok .ret => s.mapL (fun l => { l with v := l.v.restore e.c.toNat e.a, depth := vstateDepth e.a })
  | .ok .tret => s.mapL (fun l => { l with v := l.v.restore2 e.c.toNat e.a e.b, depth := vstateDepth e.a })
  | .ok .yieldpt => (s.deadTiles s.t.l.live).foldl State.zeroTile s
  | .ok (.mtsr n _) => s.mapL (·.writeSys n.val e.a)
  | _ => s

/-- The lane part of a control word at the head of the lane queue. -/
def State.runPart (s : State) (e : LaneEntry) : State :=
  (s.partEffect e).mapQ (fun q => { q with lane := q.lane.tail })

/-- The probe of bmz and bmnz (R43): whether the mask-stack top is set in no lane below VL. -/
def State.probeTop (s : State) : State :=
  let b := s.belowLanes.all (fun l => !s.top l)
  (s.mapQ (·.pushBo b)).laneEnd (s.actives noGuard) 0

/-- What the head of the lane queue is: a step of its own, or an instruction to be executed. -/
def State.laneHead (s : State) : Sum State Instr :=
  match s.t.q.lane with
  | [] => .inl s
  | e :: _ =>
    match e.kind, e.instr with
    | .part, _ => .inl (s.runPart e)
    | .probe, some (.bmz _) => .inl s.probeTop
    | .probe, some (.bmnz _) => .inl s.probeTop
    | _, some i => .inr i
    | _, none => .inl (s.mapQ (fun q => { q with lane := q.lane.tail }))

/-- The queue that an instruction pops as its operand b (R172). -/
def queueOperand : Instr → Option Nat
  | .vadd _ _ _ b | .vsub _ _ _ b | .vmul _ _ _ b | .vmulh _ _ _ b | .vdiv _ _ _ b | .vrem _ _ _ b
  | .vmin _ _ _ b | .vmax _ _ _ b | .vand _ _ _ b | .vor _ _ _ b | .vandn _ _ _ b | .vxor _ _ _ b
  | .vxnor _ _ _ b | .vsel _ _ _ b _ | .vfadd _ _ _ b | .vfsub _ _ _ b | .vfmul _ _ _ b | .vfdiv _ _ _ b
  | .vfmin _ _ _ b | .vfmax _ _ _ b | .vcmp _ _ _ _ b | .vfcmp _ _ _ _ b | .vmov _ _ b | .vpick _ _ _ b
  | .vrand _ _ b => ofB b
  | .vsll _ _ _ n | .vsrl _ _ _ n | .vsra _ _ _ n => match n with | .b b => ofB b | .imm _ => none
  | .vslideup _ _ _ _ _ k | .vslidedn _ _ _ _ _ k => match k with | .q0 => some 0 | .q1 => some 1 | _ => none
  | .vkth _ _ _ b | .vtopk _ _ _ _ b | .vtopp _ _ _ _ b => match b with | .q0 => some 0 | .q1 => some 1 | _ => none
  | _ => none
where
  ofB : BSrc → Option Nat
    | .q0 => some 0
    | .q1 => some 1
    | _ => none

/-- The queue operand of the head is empty: it has not started and waits (R18, R444). -/
def Queues.headWaits (q : Queues) : Bool :=
  match q.lane with
  | e :: _ => e.kind == .instr && !e.bPopped && (match e.instr.bind queueOperand with
    | some k => (q.get k).isEmpty
    | none => false)
  | [] => false

/-- The lane stream starts lane instructions in this thread state (R35, R60, R61, R313). -/
def Thread.laneStarts (t : Thread) : Bool :=
  match t.status with
  | .running | .blocked _ | .exiting => true
  | .preempting => match t.preempt with | .soft | .evict .. => true | _ => false
  | _ => false

/-- Slots of the rows of A that an mmul in progress reads (R292). -/
def MmState.rows (m : MmState) : List Nat :=
  match m.entry.instr with
  | some (.mmul _ _ a _) =>
    (List.range ((MCfg.of m.mcfg).g * groupOf (vtypeFields m.v.vtype.toNat).ew)).map (a.val + ·)
  | _ => []

/-- The tile of an mmul in progress. -/
def MmState.tile (m : MmState) : BitVec 8 := match m.entry.instr with | some i => tilesOf i | none => 0

/-- Lane instructions that wait for the completion of an mmul before them (R296): fences and releases; and vmicro, whose
written slots its routine names (log entry 59). -/
def waitsMmul : Instr → Bool
  | .vfence _ | .rflush _ | .arrive .. | .vmicro .. => true
  | .vamo _ _ _ o _ _ _ _ _ => o != .none
  | .vred _ _ _ rel _ _ _ _ => rel
  | _ => false

/-- An instruction acts on a tile (R296): it names it, as an mlive does that makes it live. -/
def onTile (i : Instr) (tile : BitVec 8) : Bool := (tilesOf i &&& tile) != 0

/-- An entry of the lane queue may run beside an mmul in progress (R296): it writes no row of A and acts on other tiles. -/
def MmState.beside (m : MmState) (l : Lane) (e : LaneEntry) : Bool :=
  match e.kind, e.instr with
  | .part, some .yieldpt => (m.tile &&& ~~~l.live) == 0
  | .part, _ | .probe, _ | .instr, none => true
  | .instr, some i =>
    !waitsMmul i && !onTile i m.tile
      && !(slotsWritten (vtypeFields l.v.vtype.toNat) (MCfg.of l.mcfg) i).any m.rows.contains

/-- The head of the lane queue may run beside the mmuls in progress. -/
def Thread.besideMmul (t : Thread) : Bool :=
  match t.q.lane with
  | [] => t.l.mm.isEmpty
  | e :: _ => t.l.mm.all (fun m => m.beside t.l e)

/-- Some access on its way, a store, an atomic or an accumulate request, writes rows of A of an mmul in progress through
memory (R296). -/
def State.writesRows (s : State) : Bool :=
  let rows := s.t.l.mm.flatMap MmState.rows
  let hit := fun (l : Loc) => match l with | .cell a _ => s.inRows rows a | _ => false
  s.t.l.stores.any (fun op => op.locs.any hit) || s.t.l.returns.any (fun e => e.amo.isSome && e.src.any hit)
    || s.reqs.any (fun r => r.taskId == s.t.task.id && r.racc.isSome && !r.performed
      && r.words.any (fun p => s.inRows rows (r.line * 64 + p.1 * accWidth r.typ)))

/-- Lane instructions before which every access of the lane stream on its way is performed: those that read or write
memory as they run, fences and arrivals, and vmicro (log entry 10). -/
def drainsAll : Instr → Bool
  | .vtab .. | .vscatl .. | .vmload .. | .vmicro .. | .mmul .. | .zopen .. | .zadv .. | .zldC .. | .zldP ..
  | .zldCK .. | .zldPK .. | .zldM .. | .zisect .. | .zunion .. | .zskip .. | .bzEnd .. | .zclose .. | .vfence _
  | .rflush _ | .arrive .. => true
  | .vamo _ _ _ o _ _ _ _ _ => o != .none
  | .vred _ _ _ rel _ _ _ _ => rel
  | _ => false

/-- Lane instructions that read memory as they run, more than once (R364, log entry 10). -/
def readsAsItRuns : Instr → Bool
  | .vtab .. | .vscatl .. | .vmload .. | .mmul .. | .zopen .. | .zadv .. | .zldC .. | .zldP .. | .zldCK .. | .zldPK ..
  | .zldM .. | .zisect .. | .zunion .. | .zskip .. | .bzEnd .. => true
  | _ => false

/-- The slots that an instruction names. -/
def slotsNamed (vt : VType) (mc : MCfg) (i : Instr) : List Nat :=
  (groupsOf vt mc i).flatMap (Group.slots vt) ++ (match i with
    | .tld _ d _ k _ => (List.range (k.val + 1)).map (d.val + ·)
    | .tst _ _ b k _ => (List.range (k.val + 1)).map (b.val + ·)
    | _ => [])

/-- A byte of the unit's own arrays. -/
def State.ownArray (s : State) : Loc → Bool
  | .cell a _ => arrayBase s.uid ≤ a && a < arrayBase s.uid + 2 ^ 24
  | _ => false

/-- Some accesses of the lane stream on their way are performed, unless an older racc's words must be performed first
(R145): elements with what they follow, and stores with what stands before them. -/
def State.landSome (s : State) (p : Element → Bool) (q : MemOp → Bool) : Option State :=
  if !s.t.l.returns.any p && !s.t.l.stores.any q then some s
  else if s.accWaits then none
  else if s.t.l.stores.any q then some (s.settle.performLanes (lastOf q s.settle.t.l.stores))
  else some (s.settleIf p)

/-- The accesses on their way that the head of the lane queue waits for (R111, R267): elements that take a slot it
names, and accesses to the unit's own arrays; before what accesses memory as it runs, all of them; before the lane part of
a control word the scales whose reads set a flag (R24, R72). -/
def State.laneLanded (s : State) : Option State :=
  match s.t.q.lane with
  | [] => some s
  | e :: _ =>
    match e.kind, e.instr with
    | .part, _ => s.landSome (fun x => x.scale == some true) (fun _ => false)
    | _, none => some s
    | _, some i =>
      if drainsAll i then (if s.accBusy then none else some s.drainLane)
      else
        let named := slotsNamed s.vt (MCfg.of s.t.l.mcfg) i
        s.landSome (fun x => x.slots.any named.contains || x.src.any s.ownArray) (fun op => op.locs.any s.ownArray)

/-- The head of the lane queue may be executed now: a flush of it that has begun has ended (R146, R148; accs says that
accumulates of the thread are still to be performed), or nothing that was started waits (R142, R444). -/
def Thread.laneReady (t : Thread) (accs : Bool) : Bool :=
  !t.q.lane.isEmpty && t.besideMmul &&
    (if t.l.flush then t.r.flushed && !accs
     else t.laneStarts && t.q.pend.isNone && t.r.place.isEmpty && !t.q.headWaits)

end Sys2Proof.Machine
end

