-- ==== Sys2Proof/Machine/Units.lean ====
section
/-! DEFINITION. Units of movement brought in (R406): the slots, mask columns and weight segments of a thread that has been
resumed, at its first touch of each. -/

namespace Sys2Proof.Machine

/-- Column i of some lanes as packed bytes: lane j at bit j mod 8 of byte j div 8. -/
def packColumn (cols : List (Nat × Word)) (i : Nat) : List Host.Cell :=
  cols.foldl (fun l p => if p.2.getLsbD i then cellSet 0 l (p.1 / 8) (cellGet (0 : Byte) l (p.1 / 8) ||| (1#8 <<< (p.1 % 8)))
    else l) []

/-- A unit of movement put into the resources of a thread; what another thread gave up there goes to its image first. -/
def State.putUnit (s : State) (t : Thread) (m : MoveUnit) (data : List Host.Cell) : State :=
  let uid := uidOf t.site
  let q := t.alloc.quadList.getD m.rank 0
  let s := s.evictUnit m.kind uid (if m.kind == 2 then m.num else q) m.num
  match m.kind with
  | 0 =>
    let a := arrayBase uid + q * 2 ^ 20
    s.store (data.map (fun p => (a + 64 * (p.1 / 2) + 2 * m.num + p.1 % 2, p.2)))
  | 1 => (unpackColumn data).foldl (fun s j => s.setColAt uid (q * 16384 + j) m.num true) s
  | _ => s.store (data.map (fun p => (weightBase uid + m.num * 2 ^ 18 + p.1, p.2)))

/-- A unit brought in from the image of a task's thread: errors go with slots and segments; mask columns, which nothing
protects, are never given bad data (R434, R435), and the task ends (DESIGN CHOICE: log entry 62). -/
def State.fromImage (s : State) (t : Thread) (base : Nat) (m : MoveUnit) : State :=
  if m.kind == 1 then
    match s.selfRead t.task.ctx [(m.imageBase base, m.span)] with
    | (true, s) => s.failTask t Cause.memPermission.code
    | (false, s) => s.putUnit t m (s.unitData base m)
  else
    (s.putUnit t m (s.unitData base m)).carry s.fleet.errors
      (m.shift (m.imageBase base) (m.placeBase (uidOf t.site) (t.alloc.quadList.getD m.rank 0)))

/-- Units that are away brought in: they are resident. -/
def State.bring (s : State) (p : Away → Bool) : State :=
  let (now, later) := s.away.partition p
  now.foldl (fun s x => match s.taskThread x.task with
    | some t => if x.unit.evictable then s.putUnit t x.unit x.unit.data
        else s.fromImage t (slotBaseOf (s.ctxD x.ctx) x.slot) x.unit
    | none => s) { s with away := later }

/-- The units that belong at some cells brought in. -/
def State.bringCells (s : State) (cells : List Nat) : State := s.bring (fun x => cells.any (fun a => s.belongs a x))

/-- The mask columns that an instruction reads, its guard apart. -/
def masksRead : Instr → List Nat
  | .mand _ _ a b | .mor _ _ a b | .mxor _ _ a b | .mandn _ _ a b => [a.val, b.val]
  | .mnot _ _ a | .mmov _ _ a | .mpush a | .mpopc _ _ a | .vscanand _ _ _ a | .vfirst0 _ _ a => [a.val]
  | .vsel _ _ _ _ c => [c.val]
  | .arrive _ b _ => [b.val]
  | _ => []

/-- The mask column of an instruction's guard (R171). -/
def guardRead : Instr → List Nat
  | .vadd m .. | .vsub m .. | .vmul m .. | .vmulh m .. | .vdiv m .. | .vrem m .. | .vmin m .. | .vmax m ..
  | .vneg m .. | .vabs m .. | .vsll m .. | .vsrl m .. | .vsra m .. | .vfadd m .. | .vfsub m .. | .vfmul m ..
  | .vfdiv m .. | .vfsqrt m .. | .vfmin m .. | .vfmax m .. | .vfcmp m .. | .vcvt m .. | .vcvtLg m .. | .racc m .. =>
    [m.g.reg.val]
  | .vid g .. | .vand g .. | .vor g .. | .vandn g .. | .vxor g .. | .vxnor g .. | .vnot g .. | .vfsl g .. | .vfsr g ..
  | .vlut3 g .. | .vcmp g .. | .vsel g .. | .vmov g .. | .vslideup g .. | .vslidedn g .. | .vlscat g .. | .mand g ..
  | .mor g .. | .mxor g .. | .mandn g .. | .mnot g .. | .mmov g .. | .mpopc g .. | .vtab g .. | .vkth g .. | .vtopk g ..
  | .vtopp g .. | .vrsum g .. | .vrmin g .. | .vrmax g .. | .vscanadd g .. | .vscanand g .. | .vfirst0 g .. | .vpick g ..
  | .vrand g .. | .vscatl g .. | .vmicro g .. | .vld g .. | .vst g .. | .vstFree g .. | .vlds g .. | .vsts g .. | .tld g ..
  | .tst g .. | .vgather g .. | .vscatter g .. | .vamo g .. | .vred g .. | .mmul g .. | .mst g .. | .zldC g .. | .zldP g ..
  | .zldCK g .. | .zldPK g .. | .zldM g .. => [g.reg.val]
  | _ => []

/-- The mask columns that an instruction touches: column 0 where it marks the lanes that it has done (R166). -/
def masksTouched (i : Instr) : List Nat :=
  masksWritten i ++ masksRead i ++ (guardRead i).filter (· != 0) ++ (match i with
    | .vld .. | .vst .. | .vstFree .. | .vlds .. | .vsts .. | .tld .. | .tst .. | .vgather .. | .vscatter .. | .vamo ..
    | .vred .. | .racc .. => [0]
    | _ => [])

/-- The slots that an instruction touches: those it names, the rows of A (R293), the index of vtab (R250), and for vmicro
all of them. -/
def slotsTouched (vt : VType) (mc : MCfg) (i : Instr) : List Nat :=
  slotsNamed vt mc i ++ (match i with
    | .mmul _ _ a _ => (List.range (mc.g * groupOf vt.ew)).map (a.val + ·)
    | .vtab _ _ _ b _ => [b.val]
    | .vmicro .. => List.range 32
    | _ => [])

/-- The mmul at the head of the lane queue was stopped: what was fixed at its start. -/
def State.keptMmul (s : State) : Option MmState :=
  match s.t.q.lane with
  | e :: _ => s.t.l.kept.find? (fun m => m.entry.seq == e.seq)
  | [] => none

/-- The units of the thread in focus that the head of its lane queue touches brought in (R406); an mmul that was stopped
touches what the type and the configuration of its start give it (R295). -/
def State.bringHead (s : State) : State :=
  if s.away.isEmpty then s
  else match s.t.q.lane.head?.bind LaneEntry.instr with
    | none => s
    | some i =>
      let (v, mcfg) := match s.keptMmul with | some m => (m.v, m.mcfg) | none => (s.t.l.v, s.t.l.mcfg)
      let slots := slotsTouched (vtypeFields v.vtype.toNat) (MCfg.of mcfg) i
      let masks := masksTouched i
      s.bring (fun x => x.task == s.t.task.id && ((x.unit.kind == 0 && slots.contains x.unit.num)
        || (x.unit.kind == 1 && masks.contains x.unit.num)))

end Sys2Proof.Machine
end

