-- ==== Sys2Proof/Machine/LaneFloat.lean ====
section
/-! DEFINITION. Lane instructions 0x80 to 0x88: float arithmetic, comparison and conversion (R243 to R249). -/

namespace Sys2Proof.Machine

/-! ### Float arithmetic (R245 to R247) -/

/-- A float instruction of vA and b. -/
def State.floatBin (s : State) (i : Instr) (m : GuardX) (d a : VReg) (b : BSrc) (f : Fmt → Nat → Val → Val → Flagged) :
    Res :=
  s.intBin i m d a b fun vt x y => f vt.fmt vt.rm (vt.fmt.val x) (vt.fmt.val y)

def execVfadd (m : GuardX) (d a : VReg) (b : BSrc) (s : State) : Res := s.floatBin (.vfadd m d a b) m d a b fAdd
def execVfsub (m : GuardX) (d a : VReg) (b : BSrc) (s : State) : Res := s.floatBin (.vfsub m d a b) m d a b fSub
def execVfmul (m : GuardX) (d a : VReg) (b : BSrc) (s : State) : Res := s.floatBin (.vfmul m d a b) m d a b fMul
def execVfdiv (m : GuardX) (d a : VReg) (b : BSrc) (s : State) : Res := s.floatBin (.vfdiv m d a b) m d a b fDiv
def execVfsqrt (m : GuardX) (d a : VReg) (s : State) : Res :=
  s.intUn (.vfsqrt m d a) m d a fun vt x => fSqrt vt.fmt vt.rm (vt.fmt.val x)
def execVfmin (m : GuardX) (d a : VReg) (b : BSrc) (s : State) : Res :=
  s.intBin (.vfmin m d a b) m d a b fun vt x y => ⟨(fMinMax vt.fmt false x y).val, 0⟩
def execVfmax (m : GuardX) (d a : VReg) (b : BSrc) (s : State) : Res :=
  s.intBin (.vfmax m d a b) m d a b fun vt x y => ⟨(fMinMax vt.fmt true x y).val, 0⟩

def execVfcmp (m : GuardX) (cc : Cond) (d : MReg) (a : VReg) (b : BSrc) (s : State) : Res :=
  s.laneRun (.vfcmp m cc d a b) fun s => s.withB b fun b s =>
    let vt := s.vt
    s.maskResult m d fun l =>
      let r := fCmp cc (vt.fmt.val (s.elem vt.ew a.val l)) (vt.fmt.val (s.bElem vt b l))
      ⟨l, r.val, 0, r.fl⟩

/-! ### Conversion (R248, R249) -/

/-- The source type of a conversion: the 20 bits of T with the block length of %vtype where it is scaled (R248, R84). -/
def srcType (t : BitVec 20) (vt : VType) : VType :=
  let u := vtypeFields t.toNat
  { u with blk := if u.kind == 2 || (u.kind == 3 && u.ew == 8) then vt.blk else 0 }

/-- Whether two types have one element format. -/
def sameFormat (u v : VType) : Bool := u.ew == v.ew && u.kind == v.kind && u.fe == v.fe && u.fm == v.fm && u.fin == v.fin

/-- The element of a conversion (R248), of an element under the residue m of its block scale. -/
def convert (u v : VType) (x : Nat) (m : Int) : Flagged :=
  if sameFormat u v then ⟨x, 0⟩
  else if u.kind == 3 && v.kind == 3 then (if u.ew == 8 then ⟨widenLog x, 0⟩ else narrowLog x)
  else if u.kind ≤ 1 && v.kind ≤ 1 then fitInt (v.kind == 0) v.sat v.ew (intVal (u.kind == 0) u.ew x)
  else elemOf v (elemVal u m x)

/-- vcvt (R248): the scale that the destination takes, and the scale left in the element. -/
def execVcvt (m : GuardX) (d a : VReg) (t : BitVec 20) (s : State) : Res :=
  s.laneRun (.vcvt m d a t) fun s =>
    let vt := s.vt
    let u := srcType t vt
    s.laneResult m vt d fun l =>
      let sc := s.scale u a.val l
      let rest := if vt.kind == 2 && vt.scaled then sc.1 % 8 else 0
      let r := convert u vt (s.elem u.ew a.val l) rest
      ⟨l, r.val, if vt.scaled then sc.1 - rest else 0, r.fl ||| sc.2⟩

/-- vcvt.lg (R249): the code of 2^y; the scale is written as 0. -/
def execVcvtLg (m : GuardX) (d a : VReg) (t : BitVec 20) (s : State) : Res :=
  s.laneRun (.vcvtLg m d a t) fun s =>
    let vt := s.vt
    let u := srcType t vt
    s.laneResult m vt d fun l =>
      let sc := s.scale u a.val l
      let r := logExp vt.ew (elemVal u sc.1 (s.elem u.ew a.val l))
      ⟨l, r.val, 0, r.fl ||| sc.2⟩

end Sys2Proof.Machine
end

