-- ==== Sys2Proof/Machine/LaneSearch.lean ====
section
/-! DEFINITION. Lane instructions 0x89 to 0x97: table lookup, order and selection, the nucleus, reductions and scans,
picking a lane, draws, count-table penalties, user microcode (R250 to R263, R86, R87). -/

namespace Sys2Proof.Machine

/-! ### Lane-stream reads -/

/-- A run of lane-stream reads of one size, ascending (R95). -/
def State.laneReads (s : State) (size va : Nat) : Nat → Except AccFault (List Nat) × State
  | 0 => (.ok [], s)
  | n + 1 =>
    match s.load s.laneAgent size va with
    | (.error f, s) => (.error f, s)
    | (.ok v, s) =>
      match s.laneReads size ((va + size) % 2 ^ 64) n with
      | (.ok l, s) => (.ok (v :: l), s)
      | (.error f, s) => (.error f, s)

/-- vtab (R250): the table is read whole, then each active lane takes its entry. -/
def execVtab (g : Guard) (d : VReg) (a : SReg) (b : VReg) (n : Fin 16) (s : State) : Res :=
  s.laneRun (.vtab g d a b n) fun s =>
    let vt := s.vt
    let act := s.actives g
    let va := (s.opA a).toNat
    let c := containerOf vt.ew
    match act with
    | [] => .next (s.laneEnd [] 0)
    | l :: _ =>
      match s.alignFault s.laneAgent .read c va c with
      | some f => s.raise (f.trap true (some l))
      | none =>
        match s.laneReads c va (2 ^ n.val) with
        | (.error f, s) => s.raise (f.trap true (some l))
        | (.ok tbl, s) =>
          s.laneResult (plainGuard g) vt d fun l =>
            ⟨l, tbl.getD (s.elem 16 b.val l % 2 ^ n.val) 0 % 2 ^ vt.ew, 0, 0⟩

/-! ### Segments (R42, R243) -/

/-- A segment: its first lane, its length, its active lanes in ascending order. -/
structure Seg where
  base : Nat
  len : Nat
  act : List Nat
deriving DecidableEq, Repr

/-- The segments that an instruction acts on: inner ones, or all lanes below VL as one. -/
def State.segs (s : State) (inn : Bool) (g : Guard) : List Seg :=
  (s.t.l.v.segments inn).map (fun p => ⟨p.1, p.2, ((List.range p.2).map (p.1 + ·)).filter (s.active g)⟩)

/-- A result of each segment: pushed to q2 or q3 in the whole form, written into every active lane of the segment at a
type in the .in form. No active lane raises a flag (R185). -/
def State.givesSeg (s : State) (g : Guard) (d : RedDst) (vt : VType) (f : Bool → Seg → Flagged) : State :=
  match d with
  | .queue q =>
    let seg : Seg := ⟨0, s.t.l.v.vl, s.actives g⟩
    let r := f true seg
    (s.pushQ q r.val).laneEnd seg.act (if seg.act.isEmpty then 0 else r.fl)
  | .vec d =>
    let xs := (s.segs true g).flatMap (fun sg => let r := f false sg; sg.act.map (fun l => (⟨l, r.val, 0, r.fl⟩ : LaneVal)))
    (s.writeLanes vt d.val xs).laneEnd (lanesOf xs) (flagsOf xs)

def State.reduce (s : State) (g : Guard) (d : RedDst) (vt : VType) (f : Bool → Seg → Flagged) : Res :=
  .next (s.givesSeg g d vt f)

/-- A mask result of each segment: the bit of each active lane, and the flags of the segment. -/
def State.givesSegMask (s : State) (g : Guard) (inn : Bool) (d : MReg) (f : Seg → (Nat → Bool) × Nat) : State :=
  let xs := (s.segs inn g).flatMap (fun sg =>
    let r := f sg
    sg.act.map (fun l => (⟨l, (r.1 l).toNat, 0, r.2⟩ : LaneVal)))
  (s.setCols d.val (xs.map (fun x => (x.lane, x.val != 0)))).laneEnd (lanesOf xs) (flagsOf xs)

def State.reduceMask (s : State) (g : Guard) (inn : Bool) (d : MReg) (f : Seg → (Nat → Bool) × Nat) : Res :=
  .next (s.givesSegMask g inn d f)

/-! ### Order (R251) -/

/-- The value of a lane's element of group v. -/
def State.value (s : State) (v l : Nat) : Val := elemVal s.vt 0 (s.elem s.vt.ew v l)

/-- The eligible lanes of a segment, and IV where a lane is excluded. -/
def State.eligible (s : State) (v : Nat) (sg : Seg) : List Nat × Nat :=
  (sg.act.filter (fun l => !(s.value v l).isNan), flagIf (sg.act.any (fun l => (s.value v l).isNan)) flIV)

/-- Bottom and top of the order, as codes. -/
def orderEnd (vt : VType) (top : Bool) : Nat :=
  match vt.kind with
  | 0 => wrapInt vt.ew (if top then intMax true vt.ew else intMin true vt.ew)
  | 1 => if top then 2 ^ vt.ew - 1 else 0
  | 2 => if vt.fin then vt.fmt.maxCode (!top) else vt.fmt.sign (!top) + vt.fmt.infMag
  | _ => if top then 2 ^ (vt.ew - 1) - 1 else 2 ^ vt.ew - 1

/-- An element as a scalar result: sign-extended for kind 000, zero-extended otherwise. -/
def queueElem (vt : VType) (x : Nat) : Nat := if vt.kind == 0 then wrapInt 64 (sextNat vt.ew x) else x

/-- The k-th largest of some lanes, equal elements counted separately (R252). -/
def State.kth (s : State) (v : Nat) (ls : List Nat) (k : Nat) : Option Nat :=
  ls.find? (fun l =>
    let x := s.value v l
    let above := (ls.filter (fun j => fLess x (s.value v j))).length
    let below := (ls.filter (fun j => fLess (s.value v j) x)).length
    above < k && k ≤ ls.length - below)

def execVkth (g : Guard) (d : RedDst) (a : VReg) (b : SQSrc) (s : State) : Res :=
  s.laneRun (.vkth g d a b) fun s => s.withSQ b fun k s =>
    let vt := s.vt
    s.reduce g d vt fun whole sg =>
      let (ls, fl) := s.eligible a.val sg
      let r : Flagged := match s.kth a.val ls k.toNat with
        | some l => ⟨s.elem vt.ew a.val l, fl⟩
        | none => ⟨orderEnd vt false, fl ||| flIV⟩
      ⟨if whole then queueElem vt r.val else r.val, r.fl⟩

/-- How many eligible lanes go before a lane in descending order, equal elements by lane (R253). -/
def State.rank (s : State) (v : Nat) (ls : List Nat) (l : Nat) : Nat :=
  let x := s.value v l
  (ls.filter (fun j => fLess x (s.value v j) || (!fLess (s.value v j) x && j < l))).length

def execVtopk (g : Guard) (inn : Bool) (d : MReg) (a : VReg) (b : SQSrc) (s : State) : Res :=
  s.laneRun (.vtopk g inn d a b) fun s => s.withSQ b fun k s =>
    s.reduceMask g inn d fun sg =>
      let (ls, fl) := s.eligible a.val sg
      (fun l => ls.contains l && decide (s.rank a.val ls l < k.toNat), fl)

/-! ### Masses (R254, R87) -/

/-- The permitted lanes of a segment: eligible, with no negative mass; IV where a lane is excluded. -/
def State.permitted (s : State) (v : Nat) (sg : Seg) : List Nat × Nat :=
  let bad := fun l => let x := s.value v l; x.isNan || (x.neg? && !x.isZero)
  (sg.act.filter (fun l => !bad l), flagIf (sg.act.any bad) flIV)

/-- Positive infinity. -/
def Val.isPosInf : Val → Bool
  | .inf false => true
  | _ => false

/-- The exponent of some finite values, below all of theirs. -/
def lowestExp (xs : List Val) : Int := xs.foldl (fun e x => match x with | .fin _ _ y => if y < e then y else e | _ => e) 0

/-- The masses of some lanes as exact counts of one unit. -/
def State.masses (s : State) (v : Nat) (ls : List Nat) : List (Nat × Int) :=
  let e := lowestExp (ls.map (s.value v))
  ls.map (fun l => (l, (s.value v l).scaleInt e))

def massSum (xs : List (Nat × Int)) : Int := xs.foldl (fun t x => t + x.2) 0

/-- The threshold of the nucleus (R254) among finite masses: the largest mass v with S(v) at or above p × total. -/
def nucleus (xs : List (Nat × Int)) (p : Nat) : Option Int :=
  let total := massSum xs
  let ok := fun (v : Int) => decide ((p : Int) * total ≤ massSum (xs.filter (fun x => decide (v ≤ x.2))) * (2 ^ 32 : Nat))
  (xs.filter (fun x => ok x.2)).foldl (fun t x => match t with
    | none => some x.2
    | some y => some (if y < x.2 then x.2 else y)) none

def execVtopp (g : Guard) (inn : Bool) (d : MReg) (a : VReg) (b : SQSrc) (s : State) : Res :=
  s.laneRun (.vtopp g inn d a b) fun s => s.withSQ b fun w s =>
    let p := min (wbits w 32 0) (2 ^ 32)
    s.reduceMask g inn d fun sg =>
      let (ls, fl) := s.permitted a.val sg
      if ls.any (fun l => (s.value a.val l).isPosInf) then
        (fun l => ls.contains l && (s.value a.val l).isPosInf, fl)
      else
        let xs := s.masses a.val ls
        if massSum xs == 0 then (fun _ => false, fl ||| flIV)
        else match nucleus xs p with
          | none => (fun _ => false, fl)
          | some t => (fun l => xs.any (fun x => x.1 == l && decide (t ≤ x.2)), fl)

/-! ### Reductions and scans (R255, R86) -/

/-- The exact sum of some float values, rounded once (R86). -/
def floatSum (f : Fmt) (rm : Nat) (xs : List Val) : Flagged :=
  if xs.isEmpty then ⟨0, 0⟩
  else if xs.any (·.isNan) then ⟨f.nan.val, 0⟩
  else
    let pos := xs.any (fun x => x == .inf false)
    let neg := xs.any (fun x => x == .inf true)
    if pos && neg then f.invalid
    else if pos then f.ofVal rm (.inf false)
    else if neg then f.ofVal rm (.inf true)
    else if xs.all (fun x => x.isZero && x.neg?) then ⟨f.sign true, 0⟩
    else
      let e := lowestExp xs
      let t := xs.foldl (fun t x => t + x.scaleInt e) 0
      f.ofSum rm t e

/-- A sum reduction of some lanes (R255): integers at a width, floats in the type. -/
def State.sumOf (s : State) (v w : Nat) (ls : List Nat) : Flagged :=
  let vt := s.vt
  if vt.kind ≤ 1 then
    fitInt (vt.kind == 0) vt.sat w (ls.foldl (fun t l => t + intVal (vt.kind == 0) vt.ew (s.elem vt.ew v l)) 0)
  else floatSum vt.fmt vt.rm (ls.map (s.value v))

def execVrsum (g : Guard) (d : RedDst) (a : VReg) (s : State) : Res :=
  s.laneRun (.vrsum g d a) fun s =>
    s.reduce g d s.vt fun whole sg => s.sumOf a.val (if whole then 64 else s.vt.ew) sg.act

/-- The least or greatest eligible element of some lanes. -/
def State.extreme (s : State) (max : Bool) (v : Nat) (ls : List Nat) : Option Nat :=
  ls.find? (fun l => ls.all (fun j => !(if max then fLess (s.value v l) (s.value v j) else fLess (s.value v j) (s.value v l))))

/-- vrmin and vrmax (R251, R255). -/
def State.minMax (s : State) (max : Bool) (g : Guard) (d : RedDst) (a : VReg) : Res :=
  let vt := s.vt
  s.reduce g d vt fun whole sg =>
    let x := match s.extreme max a.val (s.eligible a.val sg).1 with
      | some l => s.elem vt.ew a.val l
      | none => if sg.act.isEmpty then orderEnd vt (!max) else elemNan vt
    ⟨if whole then queueElem vt x else x, 0⟩

def execVrmin (g : Guard) (d : RedDst) (a : VReg) (s : State) : Res :=
  s.laneRun (.vrmin g d a) fun s => s.minMax false g d a
def execVrmax (g : Guard) (d : RedDst) (a : VReg) (s : State) : Res :=
  s.laneRun (.vrmax g d a) fun s => s.minMax true g d a

def execVscanadd (g : Guard) (inn : Bool) (d a : VReg) (s : State) : Res :=
  s.laneRun (.vscanadd g inn d a) fun s => s.overRows (s.actives g) fun s =>
    let vt := s.vt
    let xs := (s.segs inn g).flatMap (fun sg => sg.act.map (fun l =>
      let r := s.sumOf a.val vt.ew (sg.act.filter (· ≤ l))
      (⟨l, r.val, 0, r.fl⟩ : LaneVal)))
    .next ((s.writeLanes vt d.val xs).laneEnd (lanesOf xs) (flagsOf xs))

def execVscanand (g : Guard) (inn : Bool) (d a : MReg) (s : State) : Res :=
  s.laneRun (.vscanand g inn d a) fun s =>
    s.reduceMask g inn d fun sg => (fun l => (sg.act.filter (· ≤ l)).all (s.mask a), 0)

/-- vfirst0 (R255): the whole form gives the thread lane, the .in form the inner index. -/
def execVfirst0 (g : Guard) (d : RedDst) (a : MReg) (s : State) : Res :=
  s.laneRun (.vfirst0 g d a) fun s =>
    s.reduce g d s.vt fun whole sg =>
      match sg.act.find? (fun l => !s.mask a l) with
      | some l => ⟨if whole then l else (l - sg.base) % 2 ^ s.vt.ew, 0⟩
      | none => ⟨if whole then sg.len else sg.len % 2 ^ s.vt.ew, 0⟩

/-! ### Picking a lane (R256, R87) -/

/-- The first lane whose exact prefix sum exceeds u × total. -/
def pickLane (total : Int) (u : Nat) : Int → List (Nat × Int) → Option Nat
  | _, [] => none
  | acc, (l, x) :: r =>
    if (u : Int) * total < (acc + x) * (2 ^ 64 : Nat) then some l else pickLane total u (acc + x) r

/-- The pick of a segment for u = U / 2^64: a lane, or none. -/
def State.pickOf (s : State) (v : Nat) (sg : Seg) (u : Nat) : Option Nat × Nat :=
  let (ls, fl) := s.permitted v sg
  match ls.find? (fun l => (s.value v l).isPosInf) with
  | some l => (some l, fl)
  | none =>
    let xs := s.masses v ls
    let total := massSum xs
    if 0 < total then (pickLane total u 0 xs, fl) else (none, fl ||| flIV)

def execVpick (g : Guard) (d : RedDst) (a : VReg) (b : BSrc) (s : State) : Res :=
  s.laneRun (.vpick g d a b) fun s => s.withB b fun b s => s.overRows (s.actives g) fun s =>
    s.reduce g d (intType false 32) fun whole sg =>
      let u := match b with
        | .scalar w => w.toNat
        | .lanes v => match sg.act with | l :: _ => s.elem 64 v l | [] => 0
      let (r, fl) := s.pickOf a.val sg u
      ⟨match r with | some l => if whole then l else l - sg.base | none => 0xFFFFFFFF, fl⟩

/-! ### Draws (R257, R258) -/

def rotl32 (x n : Nat) : Nat := x % 2 ^ 32 * 2 ^ n % 2 ^ 32 + x % 2 ^ 32 / 2 ^ (32 - n)

/-- A round of the draw function. -/
def drawRound (key : Nat → Nat) (x : Nat × Nat × Nat × Nat) (r : Nat) : Nat × Nat × Nat × Nat :=
  let A := [16, 12, 8, 7].getD (r % 4) 0
  let B := [13, 9, 17, 11].getD (r % 4) 0
  let (x0, x1, x2, x3) := x
  let x0 := (x0 + x1) % 2 ^ 32
  let x3 := rotl32 (x3 ^^^ x0) A
  let x2 := (x2 + x3) % 2 ^ 32
  let x1 := rotl32 (x1 ^^^ x2) B
  let x0 := x0 ^^^ key (r % 4)
  let x2 := x2 ^^^ (key ((r + 2) % 4) + r) % 2 ^ 32
  (x0, x1, x2, x3)

/-- The draw function D (R257). -/
def draw (c l id key : Nat) : Nat :=
  let k := fun i => bits key (32 * i + 31) (32 * i)
  let x := (List.range 10).foldl (drawRound k) (bits c 31 0, bits c 63 32, l, id)
  x.2.1 * 2 ^ 32 + x.1

def execVrand (g : Guard) (d : VReg) (b : BSrc) (s : State) : Res :=
  s.laneRun (.vrand g d b) fun s => s.withB b fun b s =>
    s.laneResult (plainGuard g) (intType false 64) d fun l =>
      let c := match b with | .scalar w => w.toNat | .lanes v => s.elem 64 v l
      ⟨l, draw c l s.t.l.drawid.toNat s.t.l.drawkey.toNat, 0, 0⟩

/-! ### Penalties from a count table (R260) -/

/-- The descriptor of a segment. -/
structure CountTab where
  tbase : Nat
  cap : Nat
  rpos : Val
  rneg : Val
  pres : Val
  freq : Val

/-- An entry read: token, count. -/
structure CountEnt where
  id : Nat
  count : Nat
deriving DecidableEq, Repr

def f32Val (x : Nat) : Val := (f32Type 0).fmt.val (x % 2 ^ 32)

/-- Reads that stop at a trap, whose state is kept. -/
abbrev Reads (α : Type) := Except Trap α × State

/-- The entries of a table: each slot and then its chain; how many more may be read is the fuel (R260). -/
def State.countEnts (s : State) (ln : Option Nat) : Nat → Nat → Nat → Nat → Reads (List CountEnt × Nat)
  | fuel, chain, slot, left =>
    if chain == 0 && left == 0 then (.ok ([], fuel), s)
    else
      let at' := if chain != 0 then chain else slot
      match fuel with
      | 0 => (.error (Trap.lane' .illegalConfig), s)
      | fuel + 1 =>
        match s.alignFault s.laneAgent .read 16 at' 16 with
        | some f => (.error (f.trap true ln), s)
        | none =>
          match s.laneReads 8 at' 2 with
          | (.error f, s) => (.error (f.trap true ln), s)
          | (.ok ws, s) =>
            let w := ws.getD 0 0
            let rest := if chain != 0 then s.countEnts ln fuel (ws.getD 1 0) slot left
              else s.countEnts ln fuel (ws.getD 1 0) (slot + 16) (left - 1)
            match rest with
            | (.error t, s) => (.error t, s)
            | (.ok (l, k), s) => (.ok (⟨w % 2 ^ 32, w / 2 ^ 32⟩ :: l, k), s)

/-- The descriptor and the entries of a segment. -/
def State.countTab (s : State) (a o : Nat) (ln : Option Nat) (fuel : Nat) : Reads (CountTab × List CountEnt × Nat) :=
  let va := (a + 32 * o) % 2 ^ 64
  match s.alignFault s.laneAgent .read 32 va 32 with
  | some f => (.error (f.trap true ln), s)
  | none =>
    match s.laneReads 8 va 4 with
    | (.error f, s) => (.error (f.trap true ln), s)
    | (.ok ws, s) =>
      let w := fun i => ws.getD i 0
      let t : CountTab :=
        ⟨w 0, w 1 % 32, f32Val (w 2), f32Val (w 2 / 2 ^ 32), f32Val (w 3), f32Val (w 3 / 2 ^ 32)⟩
      if 16 < w 1 then (.error (Trap.lane' .illegalConfig), s)
      else match s.alignFault s.laneAgent .read 16 t.tbase 16 with
        | some f => (.error (f.trap true ln), s)
        | none =>
          match s.countEnts ln fuel 0 t.tbase (2 ^ t.cap) with
          | (.error e, s) => (.error e, s)
          | (.ok (l, k), s) => (.ok (t, l, k), s)

/-- The tables of every segment that has an active lane. -/
def State.countTabs (s : State) (a : Nat) : Nat → List Seg → Reads (List (Seg × CountTab × List CountEnt))
  | _, [] => (.ok [], s)
  | fuel, sg :: r =>
    match sg.act with
    | [] => s.countTabs a fuel r
    | l :: _ =>
      match s.countTab a (s.t.l.v.outer sg.base) (some l) fuel with
      | (.error t, s) => (.error t, s)
      | (.ok (t, es, k), s) =>
        match s.countTabs a k r with
        | (.error t, s) => (.error t, s)
        | (.ok xs, s) => (.ok ((sg, t, es) :: xs), s)

/-- The exact sum of two values; of opposite infinities no number. -/
def Val.plus (a b : Val) : Val :=
  match a, b with
  | .nan, _ | .nar, _ | _, .nan | _, .nar => .nan
  | .inf x, .inf y => if x == y then .inf x else .nan
  | .inf x, _ => .inf x
  | _, .inf y => .inf y
  | a, b => let e := minExp a b; let t := a.scaleInt e + b.scaleInt e; .fin (decide (t < 0)) t.natAbs e

/-- A value times a positive count. -/
def Val.timesNat : Val → Nat → Val
  | .fin n m e, k => .fin n (m * k) e
  | v, _ => v

/-- R260: the penalty of one entry on a logit. -/
def penalise (vt : VType) (t : CountTab) (count x : Nat) : Flagged :=
  let f := vt.fmt
  let v := f.val x
  if v.isNan then ⟨f.nan.val, 0⟩
  else
    let fac := if 0 < v.cmp (.fin false 0 0) then t.rpos else t.rneg
    let p := t.pres.plus (t.freq.timesNat count)
    if fac.isNan || p.isNan then f.invalid
    else
      let y := fMul f vt.rm v fac
      let z := fSub f vt.rm (f.val y.val) p
      ⟨z.val, y.fl ||| z.fl⟩

/-- The logit of a lane after the entries that name it, where some do. -/
def State.penalised (s : State) (d : VReg) (sg : Seg) (t : CountTab) (es : List CountEnt) (l : Nat) : Option LaneVal :=
  let mine := es.filter (fun e => e.id != 0xFFFFFFFF && 0 < e.count && e.id == l - sg.base)
  if mine.isEmpty then none
  else
    let r := mine.foldl (fun (r : Flagged) e =>
      let q := penalise s.vt t e.count r.val
      ⟨q.val, r.fl ||| q.fl⟩) ⟨s.elem s.vt.ew d.val l, 0⟩
    some ⟨l, r.val, 0, r.fl⟩

def execVscatl (g : Guard) (d : VReg) (a : SReg) (s : State) : Res :=
  s.laneRun (.vscatl g d a) fun s =>
    match s.countTabs (s.opA a).toNat (2 ^ 20) (s.segs true g) with
    | (.error t, s) => s.raise t
    | (.ok tabs, s) =>
      let xs := tabs.flatMap (fun p => p.1.act.filterMap (s.penalised d p.1 p.2.1 p.2.2))
      .next ((s.writeLanes s.vt d.val xs).laneEnd (s.actives g) (flagsOf xs))

/-! ### User microcode (R124, R262, R263) -/

def execVmload (a b c : SReg) (s : State) : Res :=
  s.laneRun (.vmload a b c) fun s =>
    let va := (s.opA a).toNat
    let e := (s.opB b).toNat
    let n := (s.opC c).toNat
    if !(3072 ≤ e && e ≤ 4095 && e + n ≤ 4096) then s.raise (Trap.lane' .illegalConfig)
    else if n == 0 then .next (s.laneDone 0)
    else if va % 8 != 0 then s.raise ((⟨.memAlign, 0, va, Access.read.code⟩ : AccFault).trap true none)
    else match s.laneReads 8 va n with
      | (.error f, s) => s.raise (f.trap true none)
      | (.ok ws, s) =>
        let ws := ws.map (BitVec.ofNat 64)
        if !ws.all microWordOk then s.raise (Trap.lane' .illegalConfig)
        else
          let micro := (ws.zip (List.range n)).foldl
            (fun m p => cellSet 0 m (s.uid * 4096 + e + p.2) p.1) s.micro
          .next (({ s with micro := micro } : State).laneDone 0)

/-- The routine from an entry to its end holds a compare-popcount pass (R128). -/
def countsTags (tbl : Nat → Word) : Nat → Nat → Bool
  | 0, _ => false
  | k + 1, e =>
    let w := tbl e
    if wbits w 63 62 == 1 then true
    else if wbits w 63 62 == 2 && wbits w 61 60 == 2 then false
    else countsTags tbl k (e + 1)

def execVmicro (g : Guard) (n : BitVec 12) (d a b : VReg) (s : State) : Res :=
  s.laneRun (.vmicro g n d a b) fun s =>
    let r : Roles := ⟨a.val, b.val, d.val⟩
    let tbl := s.microWord s.uid
    let (structure', columns) := microCheck tbl s.vt r 1025 n.toNat []
    if !structure' then s.raise (Trap.lane' .illegalConfig)
    else if !columns then s.raise (Trap.lane' .badHandle)
    else
      let act := s.actives g
      let m := s.runMicro n.toNat r act
      let t := m.wrote.reverse.foldl (fun t p => t.watchSlots [p.1] [p.2]) (m.records m.s)
      let t := if countsTags tbl 1025 n.toNat then t.mapQ (·.push 2 (BitVec.ofNat 64 m.p)) else t
      .next (t.laneEnd act 0)

end Sys2Proof.Machine
end

