-- ==== Sys2Proof/Machine/VecMem.lean ====
section
/-! DEFINITION. Vector memory, tile moves, gathers, scatters, vector atomics, residual accumulate, lane fences and
arrival (R264 to R280, R47, R48, R132 to R136, R146). -/

namespace Sys2Proof.Machine

/-! ### Elements and addresses (R265, R266) -/

/-- Element index of a lane with m elements in a packed segment (R266). -/
def VState.elemIndex (v : VState) (m l : Nat) : Nat := if v.vlo == 0 then l else l / v.stride * m + l % v.stride

/-- The elements that a segment of a scaled form takes in memory: whole blocks (R266). -/
def VState.scaledSeg (v : VState) (blen : Nat) : Nat := if blen == 0 then v.vli else (v.vli + blen - 1) / blen * blen

/-- An element as its container holds it (R265). -/
def containerVal (vt : VType) (x : Nat) : Nat :=
  if vt.kind == 0 then wrapInt (8 * containerOf vt.ew) (sextNat vt.ew x) else x

/-- Lanes in ascending order up to the first that faults. -/
def State.eachLane (s : State) (f : State → Nat → Except AccFault Unit × State) :
    List Nat → Option (Nat × AccFault) × State
  | [] => (none, s)
  | l :: r =>
    match f s l with
    | (.error e, s) => (some (l, e), s)
    | (.ok (), s) => s.eachLane f r

/-- The parts, offset and length, in which an access of a lane is performed (R95, R96, R271): whole, or byte by byte; of a
tile form a whole data row of the row view, else slot by slot where the slots are aligned. -/
def accessParts (tile : Bool) (va : Nat) (ls : List Loc) : List (Nat × Nat) :=
  let n := ls.length
  let row := match homeOf ls with | some h => 0x20000000000 ≤ h && h < 0x30000000000 | none => false
  if wholeAccess va ls && (!tile || n == 2 || (n == 64 && row)) then [(0, n)]
  else if tile && va % 2 == 0 then (List.range (n / 2)).map (fun i => (2 * i, 2))
  else (List.range n).map (fun i => (i, 1))

/-- An element of the head on its way into a lane (R111, R267). -/
def State.pushElem (s : State) (l cell width : Nat) (src : List Loc) (amo : Option (AmoOp × Nat × Nat))
    (scale : Option Bool) : State :=
  s.mapL (fun x => { x with returns := x.returns ++ [⟨s.laneSeq, s.laneAddr, l, cell, width, src, amo, [], scale, []⟩] })

/-- A load of a lane on its way to columns of a width from a cell upwards. -/
def State.pushLoad (s : State) (l cell width va : Nat) (tile : Bool) (ls : List Loc) : State :=
  (accessParts tile va ls).foldl (fun s p =>
    s.pushElem l (cell + p.1) (min (8 * p.2) (width - 8 * p.1)) ((ls.drop p.1).take p.2) none none) s

/-- Which stores of an instruction are performed in the order of their lanes (R109): none, or those that share a number. -/
abbrev StoreOrder := Option Nat

/-- A store or an atomic of the head on its way to memory (R111, R267). -/
def State.pushStore (s : State) (kind : MemKind) (l : Nat) (ls : List Loc) (o : StoreOrder) : State :=
  s.mapL (fun x => { x with stores := x.stores ++
    [⟨l, kind, ls, true, List.range ls.length, [], [], s.laneSeq, s.laneAddr, l, o.isSome, o.getD 0, false⟩] })

/-- A checked store of a lane on its way to memory. -/
def State.pushParts (s : State) (l va v : Nat) (tile : Bool) (o : StoreOrder) (ls : List Loc) : State :=
  (accessParts tile va ls).foldl (fun s p =>
    s.pushStore (.store (v / 256 ^ p.1 % 256 ^ p.2)) l ((ls.drop p.1).take p.2) o) s

/-- The end of a contiguous, strided or tile form: on a fault %vstart is the faulting lane (R270). -/
def State.endLanes (r : Option (Nat × AccFault) × State) (act : List Nat) (fl : Nat) : Res :=
  match r with
  | (none, s) => .next (s.laneEnd act fl)
  | (some (l, f), s) => (s.mapL (fun x => { x with vstart := l })).raise (f.trap true (some l))

/-- The load of a lane's element from its address (R268). -/
def loadOne (vt : VType) (d : VReg) (addr : Nat → Nat) (s : State) (l : Nat) : Except AccFault Unit × State :=
  match s.check (s.elemAgent l) .read (containerOf vt.ew) (addr l) with
  | (.error f, s) => (.error f, s)
  | (.ok ls, s) => (.ok (), s.pushLoad l (s.slotCell d.val l) vt.ew (addr l) false ls)

/-- A store of bytes of a lane to its address, checked (R268, R271). -/
def State.storeBytes (s : State) (l n va v : Nat) (tile : Bool) (o : StoreOrder) : Except AccFault Unit × State :=
  match s.check (s.elemAgent l) .write n va with
  | (.error f, s) => (.error f, s)
  | (.ok ls, s) => (.ok (), s.pushParts l va v tile o ls)

/-- The store of a lane's value to its address (R268). -/
def storeOne (vt : VType) (val addr : Nat → Nat) (o : StoreOrder) (s : State) (l : Nat) : Except AccFault Unit × State :=
  s.onRow l fun s => s.storeBytes l (containerOf vt.ew) (addr l) (val l) false o

/-- A load of each active lane's element from an address (R268, R270). -/
def State.loadLanes (s : State) (g : Guard) (d : VReg) (addr : Nat → Nat) : Res :=
  let act := s.actives g
  State.endLanes (s.eachLane (loadOne s.vt d addr) act) act 0

/-- The elements of group v that a store takes, read before it begins. -/
def State.storeVals (s : State) (v : VReg) (l : Nat) : Nat := containerVal s.vt (s.elem s.vt.ew v.val l)

/-- A store of each active lane's element, checked ascending (R268, R270), and performed in this order but with .free
(R109). -/
def State.storeLanes (s : State) (g : Guard) (free : Bool) (v : VReg) (addr : Nat → Nat) : Res :=
  let act := s.actives g
  State.endLanes (s.eachLane (storeOne s.vt (s.storeVals v) addr (if free then none else some 0)) act) act 0

/-- An address of an element: base, displacement, element index times step, modulo 2^64. -/
def elemAddr {w : Nat} (base : Word) (e : BitVec w) (k : Nat) (step : Word) : Nat :=
  (base + e.signExtend 64 + BitVec.ofNat 64 k * step).toNat

/-! ### Scaled forms (R269) -/

/-- Active lanes block by block (R83): blocks are runs of lanes. -/
def blocksOf (v : VState) (blen : Nat) (act : List Nat) : List (List Nat) :=
  act.splitBy (fun k l => v.blockFirst blen k == v.blockFirst blen l)

/-- Blocks in ascending order: the block's own access at its first active lane, then its lanes; up to the first that
faults. -/
def State.eachBlock {α : Type} (s : State) (f : State → Nat → Except AccFault α × State)
    (g : α → Nat → State → Nat → Except AccFault Unit × State) : List (List Nat) → Option (Nat × AccFault) × State
  | [] => (none, s)
  | b :: r =>
    let l := b.headD 0
    match f s l with
    | (.error e, s) => (some (l, e), s)
    | (.ok x, s) =>
      match s.eachLane (g x l) b with
      | (some e, s) => (some e, s)
      | (none, s) => s.eachBlock f g r

/-- Index of a lane's element, and addresses of it and of its block's scale, in a scaled form (R266, R269). -/
def scaledIdx (v : VState) (vt : VType) (l : Nat) : Nat := v.elemIndex (v.scaledSeg vt.blen) l
def scaledAddr (v : VState) (vt : VType) (base : Word) (e : BitVec 22) (l : Nat) : Nat :=
  elemAddr base e (scaledIdx v vt l) (BitVec.ofNat 64 (containerOf vt.ew))
def scaleAddr (v : VState) (vt : VType) (scb : Word) (l : Nat) : Nat :=
  (scb + BitVec.ofNat 64 (scaledIdx v vt l / vt.blen)).toNat

/-- The check of a block's scale byte, once for the block, at its first active lane (R269, R270): where it lies. -/
def loadScale (v : VState) (vt : VType) (scb : Word) (s : State) (l : Nat) : Except AccFault (List Loc) × State :=
  s.check (s.elemAgent l) .read 1 (scaleAddr v vt scb l)

/-- The scale of a block on its way to the scale column of its first active lane, or, on its way already, to that of one
more (R269): it is read once. -/
def State.pushScale (s : State) (vt : VType) (ls : List Loc) (first l cell : Nat) : State :=
  if l == first then s.pushElem l cell 8 ls none (some (vt.kind != 3))
  else s.mapL (fun x => { x with returns := x.returns.map (fun e =>
    if e.seq == s.laneSeq && e.lane == first && e.scale.isSome then { e with more := e.more ++ [cell] } else e) })

/-- A lane of vld.sc: its element, then its scale column. -/
def loadScaledOne (v : VState) (vt : VType) (d : VReg) (base : Word) (e : BitVec 22) (ls : List Loc) (first : Nat)
    (s : State) (l : Nat) : Except AccFault Unit × State :=
  match loadOne vt d (scaledAddr v vt base e) s l with
  | (.error f, s) => (.error f, s)
  | (.ok (), s) => (.ok (), s.pushScale vt ls first l (s.scaleCell vt d.val l))

/-- vld.sc: the scale of each block that holds an active lane, then its elements. -/
def State.loadScaled (s : State) (g : Guard) (d : VReg) (base scb : Word) (e : BitVec 22) : Res :=
  let act := s.actives g
  let v := s.t.l.v
  let vt := s.vt
  State.endLanes (s.eachBlock (loadScale v vt scb) (loadScaledOne v vt d base e) (blocksOf v vt.blen act)) act 0

/-- The order of the stores of a block's scale byte and elements (R109, R269): that of the instruction; under .free the
scale byte and the block's first active element are in order, and what stands in different blocks is not: R109 gives the
elements of a .free store no order, and R269 orders the byte before its own block's first element. -/
def blockOrder (free : Bool) (first : Nat) : StoreOrder := some (if free then first + 1 else 0)

/-- The store of a block's scale byte, which counts as the first access of the block (R269). -/
def storeScale (v : VState) (vt : VType) (free : Bool) (b : VReg) (scb : Word) (s : State) (l : Nat) :
    Except AccFault Unit × State :=
  let sc := s.scale vt b.val l
  s.onRow l fun s => match s.check (s.elemAgent l) .write 1 (scaleAddr v vt scb l) with
  | (.error f, s) => (.error f, s)
  | (.ok ls, s) => (.ok (), (s.pushStore (.store (wrapInt 8 sc.1)) noLane ls (blockOrder free l)).addFlags sc.2)

/-- A lane of vst.sc; with .free only a block's first active element follows the block's scale byte (R109, R269). -/
def storeScaledOne (v : VState) (vt : VType) (free : Bool) (b : VReg) (base : Word) (e : BitVec 22) (_ : Unit)
    (first : Nat) (s : State) (l : Nat) : Except AccFault Unit × State :=
  storeOne vt (fun l => containerVal vt (s.elem vt.ew b.val l)) (scaledAddr v vt base e)
    (if free && l != first then none else blockOrder free first) s l

/-- vst.sc. -/
def State.storeScaled (s : State) (g : Guard) (free : Bool) (b : VReg) (base scb : Word) (e : BitVec 22) : Res :=
  let act := s.actives g
  let v := s.t.l.v
  let vt := s.vt
  State.endLanes (s.eachBlock (storeScale v vt free b scb) (storeScaledOne v vt free b base e) (blocksOf v vt.blen act)) act 0

/-! ### Contiguous, strided and tile forms (R268, R271) -/

/-- The address of lane l of a contiguous form. -/
def State.contAddr (s : State) (base : Word) (e : BitVec 22) (l : Nat) : Nat :=
  elemAddr base e (s.t.l.v.elemIndex s.t.l.v.vli l) (BitVec.ofNat 64 (containerOf s.vt.ew))

/-- A contiguous store (R268, R269). -/
def State.contStore (s : State) (i : Instr) (g : Guard) (free : Bool) (a : SReg) (b : VReg) (sc : Option SReg)
    (e : BitVec 22) : Res :=
  s.laneRun i fun s =>
    match sc with
    | some c => s.storeScaled g free b (s.opA a) (s.opC c) e
    | none => s.storeLanes g free b (s.contAddr (s.opA a) e)

def execVld (g : Guard) (d : VReg) (a : SReg) (sc : Option SReg) (e : BitVec 22) (s : State) : Res :=
  s.laneRun (.vld g d a sc e) fun s =>
    match sc with
    | some c => s.loadScaled g d (s.opA a) (s.opC c) e
    | none => s.loadLanes g d (s.contAddr (s.opA a) e)
def execVst (g : Guard) (a : SReg) (b : VReg) (sc : Option SReg) (e : BitVec 22) (s : State) : Res :=
  s.contStore (.vst g a b sc e) g false a b sc e
/-- vst.free: its elements are performed in any order (R109). At a fault R270 leaves open whether those above the faulting
lane have been performed: the model performs none of them (DESIGN CHOICE: log entry 30). -/
def execVstFree (g : Guard) (a : SReg) (b : VReg) (sc : Option SReg) (e : BitVec 22) (s : State) : Res :=
  s.contStore (.vstFree g a b sc e) g true a b sc e

def execVlds (g : Guard) (d : VReg) (a b : SReg) (e : BitVec 22) (s : State) : Res :=
  s.laneRun (.vlds g d a b e) fun s =>
    s.loadLanes g d (fun l => elemAddr (s.opA a) e (s.t.l.v.elemIndex s.t.l.v.vli l) (s.opB b))
def execVsts (g : Guard) (free : Bool) (a b : SReg) (c : VReg) (e : BitVec 22) (s : State) : Res :=
  s.laneRun (.vsts g free a b c e) fun s =>
    s.storeLanes g free c (fun l => elemAddr (s.opA a) e (s.t.l.v.elemIndex s.t.l.v.vli l) (s.opB b))

/-- Bytes of the k + 1 raw slots of a tile form, and the address of a lane's (R271). -/
def tileBytes (k : Fin 32) : Nat := 2 * (k.val + 1)
def tileAddr (v : VState) (base : Word) (k : Fin 32) (e : BitVec 18) (l : Nat) : Nat :=
  elemAddr base e (v.elemIndex v.vli l) (BitVec.ofNat 64 (tileBytes k))

/-- A lane of tld and of tst. -/
def tldOne (n : Nat) (d : VReg) (addr : Nat → Nat) (s : State) (l : Nat) : Except AccFault Unit × State :=
  match s.check (s.elemAgent l) .read n (addr l) with
  | (.error f, s) => (.error f, s)
  | (.ok ls, s) => (.ok (), s.pushLoad l (s.slotCell d.val l) (8 * n) (addr l) true ls)
def tstOne (n : Nat) (b : VReg) (addr : Nat → Nat) (s : State) (l : Nat) : Except AccFault Unit × State :=
  s.onRow l fun s => s.storeBytes l n (addr l) (s.rdN (s.slotCell b.val l) n) true (some 0)

/-- tld (R271): k + 1 raw slots of each active lane. -/
def execTld (g : Guard) (d : VReg) (a : SReg) (k : Fin 32) (e : BitVec 18) (s : State) : Res :=
  s.laneRun (.tld g d a k e) fun s =>
    let act := s.actives g
    State.endLanes (s.eachLane (tldOne (tileBytes k) d (tileAddr s.t.l.v (s.opA a) k e)) act) act 0

def execTst (g : Guard) (a : SReg) (b : VReg) (k : Fin 32) (e : BitVec 18) (s : State) : Res :=
  s.laneRun (.tst g a b k e) fun s =>
    let act := s.actives g
    State.endLanes (s.eachLane (tstOne (tileBytes k) b (tileAddr s.t.l.v (s.opA a) k e)) act) act 0

/-! ### Indexed forms (R272 to R274) -/

/-- The address that a lane's index names (R272). -/
def State.indexAddr (s : State) (base : Word) (mode : Fin 3) (i : VReg) (size l : Nat) : Nat :=
  let off : Word := match mode with
    | 0 => BitVec.ofNat 64 (s.elem 32 i.val l * size)
    | 1 => BitVec.ofInt 64 (sextNat 32 (s.elem 32 i.val l) * size)
    | _ => BitVec.ofNat 64 (s.elem 64 i.val l)
  (base + off).toNat

/-- The active lanes whose %edone bit is clear (R274). -/
def State.pendingLanes (s : State) (g : Guard) : List Nat := (s.actives g).filter (fun l => !(s.colWord l).getLsbD 0)

/-- Every lane is attempted; those that do not fault are performed and marked in column 0 (R166, R274): the lowest
faulting lane. A lane above a faulting one is performed at once, even where their bytes overlap, though the lower lane's
write then comes later (R165, R166; DESIGN CHOICE: log entry 30). -/
def State.eachMarked (s : State) (f : State → Nat → Except AccFault Unit × State) :
    List Nat → Option (Nat × AccFault) × State
  | [] => (none, s)
  | l :: r =>
    match f s l with
    | (.error e, s) =>
      match s.eachMarked f r with
      | (_, s) => (some (l, e), s)
    | (.ok (), s) => (s.setCol 0 l true).eachMarked f r

/-- Column 0 cleared in every owned lane (R274). -/
def State.clearEdone (s : State) : State := s.setCols 0 ((List.range s.ownLanes).map (fun l => (l, false)))

/-- The end of an indexed form: complete, or the trap of the lowest faulting lane. -/
def State.endMarked (r : Option (Nat × AccFault) × State) (act : List Nat) (fl : Nat) (k : State → Res) : Res :=
  match r with
  | (none, s) => k s
  | (some (l, f), s) => (s.addFlags fl |>.laneCycles act).raise (f.trap true (some l))

/-- A lane of vgather and of vscatter, its address from the index as it stands. -/
def gatherOne (vt : VType) (base : Word) (mode : Fin 3) (d i : VReg) (s : State) (l : Nat) : Except AccFault Unit × State :=
  s.onRow l fun s => loadOne vt d (s.indexAddr base mode i (containerOf vt.ew)) s l
def scatterOne (vt : VType) (base : Word) (mode : Fin 3) (i c : VReg) (s : State) (l : Nat) :
    Except AccFault Unit × State :=
  s.onRow l fun s => s.storeBytes l (containerOf vt.ew) (s.indexAddr base mode i (containerOf vt.ew) l)
    (containerVal vt (s.elem vt.ew c.val l)) false none

/-- An indexed form complete: column 0 is cleared. -/
def State.indexedEnd (s : State) (act : List Nat) : State := s.clearEdone.laneEnd act 0

def execVgather (g : Guard) (mode : Fin 3) (d : VReg) (a : SReg) (i : VReg) (s : State) : Res :=
  s.laneRun (.vgather g mode d a i) fun s =>
    let act := s.pendingLanes g
    State.endMarked (s.eachMarked (gatherOne s.vt (s.opA a) mode d i) act) act 0 fun s =>
      .next (s.indexedEnd act)

def execVscatter (g : Guard) (mode : Fin 3) (a : SReg) (i c : VReg) (s : State) : Res :=
  s.laneRun (.vscatter g mode a i c) fun s =>
    let act := s.pendingLanes g
    State.endMarked (s.eachMarked (scatterOne s.vt (s.opA a) mode i c) act) act 0 fun s =>
      .next (s.indexedEnd act)

/-! ### Lane-stream flushes (R146, R279) -/

/-- The flush of a lane instruction at the head of the lane queue: begun, and over once the flush set is empty and
every accumulate of the thread has been performed (R146, R147, R148); then what follows. -/
def State.laneFlush (s : State) (k : State → Res) : Res :=
  if s.t.l.flush then
    if s.t.r.flushed && !s.accOpen then k (s.mapL (fun l => { l with flush := false })) else .next s
  else if s.t.r.entries.isEmpty && !s.accOpen then k s
  else .next (s.laneFlushStart.mapL (fun l => { l with flush := true }))

def execRflush (sc : Scope) (s : State) : Res :=
  s.laneRun (.rflush sc) fun s => s.drainLane.laneFlush fun s => .next (s.laneDone 0)
def execVfence (sc : Scope) (s : State) : Res :=
  s.laneRun (.vfence sc) fun s => s.drainLane.laneFlush fun s => .next (s.laneDone 0)

/-! ### Vector atomics (R275 to R277) -/

/-- The atomic of a lane at a width; ret says whether the old value returns to vD. -/
def atomicOne (w : Nat) (op : AmoOp) (addr : Nat → Nat) (v k : Nat → Nat) (ret : Option VReg) (s : State) (l : Nat) :
    Except AccFault Unit × State :=
  s.onRow l fun s => match s.check (s.elemAgent l) (.atomic (AmoOp.hostOk op)) (w / 8) (addr l) with
  | (.error f, s) => (.error f, s)
  | (.ok locs, s) =>
    match ret with
    | some d => (.ok (), s.pushElem l (s.slotCell d.val l) w locs (some (op, v l, k l)) none)
    | none => (.ok (), s.pushStore (.amo 0 op (v l) (k l)) l locs none)

/-- The atomic of each lane in ascending order, on the registers as they stand: those of vamo, and those of vred. -/
def State.vamoLanes (s : State) (op : AmoOp) (mode : Fin 3) (d : VReg) (a : SReg) (i c : VReg) :
    List Nat → Option (Nat × AccFault) × State :=
  let w := s.vt.ew
  s.eachMarked (atomicOne w op (s.indexAddr (s.opA a) mode i (w / 8)) (s.elem w c.val) (s.elem w d.val) (some d))
def State.vredLanes (s : State) (op : AmoOp) (mode : Fin 3) (a : SReg) (i c : VReg) :
    List Nat → Option (Nat × AccFault) × State :=
  let w := s.vt.ew
  s.eachMarked (atomicOne w op (s.indexAddr (s.opA a) mode i (w / 8)) (s.elem w c.val) (fun _ => 0) none)

/-- The atomics of a vamo and its completion; with .acq a vfence follows them, during which every lane is marked (R277). -/
def State.vamoRun (s : State) (g : Guard) (op : AmoOp) (mode : Fin 3) (post : Bool) (d : VReg) (a : SReg) (i c : VReg) :
    Res :=
  let act := s.pendingLanes g
  State.endMarked (s.vamoLanes op mode d a i c act) act 0 fun s =>
    let fin := fun (s : State) => Host.Outcome.next (s.indexedEnd act)
    if post then s.drainLane.laneFlush fin else fin s

def execVamo (g : Guard) (op : AmoOp) (mode : Fin 3) (ord : Ordering4) (sc : Scope) (d : VReg) (a : SReg) (i c : VReg)
    (s : State) : Res :=
  s.laneRun (.vamo g op mode ord sc d a i c) fun s =>
    if ordRel ord then s.drainLane.laneFlush fun s => s.vamoRun g op mode (ordAcq ord) d a i c
    else s.vamoRun g op mode (ordAcq ord) d a i c

def execVred (g : Guard) (op : AmoOp) (mode : Fin 3) (rel : Bool) (sc : Scope) (a : SReg) (i c : VReg) (s : State) : Res :=
  s.laneRun (.vred g op mode rel sc a i c) fun s =>
    let run := fun (s : State) =>
      let act := s.pendingLanes g
      State.endMarked (s.vredLanes op mode a i c act) act 0 fun s => .next (s.indexedEnd act)
    if rel then s.drainLane.laneFlush run else run s

/-! ### Residual accumulate (R132 to R136, R278) -/

/-- The type code of R140. -/
def accTyp : AccTy → Nat
  | .i32 => 0 | .i64 => 1 | .fx64 => 2 | .f32 => 3

/-- The addend of a lane and its flags (R132, R133). -/
def State.addend (s : State) (t : AccTy) (v : VReg) (l : Nat) : Flagged :=
  match t with
  | .i32 | .f32 => ⟨s.elem 32 v.val l, 0⟩
  | .i64 => ⟨s.elem 64 v.val l, 0⟩
  | .fx64 =>
    let vt := s.vt
    let sc := s.scale vt v.val l
    let r := fxCount vt.rm (elemVal vt sc.1 (s.elem vt.ew v.val l))
    ⟨r.val, r.fl ||| sc.2⟩

/-- A target that has passed its checks: lane, target address, where it lies. -/
structure Target where
  lane : Nat
  va : Nat
  locs : List Loc
deriving DecidableEq, Repr

/-- The sum that a residual tile holds for a target, to which an addend is to be added: its stored bits (R434, R435). -/
def State.sumMeets (s : State) (typ : Nat) (ls : List Loc) : Option (Nat × Nat) × State :=
  if s.fleet.errors.isEmpty then (none, s)
  else match homeOf ls with
    | none => (none, s)
    | some h => match s.t.r.find (h / 64) typ with
      | none => (none, s)
      | some e => s.meet (e.sumCells s.t.site (h % 64 / accWidth typ))

/-- The row of a lane of racc read, and the check of its target. -/
def State.targetOf (s : State) (typ va l : Nat) : Except AccFault (List Loc) × State :=
  match s.readRow l with
  | (.error f, s) => (.error f, s)
  | (.ok (), s) => s.check (s.elemAgent l) (.atomic false) (accWidth typ) va

/-- The targets of some lanes checked, each for itself; the lanes that fault, in ascending order. -/
def State.targets (s : State) (typ : Nat) (addr : Nat → Nat) :
    List Nat → List Target → List (Nat × AccFault) → List Target × List (Nat × AccFault) × State
  | [], ok, bad => (ok.reverse, bad.reverse, s)
  | l :: r, ok, bad =>
    match s.targetOf typ (addr l) l with
    | (.error e, s) => s.targets typ addr r ok ((l, e) :: bad)
    | (.ok ls, s) => match s.sumMeets typ ls with
      | (some (_, d), s) => s.targets typ addr r ok ((l, ⟨.memPermission, d, addr l, 3⟩) :: bad)
      | (none, s) => s.targets typ addr r (⟨l, addr l, ls⟩ :: ok) bad

/-- The targets whose virtual line holds no target of a faulting lane (R151). -/
def goodTargets (addr : Nat → Nat) (ts : List Target) (bad : List (Nat × AccFault)) : List Target :=
  ts.filter (fun t => !bad.any (fun b => addr b.1 / 64 == t.va / 64))

/-- Addends of one target address combined in ascending lane order (R135), in the order of their first lane. -/
def combine (typ : Nat) : List (Target × Nat) → List (Target × Nat) → List (Target × Nat)
  | acc, [] => acc
  | acc, (t, x) :: r =>
    if acc.any (fun p => p.1.va == t.va) then
      combine typ (acc.map (fun p => if p.1.va == t.va then (p.1, accAdd typ p.2 x) else p)) r
    else combine typ (acc ++ [(t, x)]) r

/-- Combined addends sorted into virtual lines (R135, R151); a target that keeps nothing (R90) has none. -/
def lineAddends (typ seq : Nat) (addr : Word) (xs : List (Target × Nat)) : List Addend :=
  let all := xs.filterMap (fun p => (homeOf p.1.locs).map (fun h =>
    (⟨p.1.va / 64, h / 64, typ, h % 64 / accWidth typ, BitVec.ofNat 64 p.2, seq, addr⟩ : Addend)))
  ((all.map (·.vline)).eraseDups).flatMap (fun n => all.filter (fun a => a.vline == n))

/-- racc (R132 to R136, R151, R278). Older accesses of the lane stream to its targets are performed first (R99), which
may wait for an older racc (R145). -/
def execRacc (m : GuardX) (t : AccTy) (v : VReg) (a : SReg) (i : VReg) (s : State) : Res :=
  s.laneRun (.racc m t v a i) fun s0 =>
    let typ := accTyp t
    let act := s0.pendingLanes m.g
    let addr := s0.indexAddr (s0.opA a) 0 i (accWidth typ)
    let (ts, bad, s) := s0.targets typ addr act [] []
    let ts := goodTargets addr ts bad
    let locs := ts.flatMap (·.locs)
    if s.accWaits && (s.t.l.stores.any (fun op => locsMeet op.locs locs) || s.t.l.returns.any (fun e => locsMeet e.src locs))
    then .next s0
    else
      let add := fun (l : Nat) => s0.addend t v l
      let s := s.drainLaneOver locs
      let s := s.setCols 0 (ts.map (fun t => (t.lane, true)))
      let new := lineAddends typ s.laneSeq s.laneAddr (combine typ [] (ts.map (fun t => (t, (add t.lane).val))))
      let s := s.mapR (fun r => { r with place := r.place ++ new })
      let s := s.placeAll s.t.r.place.length
      let xs : List LaneVal := ts.map (fun t => ⟨t.lane, 0, 0, (add t.lane).fl⟩)
      let s := s.writeX m.x xs
      State.endMarked (bad.head?, s) act (flagsOf xs) fun s => .next (s.clearEdone.laneEnd act (flagsOf xs))

/-! ### Arrival (R47, R48, R280) -/

/-- The update of a barrier object: arrived and phase after n arrivals; none where it overflows. -/
def barrierStep (expected arrived phase n : Nat) : Option (Nat × Nat) :=
  let a := arrived + n
  if expected == 0 then (if a < 2 ^ 32 then some (a, phase) else none)
  else some (a % expected, (phase + a / expected) % 2 ^ 32)

def execArrive (a : SReg) (b : MReg) (sc : Scope) (s : State) : Res :=
  s.laneRun (.arrive a b sc) fun s => s.drainLane.laneFlush fun s =>
    let act := s.actives noGuard
    let n := (act.filter (s.mask b)).length
    if n == 0 then .next (s.laneEnd act 0)
    else match s.check s.laneAgent (.atomic false) 16 (s.opA a).toNat with
      | (.error f, s) => s.raise (f.trap true none)
      | (.ok locs, s) =>
        let v := s.rdLocs locs
        match barrierStep (bits v 31 0) (bits v 63 32) (bits v 95 64) n with
        | none => .next (s.laneEnd act flSV)
        | some (x, p) =>
          let s := s.writeLocs s.laneAgent (.atomic false) ((locs.drop 4).take 8) (x + p * 2 ^ 32)
          .next (s.laneEnd act 0)

end Sys2Proof.Machine
end

