-- ==== Sys2Proof/Machine/Copy.lean ====
section
/-! DEFINITION. The copy engine (R113 to R115, R281 to R284, R62, R435): cpy, the completion of a chunk and of a copy. -/

namespace Sys2Proof.Machine

/-! ### The command block (R282) -/

/-- The copies that a task has outstanding. -/
def State.copiesOf (s : State) (task : Nat) : List Copy := s.copies.filter (fun c => c.taskId == task)

/-- A thread's copies at most (R281). -/
def copyLimit : Nat := 16

/-- Six strides from bit lo of the block; stride 0 is the element itself (R282). -/
def blockStrides (b lo : Nat) : Vector Int 6 :=
  Vector.ofFn (fun j : Fin 6 => if j.val == 0 then 1 else sextNat 22 (b / 2 ^ (lo + 22 * j.val)))

/-- The copy of a command block of 512 bits (R282). -/
def copyOf (id site task ctx token after block : Nat) (addr : Word) : Copy where
  id := id
  site := site
  taskId := task
  ctx := ctx
  token := token
  src := BitVec.ofNat 64 (bits block 63 0)
  dst := BitVec.ofNat 64 (bits block 127 64)
  ctl := BitVec.ofNat 64 (bits block 191 128)
  counts := Vector.ofFn (fun j : Fin 6 => bits block (207 + 16 * j.val) (192 + 16 * j.val) + 1)
  sstr := blockStrides block 266
  dstr := blockStrides block 376
  after := after
  cleared := false
  todo := []
  done := 0
  landed := []
  code := 0
  fault := none
  addr := addr
  moved := []
  parts := []
  olds := []

def Copy.celems (c : Copy) : Nat := wbits c.ctl 63 40
def Copy.cmask (c : Copy) : Nat := wbits c.ctl 15 11
def Copy.dims (c : Copy) : Nat := wbits c.ctl 7 5
/-- Bytes of an element. -/
def Copy.esize (c : Copy) : Nat := 2 ^ wbits c.ctl 2 0
def Copy.total (c : Copy) : Nat := c.counts.toList.foldl (· * ·) 1
/-- Chunks of the copy (R283). -/
def Copy.chunks (c : Copy) : Nat := if c.celems == 0 then 1 else (c.total + c.celems - 1) / c.celems

/-- The cases in which R283 finds the block malformed; lanes are the thread's owned lanes at issue. -/
def Copy.malformed (c : Copy) (block lanes : Nat) : Bool :=
  wbits c.ctl 39 16 != 0 || wbits c.ctl 10 8 != 0 || wbits c.ctl 4 3 != 0 || bits block 511 508 != 0
    || wbits c.ctl 2 0 == 7 || 6 ≤ c.dims
    || (List.range 6).any (fun j => c.dims < j
        && (c.counts.toArray.getD j 1 != 1 || c.sstr.toArray.getD j 0 != 0 || c.dstr.toArray.getD j 0 != 0))
    || ((c.celems == 0) != (c.cmask == 0)) || lanes < (if c.celems == 0 then 0 else c.chunks)

/-- The words of a command block, read in ascending order (R281). -/
def blockOf (ws : List Word) : Nat := (ws.zip (List.range 8)).foldl (fun n p => n + p.1.toNat * 2 ^ (64 * p.2)) 0

/-- cpy (R281). -/
def execCpy (d a : SReg) (s : State) : Res :=
  s.withRegs [d, a] fun s =>
    let va := s.reg a
    match s.alignFault s.ctlAgent .read 64 va.toNat 64 with
    | some f => s.raise (f.trap false none)
    | none =>
    if copyLimit ≤ (s.copiesOf s.t.task.id).length then .next (s.block .copies)
    else
      match s.drainAccs.loadWords va 8 with
      | (.error f, s) => s.raise (f.trap false none)
      | (.ok ws, s) =>
        let block := blockOf ws
        let c := copyOf s.sched.nextId s.t.site s.t.task.id s.t.task.ctx d.val s.t.q.pushed block s.t.c.pc
        let c := if c.malformed block s.lanes then { c with code := 2 } else { c with todo := List.range c.chunks }
        let s := { s with
          copies := s.copies ++ [c]
          sched := { s.sched with nextId := s.sched.nextId + 1 } }
        let s := if d = 0 then s
          else s.mapC (fun x => { x with
            tokens := x.tokens ||| (1#64 <<< d.val), loads := x.loads.filter (fun p => p.1 != d.val) })
        .next s.advance

/-! ### Elements (R283, R284) -/

/-- The sum of i_j times stride j over the dimensions, from dimension j on, of a flat index. -/
def strideSum (counts : Vector Nat 6) (str : Vector Int 6) : Nat → Nat → Nat → Int
  | 0, _, _ => 0
  | n + 1, j, k =>
    let m := counts.toArray.getD j 1
    ((k % m : Nat) : Int) * str.toArray.getD j 0 + strideSum counts str n (j + 1) (k / m)

/-- Source and destination of the element of a flat index (R283). -/
def Copy.srcOf (c : Copy) (k : Nat) : Nat :=
  (c.src + BitVec.ofInt 64 (c.esize * strideSum c.counts c.sstr 6 0 k)).toNat
def Copy.dstOf (c : Copy) (k : Nat) : Nat :=
  (c.dst + BitVec.ofInt 64 (c.esize * strideSum c.counts c.dstr 6 0 k)).toNat

/-- Flat indices of a chunk (R283). -/
def Copy.elems (c : Copy) (chunk : Nat) : List Nat :=
  if c.celems == 0 then List.range c.total
  else (List.range (min c.celems (c.total - chunk * c.celems))).map (chunk * c.celems + ·)

/-- The copy engine of the cluster that held the issuing thread, for its task (R312, R319). -/
def Copy.agent (c : Copy) : Agent := ⟨c.site, c.ctx, c.site / 256 * 256 + 15 * 16 + 8, true, c.taskId, c.addr, noLane⟩

/-- The checks of an element: where its bytes come from and go to. -/
def State.copyCheck (s : State) (c : Copy) (k : Nat) : Except AccFault (List Loc × List Loc) × State :=
  match s.check c.agent .read c.esize (c.srcOf k) with
  | (.error f, s) => (.error f, s)
  | (.ok src, s) =>
    match s.check c.agent .write c.esize (c.dstOf k) with
    | (.error f, s) => (.error f, s)
    | (.ok dst, s) => (.ok (src, dst), s)

/-- Bytes each of which is the first or the second: a free choice where they differ (R284). -/
def State.mixBytes (s : State) : List Byte → List Byte → List Byte × State
  | x :: xs, y :: ys =>
    let (b, s) := if x = y then (x, s) else let (n, s) := s.free; (if n % 2 == 0 then x else y, s)
    let (l, s) := s.mixBytes xs ys
    (b :: l, s)
  | _, _ => ([], s)

/-- What a location held before the copy wrote it; its contents where the copy has not. -/
def State.oldByte (s : State) (olds : List (Loc × Byte)) (l : Loc) : Byte :=
  match olds.find? (fun p => p.1 == l) with
  | some p => p.2
  | none => s.rdLoc l

/-- The bytes of an element that are moved at once: the naturally aligned unit of at most 8 bytes where source and
destination are both aligned to it, else a single byte (R96, R284). -/
def Copy.unit (c : Copy) (k : Nat) : Nat :=
  let u := min c.esize 8
  if c.srcOf k % u == 0 && c.dstOf k % u == 0 then u else 1

/-- The units of an element that have not been moved, by their first bytes. -/
def Copy.unitsLeft (c : Copy) (k : Nat) : List Nat :=
  ((List.range (c.esize / c.unit k)).map (· * c.unit k)).filter (fun o => !c.parts.contains (k, o))

/-- An element of which every unit has been moved counts as moved. -/
def Copy.close (c : Copy) (k : Nat) : Copy :=
  if (c.unitsLeft k).isEmpty then { c with moved := c.moved ++ [k], parts := c.parts.filter (fun p => p.1 != k) } else c

/-- A unit moved, the checks of its element passed: a source byte that the copy has written itself is read as it was before or as it
is (R284). The bytes overwritten first are remembered. -/
def State.copyOne (s : State) (c : Copy) (src dst : List Loc) : List (Loc × Byte) × State :=
  let (bs, s) := s.mixBytes (src.map (s.oldByte c.olds)) (src.map s.rdLoc)
  let s := s.watchLocs c.agent .read src (natOfBytes bs)
  let new := (dst.filter (fun l => !c.olds.any (fun p => p.1 == l))).map (fun l => (l, s.rdLoc l))
  (c.olds ++ new, s.writeLocs c.agent .write dst (natOfBytes bs))

/-- Units of an element moved, one after the other. -/
def State.copyUnits (s : State) (c : Copy) (k : Nat) (src dst : List Loc) : List Nat → Copy × State
  | [] => (c, s)
  | o :: r =>
    let part := fun (l : List Loc) => (l.drop o).take (c.unit k)
    let (olds, s) := s.copyOne c (part src) (part dst)
    s.copyUnits { c with parts := c.parts ++ [(k, o)], olds := olds } k src dst r

/-- Elements moved, one after the other; the copy as it then stands, or with the refused access that stopped it. -/
def State.copyMove (s : State) (c : Copy) : List Nat → Except AccFault Unit × Copy × State
  | [] => (.ok (), c, s)
  | k :: r =>
    match s.copyCheck c k with
    | (.error f, s) => (.error f, c, s)
    | (.ok (src, dst), s) =>
      let (c, s) := s.copyUnits c k src dst (c.unitsLeft k)
      s.copyMove (c.close k) r

/-- A list in a free order (R284: elements are performed in any order). -/
def State.shuffle (s : State) : Nat → List Nat → List Nat × State
  | 0, l => (l, s)
  | n + 1, l =>
    if l.length ≤ 1 then (l, s)
    else
      let (k, s) := s.free
      match l[k % l.length]? with
      | none => (l, s)
      | some x => let (r, s) := s.shuffle n (l.erase x); (x :: r, s)

/-- The elements of a copy that stops: each is performed or not, and of one that is, each byte is old or new (R113). -/
def State.copyMaybe (s : State) (c : Copy) : List Nat → State
  | [] => s
  | k :: r =>
    let (n, s) := s.free
    if n % 2 == 0 then s.copyMaybe c r
    else match s.copyCheck c k with
      | (.error _, s) => s.copyMaybe c r
      | (.ok (src, dst), s) =>
        let left := fun (l : List Loc) => (c.unitsLeft k).flatMap (fun o => (l.drop o).take (c.unit k))
        let src := left src
        let dst := left dst
        let s := s.watchLocs c.agent .read src (natOfBytes (src.map s.rdLoc))
        let (bs, s) := s.mixBytes (dst.map s.rdLoc) (src.map s.rdLoc)
        (s.writeLocs c.agent .write dst (natOfBytes bs)).copyMaybe c r

/-- The elements of a chunk that have not been moved. -/
def Copy.rest (c : Copy) (chunk : Nat) : List Nat := (c.elems chunk).filter (fun k => !c.moved.contains k)

def State.copy? (s : State) (id : Nat) : Option Copy := s.copies.find? (fun c => c.id == id)
def State.setCopy (s : State) (c : Copy) : State :=
  { s with copies := s.copies.map (fun x => if x.id == c.id then c else x) }

/-- A copy that stops with code 0x01: the other bytes of it are old or new, per byte (R113). -/
def State.copyStop (s : State) (c : Copy) : State :=
  let s := s.copyMaybe c (c.todo.flatMap c.rest)
  s.setCopy { c with todo := [], moved := [], parts := [], olds := [], code := 1, fault := none }

/-- A record of the copy engine (R400, R431, R435). -/
def State.copyRecord (s : State) (c : Copy) (f : AccFault) (kind token : Nat) : FaultRec :=
  s.deviceRecord c.agent.src c.ctx f.cause.code kind f.access f.detail f.va 0 token

/-- An element of the copy met a refused access (R113, R403, R435). -/
def State.copyFault (s : State) (c : Copy) (f : AccFault) : State :=
  if f.detail != 0 then (s.addFault (s.copyRecord c f 5 0)).copyStop c
  else if f.cause == .memTranslation then
    let (token, s) := s.newToken (.copy c.id)
    (s.addFault (s.copyRecord c f 1 token)).setCopy { c with fault := some token }
  else s.copyStop c

/-! ### Chunk masks (R115, R62) -/

/-- Every lane instruction pushed before the cpy has completed, as far as its task's queues and tile show; a push that
waits is that of the instruction before the next one (R444). -/
def Thread.passed (t : Thread) (after : Nat) : Bool :=
  !(t.q.lane ++ t.q.held).any (fun e => e.seq < after) && !t.l.returns.any (fun e => e.seq < after)
    && !t.l.stores.any (fun op => op.seq < after) && !t.r.place.any (fun a => a.seq < after)
    && t.l.mm.all (fun m => after ≤ m.entry.seq)
    && (t.q.pend.isNone || after < (match t.q.lane with | e :: _ => e.seq | [] => t.q.pushed))

/-- The thread of a task, bound or saved. -/
def State.threadOfTask (s : State) (task : Nat) : Option Thread :=
  (s.taskThread task).orElse (fun _ => (s.saved.find? (fun x => x.th.task.id == task)).map (·.th))

/-- R115: the chunk mask of a copy may be written. -/
def State.masksReady (s : State) (c : Copy) : Bool :=
  match s.threadOfTask c.taskId with
  | some t => t.passed c.after && !s.reqs.any (fun r => r.taskId == c.taskId && !r.performed
      && (match r.racc with | some p => p.1 < c.after | none => false))
  | none => true

/-- A byte of the packed column of a unit of movement, bit j written (R404, R406). -/
def MoveUnit.putBit (m : MoveUnit) (j : Nat) (b : Bool) : MoveUnit :=
  let old : Byte := cellGet 0 m.data (j / 8)
  let new : Byte := if b then old ||| (1#8 <<< (j % 8)) else old &&& ~~~(1#8 <<< (j % 8))
  { m with data := cellSet 0 m.data (j / 8) new }

/-- A mask column of a saved thread that was left out of its units, being zero, and is now to be written: its place in
the image holds zero (R404, R406). -/
def State.addSavedColumn (s : State) (x : Saved) (rank col : Nat) : State :=
  let m : MoveUnit := ⟨1, rank, col, 0, 0, [], false⟩
  let b := slotBaseOf (s.ctxD x.th.task.ctx) x.th.task.slot
  { s.clearImage m b with
    saved := s.saved.map (fun y => if y.th.task.id == x.th.task.id then { y with units := y.units ++ [m] } else y) }

/-- A mask bit of a lane of a saved thread written wherever the column is held (R406). -/
def State.setSavedBit (s : State) (x : Saved) (col l : Nat) (b : Bool) : State :=
  let hit := fun (m : MoveUnit) => m.kind == 1 && m.rank == l / 16384 && m.num == col
  let j := l % 16384
  if x.units.any (fun m => hit m && m.evictable) then
    { s with saved := s.saved.map (fun y => if y.th.task.id == x.th.task.id then
        { y with units := y.units.map (fun m => if hit m then m.putBit j b else m) } else y) }
  else
    let s := if x.units.any hit then s else s.addSavedColumn x (l / 16384) col
    let a := slotBaseOf (s.ctxD x.th.task.ctx) x.th.task.slot + 0x100000 + 2048 * (32 * (l / 16384) + col) + j / 8
    let old := s.rd a
    if s.readOnly a then s else s.wr a (if b then old ||| (1#8 <<< (j % 8)) else old &&& ~~~(1#8 <<< (j % 8)))

/-- Bits of a chunk mask written, in a thread or wherever a saved thread's column is held: in lanes that the thread still
owns, for no others are its own to name (R8). -/
def State.setChunkBits (s : State) (c : Copy) (ls : List Nat) (b : Bool) : State :=
  let s := if s.away.isEmpty then s else s.bring (fun x => x.task == c.taskId && x.unit.kind == 1 && x.unit.num == c.cmask)
  match s.taskThread c.taskId with
  | some t => (ls.filter (· < t.alloc.lanes)).foldl (fun s l => s.setColAt (uidOf t.site) (t.alloc.unitLane l) c.cmask b) s
  | none => ls.foldl (fun s l => match s.saved.find? (fun x => x.th.task.id == c.taskId) with
    | some x => if l < x.th.alloc.lanes then s.setSavedBit x c.cmask l b else s
    | none => s) s

/-- The chunk mask of a copy brought up to date (R115): cleared once every earlier lane instruction has completed, then
the bits of the chunks that have landed. -/
def State.copyBits (s : State) (c : Copy) : State :=
  if c.celems == 0 || c.code == 2 then s.setCopy { c with landed := [], cleared := true }
  else if !s.masksReady c then s.setCopy c
  else
    let s := if c.cleared then s else s.setChunkBits c (List.range c.chunks) false
    (s.setChunkBits c c.landed true).setCopy { c with landed := [], cleared := true }

/-- One unit of one element of a chunk moved, a free choice, ahead of the rest (R96, R115, R284). -/
def State.moveElement (s : State) (id chunk : Nat) : State :=
  match s.copy? id with
  | none => s
  | some c =>
    let l := c.rest chunk
    if c.fault.isSome || !c.todo.contains chunk || l.isEmpty then s
    else
      let (n, s) := s.free
      let k := l.getD (n % l.length) 0
      match s.copyCheck c k with
      | (.error f, s) => s.copyFault c f
      | (.ok (src, dst), s) =>
        let (n, s) := s.free
        let left := c.unitsLeft k
        let (c, s) := s.copyUnits c k src dst (left[n % left.length]?.toList)
        s.setCopy (c.close k)

/-- COPY_CHUNK_DONE (R115, R283, R284): the elements of a chunk still to be moved are moved, in a free order, and its mask
bit is set, or set once every lane instruction before the cpy has completed. -/
def execCopyChunkDone (id chunk : Nat) (s : State) : Res :=
  match s.copy? id with
  | none => .next s
  | some c =>
    if c.fault.isSome then .next s
    else if c.todo.contains chunk then
      let l := c.rest chunk
      let (l, s) := s.shuffle l.length l
      match s.copyMove c l with
      | (.error f, c, s) => .next (s.copyFault c f)
      | (.ok (), c, s) =>
        .next (s.copyBits { c with
          todo := c.todo.filter (· != chunk), done := c.done + 1, landed := c.landed ++ [chunk]
          moved := c.moved.filter (fun k => !(c.elems chunk).contains k) })
    else .next (s.copyBits c)

/-- The chunk masks of the thread in focus that are due to be cleared before its next lane instruction (R115). -/
def State.clearDue (s : State) : State :=
  (s.copiesOf s.t.task.id).foldl (fun s c => if c.cleared || !s.masksReady c then s else s.copyBits c) s

/-- A copy has nothing left to do. -/
def Copy.ended (c : Copy) : Bool := c.todo.isEmpty && c.landed.isEmpty && c.fault.isNone && (c.cleared || c.code == 2)

/-- The status that the token takes (R113). -/
def Copy.status (c : Copy) : Word := BitVec.ofNat 64 (c.done * 2 ^ 32 + c.code)

/-- COPY_COMPLETE (R113, R62): the status goes to the token register, or to the image of a saved thread. -/
def execCopyComplete (id : Nat) (s : State) : Res :=
  match s.copy? id with
  | none => .next s
  | some c =>
    if !c.ended then .next s
    else
      let s := { s with copies := s.copies.filter (fun x => x.id != id) }
      if c.token == 0 then .next (s.endSaved c.taskId)
      else match s.taskThread c.taskId with
        | some t =>
          let ctl := { t.c with
            s := t.c.s.setIfInBounds c.token c.status
            tokens := t.c.tokens &&& ~~~(1#64 <<< c.token) }
          .next (s.setThread { t with c := ctl })
        | none => match s.saved.find? (fun x => x.th.task.id == c.taskId) with
          | none => .next s
          | some x =>
            let b := slotBaseOf (s.ctxD x.th.task.ctx) x.th.task.slot
            let bitsNow := s.rdN (b + 0x338) 8
            let s := s.innerN (b + 8 * c.token) 8 c.status.toNat
            .next ((s.innerN (b + 0x338) 8 (bitsNow &&& (2 ^ 64 - 1 - 2 ^ c.token))).endSaved c.taskId)

end Sys2Proof.Machine
end

