-- ==== Sys2Proof/Machine/Task.lean ====
section
/-! DEFINITION. Binding a task to a thread (R28, R36, R40, R404, R411) and the end of a task (R221, R358, R381, R406,
R407, R411); recording the end of a pre-emption (R400, R407). -/

namespace Sys2Proof.Machine

/-! ### Units changing hands (R411) -/

/-- First of the microcode entries that a context owns, and how many. -/
def userMicro : Nat := 3072
def userMicroCount : Nat := 1024

/-- The cells of the microcode entries of a unit. -/
def microKey (uid e : Nat) : Nat := uid * 4096 + e

/-- Entries 3,072 to 4,095 loaded from the context's area (R411); one in error is 0 (DESIGN CHOICE: log entry 62). -/
def State.loadMicro (s : State) (uid : Nat) (c : Ctx) : State :=
  let new := (List.range userMicroCount).map (fun i => (i, BitVec.ofNat 64
    (if (s.badDetail (c.ucode + 8 * i)).isSome then 0 else s.rdN (c.ucode + 8 * i) 8)))
  let s := (s.selfRead c.num [(c.ucode, 8 * userMicroCount)]).2
  { s with micro := cellPut 0 s.micro (microKey uid userMicro) userMicroCount new }

/-- Entries 3,072 to 4,095 written back to the context's area (R411). -/
def State.saveMicro (s : State) (uid : Nat) (c : Ctx) : State :=
  s.putWords c.ucode ((List.range userMicroCount).map (fun i =>
    (8 * i, (cellGet 0 s.micro (microKey uid (userMicro + i))).toNat)))

/-- A unit begins to host a context (R411). -/
def State.hostUnit (s : State) (uid ctx : Nat) : State :=
  if (s.unitSt uid).host == ctx then s
  else (s.loadMicro uid (s.ctxD ctx)).setUnit uid { s.unitSt uid with host := ctx }

/-- The last thread of a context has left a unit (R411). -/
def State.leaveUnit (s : State) (uid : Nat) : State :=
  let u := s.unitSt uid
  if u.host != 0 && (s.unitThreads uid).isEmpty then
    (s.saveMicro uid (s.ctxD u.host)).setUnit uid { u with host := 0 }
  else s

/-! ### Records of the device's own (R400) -/

/-- Pre-emption requests whose range is done: their records are made (R407, R400 kind 4). -/
def State.closePreempts (s : State) : State :=
  let done := s.sched.preReqs.filter (fun p => p.tasks.isEmpty)
  let s := { s with sched := { s.sched with preReqs := s.sched.preReqs.filter (fun p => !p.tasks.isEmpty) } }
  done.foldl (fun s p => s.addFault (s.deviceRecord p.source p.ctx 0 4 0 0 0 p.saved 0)) s

/-- A task of some requests' ranges is saved, or has left without being saved (R407). -/
def State.preemptLeft (s : State) (task : Nat) (saved : Bool) : State :=
  let step := fun (p : PreReq) =>
    if p.tasks.contains task then
      { p with tasks := p.tasks.filter (· != task), saved := p.saved + (if saved then 1 else 0) } else p
  State.closePreempts { s with sched := { s.sched with preReqs := s.sched.preReqs.map step } }

/-! ### The end of a task -/

/-- The task in focus ends (R221, R358): its accesses are performed, its thread, quads, tiles and segments return to
free, its image slot with them. -/
def State.endTask (s : State) : State :=
  let s := s.drainAccs.drainLane
  let t := s.t
  let s := { s with
    t := Thread.fresh t.site
    away := s.away.filter (fun x => x.task != t.task.id) }
  let s := ((s.forgetTask t.task.id).preemptLeft t.task.id false).launchLeft t.task.launch t.task.ordinal
  s.leaveUnit (uidOf t.site)

/-! ### Binding a task (R28, R36, R40, R404, R411) -/

/-- A frozen thread is one whose fz stands while debug is enabled (R35, R309, R313, R316). A hard pre-emption requested
meanwhile stops the thread once it is released (R35). What it had fetched is discarded: after its release it fetches anew
(R316); stale is how many overwritten words there have been by now. -/
def Thread.applyFz (stale : Nat) (t : Thread) : Thread :=
  let fz := t.dbg.ctl.getLsbD 0 && t.dbg.ctl.getLsbD 2
  let freeze := fun (x : Status) => if fz then
    { t.noEarly with status := x, c := { t.noEarly.c with popWord := none, body := [] } } else t
  let thaw := fun (x : Status) => if fz then t else
    { t with status := if t.preempt == .hard then .preempting else x, c := { t.c with fetchFrom := stale } }
  match t.status with
  | .running => freeze (.frozen none)
  | .blocked w => freeze (.frozen (some w))
  | .frozen none => thaw .running
  | .frozen (some w) => thaw (.blocked w)
  | _ => t

/-- The bits of %dbgctl that are fields (R309). -/
def dbgMask : Word := 0x7D

/-- The image slots of a context that tasks hold (R404). -/
def State.slotsHeld (s : State) (ctx : Nat) : List Nat :=
  (s.threads.filter (fun t => t.status != .free && t.task.ctx == ctx)).map (·.task.slot)
    ++ (s.saved.filter (fun x => x.th.task.ctx == ctx)).map (·.th.task.slot)

/-- The lowest free image slot of a context (R404). -/
def State.freeSlot (s : State) (ctx : Nat) : Option Nat :=
  let held := s.slotsHeld ctx
  (List.range (min (s.ctxD ctx).imgcount (held.length + 1))).find? (fun i => !held.contains i)

/-- The control stream of a task at its start (R28, R19). -/
def State.startCtrl (s : State) (l : Launch) (ord slot : Nat) : Ctrl :=
  let c := s.ctxD l.ctx
  let b := slotBaseOf c slot
  let r := (((Vector.replicate 64 (0 : Word)).set 1 (BitVec.ofNat 64 l.args)).set 61
    (BitVec.ofNat 64 (s.rdN (b + 0x700) 8))).set 62 (BitVec.ofNat 64 (s.rdN (b + 0x708) 8))
  { Ctrl.fresh with
    pc := BitVec.ofNat 64 l.entry
    s := r
    drawkey := c.drawkey
    drawid := BitVec.ofNat 32 ord }

/-- A task of a launch bound to a free thread (R28): the start state, and the minimum of quads, tiles and segments. Where
its initial pointers (R404) are in error it ends at once (DESIGN CHOICE: log entry 62). -/
def State.bindTask (s : State) (l : Launch) (ord site slot : Nat) : State :=
  let (bad, s) := s.selfRead l.ctx [(slotBaseOf (s.ctxD l.ctx) slot + 0x700, 16)]
  let s := (s.hostUnit (uidOf site) l.ctx).focus site
  let c := s.ctxD l.ctx
  let t : Thread := { Thread.fresh site with
    status := .running
    task := ⟨s.sched.nextId, l.ctx, l.id, ord, l.depth, slot, l.widOf ord, l.quads, false⟩
    c := s.startCtrl l ord slot
    l := { Lane.fresh with drawkey := c.drawkey, drawid := BitVec.ofNat 32 ord }
    dbg := ⟨if s.locked l.ctx then 0 else c.dbgctl, none, false, false⟩ }
  let s := { s with
    t := t
    sched := { s.sched with nextId := s.sched.nextId + 1 } }
  let s := s.giveQuads ((s.freeQuads s.uid).take l.quads)
  let s := s.giveTiles ((s.freeTiles s.uid).take l.tiles)
  let s := s.giveSegs ((s.freeSegs s.uid).take l.wseg)
  let s := s.mapT (Thread.applyFz s.stale.length)
  if bad then s.failTask s.t Cause.memPermission.code else s

end Sys2Proof.Machine
end

