-- ==== Sys2Proof/Machine/Launch.lean ====
section
/-! DEFINITION. Launch records: capture and checks (R379, R380, R383), the accesses of the distributor (R381, R382), the
pools (R390), and launch and launch.w (R211). -/

namespace Sys2Proof.Machine

/-! ### Accesses of the distributor (R381, R382, R383) -/

/-- The agent of the distributor for a context; R319 gives it no source number, so the number is a free value. -/
def State.distAgent (s : State) (ctx : Nat) : Agent × State :=
  let (n, s) := s.free
  (⟨(s.ctxD ctx).ptroot / 2 ^ 36 % 8 * 4096 + 0xFFF, ctx, n % 65536, false, 0, 0, noLane⟩, s)

/-- An address in a local window, which resolves against the location of a thread (R88, R89): the distributor has
none (log entry 14). -/
def localVa (va : Nat) : Bool := 0x00FFFB0000000000 ≤ va

/-- A checked access of the distributor on a word of 8 bytes. -/
def State.distCheck (s : State) (ag : Agent) (k : Access) (va : Nat) : Except AccFault (List Loc) × State :=
  if localVa va then (.error ⟨.memPermission, 0, va, k.code⟩, s) else s.check ag k 8 va

/-- A data error that the distributor meets is recorded, kind 5 (R400, R435). -/
def State.distData (s : State) (ctx : Nat) (f : AccFault) : State :=
  if f.detail == 0 then s
  else let (n, s) := s.free; s.addFault (s.deviceRecord (n % 65536) ctx f.cause.code 5 f.access f.detail f.va 0 0)

/-- A word read by the distributor. -/
def State.distLoad (s : State) (ctx va : Nat) : Except AccFault Nat × State :=
  let (ag, s) := s.distAgent ctx
  match s.distCheck ag .read va with
  | (.error f, s) => (.error f, s.distData ctx f)
  | (.ok ls, s) => let (v, s) := s.readLocs ag ls; (.ok v, s)

/-- A word written by the distributor. -/
def State.distPut (s : State) (ctx va v : Nat) : Except AccFault Unit × State :=
  let (ag, s) := s.distAgent ctx
  match s.distCheck ag .write va with
  | (.error f, s) => (.error f, s.distData ctx f)
  | (.ok ls, s) => (.ok (), s.writeLocs ag .write ls v)

/-- One added to a 64-bit event by the distributor, as an atomic (R381). -/
def State.distAdd (s : State) (ctx va : Nat) : Except AccFault Unit × State :=
  let (ag, s) := s.distAgent ctx
  match s.distCheck ag (.atomic true) va with
  | (.error f, s) => (.error f, s.distData ctx f)
  | (.ok ls, s) => (.ok (), (s.amoLocs ag .add ls 1 0).2)

/-! ### Checks of a record (R31, R33, R379, R380) -/

/-- A new launch of a captured record. -/
def launchOf (id source : Nat) (words : List Word) (recVa : Word) (depth cap : Nat) (parent : Option Nat) : Launch where
  id := id
  source := source
  words := words
  recVa := recVa
  depth := depth
  cap := cap
  prio := 0
  pooled := parent.isSome
  since := none
  selected := 0
  parent := parent
  mask := 0
  todo := []
  again := []
  live := 0
  status := (0, 0)
  shut := false
  pages := []
  targets := []
  steps := 0
  fault := none

/-- Units of a die, and the units of a partition, by number. -/
def dieUnits (die : Nat) : List Nat := (List.range 96).map (die * 96 + ·)
def State.partUnits (s : State) (part : Nat) : List Nat := (s.partDies part).flatMap dieUnits

/-- Tasks of a launch that a unit could hold, by its usable capacity (R33). -/
def State.unitCapacity (s : State) (l : Launch) (uid : Nat) : Nat :=
  let q := popc 16 (s.unitSt uid).usable.toNat / max 1 l.quads
  let t := if l.tiles == 0 then 4 else 8 / l.tiles
  let w := if l.wseg == 0 then 4 else 12 / l.wseg
  min (min 4 q) (min t w)

/-- The units of each instance of a scope in a partition (R6, R33). -/
def State.instances (s : State) (part code : Nat) : List (List Nat) :=
  match code with
  | 1 => (s.partUnits part).map (fun u => [u])
  | 2 => (s.partDies part).flatMap (fun d => (List.range 12).map (fun c => (List.range 8).map (d * 96 + c * 8 + ·)))
  | 3 => (s.partDies part).map dieUnits
  | _ => [s.partUnits part]

/-- Units split into instances of a scope code; those that hold a given unit first. -/
def splitUnits (code : Nat) (home : Option Nat) (units : List Nat) : List (List Nat) :=
  let f := fun u => if code == 1 then u else if code == 2 then u / 8 else u / 96
  let insts := (units.map f).eraseDups.map (fun k => units.filter (fun u => f u == k))
  match home with
  | some h => insts.filter (·.contains h) ++ insts.filter (fun l => !l.contains h)
  | none => insts

/-- How many level-j groups some units could hold at once, each group of a bound level within one instance of its scope
(R33). -/
def State.fits (s : State) (l : Launch) : Nat → List Nat → Nat
  | 0, us => (us.map (s.unitCapacity l)).foldl (· + ·) 0
  | j + 1, us =>
    let c := l.binding (j + 1)
    if c == 1 || c == 2 || c == 3 then ((splitUnits c none us).map (fun v => s.fits l j v / l.extent j)).foldl (· + ·) 0
    else s.fits l j us / l.extent j

/-- A group bound to a scope fits one instance of it, with the groups bound within it (R33). -/
def State.groupFits (s : State) (l : Launch) (part j : Nat) : Bool :=
  let c := l.binding j
  c == 0 || c > 4 || (s.instances part c).any (fun us => 1 ≤ s.fits l j us)

/-- R31. -/
def Launch.badWidths (l : Launch) : Bool :=
  64 < ((List.range 6).map l.width).foldl (· + ·) 0 || (List.range 6).any (fun k => 2 ^ l.width k < l.extent k)

/-- R33: a level bound to a narrower scope than a lower bound level. -/
def Launch.badOrder (l : Launch) : Bool :=
  (List.range 7).any (fun j => (List.range j).any (fun i =>
    1 ≤ i && l.binding i != 0 && l.binding j != 0 && l.binding j < l.binding i))

/-- The reasons 1 to 5 and 9 of R380 for which a record is refused; ctx is the context it must name. -/
def State.recordReasons (s : State) (l : Launch) (ctx : Nat) : List Nat :=
  let c := s.ctxD l.ctx
  let w1 := l.w 1
  let part := s.ctxPart l.ctx
  let bad := fun (n : Nat) (b : Bool) => if b then [n] else []
  bad 1 (bits w1 23 20 != 0 || bits w1 31 26 != 0 || bits w1 63 56 != 0 || bits l.shape 63 60 != 0 || l.w 15 != 0
      || (List.range 6).any (fun j => 4 < l.binding (j + 1)))
    ++ bad 2 l.badWidths ++ bad 3 l.badOrder
    ++ bad 4 (l.quads == 0 || 16 < l.quads || 8 < l.tiles || 12 < l.wseg
      || !(s.partUnits part).any (fun u => l.quads ≤ popc 16 (s.unitSt u).usable.toNat))
    ++ bad 5 (l.ctx != ctx || l.entry % 8 != 0 || l.entry < c.codebase.toNat || c.codebound.toNat ≤ l.entry)

/-- The reasons 8 and 9, which for a device record are checked at selection. -/
def State.lateReasons (s : State) (l : Launch) : List Nat :=
  let part := s.ctxPart l.ctx
  let lev := (List.range 6).map (· + 1)
  let groups := lev.any (fun j => !s.groupFits l part j
    || (l.binding j != 0 && (s.ctxD l.ctx).imgcount < l.groupSize j))
  (if groups then [8] else [])
    ++ (if l.wev % 8 != 0 || l.sev % 8 != 0 || l.stat % 8 != 0 then [9] else [])

/-! ### The placement map (R383) -/

/-- Words of the map read in ascending order. -/
def State.mapWords (s : State) (ctx va : Nat) : Nat → Except AccFault (List Nat) × State
  | 0 => (.ok [], s)
  | n + 1 =>
    match s.distLoad ctx va with
    | (.error f, s) => (.error f, s)
    | (.ok v, s) =>
      match s.mapWords ctx ((va + 8) % 2 ^ 64) n with
      | (.error f, s) => (.error f, s)
      | (.ok l, s) => (.ok (v :: l), s)

/-- The die that a 4 KiB unit counts for: none where it is unmapped or not in HBM. -/
def State.pageDie (s : State) (ctx va : Nat) : Option Nat :=
  if windowsBase ≤ va then none
  else match s.walk0 ctx va with
    | .ok l =>
      let pa := bits l.entry 47 12 * 4096 + va % l.size
      if pa < 2 ^ 39 then some (pa / 2 ^ 36) else none
    | .error _ => none

/-- A count added to the page counts of a launch. -/
def addPage (l : List (Nat × Nat × Nat)) (g d : Nat) : List (Nat × Nat × Nat) :=
  if l.any (fun p => p.1 == g && p.2.1 == d) then
    l.map (fun p => if p.1 == g && p.2.1 == d then (g, d, p.2.2 + 1) else p)
  else l ++ [(g, d, 1)]

/-- The entries of a map, four words each, counted; none where one is malformed. -/
def State.mapEntries (s : State) (l : Launch) (ws : List Nat) :
    Nat → List (Nat × Nat × Nat) → Option (List (Nat × Nat × Nat))
  | 0, acc => some acc
  | n + 1, acc =>
    let k := ws.length / 4 - (n + 1)
    let g := ws.getD (4 * k) 0
    let base := ws.getD (4 * k + 1) 0
    let len := ws.getD (4 * k + 2) 0
    if l.placeCount ≤ g || len == 0 || 2 ^ 40 < len || ws.getD (4 * k + 3) 0 != 0 then none
    else
      let first := base / 4096
      let pages := (List.range ((base + len - 1) / 4096 - first + 1)).map (fun i => (first + i) * 4096)
      s.mapEntries l ws n (pages.foldl (fun acc va => match s.pageDie l.ctx va with
        | some d => addPage acc g d
        | none => acc) acc)

/-- The placement map read and resolved: none where it is malformed or a read of it faults (reason 6). -/
def State.readMap (s : State) (l : Launch) : Option (List (Nat × Nat × Nat)) × State :=
  if l.pmap == 0 then (some [], s)
  else if l.pmap % 8 != 0 then (none, s)
  else match s.mapWords l.ctx l.pmap 2 with
    | (.error _, s) => (none, s)
    | (.ok h, s) =>
      let n := h.getD 0 0
      if n == 0 || 65536 < n || h.getD 1 0 != 0 then (none, s)
      else match s.mapWords l.ctx ((l.pmap + 16) % 2 ^ 64) (4 * n) with
        | (.error _, s) => (none, s)
        | (.ok ws, s) => (s.mapEntries l ws n [], s)

/-- The wait event of a launch read: whether it is met, none where the read faults (R382, reason 7). -/
def State.waitMet (s : State) (l : Launch) : Except AccFault Bool × State :=
  if l.wev == 0 then (.ok true, s)
  else if l.wev % 8 != 0 then (.ok true, s)
  else match s.distLoad l.ctx l.wev with
    | (.error f, s) => (.error f, s)
    | (.ok v, s) => (.ok (decide (l.wval ≤ v)), s)

/-- A record taken (R380): its checks, its map, its wait event, unless the event has been found met before (R382); the
reason it is refused for, or the launch. The late checks are those of reasons 8 and 9. -/
def State.takeRecord (s : State) (l : Launch) (ctx : Nat) (late known : Bool) : Except Nat Launch × State :=
  let rs := s.recordReasons l ctx ++ (if late then s.lateReasons l else [])
  let (m, s) := if rs.any (· ≤ 5) then (some [], s) else s.readMap l
  let (w, s) := if rs.any (· ≤ 5) || m.isNone || known then (.ok true, s) else s.waitMet l
  let rs := rs ++ (if m.isNone then [6] else []) ++ (match w with | .error _ => [7] | .ok _ => [])
  match rs with
  | [] =>
    let met := match w with | .ok b => b | .error _ => false
    (.ok { l with pages := m.getD [], since := if met then some s.gts else none }, s)
  | r :: rest => (.error (rest.foldl min r), s)

/-! ### The pools (R390) -/

/-- Entries of a die's pool, by depth: a launch keeps its entry until its signal step has been made. -/
def State.poolUse (s : State) (die : Nat) (depth : Nat) : Nat :=
  (s.sched.launches.filter (fun l => l.source == 8192 + die && l.depth == depth)).length

/-- A child of a depth gets an entry (R390). -/
def State.poolAdmits (s : State) (die depth : Nat) : Bool :=
  s.poolUse die depth < 32
    || ((List.range 8).map (fun e => s.poolUse die (e + 1) - 32)).foldl (· + ·) 0 < 3840

/-! ### launch and launch.w (R211) -/

/-- What a launch does once its record has been captured and checked: status, or the wait for an entry of its die's pool
(R390), during which the thread keeps what it has captured. -/
def State.enterPool (s : State) (d : SReg) (l : Launch) (wait : Bool) : Res :=
  let s := s.mapC (fun c => { c with launchRec := none })
  if 8 ≤ s.t.task.depth then .next (s.setLoad d 2).advance
  else if s.poolAdmits (siteDie s.t.site) l.depth then
    let s := { s with sched := { s.sched with
      launches := s.sched.launches ++ [{ l with
        id := s.sched.nextId, source := 8192 + siteDie s.t.site, since := l.since.map (fun _ => s.gts) }]
      nextId := s.sched.nextId + 1 } }
    .next (s.setLoad d 0).advance
  else if wait then .next ((s.mapC (fun c => { c with launchRec := some l })).block .pool)
  else .next (s.setLoad d 1).advance

/-- A record whose context field is not its queue's or its launching task's, as it is kept: its status goes to the context of
the queue or of the task (DEDUCED: log entry 41). -/
def recordFor (words : List Word) (ctx : Nat) : List Word :=
  words.set 1 (BitVec.ofNat 64 ((words.getD 1 0).toNat / 2 ^ 16 * 2 ^ 16 + ctx))

/-- The source of a launch that stands in no queue and no pool. -/
def noSource : Nat := 65535

/-- A device record refused at launch (R380, R381): it enters no pool; the status word and the signal event follow. -/
def State.refuse (s : State) (l : Launch) (reason : Nat) : State :=
  { s with sched := { s.sched with
    launches := s.sched.launches ++ [{ l with
      words := recordFor l.words s.t.task.ctx, id := s.sched.nextId, source := noSource, pooled := false, shut := true, status := (Cause.launch.code, reason) }]
    nextId := s.sched.nextId + 1 } }

/-- launch and launch.w (R211). A launch.w that waits for an entry has captured its record. -/
def State.launchStep (s : State) (d a : SReg) (wait : Bool) : Res :=
  s.withRegs [d, a] fun s =>
    let va := s.reg a
    match s.t.c.launchRec with
    | some l => s.enterPool d l wait
    | none =>
    match s.alignFault s.ctlAgent .read 128 va.toNat 128 with
    | some f => s.raise (f.trap false none)
    | none => s.withRelease fun s =>
      match s.loadWords va 16 with
      | (.error f, s) => s.raise (f.trap false none)
      | (.ok ws, s) =>
        let cap := match s.launch? s.t.task.launch with | some p => p.prio | none => 0
        let l := launchOf s.sched.nextId (8192 + siteDie s.t.site) ws va (s.t.task.depth + 1) cap (some s.t.task.id)
        match s.takeRecord l s.t.task.ctx false false with
        | (.error r, s) => if s.t.laneBusy || s.accBusy then .next s else (s.refuse l r).raise (Trap.of .launch)
        | (.ok l, s) => s.enterPool d l wait

def execLaunch (d a : SReg) (s : State) : Res := s.launchStep d a false
def execLaunchW (d a : SReg) (s : State) : Res := s.launchStep d a true

end Sys2Proof.Machine
end

