-- ==== Sys2Proof/Machine/Events.lean ====
section
/-! DEFINITION. What happens to a thread beside its instructions: an awaited condition comes true (R35), a pending push
enters its queue (R444), data arrives (R111, R200, R267), a store is performed at its home slice (R111) or enters the
fabric (R116), the streams block each other (R44), a watch trap, the end of a single step (R312, R315), the end of an
exit (R221); and the device writes a fault record (R401). -/

namespace Sys2Proof.Machine

/-! ### Blocked control streams (R35) -/

/-- A read that only looks: the value the control stream would see, none where it would fault. -/
def State.look (s : State) (size : Nat) (va : Word) : Option Nat :=
  match s.cload size va.toNat with
  | (.ok v, _) => some v
  | (.error _, _) => none

/-- What the control stream in focus waits for has come about. A wait on memory also ends where its read faults: the
instruction runs again and traps (R206). -/
def State.awaitOver (s : State) : Wait → Bool
  | .token r => !s.t.c.awaits (sreg r)
  | .popQueue q => !(s.t.q.get q).isEmpty
  | .pushQueue q => (s.t.q.get q).length < queueDepth
  | .bo => !s.t.q.bo.isEmpty
  | .laneRoom => s.t.q.lane.length < laneDepth
  | .vdrain | .vdead | .sysRead | .tfence => s.laneIdle
  | .flush => !s.t.c.flush || s.ctlFlushed
  | .phase a p => match s.look 4 (a + 8) with | some v => v != p | none => true
  | .event a v => match s.look 8 a with | some x => v.toNat ≤ x | none => true
  | .pool => s.poolAdmits (siteDie s.t.site) (s.t.task.depth + 1)
  | .copies => (s.copiesOf s.t.task.id).length < copyLimit

/-- AWAITED_CONDITION (R35): the blocked thread runs again and re-executes its word. -/
def execAwaitedCondition (s : State) : Res :=
  match s.t.status with
  | .blocked w => .next (if s.awaitOver w then s.mapT (fun t => { t with status := .running }) else s)
  | _ => .next s

/-- PENDING_PUSH (R444). -/
def execPendingPush (s : State) : Res := .next (s.mapQ Queues.deliver)

/-- LOAD_DATA_ARRIVAL (R200): the data of a load or atomic in flight reaches its register. -/
def execLoadDataArrival (r : SReg) (s : State) : Res :=
  match s.t.c.loads.find? (fun p => p.1 == r.val) with
  | some p => .next (s.setReg r p.2)
  | none => .next s

/-- The bytes of an element in flight that are read next: all that are left of it; or, of a plain read, some of them, a
free choice, for beside an access of another size or address it is byte-wise (R96, R110); one of the residual tile, whose
words change beside all stores (R144), is taken whole. -/
def State.elementPortion (s : State) (e : Element) : List Nat × State :=
  let left := (List.range e.src.length).filter (fun i => !e.got.any (fun p => p.1 == i))
  if e.amo.isSome || e.src.any Loc.inTile || left.length ≤ 1 then (left, s) else s.someOf left

/-- ELEMENT_RETURN (R111, R267, R364): an element in flight whose turn it is, is accessed at its home slice, and written
to its lane once nothing of it is left to be read. -/
def execElementReturn (n : Nat) (s : State) : Res :=
  match s.t.l.returns[n]? with
  | some e =>
    if !s.elementFree n e then .next s
    else
      let (is, s) := s.elementPortion e
      if e.got.length + is.length < e.src.length then
        let e := { e with got := e.got ++ is.map (fun i => (i, s.elementByte e i)) }
        .next (s.mapL (fun l => { l with returns := l.returns.set n e }))
      else .next ((s.land e).mapL (fun l => { l with returns := l.returns.eraseIdx n }))
  | none => .next s

/-! ### Accesses on their way (R95, R96, R99, R100, R111, R116, R200, R364) -/

/-- A replay window holds this many requests (R116). -/
def windowSize : Nat := 64

/-- The channel from a source to a die, or a new one. -/
def State.chanFor (s : State) (src dst : Nat) : Chan :=
  (s.chans.find? (fun c => c.source == src && c.dst == dst)).getD ⟨s.chans.length, src, dst, 0, [], 0, 0, none, 0⟩

/-- A channel put in its place. -/
def State.setChan (s : State) (c : Chan) : State :=
  if s.chans.any (fun x => x.id == c.id) then
    { s with chans := s.chans.map (fun x => if x.id == c.id then c else x) }
  else { s with chans := s.chans ++ [c] }

/-- The bytes of an access that are performed together next, at the home slices of one die: all of a single-copy-atomic
store or atomic (R95); else some of those that have not left, a free choice (R96). A load goes so too, for beside an access
of another size or address it is byte-wise (R96); one that is single-copy atomic starts anew where its own bytes are
written meanwhile (R95), and one of the residual tile, whose words change beside all stores (R144), is taken whole. -/
def State.portion (s : State) (op : MemOp) : List Nat × State :=
  let here := siteDie s.t.site
  let left := op.left.filter (fun i => !op.sent.contains i)
  let whole := match op.kind with | .load .. => op.whole && op.locs.any Loc.inTile | _ => op.whole
  if whole || left.length ≤ 1 then (left, s)
  else
    let (is, s) := s.someOf left
    (is.filter (fun j => homeDie here (op.part [j]) == homeDie here (op.part [is.headD 0])), s)

/-- A control-stream access performed at its home slice, a portion of it at a time; what lies on another die takes its
place in the replay window of its channel (R116), while that has room. -/
def State.accessOut (s : State) (n : Nat) (op : MemOp) : State :=
  let (is, s') := s.portion op
  let here := siteDie s.t.site
  let dst := homeDie here (op.part is)
  if is.isEmpty then s
  else if dst == here then s'.performAcc n is
  else
    let c := s.chanFor s.t.site dst
    if windowSize ≤ c.window.length then s
    else
      (s'.mapC (fun x => { x with accs := x.accs.set n { op with sent := op.sent ++ is } })).setChan { c with
        window := c.window ++ [⟨c.next, op.id, is, true, false⟩]
        next := c.next + 1 }

/-- HOME_SLICE_ACCESS (R111): an access of the thread that may be performed is: one of the control stream, or after them
by number one of the lane stream. -/
def execHomeSliceAccess (n : Nat) (s : State) : Res :=
  match s.t.c.accs[n]? with
  | some op => if s.accFree n op then .next (s.accessOut n op) else .next s
  | none =>
    let k := n - s.t.c.accs.length
    match s.t.l.stores[k]? with
    | some op => if s.laneStoreFree k op then .next (s.performLane k op.left) else .next s
    | none => .next s

/-! ### Deadlock of the two streams (R44) -/

/-- Nothing is under way for the thread in focus that could still unblock it. -/
def State.nothingDue (s : State) : Bool :=
  s.t.c.loads.isEmpty && s.t.c.accs.isEmpty && s.t.l.returns.isEmpty && s.t.l.stores.isEmpty
    && (s.copiesOf s.t.task.id).isEmpty && !s.accOpen && !s.t.laneBusy
    && !s.sched.launches.any (fun l => l.parent == some s.t.task.id)

/-- The states of the table of R44. -/
def State.deadlocked (s : State) (w : Wait) : Bool :=
  let q := s.t.q
  let full := q.pend.isSome && !q.pendRoom
  let idle := q.lane.isEmpty && q.pend.isNone
  let reads := q.pend.isNone && q.headWaits
  match w with
  | .popQueue _ | .bo => idle || reads
  | .pushQueue _ => idle || full
  | .laneRoom => full
  | .vdrain | .vdead | .sysRead => reads || full
  | _ => false

/-- STREAM_DEADLOCK (R44). -/
def execStreamDeadlock (s : State) : Res :=
  match s.t.status with
  | .blocked w =>
    if s.deadlocked w && !s.awaitOver w && s.nothingDue then s.raise (Trap.of .streamDeadlock) else .next s
  | _ => .next s

/-! ### The fault queue (R401) -/

/-- A byte of the MSI-X table as it stands at reset: every vector masked (log entry 39). -/
def msixReset (o : Nat) : Byte := if o % 16 == 12 then 1 else 0
/-- A byte of the MSI-X table (R371); the cells hold it as it differs from reset. -/
def HostIf.msixByte (h : HostIf) (o : Nat) : Byte := cellGet 0 h.msixTable o ^^^ msixReset o
/-- A vector is masked: bit 0 of its vector control word. -/
def HostIf.masked (h : HostIf) (v : Nat) : Bool := (h.msixByte (16 * v + 12)).getLsbD 0

/-- The pending bit of a vector read, and written. -/
def HostIf.pendingBit (h : HostIf) (v : Nat) : Bool := (cellGet 0 h.msixPending (v / 8)).getLsbD (v % 8)
def HostIf.setPending (h : HostIf) (v : Nat) (b : Bool) : HostIf :=
  let old : Byte := cellGet 0 h.msixPending (v / 8)
  let bit : Byte := 1#8 <<< (v % 8)
  { h with msixPending := cellSet 0 h.msixPending (v / 8) (if b then old ||| bit else old &&& ~~~bit) }

/-- Vectors of the function (R369). -/
def msixVectors : Nat := 2048

/-- A message-signalled interrupt (R369, R371): sent, or pending while its vector is masked. -/
def State.signal (s : State) (v : Nat) : State :=
  if msixVectors ≤ v then s
  else if s.host.masked v then { s with host := s.host.setPending v true }
  else { s with host := { s.host with out := .msix v :: s.host.out } }

/-- The vectors that are pending and no longer masked are sent (R371). -/
def State.signalPending (s : State) : State :=
  (List.range msixVectors).foldl (fun s v =>
    if s.host.pendingBit v && !s.host.masked v then
      ({ s with host := s.host.setPending v false } : State).signal v else s) s

/-- The ring has been set up and has room (R401). -/
def HostIf.ringRoom (h : HostIf) : Bool := h.fqLsize != 0 && (h.fqTail + 2 ^ 32 - h.fqHead) % 2 ^ 32 < 2 ^ h.fqLsize

/-- The die that made a record: that of its source number (R319, R400). -/
def FaultRec.die (r : FaultRec) : Nat := wbits r.words[1] 14 12

/-- The oldest waiting record of each die, by place in the list. -/
def firstOfDies (l : List FaultRec) : List Nat :=
  (List.range l.length).filter (fun i => match l[i]? with
    | some r => !(l.take i).any (fun x => x.die == r.die)
    | none => false)

/-- FAULT_RECORD_WRITE (R401): the oldest record of some die, a free choice, goes to the ring; FQTAIL advances; vector 1
is signalled. -/
def execFaultRecordWrite (s : State) : Res :=
  let first := firstOfDies s.host.fqWait
  let (k, s) := if first.length ≤ 1 then (0, s) else s.free
  let i := first.getD (k % first.length) 0
  match s.host.fqWait[i]? with
  | none => .next s
  | some r =>
    if !s.host.ringRoom then .next s
    else
      let a := s.host.fqBase + 64 * (s.host.fqTail % 2 ^ s.host.fqLsize)
      let s := s.deviceStore false (cellsFrom a (r.words.toList.flatMap (fun w => bytesOf 8 w.toNat)))
      let s := { s with host := { s.host with
        fqWait := s.host.fqWait.eraseIdx i, fqTail := (s.host.fqTail + 1) % 2 ^ 32 } }
      .next (s.signal 1)

/-! ### Watch traps and single steps (R312, R315) -/

/-- TC_WATCH (R312): taken at a control-word boundary, or at the word the thread is blocked on. -/
def execTcWatch (s : State) : Res :=
  match s.t.dbg.watch, s.t.status with
  | some n, .running | some n, .blocked _ =>
    if s.t.laneBusy || s.accBusy then .next s
    else (s.mapD (fun d => { d with watch := none })).raise { Trap.of .watch with detail := n }
  | _, _ => .next s

/-- STEP_END (R315): after one word and a lane drain the thread sets its fz again and traps TC_STEP. The trace record shows
the address of the next word, which R317 does not say (DESIGN CHOICE: log entry 61). -/
def execStepEnd (s : State) : Res :=
  if s.t.dbg.stepping && s.t.dbg.ctl.getLsbD 0 && s.t.status == .running && s.laneIdle then
    let s := s.trace s.t s.t.site 6 0xFFFFFFFF s.t.c.pc s.t.c.committed 0 0 0
    let s := s.mapT (fun t => { t with
      status := .frozen none
      dbg := { t.dbg with stepping := false, ctl := t.dbg.ctl ||| 4 }
      c := { t.c with popWord := none, body := [] } })
    s.raise (Trap.of .stepEnd)
  else .next s

/-! ### The end of an exit (R221, R358) -/

/-- What an exit waits for once its lane queue has drained and its residual tile has been flushed (R221, R358). -/
def State.exitLeft (s : State) : Bool := !(s.copiesOf s.t.task.id).isEmpty || s.accOpen

/-- EXIT_COMPLETE (R221): once the lane queue has drained, the residual tile is flushed; once every copy has completed,
the task ends. -/
def execExitComplete (s : State) : Res :=
  if s.t.status != .exiting || !s.laneIdle then .next s
  else if !s.t.c.flush && !s.nothingHeld then .next (s.startFlush.mapC (fun c => { c with flush := true }))
  else if (s.t.c.flush && !s.ctlFlushed) || s.exitLeft then .next s
  else .next s.endTask

/-- Something of an exiting thread is left to do now. -/
def State.exitReady (s : State) : Bool :=
  s.t.status == .exiting && s.laneIdle &&
    ((!s.t.c.flush && !s.nothingHeld) || !((s.t.c.flush && !s.ctlFlushed) || s.exitLeft))

end Sys2Proof.Machine
end

