-- ==== Sys2Proof/Machine/Schedule.lean ====
section
/-! DEFINITION. Work queues (R374 to R378) and what runs next: eligibility (R382), priority and deficits (R388, R389),
selection and capture (R377, R380). -/

namespace Sys2Proof.Machine

/-! ### Queues -/

/-- A queue that has never been configured. -/
def Queue.reset (num : Nat) : Queue := ⟨num, 0, 0, 0, 0, 0, 0, 0, 0, 0, 0, 0, false, none, none⟩

def State.queue (s : State) (q : Nat) : Queue := (s.sched.queues.find? (fun x => x.num == q)).getD (Queue.reset q)

/-- A queue put in its place; the queues stand in rising order of their numbers. -/
def putQueue : List Queue → Queue → List Queue
  | [], x => [x]
  | y :: l, x => if x.num < y.num then x :: y :: l else if x.num == y.num then x :: l else y :: putQueue l x

def State.setQueue (s : State) (q : Queue) : State :=
  { s with sched := { s.sched with queues := putQueue s.sched.queues q } }

/-- A physical address that is not reserved (R92). -/
def physOk (pa : Nat) : Bool := pa < 2 ^ 39 || (2 ^ 47 ≤ pa && pa < 2 ^ 48)

/-- A read of the ring by its physical address: none where it meets a reserved address or an uncorrectable error
(R376, R435). -/
def State.ringRead (s : State) (pa : Nat) : Option Nat :=
  if (List.range 8).all (fun i => physOk (pa + i) && (s.badDetail (pa + i)).isNone) then some (s.rdN pa 8) else none

/-- What a read of a ring meets in some bytes is counted (R437). -/
def State.ringMet (s : State) (pa n : Nat) : State := (s.meet ((List.range n).map (pa + ·))).2

/-- Address of record n of a queue (R374). -/
def Queue.slot (q : Queue) (n : Nat) : Nat := q.base + 128 * (n % 2 ^ q.lsize)

/-- The head record is present (R374). -/
def Queue.present (q : Queue) : Bool := q.state == 1 && q.head != q.tail

/-- A queue in error (R376). -/
def Queue.fail (q : Queue) (e : Nat) : Queue := { q with state := 2, error := e, probe := none, since := none }

/-- Selection, placement and arithmetic go on only while the clock runs and power state is PS0 to PS2 (R418, R420). -/
def Power.running (p : Power) : Bool :=
  p.on && p.phase == 6 && p.state < 3 && !p.trip && !(p.busy && 3 ≤ p.target)

/-! ### Eligibility (R377, R382) -/

/-- The distributor's own faulted access to a launch's event or status (R381, R403): a record of kind 2, and what waits
for its REPLAY. -/
def State.distFault (s : State) (l : Launch) (f : AccFault) : State :=
  let (token, s) := s.newToken (.launch l.id)
  let (n, s) := s.free
  let r := s.deviceRecord (n % 65536) l.ctx f.cause.code 2 f.access 0 f.va 0 token
  (s.addFault r).setLaunch { l with fault := some token }

/-- A record of kind 3: a host launch refused (R380, R400). -/
def State.refusedRecord (s : State) (l : Launch) (reason : Nat) : State :=
  let (n, s) := s.free
  s.addFault (s.deviceRecord (n % 65536) l.ctx Cause.launch.code 3 0 reason l.recVa.toNat 0 0)

/-- A launch that fails before any task of it runs, or goes on no further (R380, R393). -/
def Launch.fail (l : Launch) (reason : Nat) : Launch :=
  { l with status := (Cause.launch.code, reason), shut := true, pooled := false, todo := [], targets := [] }

/-- The wait event of a waiting launch re-read (R382). A fault of translation waits for its REPLAY (R400, R403: kind 2);
another fault fails the launch with reason 7 (R380). -/
def State.rereadLaunch (s : State) (l : Launch) : State :=
  if l.since.isSome || l.shut || l.fault.isSome then s
  else match s.waitMet l with
    | (.ok true, s) => s.setLaunch { l with since := some s.gts }
    | (.ok false, s) => s
    | (.error f, s) =>
      if f.cause == .memTranslation then s.distFault l f
      else
        let s := if l.source < 8192 then s.refusedRecord l 7 else s
        s.setLaunch (l.fail 7)

/-- The head of a queue probed (R377): priority, wait event and wait value, and its event read. A head found eligible
stays so while its wait condition is the same (R382). A head whose event cannot be read counts as eligible: its record is
refused when it is taken (R380); its probe then names no event, so that the event is read again there. -/
def State.probeHead (s : State) (q : Queue) : State :=
  if !q.present then s
  else
    let a := q.slot q.head
    let since := match q.since with | some t => some t | none => some s.gts
    let s := ((s.ringMet (a + 8) 8).ringMet (a + 88) 8).ringMet (a + 96) 8
    match s.ringRead (a + 8), s.ringRead (a + 88), s.ringRead (a + 96) with
    | some w1, some wev, some wval =>
      let p := (bits w1 19 16, BitVec.ofNat 64 wev, BitVec.ofNat 64 wval)
      let same := q.since.isSome && (match q.probe with | some x => x.2 == p.2 | none => false)
      let q := { q with probe := some p }
      if same then s.setQueue q
      else if wev == 0 || wev % 8 != 0 then s.setQueue { q with since := since }
      else match s.distLoad q.ctx wev with
        | (.ok v, s) => s.setQueue { q with since := if wval ≤ v then some s.gts else none }
        | (.error _, s) => s.setQueue { q with since := since, probe := some (p.1, 1, p.2.2) }
    | _, _, _ => s.setQueue { q with since := since, probe := some (0, 1, 0) }

/-- The events of what waits at a source, its captured launches included, read again (R382). -/
def State.rereadSource (s : State) (src : Nat) : State :=
  let s := if src < 8192 then s.probeHead (s.queue src) else s
  (s.sched.launches.filter (fun l => l.source == src)).foldl State.rereadLaunch s

/-- WAIT_EVENT_REREAD (R382). -/
def execWaitEventReread (src : Nat) (s : State) : Res := .next (s.rereadSource src)

/-- Sources at which something waits for its probe or for an event to be read. -/
def State.rereadSources (s : State) : List Nat :=
  let heads := (s.sched.queues.filter Queue.present).map (·.num)
  let held := (s.sched.launches.filter (fun l => l.since.isNone && !l.shut && l.fault.isNone)).map (·.source)
  (heads ++ held).eraseDups

/-- After a signal-event add of a partition the events of all that waits in it are read again (R382). -/
def State.rereadPart (s : State) (part : Nat) : State :=
  let mine := fun (src : Nat) => if src < 8192 then s.ctxPart (s.queue src).ctx == part
    else s.sched.launches.any (fun l => l.source == src && s.ctxPart l.ctx == part)
  (s.rereadSources.filter mine).foldl State.rereadSource s

/-! ### Priority and deficits (R388, R389) -/

/-- A source's priority (R388). -/
def priorityAt (agelimit now since prio cap : Nat) : Nat :=
  min 15 (min prio cap + (if agelimit == 0 then 0 else (now - since) / agelimit))

/-- Host launches in the launch table (R373, R388). -/
def State.hostLaunches (s : State) : Nat := (s.sched.launches.filter (fun l => l.source < 8192)).length

/-- The first eligible entry of a pool (R389). -/
def State.poolHead (s : State) (src : Nat) : Option Launch :=
  s.sched.launches.find? (fun l => l.source == src && l.pooled && l.since.isSome && l.fault.isNone)

/-- The priority of a source that can be selected from. -/
def State.sourcePrio (s : State) (src : Nat) : Option Nat :=
  if src < 8192 then
    let q := s.queue src
    match q.probe, q.since with
    | some (prio, _, _), some t =>
      if q.present && s.hostLaunches < 1024 then some (priorityAt s.host.agelimit s.gts t prio q.maxprio) else none
    | _, _ => none
  else match s.poolHead src with
    | some l => some (priorityAt s.host.agelimit s.gts (l.since.getD 0) (l.prioField % 16) l.cap)
    | none => none

/-- Every source, in the visiting order. -/
def State.sources (s : State) : List Nat := s.sched.queues.map (·.num) ++ (List.range 8).map (8192 + ·)

/-- The sources that can be selected from, with the highest priority. -/
def State.topSources (s : State) : List Nat × Nat :=
  let l := s.sources.filterMap (fun n => (s.sourcePrio n).map (fun p => (n, p)))
  let p := l.foldl (fun m x => max m x.2) 0
  ((l.filter (fun x => x.2 == p)).map (·.1), p)

/-- A source's weight (R389). -/
def State.weight (s : State) (src : Nat) : Nat := if src < 8192 then (s.queue src).weight else 255

def Sched.deficit (c : Sched) (src : Nat) : Nat := cellGet 0 c.deficits src
def Sched.setDeficit (c : Sched) (src v : Nat) : Sched := { c with deficits := cellSet 0 c.deficits src v }

/-- The visit goes on to the next of some sources, in ascending order with wrap-round (R389). -/
def nextSource (visit : Nat) (l : List Nat) : Option Nat :=
  (l.find? (fun n => visit < n)).orElse (fun _ => l.head?)

/-- A source has an eligible entry (R389). -/
def State.hasEligible (s : State) (src : Nat) : Bool :=
  if src < 8192 then (s.queue src).present && (s.queue src).since.isSome else (s.poolHead src).isSome

/-- The visit, going on from one source to the next, leaves or passes a source, in ascending order with wrap-round. -/
def passedBy (visit next x : Nat) : Bool :=
  if visit < next then visit ≤ x && x < next else visit ≤ x || x < next

/-- One selection by R389: the source, its priority, and the deficits after it: a source without an eligible entry that
the visit leaves or passes has its deficit set to 0. -/
def State.choose (s : State) : Option (Nat × Nat × Sched) :=
  let (l, p) := s.topSources
  let c := s.sched
  if l.contains c.visit && 1 ≤ c.deficit c.visit then
    some (c.visit, p, c.setDeficit c.visit (c.deficit c.visit - 1))
  else match nextSource c.visit l with
    | none => none
    | some n =>
      let idle := s.sources.filter (fun x => passedBy c.visit n x && !s.hasEligible x)
      let c := idle.foldl (fun c x => c.setDeficit x 0) c
      let d := if c.deficit n < 1 then c.deficit n + s.weight n else c.deficit n
      some (n, p, { c.setDeficit n (d - 1) with visit := n })

/-! ### Selection (R377, R380, R388) -/

/-- Words of a record read from a ring. -/
def State.ringWords (s : State) (a : Nat) : Option (List Word) :=
  (List.range 16).foldl (fun l k =>
    match l, s.ringRead (a + 8 * k) with
    | some l, some v => some (l ++ [BitVec.ofNat 64 v])
    | _, _ => none) (some [])

/-- The head written back (R375); a sector in error that it would overwrite in part is not written, which is an error of the
queue and recorded (R376, R435; DEDUCED: log entry 62). -/
def State.writeHead (s : State) (q : Queue) : State :=
  if q.headwb == 0 then s
  else if physOk q.headwb && !(2 ^ 47 ≤ q.headwb && Config.writeRefused q.headwb) then
    match s.errorCheck .write q.headwb ((List.range 8).map (fun i => .cell (q.headwb + i) (q.headwb + i))) with
    | (.ok (), s) => s.deviceStore false (cellsFrom q.headwb (bytesOf 8 q.head))
    | (.error f, s) =>
      let (n, s) := s.free
      (s.addFault (s.deviceRecord (n % 65536) q.ctx f.cause.code 5 f.access f.detail f.va 0 0)).setQueue (q.fail 3)
  else s.setQueue (q.fail 3)

/-- A host record taken (R377, R380): the launch enters the launch table, refused or with its tasks to be bound. -/
def State.takeHead (s : State) (q0 : Queue) (p : Nat) : State :=
  let q := q0
  let a := q.slot q.head
  let s := s.ringMet a 128
  match s.ringWords a with
  | none =>
    let s := s.setQueue (q.fail 2)
    match (List.range 128).findSome? (fun i => s.badDetail (a + i)) with
    | none => s
    | some d =>
      let (n, s) := s.free
      s.addFault (s.deviceRecord (n % 65536) q.ctx Cause.memPermission.code 5 1 d a 0 0)
  | some ws =>
    let q := { q with head := (q.head + 1) % 2 ^ 32, probe := none, since := none }
    let s := (s.setQueue q).writeHead q
    let l := { launchOf s.sched.nextId q.num ws (BitVec.ofNat 64 a) 0 q.maxprio none with prio := p, selected := s.gts }
    let s := { s with sched := { s.sched with nextId := s.sched.nextId + 1 } }
    let known := q0.since.isSome && (match q0.probe with
      | some p => p.2 == (BitVec.ofNat 64 l.wev, BitVec.ofNat 64 l.wval)
      | none => false)
    match s.takeRecord l q.ctx true known with
    | (.ok l, s) =>
      let l := { l with todo := List.range l.total, since := if known then q0.since else l.since }
      { s with sched := { s.sched with launches := s.sched.launches ++ [l] } }
    | (.error r, s) =>
      let l := Launch.fail { l with words := recordFor ws q.ctx } r
      { s with sched := { s.sched with launches := s.sched.launches ++ [l] } }.refusedRecord l r

/-- A pool entry selected, with the checks that are left for then (R380, R389). -/
def State.takeEntry' (s : State) (l : Launch) (p : Nat) : State :=
  match s.lateReasons l with
  | [] => s.setLaunch { l with pooled := false, prio := p, selected := s.gts, todo := List.range l.total }
  | r :: rest => s.setLaunch (Launch.fail { l with prio := p, selected := s.gts } (rest.foldl min r))

/-- SELECTION (R388). The head that a taken record leaves is probed as it becomes present (R377). -/
def execSelection (s : State) : Res :=
  if !s.power.running then .next s
  else match s.choose with
    | none => .next s
    | some (src, p, c) =>
      let s := { s with sched := c }
      if src < 8192 then
        let t := s.takeHead (s.queue src) p
        .next (t.probeHead (t.queue src))
      else match s.poolHead src with
        | some l => .next (s.takeEntry' l p)
        | none => .next s

end Sys2Proof.Machine
end

