-- ==== Sys2Proof/Machine/Stream.lean ====
section
/-! DEFINITION. Sparse streams (R153 to R164, R302 to R307): descriptors, items and their checks, merging, skipping, and
reading ahead. -/

namespace Sys2Proof.Machine

/-! ### Level records (R154) -/

def LevelRec.kind (r : LevelRec) : Nat := wbits r.ctl 3 0
/-- Bytes of a crd entry. -/
def LevelRec.cw (r : LevelRec) : Nat := 2 * 2 ^ wbits r.ctl 5 4
def LevelRec.pfx (r : LevelRec) : Bool := r.ctl.getLsbD 6
def LevelRec.len (r : LevelRec) : Nat := wbits r.ctl 63 16

/-- R154, R156: a field of the record that the kind does not allow. -/
def LevelRec.bad (r : LevelRec) : Bool :=
  let k := r.kind
  wbits r.ctl 15 7 != 0 || 3 < k || r.size == 0 || 2 ^ 48 < r.size.toNat
    || (if k == 1 || k == 3 then wbits r.ctl 5 4 == 3 || r.pfx || (k == 3 && r.arrB != 0)
        else r.len != 0 || wbits r.ctl 5 4 != 0
          || (k == 0 && (r.pfx || r.arrA != 0 || r.arrB != 0)) || (k == 2 && !r.pfx && r.arrB != 0))

/-- R156: an array address that is not aligned to its entry width. -/
def LevelRec.misaligned (r : LevelRec) : Option Word :=
  let chk := fun (l : List (Word × Nat)) => (l.find? (fun p => p.1.toNat % p.2 != 0)).map (·.1)
  match r.kind with
  | 1 => chk [(r.arrA, 8), (r.arrB, r.cw)]
  | 2 => chk [(r.arrA, 8), (r.arrB, 8)]
  | 3 => chk [(r.arrA, r.cw)]
  | _ => none

/-- R153: the header is legal for a level. -/
def headerOk (h : List Word) (lev : Nat) : Bool :=
  let shape := h.getD 2 0
  vtypeLegal (h.getD 1 0).toNat && wbits shape 63 3 == 0 && 1 ≤ shape.toNat && shape.toNat ≤ 6 && lev < shape.toNat
    && (h.drop 4).all (· == 0)

/-! ### Stream registers -/

def State.zreg (s : State) (k : ZReg) : Stream := s.t.l.z[k]
def State.setZ (s : State) (k : ZReg) (z : Stream) : State := s.mapL (fun l => { l with z := l.z.set k.val z })

/-- The trap of a malformed fibre (R161). -/
def malformed (k : ZReg) (reason position : Nat) : Trap :=
  { Trap.lane' .fibreMalformed with detail := position, reason := reason, stream := k.val }

/-- A failed check of R161: a handler may repair the memory and return to run the instruction again, so what was read
ahead of the fibre is dropped. DEDUCED: log 9. -/
def State.badFibre {α : Type} (s : State) (k : ZReg) (reason position : Nat) : Except Trap α × State :=
  (.error (malformed k reason position), s.setZ k { s.zreg k with ahead := [] })

/-- A read of the stream engine, of an aligned entry of n bytes: what has been read ahead, or a read now that is kept
(R159, R160). -/
def State.streamRead (s : State) (k : ZReg) (va : Word) (n : Nat) : Except Trap Nat × State :=
  let z := s.zreg k
  match z.ahead.find? (fun r => r.va == va && r.size == n) with
  | some r => match r.fault with
    | some c => (.error ((AccFault.mk c 0 va.toNat 1).trap true none),
        s.setZ k { z with ahead := z.ahead.filter (fun r => r.va != va || r.size != n) })
    | none => (.ok r.value, s)
  | none =>
    match s.load s.laneAgent n va.toNat with
    | (.error f, s) => (.error (f.trap true none), s)
    | (.ok v, s) => (.ok v, s.setZ k { s.zreg k with ahead := (s.zreg k).ahead ++ [⟨va, n, v, none⟩] })

/-- Address of an entry of an array. -/
def entryAt (base : Word) (width n : Nat) : Word := base + BitVec.ofNat 64 (width * n)

/-- First entry of the two that hold the bounds of a fibre (R155). -/
def Stream.boundAt (z : Stream) (n : Nat) : Word :=
  entryAt (if z.lrec.kind == 1 then z.lrec.arrA else z.lrec.arrB) 8 (z.parent + n)

/-- The checks of the bounds (R161 reasons 1 and 2): reason and position of a failure. -/
def Stream.boundsBad (z : Stream) (a b : Nat) : Option (Nat × Nat) :=
  if b < a then some (1, if z.lrec.kind == 1 then a else z.parent)
  else if z.lrec.kind == 1 && z.lrec.len < b then some (2, b)
  else none

/-- The bounds filled in (R157); an empty fibre has ended (R158). -/
def Stream.withBounds (z : Stream) (a b : Nat) : Stream :=
  { z with pos := a, endPos := b, bounds := true, ended := a == b }

/-- The bounds of the fibre read and checked, where they are not yet (R157, R161). -/
def State.needBounds (s : State) (k : ZReg) : Except Trap Unit × State :=
  if (s.zreg k).bounds then (.ok (), s)
  else
    match s.streamRead k ((s.zreg k).boundAt 0) 8 with
    | (.error t, s) => (.error t, s)
    | (.ok a, s) =>
      match s.streamRead k ((s.zreg k).boundAt 1) 8 with
      | (.error t, s) => (.error t, s)
      | (.ok b, s) =>
        match (s.zreg k).boundsBad a b with
        | some (r, p) => s.badFibre k r p
        | none => (.ok (), s.setZ k ((s.zreg k).withBounds a b))

/-! ### Items (R155, R158, R161) -/

/-- How far an instruction has come in a stream: position, last coordinate, whether it is valid, and whether the
instruction itself has consumed an item. -/
structure Cur where
  pos : Nat
  coord : Nat
  lv : Bool
  moved : Bool
deriving DecidableEq, Repr

def Stream.cur (z : Stream) : Cur := ⟨z.pos, z.coord, z.lv, false⟩

/-- An item consumed (R158). -/
def Cur.take (it : Nat × Nat) : Cur := ⟨it.1 + 1, it.2, true, true⟩

/-- The lowest set bit of a bitmap from bit i, below bit hi (R155). -/
def State.scanBits (s : State) (k : ZReg) : Nat → Nat → Nat → Except Trap (Option Nat) × State
  | 0, _, _ => (.ok none, s)
  | fuel + 1, i, hi =>
    if hi ≤ i then (.ok none, s)
    else
      match s.streamRead k (entryAt (s.zreg k).lrec.arrA 8 (i / 64)) 8 with
      | (.error t, s) => (.error t, s)
      | (.ok w, s) =>
        match ((List.range 64).filter (fun b => i % 64 ≤ b)).find? w.testBit with
        | some b => let n := i / 64 * 64 + b; (.ok (if n < hi then some n else none), s)
        | none => s.scanBits k fuel ((i / 64 + 1) * 64) hi

/-- The set bits of the fibre from a coordinate on. -/
def State.scanFrom (s : State) (k : ZReg) (coord : Nat) : Except Trap (Option Nat) × State :=
  let z := s.zreg k
  let b := z.parent * z.lrec.size.toNat
  match s.scanBits k (z.lrec.size.toNat / 64 + 2) (b + coord) (b + z.lrec.size.toNat) with
  | (.ok (some n), s) => (.ok (some (n - b)), s)
  | r => r

/-- The coordinate of an item of kind C or S, checked (R161 reasons 3 and 4). -/
def State.readCrd (s : State) (k : ZReg) (c : Cur) (q : Nat) : Except Trap Nat × State :=
  let r := (s.zreg k).lrec
  match s.streamRead k (entryAt (if r.kind == 1 then r.arrB else r.arrA) r.cw q) r.cw with
  | (.error t, s) => (.error t, s)
  | (.ok x, s) =>
    if r.kind == 1 && c.lv && x ≤ c.coord then s.badFibre k 3 q
    else if r.size.toNat ≤ x then s.badFibre k 4 q
    else (.ok x, s)

/-- Nothing of the fibre is left to look at: the position has reached the end, and no set bit beyond the count is
looked for (R161 reason 6 asks for one only after the instruction itself has consumed an item). -/
def Stream.over (z : Stream) (c : Cur) : Bool :=
  decide (z.endPos ≤ c.pos) && !(z.lrec.kind == 2 && z.lrec.pfx && c.moved)

/-- A cursor on a fibre that holds no further item (R157, R158). -/
def Stream.atEnd (z : Stream) (c : Cur) : Cur := { c with pos := max c.pos z.endPos }

/-- The next item, its position and coordinate, checked; none where the fibre has ended. Its bounds are known. -/
def State.peek (s : State) (k : ZReg) (c : Cur) : Except Trap (Option (Nat × Nat)) × State :=
  let z := s.zreg k
  let r := z.lrec
  let base := z.parent * r.size.toNat
  if z.endPos ≤ c.pos then
    if r.kind == 2 && r.pfx && c.moved then
      match s.scanFrom k (c.coord + 1) with
      | (.error t, s) => (.error t, s)
      | (.ok (some _), s) => s.badFibre k 6 z.endPos
      | (.ok none, s) => (.ok none, s)
    else (.ok none, s)
  else if r.kind == 2 then
    match s.scanFrom k (if r.pfx then (if c.lv then c.coord + 1 else 0) else c.pos - base) with
    | (.error t, s) => (.error t, s)
    | (.ok none, s) => if r.pfx then s.badFibre k 6 c.pos else (.ok none, s)
    | (.ok (some i), s) =>
      let q := if r.pfx then c.pos else base + i
      if 2 ^ 48 ≤ q then s.badFibre k 5 q else (.ok (some (q, i)), s)
  else if r.kind == 3 && r.len ≤ c.pos then s.badFibre k 2 c.pos
  else if 2 ^ 48 ≤ c.pos then s.badFibre k 5 c.pos
  else if r.kind == 0 then (.ok (some (c.pos, c.pos - base)), s)
  else
    match s.readCrd k c c.pos with
    | (.error t, s) => (.error t, s)
    | (.ok x, s) => (.ok (some (c.pos, x)), s)

/-! ### Merging (R162) -/

/-- A delivered item: its coordinate and its position in the named stream and in its partner. -/
structure Merged where
  coord : Nat
  pa : Option Nat
  pb : Option Nat
deriving DecidableEq, Repr

/-- The position of a stream has reached its end, its bounds being known (R158). -/
def Stream.spent (z : Stream) (c : Cur) : Bool := z.bounds && decide (z.endPos ≤ c.pos)

/-- The next common coordinate (R162): smaller items are passed. Where one stream has ended, the other's item is not
looked at. -/
def State.nextCommon (s : State) (k j : ZReg) :
    Nat → Cur → Cur → Except Trap (Option Merged × Cur × Cur) × State
  | 0, a, b => (.ok (none, a, b), s)
  | fuel + 1, a, b =>
    if (s.zreg k).over a || (s.zreg j).over b then (.ok (none, a, b), s)
    else if (s.zreg j).spent b && !(s.zreg k).spent a then
      match s.peek j b with
      | (.error t, s) => (.error t, s)
      | (.ok _, s) => (.ok (none, a, (s.zreg j).atEnd b), s)
    else
      match s.peek k a with
      | (.error t, s) => (.error t, s)
      | (.ok none, s) => (.ok (none, (s.zreg k).atEnd a, b), s)
      | (.ok (some x), s) =>
        match s.peek j b with
        | (.error t, s) => (.error t, s)
        | (.ok none, s) => (.ok (none, a, (s.zreg j).atEnd b), s)
        | (.ok (some y), s) =>
          if x.2 == y.2 then (.ok (some ⟨x.2, some x.1, some y.1⟩, Cur.take x, Cur.take y), s)
          else if x.2 < y.2 then s.nextCommon k j fuel (Cur.take x) b
          else s.nextCommon k j fuel a (Cur.take y)

/-- The smaller of the two current coordinates (R162). -/
def State.nextEither (s : State) (k j : ZReg) (a b : Cur) : Except Trap (Option Merged × Cur × Cur) × State :=
  match s.peek k a with
  | (.error t, s) => (.error t, s)
  | (.ok x, s) =>
    match s.peek j b with
    | (.error t, s) => (.error t, s)
    | (.ok y, s) =>
      match x, y with
      | none, none => (.ok (none, (s.zreg k).atEnd a, (s.zreg j).atEnd b), s)
      | some x, none => (.ok (some ⟨x.2, some x.1, none⟩, Cur.take x, (s.zreg j).atEnd b), s)
      | none, some y => (.ok (some ⟨y.2, none, some y.1⟩, (s.zreg k).atEnd a, Cur.take y), s)
      | some x, some y =>
        if x.2 == y.2 then (.ok (some ⟨x.2, some x.1, some y.1⟩, Cur.take x, Cur.take y), s)
        else if x.2 < y.2 then (.ok (some ⟨x.2, some x.1, none⟩, Cur.take x, b), s)
        else (.ok (some ⟨y.2, none, some y.1⟩, a, Cur.take y), s)

/-- The other stream of a merged pair. -/
def Stream.other (z : Stream) : ZReg := Fin.ofNat 8 z.partner

/-- The next item of a stream or of its pair. -/
def State.nextItem (s : State) (k : ZReg) (a b : Cur) : Except Trap (Option Merged × Cur × Cur) × State :=
  let z := s.zreg k
  let j := z.other
  match z.mode with
  | 1 => s.nextCommon k j (z.endPos - a.pos + ((s.zreg j).endPos - b.pos) + 1) a b
  | 2 => s.nextEither k j a b
  | _ =>
    match s.peek k a with
    | (.error t, s) => (.error t, s)
    | (.ok none, s) => (.ok (none, (s.zreg k).atEnd a, b), s)
    | (.ok (some x), s) => (.ok (some ⟨x.2, some x.1, none⟩, Cur.take x, b), s)

/-- Up to n items: the items, how far the streams then are, the trap that stopped it. -/
structure Pulled where
  items : List Merged
  a : Cur
  b : Cur
  trap : Option Trap
deriving DecidableEq, Repr

/-- Items taken in order; at a trap the cursors describe the item before the bad one (R160, R161). -/
def State.pullGo (s : State) (k : ZReg) : Nat → Cur → Cur → Pulled × State
  | 0, a, b => (⟨[], a, b, none⟩, s)
  | n + 1, a, b =>
    match s.nextItem k a b with
    | (.error t, s) => (⟨[], a, b, some t⟩, s)
    | (.ok (none, a, b), s) => (⟨[], a, b, none⟩, s)
    | (.ok (some m, a, b), s) =>
      let (p, s) := s.pullGo k n a b
      ({ p with items := m :: p.items }, s)

/-- The bounds of a stream and of its partner; an intersection of which one stream has ended needs none of the other's
(R160, R162). -/
def State.pairBounds (s : State) (k : ZReg) : Except Trap Unit × State :=
  let j := (s.zreg k).other
  let gone := fun (s : State) (i : ZReg) => (s.zreg k).mode == 1 && (s.zreg i).spent (s.zreg i).cur
  if gone s j then (.ok (), s)
  else match s.needBounds k with
    | (.error t, s) => (.error t, s)
    | (.ok (), s) => if (s.zreg k).mode == 0 || gone s k then (.ok (), s) else s.needBounds j

/-- Up to n items of a stream or pair, from where it stands. -/
def State.pull (s : State) (k : ZReg) (n : Nat) : Pulled × State :=
  let cur := fun (s : State) => ((s.zreg k).cur, (s.zreg (s.zreg k).other).cur)
  if n == 0 then (⟨[], (cur s).1, (cur s).2, none⟩, s)
  else match s.pairBounds k with
    | (.error t, s) => (⟨[], (cur s).1, (cur s).2, some t⟩, s)
    | (.ok (), s) => s.pullGo k n (cur s).1 (cur s).2

/-- A stream moved to where an instruction has come; what was read ahead and lies behind is dropped. -/
def Stream.goTo (z : Stream) (c : Cur) : Stream :=
  let r := z.lrec
  let first := if r.kind == 1 then entryAt r.arrB r.cw c.pos else if r.kind == 3 then entryAt r.arrA r.cw c.pos
    else entryAt r.arrA 8 ((z.parent * r.size.toNat + (if c.lv then c.coord else 0)) / 64)
  { z with
    pos := c.pos
    coord := c.coord
    lv := c.lv
    ended := z.ended || (z.bounds && decide (z.endPos ≤ c.pos))
    ahead := if z.bounds then z.ahead.filter (fun e => first.toNat ≤ e.va.toNat) else z.ahead }

/-- The streams of an instruction moved on (R158, R162). -/
def State.goTo (s : State) (k : ZReg) (a b : Cur) : State :=
  let s1 := s.setZ k ((s.zreg k).goTo a)
  if (s.zreg k).mode == 0 then s1 else let j := (s.zreg k).other; s1.setZ j ((s1.zreg j).goTo b)

/-! ### The instructions (R302 to R307) -/

/-- Eight-byte words read in ascending order by the lane stream (R156). -/
def State.laneWords (s : State) (va : Word) : Nat → Except AccFault (List Word) × State
  | 0 => (.ok [], s)
  | n + 1 =>
    match s.load s.laneAgent 8 va.toNat with
    | (.error f, s) => (.error f, s)
    | (.ok v, s) =>
      match s.laneWords (va + 8) n with
      | (.error f, s) => (.error f, s)
      | (.ok l, s) => (.ok (BitVec.ofNat 64 v :: l), s)

/-- The stream that zopen opens (R157). -/
def openStream (desc : Word) (lev parent : Nat) (r : LevelRec) : Stream :=
  let d := r.kind == 0 || (r.kind == 2 && !r.pfx)
  let base := parent * r.size.toNat
  { Stream.closed with
    isOpen := true
    parent := parent
    desc := desc
    lev := lev
    lrec := r
    bounds := d || r.kind == 3
    pos := if d then base else if r.kind == 3 then parent else 0
    endPos := if d then base + r.size.toNat else if r.kind == 3 then parent + 1 else 0 }

/-- zopen (R156, R303). -/
def execZopen (z : ZReg) (a : SReg) (lev : Fin 6) (b : SReg) (s : State) : Res :=
  s.laneRun (.zopen z a lev b) fun s =>
    let desc := s.opA a
    let p := (s.opB b).toNat
    let align := fun (w : Word) => (AccFault.mk .memAlign 0 w.toNat 1).trap true none
    if lev.val == 0 && p != 0 then s.raise (Trap.lane' .illegalConfig)
    else if (s.zreg z).isOpen then s.raise (Trap.lane' .badHandle)
    else match s.alignFault s.laneAgent .read 64 desc.toNat 64 with
    | some f => s.raise (f.trap true none)
    | none =>
      match s.laneWords desc 8 with
      | (.error f, s) => s.raise (f.trap true none)
      | (.ok h, s) =>
        if !headerOk h lev.val then s.raise (Trap.lane' .illegalConfig)
        else
          match s.laneWords (desc + 64 + BitVec.ofNat 64 (32 * lev.val)) 4 with
          | (.error f, s) => s.raise (f.trap true none)
          | (.ok w, s) =>
            let r : LevelRec := ⟨w.getD 0 0, w.getD 1 0, w.getD 2 0, w.getD 3 0⟩
            if r.bad then s.raise (Trap.lane' .illegalConfig)
            else match r.misaligned with
              | some x => s.raise (align x)
              | none => .next ((s.setZ z (openStream desc lev.val p r)).laneDone 0)

/-- What a stream instruction does on an open stream; a closed one traps (R304). -/
def State.onOpen (s : State) (i : Instr) (z : ZReg) (k : State → Res) : Res :=
  s.laneRun i fun s => if (s.zreg z).isOpen then k s else s.raise (Trap.lane' .badHandle)

/-- zadv (R158). -/
def execZadv (z : ZReg) (s : State) : Res :=
  s.onOpen (.zadv z) z fun s =>
    let (p, s) := s.pull z 1
    let s := s.goTo z p.a p.b
    match p.trap with
    | some t => s.raise t
    | none => .next (s.laneDone 0)

/-- The zld forms (R158, R305, R307): items are delivered to lanes from %vstart on, and counted into q2. After a fault
%vstart is the lane of the faulting item (R160); a form that consumes nothing, run again from there, delivers from the
position of its stream on, as it did the first time. Where no lane from %vstart on has a true guard and mask-stack top,
though one below it has, R117 leaves no lane active and R305 and R158 do not say what is consumed: nothing is, and
%vstart is pushed (both DESIGN CHOICE: log entry 36). -/
def State.zload (s : State) (i : Instr) (g : Guard) (z : ZReg) (consume : Bool)
    (deliver : State → List (Nat × Merged) → State × Nat) : Res :=
  s.onOpen i z fun s =>
    let act := s.actives g
    let v0 := s.t.l.vstart
    if act.isEmpty then .next ((s.mapQ (·.push 2 (BitVec.ofNat 64 v0))).laneEnd [] 0)
    else
      let (p, s) := s.pull z (s.t.l.v.vl - v0)
      let n := p.items.length
      let dest := (((List.range n).map (v0 + ·)).zip p.items).filter (fun x => act.contains x.1)
      let (s, fl) := deliver s dest
      let s := if consume then s.goTo z p.a p.b else s
      match p.trap with
      | some t =>
        ((s.addFlags fl).mapL (fun l => { l with vstart := v0 + n })).raise { t with lane := some (v0 + n) }
      | none => .next ((s.mapQ (·.push 2 (BitVec.ofNat 64 (v0 + n)))).laneEnd act fl)

/-- Values delivered as elements of %vtype (R158). -/
def State.deliverTo (d : VReg) (f : Merged → Nat) (s : State) (xs : List (Nat × Merged)) : State × Nat :=
  let vt := s.vt
  let ys : List LaneVal := xs.map (fun x => let r := fitInt false vt.sat vt.ew (f x.2); ⟨x.1, r.val, 0, r.fl⟩)
  (s.writeLanes vt d.val ys, flagsOf ys)

def execZldC (g : Guard) (d : VReg) (z : ZReg) (s : State) : Res :=
  s.zload (.zldC g d z) g z true (State.deliverTo d (·.coord))
def execZldP (g : Guard) (d : VReg) (z : ZReg) (s : State) : Res :=
  s.zload (.zldP g d z) g z true (State.deliverTo d (·.pa.getD 0))
def execZldCK (g : Guard) (d : VReg) (z : ZReg) (s : State) : Res :=
  s.zload (.zldCK g d z) g z false (State.deliverTo d (·.coord))
def execZldPK (g : Guard) (d : VReg) (z : ZReg) (s : State) : Res :=
  s.zload (.zldPK g d z) g z false (State.deliverTo d (·.pa.getD 0))

/-- zld.m (R158, R304): presence in the named stream and in its partner. -/
def execZldM (g : Guard) (d : MReg) (z : ZReg) (s : State) : Res :=
  s.onOpen (.zldM g d z) z fun s =>
    if (s.zreg z).mode == 0 then s.raise (Trap.lane' .badHandle)
    else s.zload (.zldM g d z) g z false fun s xs =>
      ((s.setCols d.val (xs.map (fun x => (x.1, x.2.pa.isSome)))).setCols (d.val + 1)
        (xs.map (fun x => (x.1, x.2.pb.isSome))), 0)

/-- Two streams joined (R162). -/
def State.merge (s : State) (i : Instr) (z m : ZReg) (mode : Nat) : Res :=
  s.laneRun i fun s =>
    let a := s.zreg z
    let b := s.zreg m
    if z = m || !a.isOpen || !b.isOpen || a.mode != 0 || b.mode != 0 then s.raise (Trap.lane' .badHandle)
    else
      .next (((s.setZ z { a with mode := mode, partner := m.val }).setZ m
        { b with mode := mode, partner := z.val }).laneDone 0)

def execZisect (z m : ZReg) (s : State) : Res := s.merge (.zisect z m) z m 1
def execZunion (z m : ZReg) (s : State) : Res := s.merge (.zunion z m) z m 2

/-! ### Skipping (R163) -/

/-- A read of the search of kind C, checked against what it has read (R161, R163). -/
def State.searchRead (s : State) (k : ZReg) (c : Cur) (seen : List (Nat × Nat)) (q : Nat) :
    Except Trap (Nat × List (Nat × Nat)) × State :=
  match s.readCrd k c q with
  | (.error t, s) => (.error t, s)
  | (.ok x, s) =>
    if seen.any (fun p => p.1 < q && x ≤ p.2) then s.badFibre k 3 q
    else match seen.find? (fun p => q < p.1 && p.2 ≤ x) with
      | some p => s.badFibre k 3 p.1
      | none => (.ok (x, (q, x) :: seen), s)

/-- The galloping half of the search: low and high ends. -/
def State.gallop (s : State) (k : ZReg) (c : Cur) (t : Nat) :
    Nat → Nat → Nat → List (Nat × Nat) → Except Trap (Nat × Nat × List (Nat × Nat)) × State
  | 0, lo, _, seen => (.ok (lo, (s.zreg k).endPos + 1, seen), s)
  | fuel + 1, lo, d, seen =>
    if c.pos + d ≤ (s.zreg k).endPos then
      match s.searchRead k c seen (c.pos + d - 1) with
      | (.error e, s) => (.error e, s)
      | (.ok (x, seen), s) =>
        if t ≤ x then (.ok (lo, c.pos + d, seen), s) else s.gallop k c t fuel (c.pos + d) (2 * d) seen
    else (.ok (lo, (s.zreg k).endPos + 1, seen), s)

/-- The bisecting half. lo and hi stand one above the positions of R163, so that lo = pos − 1 is pos. -/
def State.bisect (s : State) (k : ZReg) (c : Cur) (t : Nat) :
    Nat → Nat → Nat → List (Nat × Nat) → Except Trap (Nat × List (Nat × Nat)) × State
  | 0, _, hi, seen => (.ok (hi, seen), s)
  | fuel + 1, lo, hi, seen =>
    if lo + 1 < hi then
      let m := (lo + hi) / 2
      match s.searchRead k c seen (m - 1) with
      | (.error e, s) => (.error e, s)
      | (.ok (x, seen), s) => if t ≤ x then s.bisect k c t fuel lo m seen else s.bisect k c t fuel m hi seen
    else (.ok (hi, seen), s)

/-- What a check or a read of a skip answers, with the place the stream has come to. -/
def Cur.stays (c : Cur) {α : Type} : Except Trap α × State → Option Trap × Cur × State
  | (.error e, s) => (some e, c, s)
  | (.ok _, s) => (none, c, s)

/-- The set bits of a bitmap fibre below coordinate hi passed, up to the first whose coordinate is at least t (R163):
where the stream then is, and the trap that stopped it (R161). With a prefix array the position counts them (R155). -/
def State.passBits (s : State) (k : ZReg) (t hi : Nat) : Nat → Cur → Option Trap × Cur × State
  | 0, c => (none, c, s)
  | fuel + 1, c =>
    let z := s.zreg k
    let r := z.lrec
    let base := z.parent * r.size.toNat
    let start := if r.pfx then (if c.lv then c.coord + 1 else 0) else c.pos - base
    let done := if r.pfx then c else { c with pos := max c.pos (base + hi) }
    if z.over c then (none, c, s)
    else
      match s.scanBits k (r.size.toNat / 64 + 2) (base + start) (base + hi) with
      | (.error e, s) => (some e, c, s)
      | (.ok none, s) =>
        if r.pfx && hi == r.size.toNat && decide (c.pos < z.endPos) then c.stays (s.badFibre (α := Unit) k 6 c.pos)
        else (none, done, s)
      | (.ok (some n), s) =>
        let i := n - base
        let q := if r.pfx then c.pos else n
        if z.endPos ≤ q then c.stays (s.badFibre (α := Unit) k 6 z.endPos)
        else if 2 ^ 48 ≤ q then c.stays (s.badFibre (α := Unit) k 5 q)
        else if t ≤ i then (none, { c with pos := q }, s)
        else s.passBits k t hi fuel (Cur.take (q, i))

/-- The coordinate below which the scan of a bitmap by zskip stops: the end of the word that holds bit t of the fibre
(R163 bounds the words read by ⌈(t − current coordinate) / 64⌉ + 1). -/
def Stream.skipEnd (z : Stream) (t : Nat) : Nat :=
  let base := z.parent * z.lrec.size.toNat
  min z.lrec.size.toNat (((base + t) / 64 + 1) * 64 - base)

/-- The one item of a singleton passed where its coordinate lies below t. -/
def State.passOne (s : State) (k : ZReg) (t : Nat) (c : Cur) : Option Trap × Cur × State :=
  match s.peek k c with
  | (.ok (some x), s) => (none, if t ≤ x.2 then c else Cur.take x, s)
  | r => c.stays r

/-- A stream moved on over the items passed (R161: to the item before a bad one). -/
def State.passed (k : ZReg) (r : Option Trap × Cur × State) : Except Trap Unit × State :=
  let s := r.2.2.setZ k ((r.2.2.zreg k).goTo r.2.1)
  match r.1 with
  | some e => (.error e, s)
  | none => (.ok (), s)

/-- A stream advanced to the first item at or above a coordinate (R163). -/
def State.skipTo (s : State) (k : ZReg) (t : Nat) : Except Trap Unit × State :=
  let z := s.zreg k
  if z.lv && t ≤ z.coord then (.ok (), s)
  else
    match s.needBounds k with
    | (.error e, s) => (.error e, s)
    | (.ok (), s) =>
      let z := s.zreg k
      let c := z.cur
      if z.endPos ≤ z.pos then (.ok (), s)
      else match z.lrec.kind with
        | 0 =>
          let base := z.parent * z.lrec.size.toNat
          let p := min z.endPos (max z.pos (base + t))
          (.ok (), if p == z.pos then s else s.setZ k (z.goTo ⟨p, p - 1 - base, true, true⟩))
        | 1 =>
          match s.gallop k c t (z.endPos - z.pos + 1) z.pos 1 [] with
          | (.error e, s) => (.error e, s)
          | (.ok (lo, hi, seen), s) =>
            match s.bisect k c t (z.endPos - z.pos + 1) lo hi seen with
            | (.error e, s) => (.error e, s)
            | (.ok (hi, seen), s) =>
              let p := hi - 1
              (.ok (), if p ≤ z.pos then s
                else s.setZ k ((s.zreg k).goTo
                  ⟨p, ((seen.find? (fun x => x.1 + 1 == p)).map (·.2)).getD 0, true, true⟩))
        | 2 => State.passed k (s.passBits k t (z.skipEnd t) (z.lrec.size.toNat + 1) c)
        | _ => State.passed k (s.passOne k t c)

/-- zskip (R163, R306). -/
def execZskip (z : ZReg) (b : SReg) (s : State) : Res :=
  s.onOpen (.zskip z b) z fun s =>
    let t := (s.opB b).toNat
    let before := s
    match s.skipTo z t with
    | (.error e, s) => s.raise e
    | (.ok (), s) =>
      if (s.zreg z).mode == 0 then .next (s.laneDone 0)
      else
        let j := (s.zreg z).other
        match s.skipTo j t with
        | (.error e, s) => (s.setZ z (before.zreg z)).raise e
        | (.ok (), s) => .next (s.laneDone 0)

/-- Whether one fibre has ended (R158): its position tells; a bitmap is looked at for a further set bit, and where it
has none its stream stands at the end (R157, R161 reason 6). -/
def State.oneEnded (s : State) (k : ZReg) : Except Trap Bool × State :=
  match s.needBounds k with
  | (.error e, s) => (.error e, s)
  | (.ok (), s) =>
    let z := s.zreg k
    if z.lrec.kind != 2 || z.over z.cur then (.ok (decide (z.endPos ≤ z.pos)), s)
    else
      match s.peek k z.cur with
      | (.error e, s) => (.error e, s)
      | (.ok (some _), s) => (.ok false, s)
      | (.ok none, s) => (.ok true, s.setZ k ((s.zreg k).goTo ((s.zreg k).atEnd (s.zreg k).cur)))

/-- Whether the fibre, or the pair, has ended (R158, R161, R162): a union when both its streams have, an intersection
when it finds no common coordinate. -/
def State.testEnd (s : State) (k : ZReg) : Except Trap Bool × State :=
  match (s.zreg k).mode with
  | 1 =>
    let (p, s) := s.pull k 1
    match p.trap with
    | some t => (.error t, s)
    | none => (.ok p.items.isEmpty, if p.items.isEmpty then s.goTo k p.a p.b else s)
  | 2 =>
    match s.oneEnded k with
    | (.ok true, s) => s.oneEnded (s.zreg k).other
    | r => r
  | _ => s.oneEnded k

/-- The probe of bz.end (R158, R302, R306). -/
def execBzEnd (z : ZReg) (o : BitVec 24) (s : State) : Res :=
  s.onOpen (.bzEnd z o) z fun s =>
    match s.testEnd z with
    | (.error e, s) => s.raise e
    | (.ok b, s) => .next ((s.mapQ (·.pushBo b)).laneDone 0)

/-- zclose (R158). -/
def execZclose (z : ZReg) (s : State) : Res :=
  s.onOpen (.zclose z) z fun s =>
    let r := s.zreg z
    let s := s.setZ z .closed
    .next ((if r.mode == 0 then s else s.setZ r.other .closed).laneDone 0)

/-! ### Reading ahead (R159, R160) -/

/-- The entries that the engine may read ahead (R159): the bounds, or up to 64 items, or 4 KiB of a bitmap, from the
position on. -/
def Stream.aheadEntries (z : Stream) : List (Word × Nat) :=
  let r := z.lrec
  if !z.bounds then [(z.boundAt 0, 8), (z.boundAt 1, 8)]
  else match r.kind with
    | 1 => (List.range (min 64 (z.endPos - z.pos))).map (fun i => (entryAt r.arrB r.cw (z.pos + i), r.cw))
    | 2 =>
      let base := z.parent * r.size.toNat
      let i := base + (if r.pfx then (if z.lv then z.coord + 1 else 0) else z.pos - base)
      let stop := base + r.size.toNat
      (List.range (min 512 ((stop + 63) / 64 - i / 64))).map (fun n => (entryAt r.arrA 8 (i / 64 + n), 8))
    | 3 => if z.pos < z.endPos && z.pos < r.len then [(entryAt r.arrA r.cw z.pos, r.cw)] else []
    | _ => []

/-- The entries that have not been read ahead; they are read independently of each other (R159). -/
def Stream.unread (z : Stream) : List (Word × Nat) :=
  if !z.isOpen || z.ended then []
  else z.aheadEntries.filter (fun e => !z.ahead.any (fun r => r.va == e.1 && r.size == e.2))

/-- The entry that is read ahead next: any of them, as the number n chooses. -/
def Stream.nextAhead (z : Stream) (n : Nat) : Option (Word × Nat) := z.unread[n % z.unread.length]?

/-- A record of an uncorrectable error that no thread waits on (R400, R435). -/
def State.asideRecord (s : State) (ag : Agent) (f : AccFault) : FaultRec :=
  s.deviceRecord ag.src ag.ctx f.cause.code 5 f.access f.detail f.va 0 0

/-- The bounds filled in from what has been read ahead, where they pass their checks (R157). -/
def Stream.boundsAhead (z : Stream) : Stream :=
  let get := fun n => z.ahead.find? (fun r => r.va == z.boundAt n && r.size == 8 && r.fault.isNone)
  match z.bounds, get 0, get 1 with
  | false, some a, some b => if (z.boundsBad a.value b.value).isNone then z.withBounds a.value b.value else z
  | _, _, _ => z

/-- What a read ahead has found, kept with its stream. -/
def State.keepAhead (s : State) (k : ZReg) (r : ReadAhead) : State :=
  s.setZ k ({ s.zreg k with ahead := (s.zreg k).ahead ++ [r] } : Stream).boundsAhead

/-- STREAM_FETCH_AHEAD (R159, R160): one entry, freely chosen, is read; a fault is kept for the instruction that needs
it. The read is of no instruction yet: a watch-hit record of it names the head of the lane queue (R317; DESIGN CHOICE: log
entry 61). -/
def execStreamFetchAhead (k : ZReg) (s : State) : Res :=
  let (x, s) := s.free
  match (s.zreg k).nextAhead x with
  | none => .next s
  | some (va, n) =>
    match s.load s.laneAgent n va.toNat with
    | (.error f, s) =>
      let s := if f.detail != 0 then s.addFault (s.asideRecord s.laneAgent f) else s
      .next (s.keepAhead k ⟨va, n, 0, some f.cause⟩)
    | (.ok v, s) => .next (s.keepAhead k ⟨va, n, v, none⟩)

end Sys2Proof.Machine
end

