-- ==== Sys2Proof/Machine/Save.lean ====
section
/-! DEFINITION. The context image (R404 to R406) and the saving of a stopped thread (R60 to R62, R164, R407). -/

namespace Sys2Proof.Machine

/-! ### Stream registers in the image (R157, R154, R164) -/

/-- The 256 bits of a stream register; fp is always 0 in the image. -/
def Stream.pack (z : Stream) : Nat :=
  z.coord % 2 ^ 48 * 2 ^ 208 + z.endPos % 2 ^ 48 * 2 ^ 160 + z.pos % 2 ^ 48 * 2 ^ 112 + z.parent % 2 ^ 48 * 2 ^ 64
    + z.desc.toNat / 64 % 2 ^ 50 * 2 ^ 14 + z.lev % 8 * 2 ^ 11 + z.partner % 8 * 2 ^ 8 + z.mode % 4 * 2 ^ 6
    + z.isOpen.toNat * 2 ^ 5 + z.ended.toNat * 2 ^ 4 + z.lv.toNat * 2 ^ 2

/-- A stream register of its 256 bits and the level record captured for it. Whether its bounds have been read is not
in the image; the device keeps it. -/
def Stream.unpack (x : Nat) (r : LevelRec) (bounds : Bool) : Stream where
  isOpen := x.testBit 5
  coord := bits x 255 208
  lv := x.testBit 2
  endPos := bits x 207 160
  pos := bits x 159 112
  parent := bits x 111 64
  desc := BitVec.ofNat 64 (bits x 63 14 * 64)
  lev := bits x 13 11
  partner := bits x 10 8
  mode := bits x 7 6
  ended := x.testBit 4
  bounds := bounds
  lrec := r
  ahead := []

/-! ### The state area (R405) -/

/-- First byte of the image slot of the task in focus. -/
def State.image (s : State) : Nat := slotBaseOf s.ctxT s.t.task.slot

/-- The value of system register n in the image: lane-stream values where writes travel through the lane queue. -/
def State.savedSys (s : State) (n : Nat) : Word :=
  let l := s.t.l
  match n with
  | 0x00 => BitVec.ofNat 64 l.v.vl
  | 0x01 => BitVec.ofNat 64 l.v.vlo
  | 0x02 => BitVec.ofNat 64 l.v.vli
  | 0x03 => l.v.vtype
  | 0x12 => l.drawkey.setWidth 64
  | 0x13 => BitVec.ofNat 64 (l.drawkey.toNat / 2 ^ 64)
  | 0x14 => l.drawid.setWidth 64
  | n => s.sysRead n

/-- Words from an offset upwards. -/
def wordsAt (off : Nat) (l : List Nat) : List (Nat × Nat) := (List.range l.length).zip l |>.map (fun p => (off + 8 * p.1, p.2))

/-- Bits of a list, the first in bit 0. -/
def packBools : List Bool → Nat
  | [] => 0
  | b :: l => b.toNat + 2 * packBools l

/-- The word at offset 0x330. -/
def State.ownWord (s : State) (held : Nat) (hard : Bool) : Nat :=
  let a := s.t.alloc
  s.t.l.live.toNat + a.tiles.toNat * 2 ^ 8 + a.segs.toNat * 2 ^ 16 + popc 16 a.quads.toNat * 2 ^ 28
    + held % 128 * 2 ^ 33 + hard.toNat * 2 ^ 40 + s.t.l.depth % 32 * 2 ^ 41

/-- The word at offset 0x580. -/
def Queues.countWord (q : Queues) : Nat :=
  packBools q.bo + q.bo.length * 2 ^ 16 + q.q0.length * 2 ^ 21 + q.q1.length * 2 ^ 26 + q.q2.length * 2 ^ 31
    + q.q3.length * 2 ^ 36

/-- The two words of the pending push. -/
def Queues.pendWords (q : Queues) : List Nat :=
  match q.pend with
  | none => [0, 0]
  | some p => if p.queue == 3 then [3 + p.value.toNat % 2 * 4, 0] else [p.queue, p.value.toNat]

/-- The flags word of a held entry. -/
def LaneEntry.flags (e : LaneEntry) : Nat :=
  let ret := match e.kind, decode e.word with
    | .part, .ok .ret => true
    | .part, .ok .tret => true
    | _, _ => false
  e.bPopped.toNat + ret.toNat * 2 + (e.kind == .probe : Bool).toNat * 4

/-- The entries of the image: those that a user trap holds, then the lane queue from %vcp on; the image holds 64. -/
def State.heldOut (s : State) : List LaneEntry := (s.t.q.held ++ s.t.q.lane).take 64

/-- The words of the state area, by offset. -/
def State.stateArea (s : State) (hard : Bool) : List (Nat × Nat) :=
  let c := s.t.c
  let q := s.t.q
  let held := s.heldOut
  let zs := s.t.l.z.toList
  wordsAt 0 (c.s.toList.map (·.toNat))
    ++ wordsAt 0x200 ((List.range 32).map (fun n => (s.savedSys n).toNat))
    ++ wordsAt 0x300 [c.v.vl, c.v.vlo, c.v.vli, c.v.vtype.toNat % 2 ^ 63 + c.v.illegal.toNat * 2 ^ 63, c.mcfg.toNat,
      s.t.l.mcfg.toNat, s.ownWord held.length hard, c.tokens.toNat]
    ++ wordsAt 0x340 (s.t.l.lcr.toList.map (·.toNat))
    ++ ([q.q0, q.q1, q.q2, q.q3].zip (List.range 4)).flatMap (fun p => wordsAt (0x380 + 128 * p.2) (p.1.map (·.toNat)))
    ++ wordsAt 0x580 (q.countWord :: q.pendWords ++ [c.pc.toNat])
    ++ (zs.zip (List.range 8)).flatMap (fun p => wordsAt (0x600 + 32 * p.2)
      ((List.range 4).map (fun k => p.1.pack / 2 ^ (64 * k) % 2 ^ 64)))
    ++ ((zs.zip (List.range 8)).filter (fun p => p.1.isOpen)).flatMap (fun p => wordsAt (0x800 + 32 * p.2)
      [p.1.lrec.ctl.toNat, p.1.lrec.size.toNat, p.1.lrec.arrA.toNat, p.1.lrec.arrB.toNat])
    ++ (held.zip (List.range 64)).flatMap (fun p => wordsAt (0x1000 + 64 * p.2)
      [p.1.word.toNat, p.1.addr.toNat, p.1.a.toNat, p.1.b.toNat, p.1.c.toNat, p.1.flags, 0, 0])

/-- Offsets of the words of the queues' entries that are not in use: they are written, and R405 gives them no value (R409;
log entry 43). -/
def Queues.unused (q : Queues) : List Nat :=
  (List.range 4).flatMap (fun k =>
    (List.range (queueDepth - (q.get k).length)).map (fun i => 0x380 + 128 * k + 8 * ((q.get k).length + i)))

/-- The reserved words of the state area, written as zero (R405, R409): all but the two that the driver writes. -/
def reservedWords : List Nat := (List.range 12).map (0x5A0 + 8 * ·) ++ (List.range 30).map (0x710 + 8 * ·) ++
  (List.range 3).map (0x368 + 8 * ·)

/-! ### Bit columns, tiles and units of movement (R404, R406) -/

/-- The columns of a quad's lanes, by lane in the quad. -/
def State.quadCols (s : State) (uid q : Nat) : List (Nat × Word) := cellSlice s.cols (colKey uid (q * 16384)) 16384

/-- The mask-stack entries below the depth of a quad rank written to the image. -/
def State.putStack (s : State) (base depth rank : Nat) (cols : List (Nat × Word)) : State :=
  (List.range depth).foldl (fun s e => s.putRange (base + 0x80000 + 2048 * (16 * rank + e)) 2048 (packColumn cols (32 + e))) s

/-- A tile written to the image; errors in it go with it (log entry 62). -/
def State.putTile (s : State) (base uid t : Nat) : State :=
  let counts := cellSlice s.accs (accKey uid t 0 0) 4096
  (s.putRange (base + 0x10000 + 32768 * t) 32768
    (counts.flatMap (fun p => (List.range 8).zip (bytesOf 8 p.2.toNat) |>.map (fun b => (8 * p.1 + b.1, b.2))))).carry
      s.fleet.errors (shiftCell (accBase uid t 0 0) (base + 0x10000 + 32768 * t) 32768)

/-- A unit of movement that a thread gives up with an error in it goes to the image at once, and the error with it (log
entry 62): no program sees when it moves (R406). -/
def State.imageBad (s : State) (ctx slot : Nat) (m : MoveUnit) : MoveUnit × State :=
  let f := m.shift (m.placeBase m.uid m.phys) (m.imageBase (slotBaseOf (s.ctxD ctx) slot))
  if m.kind != 1 && m.evictable && s.fleet.errors.any (fun e => (errCells e).any (fun a => (f a).isSome)) then
    (m.imaged, (s.writeBack ctx slot m).carry s.fleet.errors f)
  else (m, s)

/-- A unit of movement that has just become evictable. -/
def evictableUnit (kind rank num uid phys : Nat) (data : List Host.Cell) : MoveUnit := ⟨kind, rank, num, uid, phys, data, true⟩

/-- The slots and mask columns of a quad rank; what vdead has named and nothing has written since is dead and is not
kept. -/
def State.quadUnits (s : State) (rank q : Nat) : List MoveUnit :=
  let uid := s.uid
  let cells := cellSlice s.mem (arrayBase uid + q * 2 ^ 20) (2 ^ 20)
  let cols := s.quadCols uid q
  let slots := (List.range 32).map (fun n => evictableUnit 0 rank n uid q (slotBytes cells n))
  let masks := (List.range 32).map (fun n => evictableUnit 1 rank n uid q (packColumn cols n))
  slots.filter (fun m => !(s.t.l.deadSlots.getLsbD m.num && m.data.isEmpty))
    ++ masks.filter (fun m => !(s.t.l.deadMasks.getLsbD m.num && m.data.isEmpty))

/-- The weight segments of the thread in focus. -/
def State.segUnits (s : State) : List MoveUnit :=
  ((List.range 12).filter (fun g => s.t.alloc.segs.getLsbD g)).map
    (fun g => evictableUnit 2 0 g s.uid g (cellSlice s.mem (weightBase s.uid + g * 2 ^ 18) (2 ^ 18)))

/-! ### SAVE (R407) -/

/-- A copy, of this thread or of another of its unit, writes to a slot of the thread in focus and is not complete (R62).
Where only its chunk mask is left, which lane instructions that are to be saved hold up (R115), the save does not wait for
it (DEDUCED: log entry 38). -/
def State.copyToSlots (s : State) (c : Copy) : Bool :=
  uidOf c.site == s.uid && c.code != 2 && !(c.todo.isEmpty && c.fault.isNone && !s.masksReady c)
    && ((List.range c.chunks).flatMap c.elems).any (fun k =>
      (List.range c.esize).any (fun i =>
        let va := (c.dstOf k + i) % 2 ^ 64
        0x00FFFF0000000000 ≤ va && va < 0x00FFFF0001000000 && s.t.alloc.quads.getLsbD ((va - 0x00FFFF0000000000) / 2 ^ 20)))

/-- Step 3: the lane stream has come to rest; at a hard pre-emption an mmul rests at its step (R61, R295). -/
def State.saveDrained (s : State) : Bool :=
  let q := s.t.q
  !s.accBusy && match s.t.preempt with
  | .stopped _ => !s.t.laneBusy
  | .soft | .evict .. => !s.t.laneBusy && (q.lane.isEmpty || q.headWaits || (q.pend.isSome && !q.pendRoom))
  | _ => !s.t.l.flush && s.t.r.place.isEmpty

/-- Steps 4 and 5: the residual tile is empty, every accumulate has been performed (R148), and no copy still writes to
the thread's slots. -/
def State.saveFlushed (s : State) : Bool :=
  s.t.r.entries.isEmpty && !s.accOpen && !s.copies.any s.copyToSlots

/-- A stopped thread has something left to do now. -/
def State.saveReady (s : State) : Bool :=
  s.t.status == .preempting && s.saveDrained && (s.saveFlushed || (!s.t.r.entries.isEmpty && s.t.r.flushed))

/-- What an eviction was blocked on, and whether that has come about. -/
def Preempt.evicted : Preempt → Option (Wait × Bool)
  | .evict w r => some (w, r)
  | .stopped e => e
  | _ => Option.none

/-- The thread in focus as it is kept while it is saved: nothing of it is on its way. -/
def Thread.asSaved (t : Thread) : Thread :=
  let t := t.noEarly
  let c := { t.c with loads := [], accs := [], popWord := none, body := [], flush := false }
  { t with c := c, r := ⟨[], []⟩, l := { t.l with returns := [], stores := [], going := [], mm := [], flush := false } }

/-- Steps 6 and 7: the state area, the mask stack and the tiles are written; the rest becomes evictable; the thread
returns to free. A thread of the range of a pre-emption request counts as saved for it and waits for RESUME. -/
def State.saveThread (s : State) : State :=
  let t := s.t
  let hard := t.preempt == .hard
  let base := s.image
  let qs := t.alloc.quadList
  let (mine, others) := s.away.partition (fun x => x.task == t.task.id)
  let away := mine.map (·.unit)
  let units := (((List.range qs.length).zip qs).flatMap (fun p => s.quadUnits p.1 p.2) ++ s.segUnits).filter (fun m =>
    !away.any (fun x => x.kind == m.kind && x.rank == m.rank && x.num == m.num)) ++ away
  let (units, s) := if s.fleet.errors.isEmpty then (units, s)
    else units.foldl (fun (acc : List MoveUnit × State) m =>
      let (m, s) := acc.2.imageBad t.task.ctx t.task.slot m
      (acc.1 ++ [m], s)) ([], s)
  let unused := t.q.unused
  let old := ((List.range unused.length).zip unused).map (fun p => (p.2, Config.freeNat (s.fresh + p.1) % 2 ^ 64))
  let s := s.putWords base (s.stateArea hard ++ old ++ reservedWords.map (fun o => (o, 0)))
  let s := { s with fresh := s.fresh + unused.length }
  let s := ((List.range qs.length).zip qs).foldl (fun s p => s.putStack base t.l.depth p.1 (s.quadCols s.uid p.2)) s
  let tiles := (List.range 8).filter (fun n => t.alloc.tiles.getLsbD n && (hard || t.l.live.getLsbD n))
  let s := tiles.foldl (fun s n => s.putTile base s.uid n) s
  let s := qs.foldl (fun s q => s.clearQuad s.uid q) s
  let s := ((List.range 12).filter (fun g => t.alloc.segs.getLsbD g)).foldl (fun s g => s.clearSeg s.uid g) s
  let asked := s.sched.preReqs.any (fun p => p.tasks.contains t.task.id)
  let ev := if asked then none else t.preempt.evicted
  let x : Saved := ⟨t.asSaved, hard, units, ev.any (·.2), ev.map (·.1)⟩
  let s := { s with
    saved := s.saved ++ [x]
    away := others
    t := Thread.fresh t.site }
  ((s.forgetTask t.task.id).preemptLeft t.task.id true).leaveUnit (uidOf t.site)

/-- SAVE (R407): once the lane stream is at rest, the residual tile is flushed and the copies into the thread's slots are
done, the thread is saved. -/
def execSave (s : State) : Res :=
  if s.t.status != .preempting || !s.saveDrained then .next s
  else
    let s := (s.drainLane.finishLanes.drainAccs).mapT Thread.stopMmul
    let s := s.t.c.loads.foldl (fun s p => s.setReg (sreg p.1) p.2) s
    if !s.t.r.entries.isEmpty && s.t.r.flushed then .next s.laneFlushStart
    else if s.saveFlushed then .next s.saveThread
    else .next s

end Sys2Proof.Machine
end

