-- ==== Sys2Proof/Machine/Resume.lean ====
section
/-! DEFINITION. A saved thread restored from its image (R410, R405, R406, R62, R164). -/

namespace Sys2Proof.Machine

/-- Word at an offset of an image slot. -/
def State.imageWord (s : State) (base off : Nat) : Nat := s.rdN (base + off) 8

/-- Words of an image slot from an offset. -/
def State.imageWords (s : State) (base off n : Nat) : List Nat := (List.range n).map (fun k => s.imageWord base (off + 8 * k))

/-- A saved entry of the lane queue (R405): a probe, the lane part of a control word, or an instruction. -/
def State.imageEntry (s : State) (base k seq lanes : Nat) : LaneEntry :=
  let w := fun j => BitVec.ofNat 64 (s.imageWord base (0x1000 + 64 * k + 8 * j))
  let flags := (w 5).toNat
  let lane := match decode (w 0) with | .ok i => isLane i | .error _ => false
  let pairSlot := match decode (w 0) with | .ok (.pair ..) => true | _ => false
  let kind : EntryKind := if flags.testBit 2 then .probe else if lane || pairSlot then .instr else .part
  ⟨seq, kind, w 0, w 1, w 2, w 3, w 4, flags.testBit 0, lanes⟩

/-- The entries of the image, and those that it had no room for, with the numbers and the lanes they had. -/
def State.imageEntries (s : State) (base : Nat) (old : List LaneEntry) : List LaneEntry :=
  let n := bits (s.imageWord base 0x330) 39 33
  (List.range n).map (fun k =>
    s.imageEntry base k ((old.map (·.seq)).getD k 0) ((old.map (·.lanes)).getD k (16 * 16384))) ++ old.drop 64

/-- The lengths and type of four words. -/
def vstateOf (w : List Nat) (illegal : Bool) : VState :=
  ⟨w.getD 0 0 % 2 ^ 19, w.getD 1 0 % 2 ^ 19, w.getD 2 0 % 2 ^ 19, BitVec.ofNat 64 (w.getD 3 0 % 2 ^ 63), illegal⟩

/-- The control stream as the image gives it; the given held entries are re-issued (R213, R53): those that a user trap
holds wait for its tret (R218). A captured launch record stays with its launch.w (R211). -/
def State.imageCtrl (s : State) (base : Nat) (old : Ctrl) (entries : List LaneEntry) : Ctrl :=
  let sys := fun n => s.imageWord base (0x200 + 8 * n)
  let v := s.imageWords base 0x300 4
  let c := { old with
    pc := BitVec.ofNat 64 (s.imageWord base 0x598)
    s := (Vector.ofFn (fun k : Fin 64 => BitVec.ofNat 64 (s.imageWord base (8 * k.val)))).set 0 0
    loads := []
    launchRec := if s.imageWord base 0x598 == old.pc.toNat then old.launchRec else none
    tokens := BitVec.ofNat 64 (s.imageWord base 0x338)
    v := vstateOf v ((v.getD 3 0).testBit 63)
    depth := bits (s.imageWord base 0x330) 45 41
    mcfg := BitVec.ofNat 64 (s.imageWord base 0x320)
    drawkey := BitVec.ofNat 128 (sys 0x12 + sys 0x13 * 2 ^ 64)
    drawid := BitVec.ofNat 32 (sys 0x14)
    tvec := BitVec.ofNat 64 (sys 0x16)
    nestctr := BitVec.ofNat 64 (sys 0x17)
    nestcfg := BitVec.ofNat 64 (sys 0x18) }
  entries.foldl Ctrl.reissue c

/-- The lane stream as the image gives it. -/
def State.imageLane (s : State) (base : Nat) (old : Lane) : Lane :=
  let sys := fun n => s.imageWord base (0x200 + 8 * n)
  let zword := fun k => natOfBytes ((List.range 32).map (fun i => s.rd (base + 0x600 + 32 * k + i)))
  let z := fun (k : Fin 8) =>
    let x := zword k.val
    let r := (s.imageWords base (0x800 + 32 * k.val) 4).map (BitVec.ofNat 64)
    let lr : LevelRec := ⟨r.getD 0 0, r.getD 1 0, r.getD 2 0, r.getD 3 0⟩
    Stream.unpack x (if x.testBit 5 then lr else ⟨0, 0, 0, 0⟩) old.z[k].bounds
  { old with
    v := vstateOf (s.imageWords base 0x200 4) old.v.illegal
    vstart := sys 4 % 2 ^ 19
    xclass := BitVec.ofNat 8 (sys 7)
    xflags := BitVec.ofNat 8 (sys 8)
    xen := BitVec.ofNat 8 (sys 9)
    depth := bits (s.imageWord base 0x330) 45 41
    drawkey := BitVec.ofNat 128 (sys 0x12 + sys 0x13 * 2 ^ 64)
    drawid := BitVec.ofNat 32 (sys 0x14)
    mcfg := BitVec.ofNat 64 (s.imageWord base 0x328)
    live := BitVec.ofNat 8 (s.imageWord base 0x330)
    z := Vector.ofFn z
    lcr := Vector.ofFn (fun k : Fin 5 => BitVec.ofNat 64 (s.imageWord base (0x340 + 8 * k.val)))
    started := 0 }

/-- The queues as the image gives them; entries that a user trap held go on waiting for its tret. -/
def State.imageQueues (s : State) (base : Nat) (old : Queues) (entries : List LaneEntry) : Queues :=
  let w := s.imageWord base 0x580
  let q := fun k lo => (s.imageWords base (0x380 + 128 * k) (min queueDepth (bits w (lo + 4) lo))).map (BitVec.ofNat 64)
  let p := s.imageWord base 0x588
  let from' := match old.pend with | some x => x.addr | none => 0
  let pend := match p % 4 with
    | 0 => none
    | 3 => some (PendPush.mk 3 (BitVec.ofNat 64 (p / 4 % 2)) from')
    | k => some (PendPush.mk k (BitVec.ofNat 64 (s.imageWord base 0x590)) from')
  let n := old.held.length
  { lane := entries.drop n, held := entries.take n, pushed := old.pushed
    q0 := q 0 21, q1 := q 1 26, q2 := q 2 31, q3 := q 3 36
    bo := (List.range (min queueDepth (bits w 20 16))).map (fun k => w.testBit k), pend := pend }

/-! ### The stack and the tiles of the image -/

/-- The mask-stack entries of the image put into the thread in focus. -/
def State.getStack (s : State) (base depth : Nat) : State :=
  let qs := s.t.alloc.quadList
  ((List.range qs.length).zip qs).foldl (fun s p =>
    (List.range depth).foldl (fun s e =>
      (unpackColumn (cellSlice s.mem (base + 0x80000 + 2048 * (16 * p.1 + e)) 2048)).foldl
        (fun s j => s.setColAt s.uid (p.2 * 16384 + j) (32 + e) true) s) s) s

/-- A tile of the image put into the thread in focus; errors in it go with it (log entry 62). -/
def State.getTile (s : State) (base t : Nat) : State :=
  let cells := cellSlice s.mem (base + 0x10000 + 32768 * t) 32768
  let keys := (cells.map (fun p => p.1 / 8)).eraseDups
  let new := keys.map (fun k => (k, BitVec.ofNat 64 (s.rdN (base + 0x10000 + 32768 * t + 8 * k) 8)))
  let s' : State := { s with accs := cellPut 0 s.accs (accKey s.uid t 0 0) 4096 new }
  s'.carry s.fleet.errors (shiftCell (base + 0x10000 + 32768 * t) (accBase s.uid t 0 0) 32768)

/-! ### RESUME onto a site (R410) -/

/-- Bits of a mask of w bits. -/
def maskList (w : Nat) (m : Nat) : List Nat := (List.range w).filter (fun i => m.testBit i)

/-- The status set of a thread that enters a stopped cluster (R313, R314): the stop's time stamp, and no skid. -/
def State.stopSet (s : State) (site : Nat) : State :=
  let cl := s.cluster (clusterNo site)
  let x := cl.sets.toArray.getD (setNo site) ⟨0, 0, 0, 0⟩
  s.setCluster (clusterNo site) { cl with
    sets := cl.sets.setIfInBounds (setNo site) ⟨cl.stopAt, 0, 0, x.ptwin⟩ }

/-- A unit of movement stands where its thread is resumed: evictable, in the same physical quad or segment (R406). -/
def MoveUnit.stays (m : MoveUnit) (uid : Nat) (quads : List Nat) : Bool :=
  m.evictable && m.uid == uid && (m.kind == 2 || quads[m.rank]? == some m.phys)

/-- What a resume reads of the image at once: the state area with the held entries, and the mask-stack entries. -/
def State.resumeReads (s : State) (x : Saved) : List (Nat × Nat) :=
  let base := slotBaseOf (s.ctxD x.th.task.ctx) x.th.task.slot
  let w := s.imageWord base 0x330
  (base, 0x1000 + 64 * bits w 39 33) :: (List.range x.th.alloc.quadList.length).map (fun r =>
    (base + 0x80000 + 2048 * (16 * r), 2048 * bits w 45 41))

/-- A saved thread restored at a site with some physical quads: the state area and the held entries, then the units of
movement that stand there; the others are away (R406). In a stopped cluster it enters frozen where its debug is enabled
(R313); while the debug of its context is locked its %dbgctl stays 0, whatever the image holds (R431); reserved bits of
%dbgctl are zero (R309). Where the state area or the mask stack in the image is in error, the task ends (DESIGN CHOICE: log
entry 62). -/
def State.restoreAt (s : State) (x : Saved) (site : Nat) (quads : List Nat) : State :=
  let task := x.th.task
  let base := slotBaseOf (s.ctxD task.ctx) task.slot
  let (bad, s) := s.selfRead task.ctx (s.resumeReads x)
  let entries := s.imageEntries base (x.th.q.held ++ x.th.q.lane)
  let dbg := if s.locked task.ctx then 0 else BitVec.ofNat 64 (s.imageWord base (0x200 + 8 * 0x19)) &&& dbgMask
  let stop := (s.cluster (clusterNo site)).trctl.getLsbD 2 && dbg.getLsbD 0
  let t : Thread := { x.th with
    site := site
    status := .running
    preempt := .none
    alloc := ⟨0, 0, 0⟩
    c := s.imageCtrl base x.th.c (entries.drop x.th.q.held.length)
    q := s.imageQueues base x.th.q entries
    l := s.imageLane base x.th.l
    dbg := { x.th.dbg with ctl := if stop then dbg ||| 4 else dbg, stop := false } }
  let s := { s with saved := s.saved.filter (fun y => y.th.task.id != task.id) }
  let s := (s.hostUnit (uidOf site) task.ctx).focus site
  let s := { s with t := t }
  let s := s.giveQuads quads
  let s := s.giveTiles (maskList 8 x.th.alloc.tiles.toNat)
  let s := s.giveSegs (maskList 12 x.th.alloc.segs.toNat)
  let (here, away) := x.units.partition (fun m => m.stays (uidOf site) s.t.alloc.quadList)
  let s := here.foldl (fun s m => s.putUnit s.t m m.data) s
  let s := { s with away := s.away ++ away.map (Away.mk task.id task.ctx task.slot) }
  let s := s.getStack base s.t.l.depth
  let tiles := (maskList 8 x.th.alloc.tiles.toNat).filter (fun n => x.hard || s.t.l.live.getLsbD n)
  let s := tiles.foldl (fun s n => s.getTile base n) s
  let s := if stop then s.stopSet site else s
  let s := s.mapT (Thread.applyFz s.stale.length)
  if bad then s.failTask s.t Cause.memPermission.code else s

/-- The lowest free thread of a unit; a given one first. -/
def State.freeSite (s : State) (uid first : Nat) : Option Nat :=
  (first :: (List.range 4).map (siteOfUid uid + ·)).find? (fun site => uidOf site == uid && (s.threadAt site).status == .free)

/-- The unit can take a saved thread (R410): it hosts no other context, and quads, tiles and segments are free. -/
def State.resumeFits (s : State) (x : Saved) (uid : Nat) : Bool :=
  let host := (s.unitSt uid).host
  let a := x.th.alloc
  (host == 0 || host == x.th.task.ctx)
    && (maskList 8 a.tiles.toNat).all (fun n => (s.freeTiles uid).contains n)
    && (maskList 12 a.segs.toNat).all (fun n => (s.freeSegs uid).contains n)

/-- A saved thread resumed on a unit, if the unit can take it: a hard-saved one with its former quads, tiles and
segments; a soft-saved one with its former quads where they are free on its former unit, else the lowest free ones. -/
def State.resumeOn (s : State) (x : Saved) (uid : Nat) : Option State :=
  let own := x.th.alloc.quadList
  let free := s.freeQuads uid
  let home := uid == uidOf x.th.site
  if !s.resumeFits x uid then none
  else if x.hard then
    if home && own.all free.contains then (s.freeSite uid x.th.site).map (fun site => s.restoreAt x site own) else none
  else
    let kept := if home then own.filter free.contains else []
    let quads := kept ++ (free.filter (fun q => !kept.contains q)).take (own.length - kept.length)
    if quads.length < own.length then none
    else (s.freeSite uid (siteOfUid uid)).map (fun site => s.restoreAt x site quads)

end Sys2Proof.Machine
end

