-- ==== Sys2Proof/Machine/Place.lean ====
section
/-! DEFINITION. Placement (R33, R34, R384 to R387, R391, R393), resumption of saved threads in its order (R387, R410),
and the completion of a launch (R381). -/

namespace Sys2Proof.Machine

/-! ### Groups within instances of their scopes (R34, R386) -/

/-- The tasks of a level-j group placed on some units, each by a given placing of one task: a group bound to unit,
cluster or die within the first instance that can take it at once, the rest one task after the other. -/
def placeIn (l : Launch) (leaf : State → Nat → List Nat → Option State) (home : Nat → Option Nat) :
    Nat → State → List Nat → List Nat → Option State
  | 0, s, ords, units => ords.foldl (fun o k => o.bind (fun s => leaf s k units)) (some s)
  | j + 1, s, ords, units =>
    let sub := (ords.map (· / l.groupSize j)).eraseDups
    let inner := fun (units : List Nat) => sub.foldl (fun o g => o.bind (fun s =>
      placeIn l leaf home j s (ords.filter (fun k => k / l.groupSize j == g)) units)) (some s)
    let c := l.binding (j + 1)
    if c == 1 || c == 2 || c == 3 then (splitUnits c (ords.head?.bind home) units).findSome? inner else inner units

/-- Units of a cluster in the order in which they are tried (R386): those that host the context first. -/
def State.unitOrder (s : State) (ctx : Nat) (us : List Nat) : List Nat :=
  us.filter (fun u => (s.unitSt u).host == ctx) ++ us.filter (fun u => (s.unitSt u).host != ctx)

/-- Some units cluster by cluster, each in the order of R386. -/
def State.clusterOrder (s : State) (ctx : Nat) (units : List Nat) : List Nat :=
  (splitUnits 2 none units).flatMap (s.unitOrder ctx)

/-- A unit can take a task of a launch (R386). -/
def State.unitTakes (s : State) (l : Launch) (uid : Nat) : Bool :=
  let host := (s.unitSt uid).host
  (host == 0 || host == l.ctx) && l.quads ≤ (s.freeQuads uid).length && l.tiles ≤ (s.freeTiles uid).length
    && l.wseg ≤ (s.freeSegs uid).length

/-- A task bound on the first unit that can take it, with the lowest free thread and image slot (R386, R404). -/
def State.bindOne (l : Launch) (s : State) (ord : Nat) (units : List Nat) : Option State :=
  match s.freeSlot l.ctx with
  | none => none
  | some slot => (s.clusterOrder l.ctx units).findSome? (fun uid =>
      if s.unitTakes l uid then (s.freeSite uid (siteOfUid uid)).map (fun site => s.bindTask l ord site slot) else none)

/-! ### Waiting groups (R384, R385, R387) -/

/-- A task of a launch is bound or saved. -/
def State.bound (s : State) (l : Launch) (p : Nat → Bool) : Bool :=
  s.threads.any (fun t => t.status != .free && t.task.launch == l.id && p t.task.ordinal)
    || s.saved.any (fun x => x.th.task.launch == l.id && p x.th.task.ordinal)

/-- The placement groups of a launch that wait for binding: no task of the outermost bound group is still there. -/
def State.waitingGroups (s : State) (l : Launch) : List Nat :=
  if l.pooled || l.shut || l.since.isNone || l.fault.isSome then []
  else (l.todo.map (· / l.placeSize)).eraseDups.filter (fun g =>
    !s.bound l (fun o => l.together (g * l.placeSize) o) &&
    !l.again.any (fun o => l.together (g * l.placeSize) o))

/-- The order of R387: priority, time of selection, ordinal. -/
structure Turn where
  prio : Nat
  selected : Nat
  ord : Nat
deriving DecidableEq, Repr

/-- One goes before another. -/
def Turn.before (a b : Turn) : Bool :=
  b.prio < a.prio || (a.prio == b.prio && (a.selected < b.selected || (a.selected == b.selected && a.ord < b.ord)))

/-- A placement group and its turn. -/
def Launch.turn (l : Launch) (ord : Nat) : Turn := ⟨l.prio, l.selected, ord⟩

/-- The first of some by their turns. -/
def firstTurn {α : Type} (f : α → Turn) : List α → Option α
  | [] => none
  | x :: l => match firstTurn f l with
    | some y => if (f y).before (f x) then some y else some x
    | none => some x

/-- Threads of a die that a launch could use now (R385). -/
def State.freeThreads (s : State) (l : Launch) (die : Nat) : Nat :=
  ((dieUnits die).map (fun u =>
    let host := (s.unitSt u).host
    if host == 0 || host == l.ctx then 4 - (s.unitThreads u).length else 0)).foldl (· + ·) 0

/-- The die with the most of something; ties go to the lower number. -/
def maxDie (f : Nat → Nat) : List Nat → Option Nat
  | [] => none
  | d :: l => match maxDie f l with
    | some e => if f d < f e then some e else some d
    | none => some d

/-- The dies that a launch may use (R385). -/
def State.launchDies (s : State) (l : Launch) : List Nat :=
  (s.partDies (s.ctxPart l.ctx)).filter (fun d => s.dieHas d l.mask)

/-- The die that the page counts of a placement group give it, if they count a page on some die (R385). -/
def State.mapDie (s : State) (l : Launch) (g : Nat) : Option Nat :=
  let count := fun d => ((l.pages.filter (fun p => p.1 == g && p.2.1 == d)).map (·.2.2)).foldl (· + ·) 0
  if (s.launchDies l).all (fun d => count d == 0) then none else maxDie count (s.launchDies l)

/-- The target die of a placement group (R385). -/
def State.targetDie (s : State) (l : Launch) (g : Nat) : Option Nat :=
  (s.mapDie l g).or (maxDie (s.freeThreads l) (s.launchDies l))

/-- A level of the launch is bound to the package: its groups are all or nothing (R384). -/
def Launch.packageBound (l : Launch) : Bool := (l.outermost (· == 4)).isSome

/-- The units that a placement group may use: those of its target die. -/
def Launch.targetOf (l : Launch) (g : Nat) : Option Nat := (l.targets.find? (fun p => p.1 == g)).map (·.2)

/-- Tasks of a placement group that are to be bound. -/
def Launch.groupTasks (l : Launch) (g : Nat) : List Nat := l.todo.filter (fun o => o / l.placeSize == g)

/-- The tasks of a placement group bound on a die, all or none. -/
def State.placeGroup (s : State) (l : Launch) (g die : Nat) : Option State :=
  let ords := l.groupTasks g
  match placeIn l (State.bindOne l) (fun _ => none) (l.placeLevel.getD 0) s ords (dieUnits die) with
  | none => none
  | some s => (s.launch? l.id).map (fun l => s.setLaunch { l with
      todo := l.todo.filter (fun o => !ords.contains o)
      targets := l.targets.filter (fun p => p.1 != g)
      live := l.live + ords.length })

/-- Launches that wait for binding, with a waiting placement group each. -/
def State.waiters (s : State) : List (Launch × Nat) :=
  s.sched.launches.flatMap (fun l => (s.waitingGroups l).map (fun g => (l, g)))

/-- The first placement group that has not been sent to a die is sent (R385). -/
def State.sendNext (s : State) : State :=
  let l := s.waiters.filter (fun p => !p.1.packageBound && (p.1.targetOf p.2).isNone && (s.targetDie p.1 p.2).isSome)
  match firstTurn (fun p => p.1.turn p.2) l with
  | none => s
  | some (l, g) => match s.targetDie l g with
    | none => s
    | some d => s.setLaunch { l with targets := l.targets ++ [(g, d)] }

/-! ### Saved threads that wait for their place (R387, R391, R410) -/

/-- A saved thread may be resumed; one that has been stopped (R357) is not. -/
def State.savedReady (s : State) (x : Saved) : Bool :=
  x.th.status != .exiting && (x.eligible || (x.evicted == some .pool && s.poolAdmits (siteDie x.th.site) (x.th.task.depth + 1)))

/-- The saved threads that are resumed together with one (R34). -/
def State.savedGroup (s : State) (x : Saved) : List Saved :=
  match s.launch? x.th.task.launch with
  | none => [x]
  | some l => s.saved.filter (fun y => y.th.task.launch == l.id && l.together x.th.task.ordinal y.th.task.ordinal)

/-- The turn of a saved thread: that of the first placement group of those resumed together with it. -/
def State.savedTurn (s : State) (x : Saved) : Turn :=
  match s.launch? x.th.task.launch with
  | none => ⟨0, 0, 0⟩
  | some l =>
    let ords := (s.savedGroup x).map (·.th.task.ordinal)
    l.turn (ords.foldl min x.th.task.ordinal / l.placeSize)

/-- A whole group is ready, and no thread of it is still bound. -/
def State.groupReady (s : State) (x : Saved) : Bool :=
  let g := s.savedGroup x
  g.all s.savedReady && !s.threads.any (fun t => t.status != .free && t.task.launch == x.th.task.launch
    && (match s.launch? x.th.task.launch with
      | some l => l.together x.th.task.ordinal t.task.ordinal
      | none => false))


/-- A saved thread of an ordinal resumed on some units: its former unit first. -/
def State.resumeOne (l : Launch) (s : State) (ord : Nat) (units : List Nat) : Option State :=
  match s.saved.find? (fun x => x.th.task.launch == l.id && x.th.task.ordinal == ord) with
  | none => none
  | some x =>
    let h := uidOf x.th.site
    let order := (if units.contains h then [h] else []) ++ (s.clusterOrder l.ctx units).filter (· != h)
    order.findSome? (s.resumeOn x)

/-- The device with every thread of it free: what can be placed there at all can be placed some time. -/
def State.emptied (s : State) : State :=
  { s with
    t := Thread.fresh s.t.site
    others := s.others.map (fun t => Thread.fresh t.site)
    units := s.units.map (fun p => (p.1, { p.2 with host := 0 })) }

/-- Saved threads end without being resumed; their launch fails with reason 8 (R393, R438). -/
def State.dropSaved (s : State) (xs : List Saved) : State :=
  let gone := fun (y : Saved) => xs.any (fun x => x.th.task.id == y.th.task.id)
  let s := { s with saved := s.saved.filter (fun y => !gone y) }
  xs.foldl (fun s x =>
    match s.launch? x.th.task.launch with
    | none => s
    | some l => s.setLaunch (Launch.fail { l with live := l.live - 1 } 8)) s

/-! ### Eviction (R391) -/

/-- A thread is evictable: blocked in launch.w, or on the signal event of a launch of its own. -/
def State.evictable (s : State) (t : Thread) : Bool :=
  match t.status with
  | .blocked .pool => true
  | .blocked (.event a _) =>
    s.sched.launches.any (fun l => l.parent == some t.task.id && l.sev != 0 && l.sev == a.toNat)
  | _ => false

/-- The threads that are evicted together with one (R34). -/
def State.evictGroup (s : State) (t : Thread) : List Thread :=
  match s.launch? t.task.launch with
  | none => [t]
  | some l => s.threads.filter (fun u => u.status != .free && u.task.launch == l.id && l.together t.task.ordinal u.task.ordinal)

/-- Where a group was that has been pre-empted hard, a group is bound of which a thread waits for launches of its own.
Nothing is evicted for the one (R410), and what the other waits for may stand after it in the order of R387; so that every
launch runs to its exit (R392), the saved group then holds back nothing (DEDUCED, log entry 40). -/
def State.outwaited (s : State) (x : Saved) : Bool :=
  let g := s.savedGroup x
  g.any (·.hard) && s.threads.any (fun t => t.status != .free && g.any (fun y => uidOf y.th.site == uidOf t.site)
    && (s.evictGroup t).any s.evictable)

/-- What waits on a die before a turn (R387): placement groups sent there, and saved groups that are ready and were there,
pre-empted hard or soft (DESIGN CHOICE, log entry 40: R410 lets a soft-saved thread go to any die of its partition). -/
def State.heldBack (s : State) (die : Nat) (t : Turn) : Bool :=
  s.waiters.any (fun p => p.1.targetOf p.2 == some die && (p.1.turn p.2).before t)
    || s.saved.any (fun x => siteDie x.th.site == die && s.groupReady x && !s.outwaited x && (s.savedTurn x).before t)

/-- An evicted thread, at its blocked word. -/
def Thread.evict (t : Thread) : Thread :=
  match t.status with
  | .blocked w => { t with status := .preempting, preempt := .evict w false }
  | _ => t

/-- The lowest-priority evictable group with a thread on some dies is evicted; ties are a free choice. -/
def State.evictOn (s : State) (dies : List Nat) : State :=
  let prio := fun (t : Thread) => match s.launch? t.task.launch with | some l => l.prio | none => 0
  let cand := s.threads.filter (fun t => dies.contains (siteDie t.site) && s.evictable t && (s.evictGroup t).all s.evictable)
  let low := cand.foldl (fun m t => min m (prio t)) 16
  match cand.filter (fun t => prio t == low) with
  | [] => s
  | c :: l =>
    let (n, s) := s.free
    let t := (c :: l).getD (n % (l.length + 1)) c
    let ids := (s.evictGroup t).map (·.task.id)
    let f := fun (u : Thread) => if u.status != .free && ids.contains u.task.id then u.evict else u
    { s with
      t := f s.t
      others := s.others.map f }

/-- An eviction on some dies is under way. -/
def State.evicting (s : State) (dies : List Nat) : Bool :=
  s.threads.any (fun t => dies.contains (siteDie t.site) && t.status == .preempting && t.preempt.evicted.isSome)

/-- Room made on some dies for a group that cannot be placed (R391): one group after the other is evicted. -/
def State.makeRoom (s : State) (dies : List Nat) : State := if s.evicting dies then s else s.evictOn dies

/-- The saved threads of a group resumed whole on some dies, each on its former unit where that takes it (R34, R410). -/
def State.resumeGroup (s : State) (l : Launch) (g : List Saved) (dies : List Nat) : Option State :=
  let ords := (g.map (·.th.task.ordinal)).foldl (fun l o => insertNat o l) []
  let home := fun o => (g.find? (fun y => y.th.task.ordinal == o)).map (fun y => uidOf y.th.site)
  placeIn l (State.resumeOne l) home (l.boundLevel.getD 0) s ords (dies.flatMap dieUnits)

/-- A group of saved threads can never be resumed: no dies have the usable capacity for it (R393, R438). -/
def State.neverResumes (s : State) (l : Launch) (g : List Saved) (dies : List Nat) : Bool :=
  (s.emptied.resumeGroup l g dies).isNone

/-- Room made for saved threads that do not fit (R391): on the dies where they were, else on the others that they may go
to. For a hard-saved thread nothing is evicted (R410). -/
def State.roomFor (s : State) (g : List Saved) (dies : List Nat) : State :=
  if g.any (·.hard) then s
  else
    let former := ((g.map (fun x => siteDie x.th.site)).eraseDups).filter dies.contains
    if s.evicting former || s.threads.any (fun t => former.contains (siteDie t.site) && s.evictable t
        && (s.evictGroup t).all s.evictable) then s.makeRoom former
    else s.makeRoom dies

/-- RESUME_PLACEMENT (R410, R391): the saved threads of a group are placed whole, where they are ready and nothing goes
before them; where they do not fit, room is made; where they never can, their launch fails. -/
def execResumePlacement (task : Nat) (s : State) : Res :=
  match s.saved.find? (fun x => x.th.task.id == task) with
  | none => .next s
  | some x =>
    if !s.power.running || !s.groupReady x then .next s
    else
      let g := s.savedGroup x
      match s.launch? x.th.task.launch with
      | none => .next s
      | some l =>
        let all := s.partDies (s.ctxPart l.ctx)
        let dies := all.filter (fun d => !s.heldBack d (s.savedTurn x))
        match s.resumeGroup l g dies with
        | some s => .next s
        | none => if s.neverResumes l g all then .next (s.dropSaved g) else .next (s.roomFor g dies)

/-! ### GROUP_PLACEMENT (R386, R387) -/

/-- Some placement groups of a launch can never be on a die together: it has not the usable capacity for them (R393). -/
def State.neverFits (s : State) (l : Launch) (die n : Nat) : Bool := s.fits l (l.placeLevel.getD 0) (dieUnits die) < n

/-- The placement groups of a package-bound group, each on the die that R385 gives it with the ones before it placed,
where nothing there goes before it (R387). -/
def State.placePackage (s : State) (l : Launch) (gs : List Nat) : Option State :=
  gs.foldl (fun o g => o.bind (fun s => (s.launch? l.id).bind (fun l =>
    (s.targetDie l g).bind (fun d => if s.heldBack d (l.turn g) then none else s.placeGroup l g d)))) (some s)

/-- The first placement group of a package-bound group that finds no place, its die, and the state in which the ones before
it are placed. -/
def State.packageStop (s : State) (l : Launch) : List Nat → Option (State × Nat × Nat)
  | [] => none
  | g :: r => match s.launch? l.id with
    | none => none
    | some l => match s.targetDie l g with
      | none => none
      | some d =>
        if s.heldBack d (l.turn g) then some (s, g, d)
        else match s.placeGroup l g d with
          | none => some (s, g, d)
          | some s => s.packageStop l r

/-- The first package-bound group that waits in a partition is sent and bound whole, where the partition has room for it
(R384); failed where it never can be, in the partition or with all that the page counts send to one die (R393); else room is made on the die that lacks it (R391, R392), unless the group is
only held back there (R387). -/
def State.sendPackage (s : State) (part : Nat) : State :=
  let l := s.waiters.filter (fun p => p.1.packageBound && s.ctxPart p.1.ctx == part)
  match firstTurn (fun p => p.1.turn p.2) l with
  | none => s
  | some (l, g) =>
    let gs := (s.waitingGroups l).filter (fun h => l.together (g * l.placeSize) (h * l.placeSize))
    match s.placePackage l gs with
    | some s => s
    | none =>
      if s.fits l (l.boundLevel.getD 0) ((s.launchDies l).flatMap dieUnits) == 0 then s.setLaunch (l.fail 8)
      else match s.packageStop l gs with
        | none => s
        | some (s', g, d) =>
          if s'.heldBack d (l.turn g) then s
          else if s.neverFits l d (max 1 (gs.countP (fun h => s.mapDie l h == some d))) then s.setLaunch (l.fail 8)
          else s.makeRoom [d]

/-- The first group that waits on a die: bound where it fits; failed where it never can; else what may be evicted for it
is (R391). -/
def State.serveDie (s : State) (die : Nat) : State :=
  let l := s.waiters.filter (fun p => p.1.targetOf p.2 == some die)
  match firstTurn (fun p => p.1.turn p.2) l with
  | none => s
  | some (l, g) =>
    if s.heldBack die (l.turn g) then s
    else match s.placeGroup l g die with
      | some s => s
      | none =>
        if s.neverFits l die 1 then s.setLaunch (l.fail 8)
        else s.makeRoom [die]

/-- GROUP_PLACEMENT (R384 to R387): groups are sent to their dies, and the first that waits on a die is placed. -/
def execGroupPlacement (die : Nat) (s : State) : Res :=
  if !s.power.running then .next s else .next (((s.sendNext).sendPackage (s.partOf die)).serveDie die)

/-! ### LAUNCH_COMPLETION (R381) -/

/-- A launch has completed, been refused or failed, and waits for no REPLAY. -/
def Launch.over (l : Launch) : Bool :=
  !l.pooled && l.live == 0 && l.again.isEmpty && (l.shut || l.todo.isEmpty) && l.fault.isNone

/-- The status word (R381). -/
def Launch.statusWord (l : Launch) : Nat := l.status.1 + l.status.2 * 256

/-- What a refused access of the distributor leads to (R381, R403, R435): a fault waits for its REPLAY, which repeats
the access or skips it; a data error has been recorded and the step is skipped. DEDUCED: log entry 16. -/
def State.stepFault (s : State) (l : Launch) (f : AccFault) (step : Nat) : State :=
  if f.detail == 0 then s.distFault l f
  else s.setLaunch { l with steps := step }

/-- The signal event of a child has been added: a parent that was evicted on it becomes ready (R391). -/
def State.wakeParent (s : State) (l : Launch) : State :=
  let hit := fun (t : Thread) (w : Wait) => l.parent == some t.task.id && (match w with
    | .event a _ => a.toNat == l.sev
    | _ => false)
  let f := fun (t : Thread) => match t.preempt with
    | .evict w r => { t with preempt := .evict w (r || hit t w) }
    | .stopped (some (w, r)) => { t with preempt := .stopped (some (w, r || hit t w)) }
    | _ => t
  { s with
    t := f s.t
    others := s.others.map f
    saved := s.saved.map (fun x => match x.evicted with
      | some w => { x with eligible := x.eligible || hit x.th w }
      | none => x) }

/-- Steps 1 and 2: the status word, and the release. -/
def State.writeStatus (s : State) (l : Launch) : State :=
  if l.stat == 0 then s.setLaunch { l with steps := 1 }
  else match s.distPut l.ctx l.stat l.statusWord with
    | (.ok (), s) => s.setLaunch { l with steps := 1 }
    | (.error f, s) => s.stepFault l f 1

/-- Step 3: the signal event; the events of what waits in the partition are read again (R382). -/
def State.addSignal (s : State) (l : Launch) : State :=
  if l.sev == 0 then s.setLaunch { l with steps := 2 }
  else match s.distAdd l.ctx l.sev with
    | (.ok (), s) => ((s.wakeParent l).setLaunch { l with steps := 2 }).rereadPart (s.ctxPart l.ctx)
    | (.error f, s) => s.stepFault l f 2

/-- Step 4: the interrupt; and the launch leaves the launch table or the pool. -/
def State.endLaunch (s : State) (l : Launch) : State :=
  let v := (s.queue l.source).msix
  let s := if l.interrupt && l.source < 8192 && v != 0 then s.signal v else s
  { s with sched := { s.sched with launches := s.sched.launches.filter (fun x => x.id != l.id) } }

/-- LAUNCH_COMPLETION (R381): the steps in order, from where a fault left them. -/
def execLaunchCompletion (id : Nat) (s : State) : Res :=
  let go := fun (n : Nat) (f : State → Launch → State) (s : State) => match s.launch? id with
    | some l => if l.over && l.steps == n then f s l else s
    | none => s
  if !s.power.running then .next s
  else .next (go 2 State.endLaunch (go 1 State.addSignal (go 0 State.writeStatus s)))

end Sys2Proof.Machine
end

