-- ==== Sys2Proof/Machine/Mailbox.lean ====
section
/-! DEFINITION. The mailbox (R372): how a command starts and ends, and the queue commands QCFG to SETAGE (R372, R378). -/

namespace Sys2Proof.Machine

/-! ### The start and the end of a command -/

/-- Argument k of the command in progress. -/
def State.arg (s : State) (k : Nat) : Nat := (s.host.mbox.args.toArray.getD k 0).toNat

/-- MBSTAT: bit 62, busy. -/
def Mailbox.busy (m : Mailbox) : Bool := m.stat.getLsbD 62

/-- The number of the command in progress. -/
def Mailbox.number (m : Mailbox) : Nat := wbits m.cmd 7 0

/-- A returned value: the one the command gives, or a free one where the spec gives none. -/
def State.mbValue (s : State) : Option Nat → Word × State
  | some v => (BitVec.ofNat 64 v, s)
  | none => (Config.freeWord s.fresh, { s with fresh := s.fresh + 1 })

/-- The end of a command (R372): returned values, done and the result, busy clear, vector 0. -/
def State.finish (s : State) (result : Nat) (r0 r1 : Option Nat) : State :=
  let (a, s) := s.mbValue r0
  let (b, s) := s.mbValue r1
  let m := { s.host.mbox with
    res0 := a, res1 := b, stat := BitVec.ofNat 64 (2 ^ 63 + result % 256), waiting := false, due := [] }
  let s := { s with host := { s.host with mbox := m } }
  s.signal 0

/-- The end of a command that returns no value. -/
def State.done (s : State) (result : Nat) : Res := .next (s.finish result none none)

/-- The command has been carried out, and waits for other device work (R372). -/
def State.wait (s : State) : State := { s with host := { s.host with mbox := { s.host.mbox with waiting := true } } }

/-- What a command does while it is in progress and has not yet been carried out: results 2 and 3 come before its
effect, a bad argument first. -/
def State.command (s : State) (bad denied : Bool) (k : State → Res) : Res :=
  if !s.host.mbox.busy || s.host.mbox.waiting then .next s
  else if bad then s.done 2
  else if denied then s.done 3
  else k s

/-- The instruction of a command number (R372, R395, R416, R417, R420, R429, R436 to R441). -/
def commandOf : Nat → Option Instr
  | 0x01 => some .qcfg | 0x02 => some .qenable | 0x03 => some .qdisable | 0x04 => some .qprio | 0x05 => some .qreset
  | 0x06 => some .setage
  | 0x20 => some .ctxset | 0x21 => some .ctxmod | 0x22 => some .ctxfree | 0x23 => some .tlbinv | 0x24 => some .fqcfg
  | 0x25 => some .replay | 0x26 => some .preempt | 0x27 => some .resume
  | 0x40 => some .inventory | 0x41 => some .pset | 0x42 => some .tripclr
  | 0x60 => some .idinfo | 0x61 => some .attest | 0x62 => some .ccmap | 0x63 => some .dbgunlock | 0x64 => some .sealcfg
  | 0x65 => some .sealflush
  | 0x80 => some .errcnt | 0x81 => some .scrubcfg | 0x82 => some .qretire | 0x83 => some .telem | 0x84 => some .partset
  | 0x85 => some .fwstage | 0x86 => some .fwfloor
  | _ => none

/-- A write of MBCMD (R372, R413): with go set and the mailbox free, the command is in progress. PS5 runs nothing
(R417). Bits that R372 has zero are kept and read back, and the command is that of bits 7:0 (DESIGN CHOICE: log entry 45). -/
def State.writeCommand (s : State) (v : Word) (trusted : Bool) : State :=
  let m := s.host.mbox
  if s.power.phase != 6 || s.power.state == 5 || m.busy then s
  else if v.getLsbD 63 then
    { s with host := { s.host with mbox := { m with
      cmd := v, stat := BitVec.ofNat 64 (2 ^ 62), trusted := trusted, waiting := false, due := [] } } }
  else { s with host := { s.host with mbox := { m with cmd := v } } }

/-- A physical address in HBM, of some bytes. -/
def inHbm (pa len : Nat) : Bool := pa + len ≤ 2 ^ 39

/-- A physical address in HBM or host memory (R372, R395). -/
def inHbmOrHost (pa : Nat) : Bool := pa < 2 ^ 39 || (2 ^ 47 ≤ pa && pa < 0xC00000000000)

/-- Bytes written to memory by the device for the command in progress, from an address upwards. -/
def State.deviceWrite (s : State) (pa : Nat) (l : List Byte) : State :=
  s.deviceStore s.host.mbox.trusted (cellsFrom pa l)

/-! ### Queue commands (R372, R376, R378, R393) -/

/-- A queue number out of range (R372). -/
def badQueue (q : Nat) : Bool := 8191 < q

/-- QCFG. -/
def execQcfg (s : State) : Res :=
  let q := s.arg 0
  let base := s.arg 1
  let headwb := s.arg 2
  let f := s.arg 3
  let ctx := bits f 15 0
  let lsize := bits f 31 28 + 4
  let weight := bits f 27 20
  let vec := s.arg 4
  let bad := badQueue q || base % 4096 != 0 || headwb % 8 != 0 || 16 < lsize || weight == 0 || 2047 < vec || vec == 1
    || vec == 2 || (s.ctx? ctx).isNone || !inHbmOrHost base || (headwb != 0 && !inHbmOrHost headwb)
    || !s.inPartition (q / 1024) (s.ctxPart ctx)
  s.command bad ((s.queue q).state != 0) fun s =>
    let x := { s.queue q with
      base := base, headwb := headwb, head := 0, tail := 0, ctx := ctx, lsize := lsize, maxprio := bits f 19 16
      weight := weight, msix := vec, configured := true, probe := none, since := none }
    (s.setQueue x).done 0

/-- QENABLE. A head record that is there becomes present, and is probed (R377). -/
def execQenable (s : State) : Res :=
  let q := s.queue (s.arg 0)
  s.command (badQueue (s.arg 0)) (q.state == 2 || !q.configured) fun s =>
    let s := s.setQueue { q with state := 1 }
    (s.probeHead (s.queue q.num)).done 0

/-- QDISABLE (R378): selection stops; a record is read whole within a selection, so nothing is being read. A queue in
error stays so. -/
def execQdisable (s : State) : Res :=
  let q := s.queue (s.arg 0)
  s.command (badQueue (s.arg 0)) false fun s =>
    .next (s.setQueue { q with state := if q.state == 1 then 0 else q.state }).wait

/-- QPRIO (R372, R393). -/
def execQprio (s : State) : Res :=
  let q := s.queue (s.arg 0)
  let a := s.arg 1
  s.command (badQueue (s.arg 0) || bits a 11 4 == 0 || a / 2 ^ 12 != 0) false fun s =>
    (s.setQueue { q with maxprio := bits a 3 0, weight := bits a 11 4 }).done 0

/-- QRESET. -/
def execQreset (s : State) : Res :=
  let q := s.queue (s.arg 0)
  s.command (badQueue (s.arg 0)) (q.state == 1) fun s => (s.setQueue { q with state := 0, error := 0 }).done 0

/-- SETAGE (R373). -/
def execSetage (s : State) : Res :=
  s.command false false fun s => { s with host := { s.host with agelimit := s.arg 0 } } |> fun (s : State) => s.done 0

end Sys2Proof.Machine
end

