-- ==== Sys2Proof/Machine/Context.lean ====
section
/-! DEFINITION. Contexts (R394, R427, R428, R430), the translation caches (R399), the fault queue's set-up (R401), REPLAY
(R403), PREEMPT and RESUME (R395, R408, R410), and the completion of waiting commands (R372). -/

namespace Sys2Proof.Machine

/-! ### The context record (R394) -/

/-- Size of an image slot (R404), of the microcode area, of a top table (R394, R396). -/
def slotSize : Nat := 21 * 2 ^ 20
def ucodeSize : Nat := 8192
def topSize : Nat := 2 ^ 20

/-- A record as it stands at an address. -/
def State.readCtx (s : State) (num a : Nat) : Ctx where
  num := num
  ptroot := s.rdN a 8
  codebase := BitVec.ofNat 64 (s.rdN (a + 8) 8)
  codebound := BitVec.ofNat 64 (s.rdN (a + 16) 8)
  imgbase := s.rdN (a + 24) 8
  imgcount := s.rdN (a + 32) 4
  bankkey := s.rdN (a + 36) 1
  rquota := s.rdN (a + 37) 1
  nakbackoff := s.rdN (a + 38) 2
  drawkey := BitVec.ofNat 128 (s.rdN (a + 40) 16)
  dbgctl := BitVec.ofNat 64 (s.rdN (a + 56) 8) &&& dbgMask
  ucode := s.rdN (a + 64) 8
  conf := s.rdN (a + 72) 8 % 2 == 1
  unlocked := false
  cmeas := []

/-- A range lies in HBM of usable dies of one partition (R394, R440). -/
def State.inPart (s : State) (part pa len : Nat) : Bool :=
  inHbm pa len && (List.range 8).all (fun d => !(d * 2 ^ 36 < pa + len && pa < (d + 1) * 2 ^ 36)
    || (s.partOf d == part && s.power.dies.getLsbD d))

/-- Every frame of a range is assigned to a context (R427). -/
def State.inFrames (s : State) (ctx pa len : Nat) : Bool :=
  (List.range ((pa + len - 1) / 2 ^ 21 + 1 - pa / 2 ^ 21)).all (fun i => s.ownerOf 0 (pa / 2 ^ 21 + i) == some ctx)

/-- The ranges of a context: top table, arena, images, microcode area. -/
def Ctx.ranges (c : Ctx) : List (Nat × Nat) :=
  [(c.ptroot, topSize), (c.codebase.toNat, c.codebound.toNat - c.codebase.toNat), (c.imgbase, c.imgcount * slotSize),
    (c.ucode, ucodeSize)]

/-- The record at an address breaks R394 or R427. -/
def State.badRecord (s : State) (c : Ctx) (a : Nat) : Bool :=
  let part := s.partOf (c.ptroot / 2 ^ 36 % 8)
  a % 8 != 0 || !s.inPart part a 256 || c.ptroot % 2 ^ 20 != 0 || c.codebase.toNat % 4096 != 0
    || c.codebound.toNat % 4096 != 0 || c.codebound.toNat ≤ c.codebase.toNat || c.imgbase % 2 ^ 21 != 0
    || c.imgcount == 0 || 65536 < c.imgcount || 64 ≤ c.bankkey || c.rquota == 0 || c.ucode % 8192 != 0
    || BitVec.ofNat 64 (s.rdN (a + 56) 8) &&& ~~~dbgMask != 0
    || 2 ≤ s.rdN (a + 72) 8 || !(List.range 176).all (fun i => s.rd (a + 80 + i) == 0)
    || !c.ranges.all (fun p => s.inPart part p.1 p.2)
    || (c.conf && !c.ranges.all (fun p => s.inFrames c.num p.1 p.2))

/-- The measurement of a context (R430): its record with drawkey zero, its arena, its microcode area. -/
def State.measure (s : State) (c : Ctx) (a : Nat) : List Byte :=
  let mem := fun (pa n : Nat) => (List.range n).map (fun i => s.rd (pa + i))
  Config.shake256 (mem a 40 ++ List.replicate 16 0 ++ mem (a + 56) 200
    ++ mem c.codebase.toNat (c.codebound.toNat - c.codebase.toNat) ++ mem c.ucode ucodeSize)

def State.setCtx (s : State) (c : Ctx) : State :=
  { s with ctxs := s.ctxs.map (fun x => if x.num == c.num then c else x) }

/-- The bound threads of a context, in any state. -/
def State.boundThreads (s : State) (ctx : Nat) : List Thread := s.threads.filter (fun t => t.status != .free && t.task.ctx == ctx)

/-- A command reads a record of a context, and what it measures: in error it is not valid (R435; DEDUCED: log entry 62). -/
def State.recordMet (s : State) (c : Ctx) (a : Nat) : Bool × State :=
  s.selfRead c.num ((a, 256) :: (if c.conf then [(c.codebase.toNat, c.codebound.toNat - c.codebase.toNat), (c.ucode, ucodeSize)]
    else []))

/-- CTXSET (R394, R427). -/
def execCtxset (s : State) : Res :=
  let n := s.arg 0
  let a := s.arg 1
  let c := s.readCtx n a
  let (bad, s) := if n == 0 || 65535 < n || s.badRecord c a then (true, s) else s.recordMet c a
  s.command bad ((s.ctx? n).isSome || (c.conf && !s.host.mbox.trusted)) fun s =>
    let c := if c.conf then { c with cmeas := s.measure c a } else c
    { s with ctxs := s.ctxs ++ [c] } |> fun (s : State) => s.done 0

/-- CTXMOD (R395): bank key, quota, back-off, draw key and debug setting are replaced. -/
def execCtxmod (s : State) : Res :=
  let n := s.arg 0
  let a := s.arg 1
  let c := s.ctxD n
  let d := s.readCtx n a
  let same := d.ptroot == c.ptroot && d.codebase == c.codebase && d.codebound == c.codebound && d.imgbase == c.imgbase
    && d.imgcount == c.imgcount && d.ucode == c.ucode && d.conf == c.conf
  let (bad, s) := if (s.ctx? n).isNone || s.badRecord d a || !same then (true, s) else s.recordMet { d with conf := false } a
  s.command bad (!(s.boundThreads n).isEmpty) fun s =>
    (s.setCtx { c with
      bankkey := d.bankkey, rquota := d.rquota, nakbackoff := d.nakbackoff, drawkey := d.drawkey
      dbgctl := d.dbgctl }).done 0

/-! ### Leaving a context (R395, R428) -/

/-- The bytes of an assigned frame or stripe zeroed (R428); in its number a stripe holds its scratchpad and its row. -/
def State.zeroOwned (s : State) (kind num : Nat) : State :=
  let (lo, len) := match kind with
    | 0 => (num * 2 ^ 21, 2 ^ 21)
    | 1 => (scratchBase (num / 2 ^ 24) (num / 2 ^ 20 % 16) + num % 2 ^ 20 * 2048, 2048)
    | _ => (scratchBase (num / 2 ^ 24) 15 + num % 2 ^ 20 * 4096, 4096)
  s.clearCells lo len

/-- Frames and stripes leave a context: zeroed first (R428). -/
def State.releaseOwned (s : State) (p : Nat × Nat × Nat → Bool) : State :=
  let s := (s.sec.owned.filter p).foldl (fun s x => s.zeroOwned x.1 x.2.1) s
  { s with sec := { s.sec with owned := s.sec.owned.filter (fun x => !p x) } }

/-- CTXFREE (R395, R428). -/
def execCtxfree (s : State) : Res :=
  let n := s.arg 0
  let used := s.sched.launches.any (fun l => l.ctx == n) || !(s.boundThreads n).isEmpty
    || s.saved.any (fun x => x.th.task.ctx == n) || s.sched.queues.any (fun q => q.configured && q.ctx == n)
  s.command (s.ctx? n).isNone used fun s =>
    let s := s.releaseOwned (fun x => x.2.2 == n)
    let sec := { s.sec with
      keyed := s.sec.keyed.filter (· != n)
      seals := s.sec.seals.filter (fun x => x.ctx != n) }
    .next ({ s with
      ctxs := s.ctxs.filter (fun c => c.num != n)
      tlb := s.tlb.filter (fun e => e.ctx != n)
      displaced := s.displaced.filter (fun e => e.ctx != n)
      sec := sec } : State).wait

/-- TLBINV (R399): the cached translations of the range go, and every cached table entry of the context; the command
waits for the accesses that they, and leaves displaced from the caches before them, have translated, residual addends
among them. -/
def execTlbinv (s : State) : Res :=
  let n := s.arg 0
  let base := s.arg 1
  let len := s.arg 2
  s.command (base % 4096 != 0) false fun s =>
    let hit := fun (e : Tlb) => e.ctx == n && (e.lev != 0 || len == 0 || (base < e.va + e.size && e.va < base + len))
    let gone := (s.tlb ++ s.displaced).filter (fun e => hit e && e.lev == 0)
    let frames := gone.map (fun e => (wbits e.leaf 47 12 * 4096, e.size))
    let inside := fun (line : Nat) => frames.any (fun f => f.1 ≤ line * 64 && line * 64 < f.1 + f.2)
    let held := (s.boundThreads n).flatMap (fun t =>
      ((t.r.entries.map (·.line) ++ t.r.place.map (·.line)).filter inside).map (fun a => (t.task.id, a)))
    let sent := (s.reqs.filter (fun r => r.ctx == n && !r.performed && inside r.line)).map (fun r => (r.taskId, r.line))
    let s := { s with
      tlb := s.tlb.filter (fun e => !hit e)
      displaced := s.displaced.filter (fun e => !hit e)
      host := { s.host with mbox := { s.host.mbox with due := held ++ sent } } }
    .next (State.wait s)

/-! ### The fault queue (R395, R401) -/

/-- FQCFG. -/
def execFqcfg (s : State) : Res :=
  let base := s.arg 0
  let lsize := s.arg 1
  s.command (base % 4096 != 0 || !inHbmOrHost base || lsize < 6 || 16 < lsize) (s.host.fqTail != s.host.fqHead) fun s =>
    { s with host := { s.host with fqBase := base, fqLsize := lsize } } |> fun (s : State) => s.done 0

/-! ### REPLAY (R403) -/

/-- A faulted thread returns to running, or frozen where fz stands. One that a hard pre-emption has stopped stays stopped:
its save re-issues the trap point at resume (R407). The faulted instruction of a task that is stopped is repeated, and the
task ends (R358). -/
def State.retryTask (s : State) (t : Thread) : State :=
  match t.status with
  | .faulted _ => if t.task.ended then s.setThread { t with status := .exiting } else s.setThread (Thread.applyFz s.stale.length { t with status := .running })
  | _ => s

/-- The distributor's access repeated, or skipped. -/
def State.replayLaunch (s : State) (l : Launch) (retry : Bool) : State :=
  if retry then s.setLaunch { l with fault := none }
  else if l.since.isNone && !l.shut then s.setLaunch { l with fault := none, since := some s.gts }
  else s.setLaunch { l with fault := none, steps := l.steps + 1 }

/-- What a token stands for goes on, or fails. -/
def State.replayToken (s : State) (f : TokenFor) (retry : Bool) : State :=
  match f with
  | .task id code => match s.taskThread id with
    | none => s
    | some t => if retry then s.retryTask t else s.failTask t code
  | .copy id => match s.copy? id with
    | none => s
    | some c => if retry then s.setCopy { c with fault := none } else s.copyStop c
  | .launch id => match s.launch? id with
    | none => s
    | some l => s.replayLaunch l retry

/-- REPLAY: a token serves once. -/
def execReplay (s : State) : Res :=
  let n := s.arg 0
  let act := s.arg 1
  match s.sched.tokens.find? (fun p => p.1 == n) with
  | none => s.command true false fun s => .next s
  | some p => s.command (1 < act) false fun s =>
      let s := { s with sched := { s.sched with tokens := s.sched.tokens.filter (fun x => x.1 != n) } }
      (s.replayToken p.2 (act == 0)).done 0

/-! ### PREEMPT and RESUME (R34, R395, R407, R408, R410) -/

/-- Two tasks belong to one outermost bound group, or are the same. -/
def State.sameGroup (s : State) (a b : Task) : Bool :=
  a.launch == b.launch && (match s.launch? a.launch with
    | some l => l.together a.ordinal b.ordinal
    | none => a.ordinal == b.ordinal)

/-- The bound threads in the range of a code at a site, whole bound groups. -/
def State.inRange (s : State) (ctx site code : Nat) : List Thread :=
  let all := s.boundThreads ctx
  let here := s.threadAt site
  let core := all.filter (fun t => match code with
    | 0 => s.sameGroup here.task t.task
    | 1 => true
    | _ => uidOf t.site == uidOf site)
  all.filter (fun t => core.any (fun u => s.sameGroup u.task t.task))

/-- A pre-emption is asked of a thread: a soft one waits for the next yieldpt; a hard one stops it where it is, or, where
it is frozen, once fz clears; a soft one takes no hard one back. A thread that is exiting, or whose task only ends, is not
stopped. -/
def Thread.ask (t : Thread) (hard : Bool) : Thread :=
  if t.task.ended then t
  else match t.status with
  | .free => t
  | .exiting => t
  | .preempting => t
  | .frozen _ => { t with preempt := if hard || t.preempt == .hard then .hard else .soft }
  | .running | .blocked _ | .faulted _ =>
    if hard then { t with status := .preempting, preempt := .hard } else { t with preempt := .soft }

/-- The range that a pre-emption names, as another one may name it again (R408): the unit, the context, or the thread's
task, by its bound group where it is in one. -/
def State.rangeOf (s : State) (site code : Nat) : Nat × Nat × Nat :=
  let t := (s.threadAt site).task
  match code with
  | 0 => (0, t.launch, match s.launch? t.launch with
    | some l => (match l.boundGroup t.ordinal with | some g => 2 * g + 1 | none => 2 * t.ordinal)
    | none => 2 * t.ordinal)
  | 1 => (1, 0, 0)
  | _ => (2, uidOf site, 0)

/-- PREEMPT (R408): a hard request on the same range replaces the soft ones; the record of each other request is written
once its threads are saved (R400, R407). -/
def execPreempt (s : State) : Res :=
  let n := s.arg 0
  let site := s.arg 1
  let code := bits (s.arg 2) 2 1
  let hard := (s.arg 2).testBit 0
  let here := s.threadAt site
  let range := s.inRange n site code
  s.command (code == 3 || here.status == .free || here.task.ctx != n) (range.any (fun t => t.status == .preempting)) fun s =>
    let ids := range.map (·.task.id)
    let f := fun (t : Thread) => if t.status != .free && ids.contains t.task.id then t.ask hard else t
    let (src, s) := s.free
    let s := { s with
      t := f s.t
      others := s.others.map f
      sched := { s.sched with
        preReqs := s.sched.preReqs.filter (fun p => !(hard && !p.hard && p.ctx == n && p.range == s.rangeOf site code))
          ++ [⟨n, s.rangeOf site code, hard, src % 65536, ids, 0⟩] } }
    State.done s 0

/-- RESUME (R410): the saved threads in range become eligible, whole bound groups. A thread that was evicted is ready
by itself (R391). -/
def execResume (s : State) : Res :=
  let n := s.arg 0
  let site := s.arg 1
  let code := bits (s.arg 2) 2 1
  let all := s.saved.filter (fun x => x.th.task.ctx == n && x.evicted.isNone)
  let core := all.filter (fun x => match code with
    | 0 => all.any (fun y => y.th.site == site && s.sameGroup y.th.task x.th.task)
    | 1 => true
    | 2 => uidOf x.th.site == uidOf site
    | _ => false)
  s.command core.isEmpty false fun s =>
    let hit := fun (x : Saved) => x.evicted.isNone && core.any (fun y => s.sameGroup y.th.task x.th.task)
    let saved := s.saved.map (fun x => if hit x then { x with eligible := true } else x)
    { s with saved := saved } |> fun (s : State) => s.done 0

/-! ### MAILBOX_COMPLETION (R372) -/

/-- The residual entries that a TLBINV waits for have been performed (R399). -/
def State.duePerformed (s : State) : Bool :=
  s.host.mbox.due.all (fun p =>
    !s.reqs.any (fun r => r.taskId == p.1 && r.line == p.2 && !r.performed)
      && !s.threads.any (fun t => t.status != .free && t.task.id == p.1
        && (t.r.entries.any (fun e => e.line == p.2) || t.r.place.any (fun a => a.line == p.2))))

/-- The accesses of a context's threads that are on their way are performed (R399). -/
def State.drainContext (s : State) (ctx : Nat) : State :=
  (s.boundThreads ctx).foldl (fun s t => ((s.focus t.site).drainAccs).drainLane) s

/-- The power state of a PSET has taken effect; one that a thermal trip has overtaken takes effect at TRIPCLR (R420). -/
def Power.arrive (p : Power) : Power := if p.trip then p else { p with state := p.target, busy := false }

/-- What a waiting command still does before its result is given, and whether it can be given now. -/
def State.completes (s : State) : Bool :=
  let m := s.host.mbox
  m.busy && ((commandOf m.number).isNone || (m.waiting && (match commandOf m.number with
    | some .tlbinv => s.duePerformed
    | some .sealflush => !s.sec.seals.any (fun x => x.ctx == s.arg 0 && !x.leaves.isEmpty)
    | _ => true)))

/-- MAILBOX_COMPLETION: an unknown command gives result 1; a command that waited has taken effect. -/
def execMailboxCompletion (s : State) : Res :=
  if !s.completes then .next s
  else match commandOf s.host.mbox.number with
    | none => s.done 1
    | some .tlbinv => (s.drainContext (s.arg 0)).done 0
    | some .pset => { s with power := s.power.arrive } |> fun (s : State) => s.done 0
    | some _ => s.done 0

end Sys2Proof.Machine
end

