-- ==== Sys2Proof/Machine/Fabric.lean ====
section
/-! DEFINITION. The fabric between dies (R116): a request is received or refused, acknowledgements retire requests, a
refused or unanswered request is sent again. Its effect happens exactly once. -/

namespace Sys2Proof.Machine

def State.chan? (s : State) (id : Nat) : Option Chan := s.chans.find? (fun c => c.id == id)

/-- A request of a window changed. -/
def Chan.update (c : Chan) (seq : Nat) (f : ChanReq → ChanReq) : Chan :=
  { c with window := c.window.map (fun r => if r.seq == seq then f r else r) }

/-- What a request carries performed at its home slice: those bytes of its access that are still to be performed. -/
def State.apply (s : State) (src : Nat) (r : ChanReq) : State :=
  let s := s.focus src
  match s.t.c.accs.findIdx? (fun op => op.id == r.op) with
  | some n => match s.t.c.accs[n]? with
    | some op => s.performAcc n (r.bytes.filter op.left.contains)
    | none => s
  | none => s

/-- A refusal on its way to the sender. -/
def Chan.refuse (c : Chan) (seq : Nat) : Chan :=
  { c with
    nacks := c.nacks + 1
    refused := match c.refused with
      | some n => some (min n seq)
      | none => some seq }

/-- FABRIC_REQUEST_RECEIVE (R116): the receiving queue accepts the next expected number, and the request is applied; a
full queue refuses it, and a later number is refused; a number already applied is answered from the reply store.
Whether the queue is full, and whether the reply is lost (R437), is a free choice, made against the request at most
Config.patience times in a row (log entry 3). -/
def execFabricRequestReceive (ch seq : Nat) (s : State) : Res :=
  match s.chan? ch with
  | none => .next s
  | some c =>
    match c.window.find? (fun r => r.seq == seq && r.inFlight) with
    | none => .next s
    | some r =>
      let c := c.update seq (fun r => { r with inFlight := false })
      if r.applied then .next (s.setChan { c with acked := max c.acked (seq + 1) })
      else if seq != c.expected then .next (s.setChan (c.refuse seq))
      else
        let (n, s) := s.free
        let free := decide (c.nacks < Config.patience)
        if free && n % 4 == 1 then .next (s.setChan (c.refuse seq))
        else
          let lost := free && n % 4 == 2
          let c := { c.update seq (fun r => { r with applied := true }) with
            expected := seq + 1
            acked := if lost then c.acked else max c.acked (seq + 1)
            nacks := if lost then c.nacks + 1 else 0 }
          .next ((s.apply c.source r).setChan c)

/-- FABRIC_ACK (R116): acknowledged requests leave the replay window. -/
def execFabricAck (ch : Nat) (s : State) : Res :=
  match s.chan? ch with
  | none => .next s
  | some c => .next (s.setChan { c with window := c.window.filter (fun r => c.acked ≤ r.seq) })

/-- Requests of a window from a number on are sent again. -/
def Chan.resend (c : Chan) (n : Nat) : Chan :=
  { c with
    refused := none
    window := c.window.map (fun r => if n ≤ r.seq then { r with inFlight := true } else r) }

/-- NAK_BACKOFF_EXPIRE (R116): after %nakbackoff cycles the sender resends from the refused request. -/
def execNakBackoffExpire (ch : Nat) (s : State) : Res :=
  match s.chan? ch with
  | none => .next s
  | some c => match c.refused with
    | some n => .next (s.setChan (c.resend n))
    | none => .next s

/-- REPLY_TIMEOUT_RESEND (R116, R437): without a reply for 4,096 cycles, the sender resends from the oldest
unacknowledged request; its die counts the resend. -/
def execReplyTimeoutResend (ch : Nat) (s : State) : Res :=
  match s.chan? ch with
  | none => .next s
  | some c => match c.window with
    | r :: _ => .next ((s.setChan (c.resend r.seq)).count (siteDie c.source) 6)
    | [] => .next s

/-- What can happen on a channel: the first request in flight arrives, replies return, or a resend; a time-out only
where nothing else is under way (log entry 3). -/
def Chan.events (c : Chan) : List Instr :=
  let arriving := match c.window.find? (·.inFlight) with
    | some r => [Instr.fabricRequestReceive c.id r.seq]
    | none => []
  let acks := if c.window.any (fun r => r.seq < c.acked) then [Instr.fabricAck c.id] else []
  let nak := if c.refused.isSome then [Instr.nakBackoffExpire c.id] else []
  let now := arriving ++ acks ++ nak
  if now.isEmpty && !c.window.isEmpty then [.replyTimeoutResend c.id] else now

end Sys2Proof.Machine
end

