-- ==== Sys2Proof/Machine/HostBus.lean ====
section
/-! DEFINITION. Requests from outside: registers of BAR0 (R371 to R376, R401, R414, R419), the debug blocks (R308 to R315,
R371), doorbells (R375), BAR4 (R370, R112, R418, R428, R432), peers (R442), and the use that host and peers make of
their own memory (R98). -/

namespace Sys2Proof.Machine

/-! ### Trust and outputs -/

/-- R426: a request with the T bit on the bound stream is trusted while the TDI is in RUN. -/
def State.trusts (s : State) (t : Bool) : Bool := t && s.sec.ideUp && s.sec.bound && s.sec.tdiRun

/-- The value of a read, as it leaves the device. -/
def State.answer (s : State) (l : List Byte) : State := { s with host := { s.host with out := .value l :: s.host.out } }

/-- The device answers on its registers. -/
def Power.answers (p : Power) : Bool := p.on

/-- BAR2 and BAR4 are served (R413). -/
def Power.ready (p : Power) : Bool := p.on && p.phase == 6

/-! ### Registers of BAR0 -/

/-- BOOTSTAT (R414). -/
def Power.bootstat (p : Power) : Nat := p.dies.toNat * 2 ^ 40 + p.code * 2 ^ 32 + p.phase * 2 ^ 4

/-- PSTAT (R419). -/
def Power.pstat (p : Power) : Nat :=
  p.temp % 256 * 2 ^ 8 + p.busy.toNat * 2 ^ 7 + p.trip.toNat * 2 ^ 6 + p.target % 8 * 2 ^ 3 + p.state % 8

/-- A word of the queue state table (R376). -/
def Queue.word (q : Queue) (k : Nat) : Nat :=
  match k with
  | 0 => q.base
  | 1 => q.headwb
  | 2 => q.head + q.tail * 2 ^ 32
  | 3 => q.ctx + q.lsize * 2 ^ 16 + q.maxprio * 2 ^ 24 + q.weight * 2 ^ 32 + q.state * 2 ^ 40 + q.msix * 2 ^ 48
  | 4 => q.error
  | _ => 0

/-- A word of the status set of a thread (R314). -/
def State.statusWord (s : State) (cl idx k : Nat) : Nat :=
  let c := s.cluster cl
  let x := c.sets.toArray.getD idx ⟨0, 0, 0, 0⟩
  let site := cl / 12 * 4096 + cl % 12 * 256 + idx / 4 * 16 + idx % 4
  match k with
  | 0 => x.stopts.toNat
  | 1 => x.skidc % 2 ^ 32 + x.skidl % 2 ^ 32 * 2 ^ 32
  | 7 => x.ptwin.toNat
  | k => ((s.threadAt site).l.lcr.toArray.getD (k - 2) 0).toNat

/-- A word of a debug block (R308). -/
def State.debugWord (s : State) (cl off : Nat) : Nat :=
  let c := s.cluster cl
  if off % 8 != 0 || 96 ≤ cl then 0
  else if off == 0 then c.trbase.toNat
  else if off == 8 then c.trsize.toNat
  else if off == 16 then c.trptr.toNat
  else if off == 24 then c.trctl.toNat
  else if 0x100 ≤ off && off < 0x500 then
    ((c.wps.toArray.getD ((off - 0x100) / 64) (Vector.replicate 8 0)).toArray.getD (off % 64 / 8) 0).toNat
  else if 0x800 ≤ off && off < 0x1000 then s.statusWord cl ((off - 0x800) / 64) (off % 64 / 8)
  else 0

/-- %dbgctl as the host sees it: 0 where no task is bound, and while debug is locked (R371, R431). -/
def State.threadControl (s : State) (site : Nat) : Nat :=
  let t := s.threadAt site
  if t.status == .free || s.locked t.task.ctx then 0 else t.dbg.ctl.toNat

/-- An aligned 8-byte word of BAR0 by its offset (R371). -/
def State.bar0 (s : State) (off : Nat) : Nat :=
  let m := s.host.mbox
  if off % 8 != 0 then 0
  else if off == 0 then m.cmd.toNat
  else if off < 0x40 then (m.args.toArray.getD (off / 8 - 1) 0).toNat
  else if off == 0x40 then m.stat.toNat
  else if off == 0x48 then m.res0.toNat
  else if off == 0x50 then m.res1.toNat
  else if off == 0x1000 then s.host.hbmwin
  else if off == 0x1008 then s.host.agelimit
  else if off == 0x1010 then s.hostLaunches
  else if off == 0x1018 then s.power.bootstat
  else if off == 0x1020 then s.power.pstat
  else if 0x1040 ≤ off && off < 0x1080 then
    (s.sched.launches.filter (fun l => l.source == 8192 + (off - 0x1040) / 8)).length
  else if off == 0x1100 then s.host.fqTail
  else if off == 0x1108 then s.host.fqHead
  else if 0x80000 ≤ off && off < 0x88000 then natOfBytes ((List.range 8).map (fun i => s.host.msixByte (off - 0x80000 + i)))
  else if 0x90000 ≤ off && off < 0x90100 then rdBytes (cellGet 0 s.host.msixPending) 8 (off - 0x90000)
  else if 0x100000 ≤ off && off < 0x180000 then (s.queue ((off - 0x100000) / 64)).word (off % 64 / 8)
  else if 0x200000 ≤ off && off < 0x240000 then s.threadControl ((off - 0x200000) / 8)
  else if 0x1000000 ≤ off && off < 0x1060000 then s.debugWord ((off - 0x1000000) / 4096) (off % 4096)
  else 0

/-- An aligned 8-byte word of BAR2: head and tail of a queue (R375). -/
def State.bar2 (s : State) (off : Nat) : Nat :=
  if off % 4096 == 0 && off / 4096 < 8192 && s.power.ready then
    (s.queue (off / 4096)).head + (s.queue (off / 4096)).tail * 2 ^ 32
  else 0

/-- A byte of BAR0 or BAR2; every other offset reads as zero (R370). -/
def State.barByte (s : State) (bar off : Nat) : Byte :=
  let w := off / 8 * 8
  BitVec.ofNat 8 ((if bar == 0 then s.bar0 w else if bar == 2 then s.bar2 w else 0) / 2 ^ (8 * (off % 8)))

/-! ### Thread control and the debug block -/

/-- A write of a thread-control word (R309, R313, R315, R371, R431). A stop on its way has reached the thread before it;
with en clear a step that has begun does not end in a trap. -/
def State.setControl (s : State) (site : Nat) (v : Word) : State :=
  let t := s.threadAt site
  if t.status == .free || s.locked t.task.ctx then s
  else
    let s := s.stopReaches (·.site == site)
    let t := s.threadAt site
    s.setThread (Thread.applyFz s.stale.length { t with
      dbg := { t.dbg with ctl := v &&& dbgMask, stepping := t.dbg.stepping && v.getLsbD 0 } })

/-- THREAD_CONTROL_WRITE (R371). -/
def execThreadControlWrite (site : Nat) (v : Word) (s : State) : Res :=
  .next (if s.power.answers then s.setControl site v else s)

/-- DEBUG_BLOCK_READ (R332): earlier writes have taken effect. -/
def execDebugBlockRead (die cluster off : Nat) (s : State) : Res :=
  if !s.power.answers then .next s
  else .next (s.answer (bytesOf 8 (if 12 ≤ cluster || 8 ≤ die then 0 else s.debugWord (12 * die + cluster) off)))

/-- A write of TRCTL (R308, R313): a stop is raised by setting its bit; any other write comes after a stop on its way has
reached the threads. -/
def State.setTrctl (s : State) (cl : Nat) (v : Word) : State :=
  let c := s.cluster cl
  if v.getLsbD 2 && !c.trctl.getLsbD 2 then
    (s.setCluster cl { c with trctl := v &&& 3 }).stopCluster cl
  else
    let s := s.stopReaches (fun t => clusterNo t.site == cl)
    s.setCluster cl { s.cluster cl with trctl := v &&& 7 }

/-- A write into a debug block (R308, R310, R314). -/
def State.setDebug (s : State) (cl off : Nat) (v : Word) : State :=
  let c := s.cluster cl
  if off % 8 != 0 || 96 ≤ cl then s
  else if off == 0 then s.setCluster cl { c with trbase := v }
  else if off == 8 then s.setCluster cl { c with trsize := v }
  else if off == 16 then s.setCluster cl { c with trptr := v }
  else if off == 24 then s.setTrctl cl v
  else if 0x100 ≤ off && off < 0x500 then
    let n := (off - 0x100) / 64
    let w := c.wps.toArray.getD n (Vector.replicate 8 0)
    s.setCluster cl { c with wps := c.wps.setIfInBounds n (w.setIfInBounds (off % 64 / 8) v) }
  else if 0x800 ≤ off && off < 0x1000 then
    let n := (off - 0x800) / 64
    let x := c.sets.toArray.getD n ⟨0, 0, 0, 0⟩
    let x := match off % 64 / 8 with
      | 0 => { x with stopts := v }
      | 1 => { x with skidc := v.toNat % 2 ^ 32, skidl := v.toNat / 2 ^ 32 }
      | 7 => { x with ptwin := BitVec.ofNat 64 (wbits v 17 6 * 64) }
      | _ => x
    s.setCluster cl { c with sets := c.sets.setIfInBounds n x }
  else s

/-! ### Register writes and doorbells -/

/-- HBMWIN (R373): bits below the BAR4 size are written as zero. -/
def State.setWindow (s : State) (v : Word) : State :=
  { s with host := { s.host with hbmwin := v.toNat / 2 ^ s.host.bar4 * 2 ^ s.host.bar4 } }

/-- Bytes written into the MSI-X table (R371); a vector that this unmasks is sent where it is pending. -/
def State.setMsix (s : State) (o : Nat) (l : List Byte) : State :=
  let new := (List.range l.length).zip l
  ({ s with host := { s.host with msixTable := new.foldl (fun m p =>
    cellSet 0 m (o + p.1) (p.2 ^^^ msixReset (o + p.1))) s.host.msixTable } } : State).signalPending

/-- REGISTER_WRITE (R370 to R373, R401): what is read-only or not defined discards the write. An argument
register takes a write while a command is in progress too, and what the command still reads of it is the new value, of which
R372 does not speak (DESIGN CHOICE: log entry 45). -/
def execRegisterWrite (off : Nat) (v : Word) (trusted : Bool) (s : State) : Res :=
  let h := s.host
  if !s.power.answers || off % 8 != 0 then .next s
  else if off == 0 then .next (s.writeCommand v (s.trusts trusted))
  else if off < 0x40 then
    .next { s with host := { h with mbox := { h.mbox with args := h.mbox.args.setIfInBounds (off / 8 - 1) v } } }
  else if off == 0x1000 then .next (s.setWindow v)
  else if off == 0x1108 then .next { s with host := { h with fqHead := v.toNat % 2 ^ 32 } }
  else if 0x80000 ≤ off && off < 0x88000 then
    .next (s.setMsix (off - 0x80000) (bytesOf 8 v.toNat))
  else if 0x200000 ≤ off && off < 0x240000 then .next (s.setControl ((off - 0x200000) / 8) v)
  else if 0x1000000 ≤ off && off < 0x1060000 then .next (s.setDebug ((off - 0x1000000) / 4096) (off % 4096) v)
  else .next s

/-- A 4-byte write to BAR0: half of an 8-byte register, whose other half stays as it reads (log entry 39). -/
def State.writeHalf (s : State) (off : Nat) (v : BitVec 32) (trusted : Bool) : Res :=
  let old := s.bar0 (off / 8 * 8)
  if off % 4 != 0 then .next s
  else if off % 8 == 0 then
    execRegisterWrite off (BitVec.ofNat 64 (old / 2 ^ 32 * 2 ^ 32 + v.toNat)) trusted s
  else execRegisterWrite (off - 4) (BitVec.ofNat 64 (old % 2 ^ 32 + v.toNat * 2 ^ 32)) trusted s

/-- BAR4 resized (R370): 1 GiB to 512 GiB; HBMWIN stays a multiple of the size. -/
def State.resizeBar (s : State) (log : Nat) : State :=
  if 30 ≤ log && log ≤ 39 then
    { s with host := { s.host with bar4 := log, hbmwin := s.host.hbmwin / 2 ^ log * 2 ^ log } }
  else s

/-- A doorbell with a new tail (R375). -/
def Queue.ring (q : Queue) (t : Nat) : Queue :=
  let d := fun x => (t + 2 ^ 32 - x) % 2 ^ 32
  if t == q.tail then q
  else if d q.head ≤ 2 ^ q.lsize && d q.tail ≤ 2 ^ q.lsize then { q with tail := t }
  else q.fail 1

/-- DOORBELL (R375): only a write of 4 or 8 bytes to offset 0 of the page counts, with bits 63:32 zero. The head and the
events of what waits at the queue are read again (R377, R382). -/
def execDoorbell (q off size : Nat) (v : Word) (s : State) : Res :=
  let x := s.queue q
  if !s.power.ready || 8192 ≤ q || off != 0 || !(size == 4 || size == 8) || (size == 8 && wbits v 63 32 != 0)
      || x.state != 1 then .next s
  else
    let s := s.setQueue (x.ring (wbits v 31 0))
    .next (if s.power.running then s.rereadSource q else s)

/-! ### BAR4 and peer requests -/

/-- An agent of the host, or of the peer at a port (R319, R442). -/
def portAgent (port : Nat) : Agent :=
  let die := match port with | 0 => 0 | 1 => 3 | 2 => 4 | _ => 7
  ⟨0, 0, die * 4096 + 15 * 256 + 15 * 16 + 12 + port, false, 0, 0, noLane⟩

/-- HBM bytes from an address as locations. -/
def hbmLocs (pa len : Nat) : List Loc := (List.range len).map (fun i => .cell (pa + i) (pa + i))

/-- A byte of HBM as an outside request reads it (R428). -/
def State.outsideByte (s : State) (trusted : Bool) (pa : Nat) : Byte :=
  if 2 ^ 39 ≤ pa then 0
  else if (s.ownerOf 0 (pa / 2 ^ 21)).isSome && !trusted then 0xFF
  else s.rd pa

/-- A byte of HBM may be written by an outside request (R428, R432). -/
def State.outsideWrites (s : State) (trusted : Bool) (pa : Nat) : Bool :=
  pa < 2 ^ 39 && ((s.ownerOf 0 (pa / 2 ^ 21)).isNone || trusted) && !s.sealedPage pa && !s.lockedCode pa

/-- A read of HBM from outside, watched at its home slice (R311). Bytes in error are not delivered (R435). -/
def State.outsideRead (s : State) (ag : Agent) (trusted : Bool) (pa len : Nat) : State :=
  match s.errorCheck .read pa (hbmLocs pa len) with
  | (.error _, s) => s.answer []
  | (.ok (), s) =>
    let bs := (List.range len).map (fun i => s.outsideByte trusted (pa + i))
    (s.answer bs).watchMem ag .read ((List.range len).map (pa + ·)) (natOfBytes bs)

/-- A write to HBM from outside. A sector in error that it covers only in part is not written (R435). -/
def State.outsideWrite (s : State) (ag : Agent) (trusted : Bool) (pa : Nat) (data : List Byte) : State :=
  let cells := (List.range data.length).zip data |>.map (fun p => (pa + p.1, p.2))
  let cells := cells.filter (fun p => s.outsideWrites trusted p.1)
  let (_, s) := s.errorCheck .write pa (cells.map (fun p => .cell p.1 p.1))
  let errors := s.fleet.errors.filter (fun e => !coversError (cells.map (·.1)) e)
  let cells := cells.filter (fun p => (badDetailOf errors p.1).isNone)
  if cells.isEmpty then s else (s.store cells).watchMem ag .write (cells.map (·.1)) 0

/-- An AtomicOp from outside on HBM (R369, R112): FetchAdd, Swap and CompareAndSwap at 4 and 8 bytes. -/
def State.outsideAtomic (s : State) (ag : Agent) (trusted : Bool) (op : AmoOp) (pa size value compare : Nat) : State :=
  let ls := hbmLocs pa size
  if !AmoOp.hostOk op || !(size == 4 || size == 8) || pa % size != 0 then s.answer []
  else if !(List.range size).all (fun i => s.outsideWrites trusted (pa + i)) then
    s.answer ((List.range size).map (fun i => s.outsideByte trusted (pa + i)))
  else match s.errorCheck (.atomic true) pa ls with
    | (.error _, s) => s.answer []
    | (.ok (), s) =>
      let (old, s) := s.amoLocs ag op ls value compare
      s.answer (bytesOf size old)

/-- BAR4 reaches HBM (R370, R413, R418). -/
def State.windowOpen (s : State) (off len : Nat) : Bool := s.power.ready && s.power.state < 4 && off + len ≤ 2 ^ s.host.bar4

/-- Cells of a range of addresses that is not the device's own, written by its owner; what becomes of loads on their way
(R95). -/
def State.ownerWrite (s : State) (lo hi pa : Nat) (data : List Byte) : State :=
  let l := ((List.range data.length).zip data |>.map (fun p => (pa + p.1, p.2))).filter (fun p => lo ≤ p.1 && p.1 < hi)
  (s.wrCells l).loadsAnew (l.map (·.1))

/-- A host write with Relaxed Ordering performed (R112). -/
def State.performPosted (s : State) (n : Nat) : State :=
  match s.host.posted[n]? with
  | none => s
  | some p =>
    ({ s with host := { s.host with posted := s.host.posted.eraseIdx n } } : State).outsideWrite (portAgent 0) p.trusted
      p.pa p.data

/-- Every host write with Relaxed Ordering that has arrived is performed. -/
def State.performAllPosted (s : State) : State :=
  (List.range s.host.posted.length).foldl (fun s _ => s.performPosted 0) s

/-- A host write arrives (R112): performed in its order, or, with Relaxed Ordering, at some later time. -/
def State.hostWrite (s : State) (pa : Nat) (data : List Byte) (trusted relaxed : Bool) : State :=
  if relaxed then { s with host := { s.host with posted := s.host.posted ++ [⟨pa, data, trusted⟩] } }
  else s.outsideWrite (portAgent 0) trusted pa data

/-- HOST_REQUEST (R370): through BAR4 to HBM at its home slice; a read or a 4-byte write of a register; a resizing
of BAR4; or the host's use of its own memory. A read without Relaxed Ordering comes after the writes with it (R112). -/
def execHostRequest (r : HostReq) (s : State) : Res :=
  let pa := fun off => s.host.hbmwin + off
  match r with
  | .read off len t relaxed =>
    if !s.power.on then .next s
    else if s.windowOpen off len then
      .next ((if relaxed then s else s.performAllPosted).outsideRead (portAgent 0) (s.trusts t) (pa off) len)
    else .next (s.answer (List.replicate len 0))
  | .write off data t relaxed =>
    if s.windowOpen off data.length then .next (s.hostWrite (pa off) data (s.trusts t) relaxed) else .next s
  | .atomic op off size value compare t =>
    if !s.power.on then .next s
    else if s.windowOpen off size then
      .next (s.outsideAtomic (portAgent 0) (s.trusts t) op (pa off) size value compare)
    else .next (s.answer (List.replicate size 0))
  | .regRead bar off len =>
    if !s.power.on then .next s else .next (s.answer ((List.range len).map (fun i => s.barByte bar (off + i))))
  | .regWrite off v t => s.writeHalf off v t
  | .barSize log => .next (if s.power.on then s.resizeBar log else s)
  | .ownRead pa len => .next (s.answer ((List.range len).map (fun i => s.rd (pa + i))))
  | .ownWrite pa data => .next (s.ownerWrite (2 ^ 47) 0xC00000000000 pa data)

/-- PEER_REQUEST (R442): performed at its home slice, untrusted; or the peer's use of its own memory. Port 0 is the host
port. -/
def execPeerRequest (port : Fin 4) (r : PeerReq) (s : State) : Res :=
  match r with
  | .read pa len =>
    if port == 0 || !s.power.ready || 4 ≤ s.power.state then .next s
    else .next (s.outsideRead (portAgent port.val) false pa len)
  | .write pa data =>
    if port == 0 || !s.power.ready || 4 ≤ s.power.state then .next s
    else .next (s.outsideWrite (portAgent port.val) false pa data)
  | .ownWrite pa data =>
    let lo := 0xC00000000000 + port.val * 2 ^ 44
    .next (s.ownerWrite lo (lo + 2 ^ 44) pa data)

end Sys2Proof.Machine
end

