-- ==== Sys2Proof/Machine/Power.lean ====
section
/-! DEFINITION. Reset and boot (R412, R413, R421, R422, R424, R425, R441), power states and the thermal trip (R417 to
R420), the inventory (R416), and what the board does (R417, R426). -/

namespace Sys2Proof.Machine

/-! ### Firmware (R422) -/

/-- Bytes of the firmware header. -/
def headerSize : Nat := 4096

/-- Number of n bytes of a list from an offset. -/
def bytesAt (l : List Byte) (off n : Nat) : Nat := natOfBytes ((l.drop off).take n)

/-- R422: an image passes under a floor and a key digest. -/
def firmwareOk (floor : Nat) (keyHash image : List Byte) : Bool :=
  (image.take 4 == [0x4B, 0x5A, 0x46, 0x57])
    && bytesAt image 8 8 ≤ 64 * 2 ^ 20 && image.length == headerSize + bytesAt image 8 8
    && ((image.drop 2904).take 1192).all (· == 0)
    && Config.shake256 ((image.drop 16).take 68) == keyHash
    && Config.firmwareSigOk image
    && firmwareVersion image % 256 ≤ 64 && floor ≤ firmwareVersion image % 256

/-- Phase 1 (R441): the pending bank first, then the active one: flash and measurements after it, none where both
fail. -/
def Security.chooseFirmware (x : Security) : Option Security :=
  let ok := firmwareOk x.fwfloor x.fwkeyh
  let run := fun (x : Security) =>
    { x with fmeas := Config.shake256 x.active, fwver := firmwareVersion x.active, pendingBank := false }
  if x.pendingBank && ok x.standby then some (run { x with active := x.standby, standby := x.active })
  else if ok x.active then some (run x)
  else none

/-- R424: the first index after a boot. -/
def Security.bootIndex (x : Security) : Nat :=
  match x.rsv with
  | some r => if (x.hmark - 1) * 2 ^ 24 ≤ r then r else x.hmark * 2 ^ 24
  | none => x.hmark * 2 ^ 24

/-- What security keeps across a reset: fuses and flash (R412, R428); no firmware runs until phase 1. -/
def Security.kept (x : Security) : Security :=
  { x with
    next := x.bootIndex
    boots := x.boots + 1
    fmeas := []
    fwver := 0
    ideUp := false
    bound := false
    tdiRun := false
    owned := []
    keyed := []
    seals := [] }

/-! ### Reset and the boot sequence (R412, R413) -/

/-- What outlasts the loss of power: host and peer memory, which are not the device's, and what waits outside. -/
def State.outside (s : State) : State :=
  { State.reset with
    mem := s.mem.filter (fun p => 2 ^ 47 ≤ p.1)
    inputs := s.inputs
    fresh := s.fresh
    host := { HostIf.fresh with out := s.host.out }
    sec := s.sec.kept
    fleet := { Fleet.fresh with retired := s.fleet.retired, harvest := s.fleet.harvest, feat := s.fleet.feat } }

/-- A boot halted with a code, until the next reset (R413). -/
def State.halted (s : State) (code : Nat) : State := { s with power := { s.power with phase := 15, code := code } }

/-- Usable quads of a unit: harvested and retired ones are absent (R25, R416, R438). -/
def Fleet.usable (f : Fleet) (uid : Nat) : BitVec 16 :=
  let base := match f.harvest.find? (fun p => p.1 == uid) with | some p => p.2 | none => 0xFFFF
  (f.retired.filter (fun p => p.1 == uid)).foldl (fun m p => m &&& ~~~(1#16 <<< p.2)) base

/-- The units whose quads are not all usable. -/
def Fleet.unitList (f : Fleet) : List (Nat × UnitSt) :=
  let ids := (f.harvest.map (·.1) ++ f.retired.map (·.1)).foldl (fun l n => insertNat n l) []
  (ids.map (fun n => (n, { UnitSt.fresh with usable := f.usable n }))).filter (fun p => p.2 != UnitSt.fresh)

/-- The phase that BOOTSTAT shows next. -/
def State.nextPhase (s : State) : State := { s with power := { s.power with phase := s.power.phase + 1 } }

/-- The quads with a row that failed retired, with those that already were (R413, R438). -/
def Fleet.retireAll (f : Fleet) (failing : List (Nat × Nat)) : Fleet :=
  { f with retired := f.retired ++ failing.filter (fun p => !f.retired.contains p) }

/-- What the phase that is shown does, and the next phase or a halt (R413): 0 D0 starts, 1 the firmware, 2 the stacks,
which say what dies are usable, 3 the boundaries, 4 the quads, 5 the ports. What it finds is a free value (log entry 7).
-/
def State.bootPhase (s : State) : State :=
  let (d0, boundary, dies, failing) := Config.bootFindings s.sec.boots
  match s.power.phase with
  | 0 => if d0 then s.halted 2 else s.nextPhase
  | 1 => match s.sec.chooseFirmware with
    | none => s.halted 1
    | some sec => ({ s with sec := sec } : State).nextPhase
  | 2 =>
    let s := { s with power := { s.power with dies := BitVec.ofNat 8 dies } }
    if BitVec.ofNat 8 dies == 0 then s.halted 4 else s.nextPhase
  | 3 => if boundary then s.halted 3 else s.nextPhase
  | 4 =>
    let fleet := s.fleet.retireAll failing
    ({ s with fleet := fleet, units := fleet.unitList } : State).nextPhase
  | 5 => s.nextPhase
  | _ => s

/-- POWER_ON (R412): package power comes and the boot sequence begins (R413); PS5 is left only by PERST# (R417). -/
def execPowerOn (s : State) : Res := .next (if s.power.on || s.power.state == 5 then s else s.outside)

/-- PERST (R412, R417): a complete reset at each assertion of PERST#, where the package has power or is in PS5; the boot
sequence begins (R413). -/
def execPerst (s : State) : Res := .next (if s.power.on || s.power.state == 5 then s.outside else s)

/-- PACKAGE_POWER_REMOVED (R412, R417): only flash and fuses keep their contents; the link goes down. -/
def execPackagePowerRemoved (s : State) : Res :=
  let state := if s.power.on && s.power.state == 5 then 5 else 0
  let t := s.outside
  .next { t with
    sec := { t.sec with boots := s.sec.boots }
    host := { t.host with out := .linkDown :: t.host.out }
    power := { Power.start with on := false, state := state } }

/-! ### Trust on the link (R426) -/

/-- IDE_KM_KEY_PROGRAMMING. -/
def execIdeKmKeyProgramming (s : State) : Res :=
  .next (if s.power.ready then { s with sec := { s.sec with ideUp := true } } else s)

/-- TDI_ENTERS_RUN: the TDI is bound by a trusted VM. -/
def execTdiEntersRun (s : State) : Res :=
  .next (if s.power.ready then { s with sec := { s.sec with bound := true, tdiRun := true } } else s)

/-- TDISP_STOP: trust ends at once; confidential contexts keep running. -/
def execTdispStop (s : State) : Res := .next { s with sec := { s.sec with bound := false, tdiRun := false } }

/-- IDE_STREAM_LOSS: trust ends at once. -/
def execIdeStreamLoss (s : State) : Res := .next { s with sec := { s.sec with ideUp := false, tdiRun := false } }

/-! ### Power states and the thermal trip (R417 to R420) -/

/-- A thread runs, is blocked or is faulted (R417). -/
def State.threadActive (s : State) : Bool :=
  s.threads.any (fun t => match t.status with | .running | .blocked _ | .faulted _ => true | _ => false)

/-- R417: a state that may not be entered now. -/
def State.psetDenied (s : State) (st : Nat) : Bool :=
  s.power.trip || (st == 3 && s.threadActive)
    || (st == 4 && (s.threadActive || s.sched.queues.any (fun q => q.state == 1) || !s.copies.isEmpty))
    || (st == 5 && !s.ctxs.isEmpty)

/-- PSET (R417, R418): the change is in progress until the command completes. While a trip is set, any PSET is denied. -/
def execPset (s : State) : Res :=
  let st := s.arg 0
  s.command (5 < st && !s.power.trip) (s.psetDenied st) fun s =>
    .next (State.wait { s with power := { s.power with target := st, busy := true } })

/-- THERMAL_TRIP (R420): the hottest junction reads a temperature; at 105 °C the arithmetic clock stops. -/
def execThermalTrip (temp : Nat) (s : State) : Res :=
  if !s.power.on then .next s
  else
    let hot := 105 ≤ temp && !s.power.trip
    let s := { s with power := { s.power with temp := temp, trip := s.power.trip || hot } }
    .next (if hot then s.signal 2 else s)

/-- TRIPCLR (R420): the clock runs again; a change that the trip overtook completes. -/
def execTripclr (s : State) : Res :=
  let p := s.power
  s.command false (95 < p.temp || !p.trip) fun s =>
    .next (State.wait { s with power := Power.arrive { p with trip := false, target := if p.busy then p.target else p.state } })

/-! ### INVENTORY (R416) -/

/-- A list cut or filled with zeros to n bytes. -/
def fitBytes (n : Nat) (l : List Byte) : List Byte := (l ++ List.replicate n 0).take n

/-- The inventory table. -/
def State.inventory (s : State) : List Byte :=
  let feats := (List.range 8).flatMap (fun d => bytesOf 8 (s.feat d))
  let quads := (List.range 768).flatMap (fun u =>
    bytesOf 2 (if s.power.dies.getLsbD (u / 96) then (s.unitSt u).usable.toNat else 0))
  fitBytes 4096 (feats ++ quads)

/-- An output address that is misaligned or outside HBM. -/
def badOutput (a align len : Nat) : Bool := a % align != 0 || !inHbm a len

def execInventory (s : State) : Res :=
  let a := s.arg 0
  s.command (badOutput a 4096 4096) false fun s => (s.deviceWrite a s.inventory).done 0

end Sys2Proof.Machine
end

