-- ==== Sys2Proof/Machine/Trust.lean ====
section
/-! DEFINITION. Identity and attestation (R423 to R425, R430), confidential memory (R427, R428), debug of confidential
contexts (R431), sealed egress (R432, R433). -/

namespace Sys2Proof.Machine

/-! ### The identity key (R423, R424) -/

/-- Every one-time index has been used (R424). -/
def Security.exhausted (x : Security) : Bool := 2 ^ 40 ≤ x.next

/-- An index taken for a signature: the fuse and the reservation it may need come first (R424). -/
def Security.takeIndex (x : Security) : Nat × Security :=
  let i := x.next
  let h := if x.hmark * 2 ^ 24 ≤ i then x.hmark + 1 else x.hmark
  let r := match x.rsv with
    | some r => if r ≤ i then (i / 1024 + 1) * 1024 else r
    | none => (i / 1024 + 1) * 1024
  (i, { x with hmark := h, rsv := some r, next := i + 1 })

/-- An address range touches a frame of a confidential context (R429). -/
def State.touchesFrames (s : State) (pa len : Nat) : Bool :=
  (List.range ((pa + len - 1) / 2 ^ 21 + 1 - pa / 2 ^ 21)).any (fun i => (s.ownerOf 0 (pa / 2 ^ 21 + i)).isSome)

/-- IDINFO (R429): the public key, its certificate, its length, and how many indices are left. -/
def execIdinfo (s : State) : Res :=
  let a := s.arg 0
  s.command (badOutput a 4096 4096) false fun s =>
    let s := s.deviceWrite a (fitBytes 68 Config.identityKey)
    let s := s.deviceWrite (a + 128) Config.identityCert
    .next (s.finish 0 (some Config.identityCert.length) (some (2 ^ 40 - s.sec.next)))

/-- Bytes 0 to 255 of the attestation report (R430). -/
def State.report (s : State) (ctx index : Nat) : List Byte :=
  let c := s.ctxD ctx
  let flags := c.conf.toNat + c.unlocked.toNat * 2 + s.sec.tdiRun.toNat * 4
  let parts := s.fleet.part.toList.flatMap (bytesOf 1)
  fitBytes 256 (bytesOf 4 1 ++ bytesOf 2 ctx ++ bytesOf 2 flags ++ bytesOf 8 index
    ++ (List.range 4).flatMap (fun k => bytesOf 8 (s.arg (2 + k)))
    ++ fitBytes 32 s.sec.fmeas ++ bytesOf 4 s.sec.fwver ++ bytesOf 4 s.fleet.cfggen
    ++ fitBytes 32 (Config.shake256 (s.inventory ++ parts))
    ++ fitBytes 32 (if ctx == 0 then [] else c.cmeas)
    ++ fitBytes 97 (Config.sessionKey s.sec.boots))

/-- ATTEST (R429, R430). -/
def execAttest (s : State) : Res :=
  let n := s.arg 0
  let a := s.arg 1
  let bad := s.touchesFrames a 6144 || (n != 0 && !(s.ctxD n).conf)
  s.command bad s.sec.exhausted fun s =>
    let (i, sec) := s.sec.takeIndex
    let r := s.report n i
    let out := fitBytes 6144 (r ++ fitBytes 5605 (Config.identitySign i r))
    .next (State.wait ({ s with sec := sec }.deviceWrite a out))

/-! ### Frames and stripes (R427, R428) -/

/-- Size of a unit of a kind: frame, cluster stripe, die stripe. -/
def unitSize (kind : Nat) : Nat := if kind == 0 then 2 ^ 21 else if kind == 1 then 2048 else 4096

/-- The unit numbers that a base and a count name, with the die of each: frames by physical address, stripes by global
scratchpad address (R88; log entry 15). None where the base is misaligned or names nothing. -/
def ccUnits (kind base count : Nat) : Option (List (Nat × Nat)) :=
  let size := unitSize kind
  if base % size != 0 then none
  else if kind == 0 then
    if inHbm base (count * size) then
      some ((List.range count).map (fun i => (base / size + i, (base + i * size) / 2 ^ 36)))
    else none
  else if base < 0x00FF800000000000 then none
  else
    let x := base - 0x00FF800000000000
    let die := x / 2 ^ 36
    let cl := x / 2 ^ 32 % 16
    if 8 ≤ die || (kind == 1 && 12 ≤ cl) || (kind == 2 && cl != 15) || scratchSize cl < x % 2 ^ 32 + count * size then none
    else some ((List.range count).map (fun i => ((die * 16 + cl) * 2 ^ 20 + x % 2 ^ 32 / size + i, die)))

/-- The partition that a context's units must lie in: its own, or that of the units it already holds, or that of the
first one asked for. -/
def State.unitPart (s : State) (ctx : Nat) (us : List (Nat × Nat)) : Nat :=
  if (s.ctx? ctx).isSome then s.ctxPart ctx
  else match s.sec.owned.find? (fun x => x.2.2 == ctx) with
    | some x => s.partOf (if x.1 == 0 then x.2.1 / 2 ^ 15 else x.2.1 / 2 ^ 24)
    | none => match us with
      | u :: _ => s.partOf u.2
      | [] => 0

/-- The bytes of a frame under a new key: what they read as until they are written is a free value (R428). -/
def State.scramble (s : State) (num : Nat) : State :=
  let n := s.fresh
  let new := (List.range (2 ^ 21)).map (fun i => (i, BitVec.ofNat 8 (Config.freeNat (n + i))))
  { s.putRange (num * 2 ^ 21) (2 ^ 21) new with fresh := n + 2 ^ 21 }

/-- Units assigned to a context (R427, R428). -/
def State.assign (s : State) (ctx kind : Nat) (us : List (Nat × Nat)) : State :=
  let new := us.filter (fun u => (s.ownerOf kind u.1).isNone)
  let s := if kind == 0 then new.foldl (fun s u => s.scramble u.1) s else s
  { s with sec := { s.sec with
    owned := s.sec.owned ++ new.map (fun u => (kind, u.1, ctx))
    keyed := if s.sec.keyed.contains ctx then s.sec.keyed else s.sec.keyed ++ [ctx] } }

/-- CCMAP (R427, R428, R429). -/
def execCcmap (s : State) : Res :=
  let n := s.arg 0
  let kind := s.arg 1 % 8
  let release := s.arg 1 / 8 == 1
  let units := ccUnits kind (s.arg 2) (s.arg 3)
  let us := units.getD []
  let part := s.unitPart n us
  let bad := 2 < kind || 1 < s.arg 1 / 8 || units.isNone || n == 0 || 65535 < n
    || us.any (fun u => (match s.ownerOf kind u.1 with | some c => c != n | none => false)
      || s.partOf u.2 != part || !s.power.dies.getLsbD u.2)
  s.command bad (!s.host.mbox.trusted || !(s.boundThreads n).isEmpty) fun s =>
    if release then
      .next (s.releaseOwned (fun x => x.1 == kind && x.2.2 == n && us.any (fun u => u.1 == x.2.1))).wait
    else .next (s.assign n kind us).wait

/-- DBGUNLOCK (R429, R431). -/
def execDbgunlock (s : State) : Res :=
  let n := s.arg 0
  s.command (!(s.ctxD n).conf) (!s.host.mbox.trusted) fun s => (s.setCtx { s.ctxD n with unlocked := true }).done 0

/-! ### Sealed egress (R432, R433) -/

def State.seal? (s : State) (ctx : Nat) : Option Seal := s.sec.seals.find? (fun x => x.ctx == ctx)
def State.setSeal (s : State) (x : Seal) : State :=
  { s with sec := { s.sec with seals := s.sec.seals.filter (fun y => y.ctx != x.ctx) ++ [x] } }

/-- Where a virtual address of a context lies in its frames; none where it does not. -/
def State.frameAddr (s : State) (ctx va : Nat) : Option Nat :=
  if windowsBase ≤ va then none
  else match s.walk0 ctx va with
    | .error _ => none
    | .ok l =>
      let pa := bits l.entry 47 12 * 4096 + va % l.size
      if pa < 2 ^ 39 && s.ownerOf 0 (pa / 2 ^ 21) == some ctx then some pa else none

/-- The pages of a virtual range, all in the context's frames: their physical addresses. -/
def State.framePages (s : State) (ctx va len : Nat) : Option (List Nat) :=
  (List.range ((va + len - 1) / 4096 + 1 - va / 4096)).foldl (fun l i =>
    match l, s.frameAddr ctx ((va / 4096 + i) * 4096) with
    | some l, some pa => some (l ++ [pa])
    | _, _ => none) (some [])

/-- Slot of a batch ring (R433). -/
def batchSlot : Nat := 40960

/-- SEALCFG (R429). -/
def execSealcfg (s : State) : Res :=
  let n := s.arg 0
  let ring := s.arg 1
  let lsize := s.arg 2
  let tail := s.arg 3
  let batch := s.arg 4
  let bl := s.arg 5
  let bad := !(s.ctxD n).conf || lsize < 4 || 12 < lsize || bl < 1 || 10 < bl
    || (s.framePages n ring (32 * 2 ^ lsize)).isNone || (s.framePages n tail 8).isNone
    || s.touchesFrames batch (batchSlot * 2 ^ bl)
  s.command bad (!s.host.mbox.trusted) fun s =>
    let old := (s.seal? n).getD ⟨n, 0, 0, 0, 0, 0, 0, 0, 0, [], 0, []⟩
    (s.setSeal { old with
      ringVa := BitVec.ofNat 64 ring, lsize := lsize, tailVa := BitVec.ofNat 64 tail, batchPa := batch
      batchLsize := bl, taken := 0 }).done 0

/-- SEALFLUSH (R429, R433): the open batch is closed before the command completes. -/
def execSealflush (s : State) : Res := s.command false (!s.host.mbox.trusted || s.sec.exhausted) fun s => .next s.wait

/-- The tail word of a request ring, read by the sealer (R432); none where it is in error (R435). -/
def State.sealTail (s : State) (x : Seal) : Option Nat := (s.frameAddr x.ctx x.tailVa.toNat).bind (fun pa =>
  if (List.range 8).any (fun i => (s.badDetail (pa + i)).isSome) then none else some (s.rdN pa 8))

/-- A request waits, and the open batch has room. -/
def State.sealDue (s : State) (x : Seal) : Bool :=
  x.leaves.length < 1024 && (match s.sealTail x with | some t => t != x.taken | none => false)

/-- The status of a request (R432): code, leaf and batch; a refused request leaves leaf and batch to a free value. -/
def State.sealStatus (s : State) (x : Seal) (code : Nat) : Nat × State :=
  if code == 1 then (1 + x.leaves.length * 2 ^ 8 + x.batch % 2 ^ 32 * 2 ^ 32, s)
  else
    let w := (Config.freeWord s.fresh).toNat
    (w / 2 ^ 32 * 2 ^ 32 + bits w 17 8 * 2 ^ 8 + code, { s with fresh := s.fresh + 1 })

/-- A request of the ring taken (R432): its pages become read-only at once, its bytes are hashed, its status is written.
Stores that were on their way have landed before. A request or a buffer in error is refused with code 2 (R435; DESIGN CHOICE:
log entry 62). -/
def State.sealOne (s : State) (x : Seal) (slot : Nat) : State :=
  let va := s.rdN slot 8
  let len := s.rdN (slot + 8) 8
  let pages := s.framePages x.ctx va len
  let code := if len % 4096 != 0 || len < 4096 || 2 ^ 28 < len then 3 else if va % 4096 != 0 || pages.isNone then 2 else 1
  let (bad, s) := s.selfRead x.ctx ((slot, 32) :: (if code == 1 then (pages.getD []).map (fun pa => (pa, 4096)) else []))
  let code := if bad then 2 else code
  let (status, s) := s.sealStatus x code
  let s := if code == 1 then
      let s := s.drainContext x.ctx
      let bytes := (pages.getD []).flatMap (fun pa => (List.range 4096).map (fun i => s.rd (pa + i)))
      let leaf := Config.shake256 ([0x00] ++ (s.ctxD x.ctx).cmeas ++ bytesOf 2 x.ctx ++ bytesOf 8 x.seq
        ++ bytesOf 8 (s.rdN (slot + 16) 8) ++ bytesOf 8 len ++ bytes)
      s.setSeal { x with
        taken := (x.taken + 1) % 2 ^ 64
        seq := x.seq + 1
        leaves := x.leaves ++ [leaf]
        firstTs := if x.leaves.isEmpty then s.gts else x.firstTs
        frozen := x.frozen ++ (pages.getD []).map (· / 4096) }
    else s.setSeal { x with taken := (x.taken + 1) % 2 ^ 64 }
  s.innerN (slot + 24) 8 status

/-- SEAL_REQUEST (R432). -/
def execSealRequest (ctx : Nat) (s : State) : Res :=
  match s.seal? ctx with
  | none => .next s
  | some x =>
    if !s.sealDue x then .next s
    else match s.frameAddr ctx (x.ringVa.toNat + 32 * (x.taken % 2 ^ x.lsize)) with
      | none => .next s
      | some slot => .next (s.sealOne x slot)

/-- The batch is to be closed now (R433): full, flushed, or 10 ms after its first leaf. -/
def State.batchDue (s : State) (x : Seal) : Bool :=
  let m := s.host.mbox
  let flush := m.busy && m.waiting && m.number == 0x65 && s.arg 0 == x.ctx
  !x.leaves.isEmpty && !s.sec.exhausted && (x.leaves.length == 1024 || flush || x.firstTs + 10000000 ≤ s.gts)

/-- Nodes of a level paired into the level above. -/
def pairNodes : List (List Byte) → List (List Byte)
  | a :: b :: l => Config.shake256 ([0x01] ++ a ++ b) :: pairNodes l
  | l => l

/-- R433: the root of leaves filled with zero leaves to a power of two, by levels. -/
def batchRoot : Nat → List (List Byte) → List Byte
  | 0, l => l.headD []
  | n + 1, l => batchRoot n (pairNodes l)

def merkleRoot (leaves : List (List Byte)) : List Byte :=
  let m := ceilPow2 leaves.length
  batchRoot (Nat.log2 m) (leaves ++ List.replicate (m - leaves.length) (List.replicate 32 0))

/-- Bytes 0 to 255 of a batch record (R433). -/
def State.batchHead (s : State) (x : Seal) (index : Nat) : List Byte :=
  fitBytes 256 (bytesOf 8 x.batch ++ bytesOf 4 x.leaves.length ++ bytesOf 2 x.ctx ++ bytesOf 2 0 ++ bytesOf 8 index
    ++ bytesOf 8 0 ++ fitBytes 32 (merkleRoot x.leaves) ++ fitBytes 32 (s.ctxD x.ctx).cmeas ++ fitBytes 32 s.sec.fmeas)

/-- BATCH_CLOSE (R433): the record is signed and written, and the buffers are no longer read-only. -/
def execBatchClose (ctx : Nat) (s : State) : Res :=
  match s.seal? ctx with
  | none => .next s
  | some x =>
    if !s.batchDue x then .next s
    else
      let (i, sec) := s.sec.takeIndex
      let s := { s with sec := sec }
      let head := s.batchHead x i
      let a := x.batchPa + batchSlot * (x.batch % 2 ^ x.batchLsize)
      let s := s.deviceStore true (cellsFrom a head)
      let s := s.deviceStore true (cellsFrom (a + 256) (x.leaves.flatMap (fitBytes 32)))
      let s := s.deviceStore true (cellsFrom (a + 33024) (fitBytes 5605 (Config.identitySign i head)))
      .next (s.setSeal { x with batch := x.batch + 1, leaves := [], frozen := [] })

end Sys2Proof.Machine
end

