-- ==== Sys2Proof/Machine/Fleet.lean ====
section
/-! DEFINITION. Errors and the scrub (R434 to R437), quad retirement (R438), telemetry (R439), partitions (R440), firmware
update (R441). -/

namespace Sys2Proof.Machine

/-! ### Errors and the scrub -/

/-- The store that an error is in, and its sector, row or word (R434): HBM 0, arrays 1, other SRAM 2. -/
def errSite : ErrLoc → Nat × Nat
  | .hbmCorrectable p | .hbmBad p => (0, p / 32)
  | .arrayParity h _ => (1, h / 64)
  | .sramCorrectable h _ | .sramBad h => (2, h / 8)

/-- A cell of a scratchpad, weight buffer, accumulator or residual tile: the stores with a check word per 64 bits. -/
def sramCell (a : Nat) : Bool := (scratchBase 0 0 ≤ a && a < arrayBase 0) || (weightBase 0 ≤ a && a < 0x60000000000)

/-- Such a bit exists (R434): 512 columns and their parity column in a row, 64 bits and their 8 check bits in a word. -/
def errExists : ErrLoc → Bool
  | .hbmCorrectable p | .hbmBad p => p < 2 ^ 39
  | .arrayParity h c => arrayBase 0 ≤ h && h < arrayBase 768 && c ≤ 512
  | .sramCorrectable h b => sramCell h && b < 72
  | .sramBad h => sramCell h

/-- A sector, row or word in error, e, where more bits of it flip (R434): a second symbol of a sector and a second bit of a
word are detected, and no longer corrected; the same bit again is as it was; a second column of a row leaves its parity
even, so that nothing is detected. -/
def errMerge (e l : ErrLoc) : List ErrLoc :=
  match e, l with
  | .arrayParity .., _ => []
  | .hbmCorrectable p, .hbmCorrectable q => if p == q then [e] else [.hbmBad p]
  | .sramCorrectable h a, .sramCorrectable _ b => if a == b then [] else [.sramBad h]
  | .hbmCorrectable p, _ => [.hbmBad p]
  | .sramCorrectable h _, _ => [.sramBad h]
  | _, _ => [e]

/-- The sectors, rows and words in error after a flip. -/
def errAfter (errors : List ErrLoc) (l : ErrLoc) : List ErrLoc :=
  let same := fun (e : ErrLoc) => errSite e == errSite l
  match errors.find? same with
  | none => errors ++ [l]
  | some e => errors.filter (fun x => !same x) ++ errMerge e l

/-- The data bit that flips in an array row: a lane that reads the column reads it flipped, for only the row port checks
parity (R434, R435). -/
def State.flipColumn (s : State) : ErrLoc → State
  | .arrayParity h c =>
    let a := h / 64 * 64 + c / 8
    if c < 512 then s.wr a (s.rd a ^^^ (1#8 <<< (c % 8))) else s
  | _ => s

/-- An access on its way is to the sector, row or word of an error. -/
def State.accessAt (s : State) (l : ErrLoc) : Bool :=
  let hit := fun (ls : List Loc) => (locCells ls).any (fun a => (errCells l).contains a)
  s.threads.any (fun t => t.c.accs.any (fun op => hit op.locs) || t.l.stores.any (fun op => hit op.locs)
    || t.l.returns.any (fun e => hit e.src))

/-- The units of movement that stand at a row or word and that no bound thread holds there: context, image slot, unit. -/
def State.unitsAt (s : State) (l : ErrLoc) : List (Nat × Nat × MoveUnit) :=
  (s.saved.flatMap (fun x => x.units.map (fun m => (x.th.task.ctx, x.th.task.slot, m)))
    ++ s.away.map (fun x => (x.ctx, x.slot, x.unit))).filter (fun p =>
      let m := p.2.2
      m.evictable && m.kind != 1 && (errCells l).any (fun a => (m.shift (m.placeBase m.uid m.phys) 0 a).isSome))

/-- DATA_ERROR (R434): stored bits flip of themselves. An access that finds an error stops precisely (R435), so none is on
its way there: while one is, the flip is still to come (DEDUCED: log entry 62). What a saved or resumed thread has left in
the row goes to its image, in error there. -/
def execDataError (l : ErrLoc) (s : State) : Res :=
  if !(s.power.on && errExists l) then .next s
  else if s.accessAt l then .next { s with inputs := s.inputs ++ [.dataError l] }
  else
    let held := s.unitsAt l
    let s := held.foldl (fun s p => s.evictUnit p.2.2.kind p.2.2.uid p.2.2.phys p.2.2.num) s
    let s := { s.flipColumn l with fleet := { s.fleet with errors := errAfter s.fleet.errors l } }
    .next (held.foldl (fun s p => s.carry [l] (p.2.2.shift (p.2.2.placeBase p.2.2.uid p.2.2.phys)
      (p.2.2.imageBase (slotBaseOf (s.ctxD p.1) p.2.1)))) s)

/-- The home address of an error, where the scrub reads it: HBM sectors and array rows (R436). -/
def scrubHome : ErrLoc → Option Nat
  | .hbmCorrectable p => some (p / 32 * 32)
  | .hbmBad p => some (p / 32 * 32)
  | .arrayParity h _ => some (h / 64 * 64)
  | _ => none

/-- The scrub is on for the die of a home address; it stops in PS3 to PS5. -/
def State.scrubs (s : State) (home : Nat) : Bool :=
  s.power.ready && s.power.state < 3 && s.fleet.scrubMs != 0 && s.fleet.scrubMask.testBit (dieOfCell home)

/-- The home slice that reads a home address, as a source (R319, agent 11): the HBM controller of a die, or the row port
of an array. -/
def homeSource (home : Nat) : Nat :=
  dieOfCell home * 4096 + 11 + (if home < 2 ^ 39 then 15 * 256 + 15 * 16 else home / 2 ^ 32 % 16 * 256 + home / 2 ^ 28 % 16 * 16)

/-- The record of an error that the scrub finds (R319, R400, R436); the scrub acts for no context, so the context is
free. -/
def State.scrubRecord (s : State) (home detail : Nat) : State :=
  let (n, s) := s.free
  s.addFault (faultWords s.gts (homeSource home) (n % 65536) Cause.memPermission.code 5 1 detail home 0 0 0xFFFFFFFF 0 0 0)

/-- SCRUB_READ (R436): a corrected sector is written back; what cannot be corrected is counted and reported. -/
def execScrubRead (home : Nat) (s : State) : Res :=
  if !s.scrubs home then .next s
  else
    let die := dieOfCell home
    .next ((s.fleet.errors.filter (fun e => scrubHome e == some home)).foldl (fun s e => match e with
      | .hbmCorrectable _ =>
        let s := s.count die 0
        { s with fleet := { s.fleet with errors := s.fleet.errors.filter (· != e) } }
      | .hbmBad _ => (s.count die 1).scrubRecord home 1
      | .arrayParity .. => (s.count die 3).scrubRecord home 2
      | _ => s) s)

/-- SCRUBCFG (R436). -/
def execScrubcfg (s : State) : Res :=
  s.command (255 < s.arg 0 || 65535 < s.arg 1) false fun s =>
    { s with fleet := { s.fleet with scrubMask := s.arg 0, scrubMs := s.arg 1 } } |> fun (s : State) => s.done 0

/-- ERRCNT (R437). -/
def execErrcnt (s : State) : Res :=
  let die := s.arg 0
  let a := s.arg 1
  s.command (7 < die || badOutput a 64 64) false fun s =>
    let row := s.fleet.counters.toArray.getD die (Vector.replicate 7 0)
    let s := s.deviceWrite a (fitBytes 64 (row.toList.flatMap (bytesOf 8)))
    let s := if s.arg 2 % 2 == 1 then
        { s with fleet := { s.fleet with counters := s.fleet.counters.setIfInBounds die (Vector.replicate 7 0) } }
      else s
    s.done 0

/-! ### Quad retirement (R438) -/

/-- A quad is owned by a thread of its unit. -/
def State.quadOwned (s : State) (uid q : Nat) : Bool := (s.ownedQuads uid).getLsbD q

/-- A free quad retired: what saved threads gave up there goes to their images first. -/
def State.retireQuad (s : State) (uid q : Nat) : State :=
  let s := (List.range 32).foldl (fun s n => (s.evictUnit 0 uid q n).evictUnit 1 uid q n) s
  let u := s.unitSt uid
  let s := s.setUnit uid { u with usable := u.usable &&& ~~~(1#16 <<< q), pending := u.pending &&& ~~~(1#16 <<< q) }
  { s with fleet := { s.fleet with cfggen := s.fleet.cfggen + 1 } }

/-- QRETIRE: retired at once, or once its owner releases it. -/
def execQretire (s : State) : Res :=
  let a := s.arg 0
  let q := a % 16
  let uid := uidOf a
  let absent := 32768 ≤ a || 12 ≤ siteCluster a || 8 ≤ siteUnit a || !s.power.dies.getLsbD (siteDie a)
    || !(s.unitSt uid).usable.getLsbD q
  s.command absent false fun s =>
    let s := { s with fleet := { s.fleet with
      retired := if s.fleet.retired.contains (uid, q) then s.fleet.retired else s.fleet.retired ++ [(uid, q)] } }
    if s.quadOwned uid q then
      let u := s.unitSt uid
      .next ((s.setUnit uid { u with pending := u.pending ||| (1#16 <<< q) }).finish 0 (some 1) none)
    else .next ((s.retireQuad uid q).finish 0 (some 0) none)

/-- QUAD_RETIREMENT: a pending quad is retired once its owner has released it. -/
def execQuadRetirement (unit quad : Nat) (s : State) : Res :=
  .next (if (s.unitSt unit).pending.getLsbD quad && !s.quadOwned unit quad then s.retireQuad unit quad else s)

/-- The quads whose retirement is pending, and can be done now. -/
def State.retirable (s : State) : List (Nat × Nat) :=
  s.units.flatMap (fun p => (maskList 16 p.2.pending.toNat).filterMap (fun q =>
    if s.quadOwned p.1 q then none else some (p.1, q)))

/-! ### Telemetry and partitions (R439, R440) -/

/-- TELEM: powers and temperatures are readings, so free values. -/
def execTelem (s : State) : Res :=
  let a := s.arg 0
  s.command (badOutput a 4096 256) false fun s =>
    let n := s.fresh
    let pending := (s.units.map (fun p => popc 16 p.2.pending.toNat)).foldl (· + ·) 0
    let die := fun d => bytesOf 8 ((Config.freeWord (n + 1 + d)).toNat % 2 ^ 48)
    let table := bytesOf 8 s.gts ++ bytesOf 8 (Config.freeWord n).toNat ++ (List.range 8).flatMap die
      ++ bytesOf 8 s.power.pstat ++ bytesOf 8 (s.fleet.cfggen % 2 ^ 32 + pending % 2 ^ 16 * 2 ^ 32)
    State.done (({ s with fresh := n + 9 } : State).deviceWrite a (fitBytes 256 table)) 0

/-- PARTSET: fields of dies that are not usable are ignored. -/
def execPartset (s : State) : Res :=
  let a := s.arg 0
  let bad := 2 ^ 32 ≤ a || (List.range 8).any (fun d => a.testBit (4 * d + 3))
  s.command bad (!s.ctxs.isEmpty || s.sched.queues.any (fun q => q.state == 1)) fun s =>
    let part := Vector.ofFn (fun d : Fin 8 =>
      if s.power.dies.getLsbD d.val then bits a (4 * d.val + 2) (4 * d.val) else s.fleet.part[d])
    State.done { s with fleet := { s.fleet with part := part, cfggen := s.fleet.cfggen + 1 } } 0

/-! ### Firmware update (R441) -/

/-- FWSTAGE: an image that verifies goes to the standby bank, pending; one with an uncorrectable error does not verify
(R435; DEDUCED: log entry 62). -/
def execFwstage (s : State) : Res :=
  let a := s.arg 0
  let len := s.arg 1
  let image := if inHbm a len then (List.range len).map (fun i => s.rd (a + i)) else []
  let (bad, s) := if inHbm a len then s.selfRead 0 [(a, len)] else (false, s)
  s.command (a % 4096 != 0 || !inHbm a len || bad || !firmwareOk s.sec.fwfloor s.sec.fwkeyh image) false fun s =>
    .next (State.wait { s with sec := { s.sec with standby := image, pendingBank := true } })

/-- FWFLOOR: fuses are blown up to the new floor. -/
def execFwfloor (s : State) : Res :=
  let n := s.arg 0
  s.command (n < s.sec.fwfloor || 64 < n || s.sec.fwver % 256 < n) false fun s =>
    .next (State.wait { s with sec := { s.sec with fwfloor := n } })

end Sys2Proof.Machine
end

