-- ==== Sys2Proof/Machine/Matrix.lean ====
section
/-! DEFINITION. The matrix engine (R287 to R301): configuration, the B operand, mmul and its steps, readout. -/

namespace Sys2Proof.Machine

/-- The matrix configuration of the lane stream (R290). -/
def State.mc (s : State) : MCfg := MCfg.of s.t.l.mcfg

def execMcfg (a : SReg) (s : State) : Res :=
  s.laneRun (.mcfg a) fun s => .next ((s.mapL (fun l => { l with mcfg := s.opA a })).laneDone 0)

/-! ### The B operand (R291, R292) -/

/-- Blocks of a row of B. -/
def MCfg.nb (c : MCfg) : Nat := (c.n + 63) / 64
/-- Bytes of a block, its header included. -/
def MCfg.blockBytes (c : MCfg) : Nat :=
  (if c.bfmt == 0 then 64 else if c.bfmt == 1 then 128 else 48) + (if c.bsc then 16 else 0)
/-- Bytes of the presence array for a number of rows. -/
def MCfg.presenceBytes (c : MCfg) (rows : Nat) : Nat := if c.bsp then (rows * c.nb + 511) / 512 * 64 else 0

/-- Block x is present. -/
def blockPresent (c : MCfg) (present : List Bool) (x : Nat) : Bool := !c.bsp || present.getD x false

/-- Offset of block x in the weight buffer; 0 where it is absent. -/
def blockOff (c : MCfg) (present : List Bool) (sb x : Nat) (rows : Nat) : Nat :=
  if c.bsp then sb + c.presenceBytes rows + ((present.take x).filter id).length * c.blockBytes
  else sb + x * c.blockBytes

/-- A byte of the unit's weight buffer. -/
def State.weightByte (s : State) (o : Nat) : Nat := (s.rd (weightBase s.uid + o)).toNat

/-- The presence array (R291). -/
def State.presence (s : State) (c : MCfg) (sb rows : Nat) : List Bool :=
  if c.bsp then (List.range (rows * c.nb)).map (fun x => (s.weightByte (sb + x / 8)).testBit (x % 8)) else []

/-- One past the last byte of the B region. -/
def regionEnd (c : MCfg) (present : List Bool) (sb rows : Nat) : Nat :=
  blockOff c present sb (rows * c.nb) rows

/-- R292: the region lies below 3 MiB in segments that the thread owns. -/
def State.regionOwned (s : State) (sb stop : Nat) : Bool :=
  stop ≤ sb || (stop ≤ 3 * 2 ^ 20
    && (List.range 12).all (fun g => !(sb / 2 ^ 18 ≤ g && g ≤ (stop - 1) / 2 ^ 18) || s.t.alloc.segs.getLsbD g))

/-- Element n of row l of B, an L8 or L16 code, and its block scale (R291). -/
def State.bCode (s : State) (c : MCfg) (present : List Bool) (sb rows l n : Nat) : Nat × Int :=
  let x := l * c.nb + n / 64
  if !blockPresent c present x then (0, 0)
  else
    let o := blockOff c present sb x rows
    let sc : Int := if c.bsc then sextNat 8 (s.weightByte o) else 0
    let o := if c.bsc then o + 16 else o
    let j := n % 64
    if c.bfmt == 0 then (s.weightByte (o + j), sc)
    else if c.bfmt == 1 then (s.weightByte (o + 2 * j) + 256 * s.weightByte (o + 2 * j + 1), sc)
    else
      let b := s.weightByte (o + 16 + j / 2)
      (s.weightByte (o + (if j % 2 == 0 then b % 16 else b / 16)), sc)

/-- Bits of B's codes. -/
def MCfg.bWidth (c : MCfg) : Nat := if c.bfmt == 1 then 16 else 8

/-! ### The A operand (R293) -/

/-- Row i of A in a lane: an L8 or L16 code, its block scale, the flags of its conversion; width by aWidth. -/
def State.aCode (s : State) (c : MCfg) (va i l : Nat) : Nat × Int × Nat :=
  let vt := s.vt
  let v := va + i * groupOf vt.ew
  let x := s.elem vt.ew v l
  if vt.kind == 2 then let r := logOf (if c.afmt then 16 else 8) 0 (elemVal vt 0 x); (r.val, 0, r.fl)
  else (x, (s.scale vt v l).1, 0)

/-- Bits of A's codes. -/
def aWidth (vt : VType) (c : MCfg) : Nat := if vt.kind == 2 then (if c.afmt then 16 else 8) else vt.ew

/-! ### mmul (R293 to R295) -/

/-- The entry at the head of the lane queue, or one made of an instruction that stands in none. -/
def State.headEntry (s : State) (i : Instr) (b : Word) : LaneEntry :=
  match s.t.q.lane with
  | e :: _ => e
  | [] => ⟨s.t.q.pushed, .instr, encode i, s.t.c.pc, 0, b, 0, false, s.lanes⟩

/-- The cells of a presence array (R291). -/
def State.presenceCells (s : State) (c : MCfg) (sb rows : Nat) : List Nat :=
  (List.range (c.presenceBytes rows)).map (weightBase s.uid + sb + ·)

/-- An mmul leaves the lane queue for the engine; %vstart is that of the instructions after it. -/
def State.startMmul (s : State) (mm : MmState) (vstart : Nat) : State :=
  (s.mapQ (fun q => { q with lane := q.lane.tail })).mapL (fun l => { l with
    mm := l.mm ++ [mm]
    kept := l.kept.filter (fun m => m.entry.seq != mm.entry.seq)
    vstart := vstart
    started := s.t.alloc.quads })

/-- The weight segments of the thread that hold some bytes brought in (R406). -/
def State.bringSegs (s : State) (lo stop : Nat) : State :=
  if s.away.isEmpty then s
  else s.bring (fun x => x.task == s.t.task.id && x.unit.kind == 2 && lo / 2 ^ 18 ≤ x.unit.num && x.unit.num * 2 ^ 18 < stop)

/-- mmul (R292): the presence array is read and the region checked (with no active lane its stored bits raise no trap: R185); then it leaves the lane queue, with what is fixed at
its start, and the engine's steps follow (R295), later lane instructions beside them (R296). One that was stopped goes on
from %vstart with what was fixed at its start (R295). -/
def execMmul (g : Guard) (t : TReg) (a : VReg) (b : SReg) (s : State) : Res :=
  s.laneRun (.mmul g t a b) fun s =>
    let c := s.mc
    let sb := (s.opB b).toNat
    let rows := s.t.l.v.vl
    let act := s.actives g
    match s.keptMmul with
    | some m => .next ((s.bringSegs sb (regionEnd (MCfg.of m.mcfg) m.present sb m.v.vl)).startMmul
        { m with next := s.t.l.vstart, flags := 0, early := [] }
        (if s.t.l.kept.head?.map (·.entry.seq) == some m.entry.seq then s.t.l.keptStart else 0))
    | none =>
    if !s.regionOwned sb (sb + c.presenceBytes rows) then s.raise (Trap.lane' .badHandle)
    else
    let s := s.bringSegs sb (sb + c.presenceBytes rows)
    match s.meet (if act.isEmpty then [] else s.presenceCells c sb rows) with
    | (some (x, d), s) => s.raise { Trap.lane' .memPermission with dataErr := d, va := x, access := 1 }
    | (none, s) =>
      let s := if c.bsp then s.noteRead ((s.presenceCells c sb rows).map (fun a => .cell a a)) false else s
      let p := (s.overlay s.t.l.early).presence c sb rows
      if !s.regionOwned sb (regionEnd c p sb rows) then s.raise (Trap.lane' .badHandle)
      else
        let e := s.headEntry (.mmul g t a b) (s.reg b)
        let mm : MmState := ⟨e, s.t.l.vstart, 0, p, s.t.l.v, s.t.l.mcfg, act, []⟩
        .next ((s.bringSegs sb (regionEnd c p sb rows)).startMmul mm 0)

/-- The lanes of the step that starts at a lane (R295). -/
def stepLanes (vl next : Nat) : List Nat := (List.range (min vl ((next / 1024 + 1) * 1024) - next)).map (next + ·)

/-- What a lane adds to a count (R294): none where an operand is NaR. -/
def laneProduct (c : MCfg) (wa : Nat) (a : Nat × Int × Nat) (b : Nat × Int) : Option Int :=
  if wa == c.bWidth then productCount wa c.e a.1 b.1 a.2.1 b.2
  else productCount 16 c.e (if wa == 8 then widenLog a.1 else a.1) (if c.bWidth == 8 then widenLog b.1 else b.1) a.2.1 b.2

/-- A count of a tile. -/
def State.count64 (s : State) (tile i n : Nat) : Int := (cellGet 0 s.accs (accKey s.uid tile i n)).toInt

/-- A count after the products of some lanes, and the flags (R294). -/
def addProducts (f : Nat → Option Int) (c : Int) (fl : Nat) : List Nat → Int × Nat
  | [] => (c, fl)
  | l :: r => match f l with
    | none => addProducts f c (fl ||| flIV) r
    | some p => let (c', sat) := satAdd64 c p; addProducts f c' (fl ||| flagIf sat flAS) r

/-- A count written (R311). -/
def State.setCount (s : State) (ag : Agent) (tile i n : Nat) (x : Int) : State :=
  let v := BitVec.ofInt 64 x
  let s := ({ s with accs := cellSet 0 s.accs (accKey s.uid tile i n) v } : State).clearErrors (accCells s.uid tile i n)
  s.watchAcc ag s.uid tile i n v.toNat

/-- Lane l has a present block of B (R291, R295). -/
def MmState.hasBlock (m : MmState) (c : MCfg) (l : Nat) : Bool :=
  (List.range c.nb).any (fun j => blockPresent c m.present (l * c.nb + j))

/-- The cells that a step reads: the rows of A and the blocks of B, of the lanes below VL that have a block (R295, R363);
none for an mmul with no active lane (R185). -/
def State.stepCells (s : State) (c : MCfg) (m : MmState) (va sb : Nat) (lanes : List Nat) : List (Nat × Nat) :=
  let g := groupOf (vtypeFields m.v.vtype.toNat).ew
  if m.act.isEmpty then []
  else (lanes.filter (fun l => m.v.below (min m.entry.lanes s.lanes) l && m.hasBlock c l)).flatMap (fun l =>
    (List.range c.g).map (fun i => (s.slotCell (va + i * g) l, 2 * g))
      ++ ((List.range c.nb).filter (fun j => blockPresent c m.present (l * c.nb + j))).map
        (fun j => (weightBase s.uid + blockOff c m.present sb (l * c.nb + j) m.v.vl, c.blockBytes)))

/-- The read watchpoints that a step hits (R311). -/
def State.watchStep (s : State) (ag : Agent) (cells : List (Nat × Nat)) : State :=
  if s.clusters.isEmpty then s
  else cells.foldl (fun s p => s.watchMem ag .read ((List.range p.2).map (p.1 + ·)) (s.rdN p.1 p.2)) s

/-- The stored bits that a step's reads meet (R434, R435, R437): of the rows, the blocks and the counts. -/
def State.stepMeets (s : State) (c : MCfg) (tile : Nat) (cells : List (Nat × Nat)) (act : List Nat) :
    Option (Nat × Nat) × State :=
  if s.fleet.errors.isEmpty then (none, s)
  else s.meet (cells.flatMap (fun p => (List.range p.2).map (p.1 + ·)) ++ (if act.isEmpty then []
    else (List.range c.g).flatMap (fun i => (List.range c.n).flatMap (fun n => accCells s.uid tile i n))))

/-- A step's additions to the tile: every count of g rows and N columns, over some active lanes that have a block (R294,
R363). -/
def State.stepAdd (s : State) (ag : Agent) (c : MCfg) (m : MmState) (tile va sb : Nat) (act : List Nat) : State × Nat :=
  let pre := (s.overlay m.early).mapL (fun l => { l with v := m.v, mcfg := m.mcfg })
  let rows := m.v.vl
  let wa := aWidth pre.vt c
  let f0 := act.foldl (fun f l => (List.range c.g).foldl (fun f i => f ||| (pre.aCode c va i l).2.2) f) 0
  if act.isEmpty then (s, f0)
  else
    (List.range c.g).foldl (fun (acc : State × Nat) i =>
      (List.range c.n).foldl (fun (acc : State × Nat) n =>
        let (s, fl) := acc
        let p := fun l => laneProduct c wa (pre.aCode c va i l) (pre.bCode c m.present sb rows l n)
        let (x, fl) := addProducts p (s.count64 tile i n) fl act
        (s.setCount ag tile i n x, fl)) acc) (s, f0)

/-- The end of an mmul (R19, R294): complete as a lane instruction is, its lanes counted by the lengths of its
start (R322); %vstart, which it took over at its start, is that of
the instructions after it. -/
def State.mmulEnd (s : State) (m : MmState) (fl : Nat) : State :=
  let s1 := (s.mapL (fun l => { l with mm := l.mm.tail, v := m.v })).mapQ (fun q => { q with lane := m.entry :: q.lane })
  (s1.laneEnd m.act fl).mapL (fun l => { l with vstart := s.t.l.vstart, v := s.t.l.v })

/-- MMUL_STEP (R295): one step of the oldest mmul in progress; the last one completes it. The engine has served its thread. -/
def execMmulStep (s : State) : Res :=
  match s.t.l.mm with
  | [] => .next s
  | m :: ms =>
    match m.entry.instr with
    | some (.mmul _ t a _) =>
      let c := MCfg.of m.mcfg
      let sb := m.entry.b.toNat
      let ag := { s.matrixAgent with pc := m.entry.addr }
      let lanes := stepLanes m.v.vl m.next
      let cells := s.stepCells c m a.val sb lanes
      let s := s.setUnit s.uid { s.unitSt s.uid with served := siteThread s.t.site }
      let act := m.act.filter (fun l => lanes.contains l && decide (l < m.entry.lanes) && m.hasBlock c l)
      match s.stepMeets c t.val cells act with
      | (some (x, d), s) =>
        (s.mapT Thread.stopMmul).raise { Trap.lane' .memPermission with dataErr := d, va := x, access := 1 }
      | (none, s) =>
        let (s, fl) := (s.watchStep ag cells).stepAdd ag c m t.val a.val sb act
        let next := m.next + lanes.length
        let fl := m.flags ||| fl
        if next < m.v.vl then .next (s.mapL (fun l => { l with mm := { m with next := next, flags := fl, early := [] } :: ms }))
        else .next (s.mmulEnd m fl)
    | _ => .next (s.mapL (fun l => { l with mm := ms }))

/-! ### Readout (R297 to R299) -/

/-- The type of what a readout delivers. -/
def MCfg.outType (c : MCfg) : VType :=
  match c.rfmt with
  | 0 => ⟨16, 2, 8, 7, false, c.rrm, 0, false⟩
  | 1 => f32Type c.rrm
  | 2 => ⟨8, 3, 0, 0, false, 0, if c.rblk == 0 then 0 else c.rblk, false⟩
  | _ => ⟨16, 3, 0, 0, false, 0, 0, false⟩

/-- The exact value of a count (R297). -/
def countVal (c : MCfg) (x : Int) : Val := .fin (decide (x < 0)) x.natAbs c.e

/-- The scale of the block of a column of a row (R297). -/
def rowScale (c : MCfg) (row : Nat → Int) (n : Nat) : Int :=
  if !c.scaledOut then 0
  else
    let b := blockLen c.rblk
    let m := ((List.range b).map (fun j => n / b * b + j)).foldl
      (fun m k => if k < c.n then max m (row k).natAbs else m) 0
    if m == 0 then 0 else max (-128) (min 127 (ceil8Log m c.e - 63))

/-- The element of a column of a row and its flags (R297). -/
def readElem (c : MCfg) (row : Nat → Int) (n : Nat) : Flagged :=
  let v := countVal c (row n)
  if c.rfmt == 2 then logOf 8 (rowScale c row n) v else if c.rfmt == 3 then logOf 16 0 v else c.outType.fmt.ofVal c.rrm v

/-- A row of a tile of the thread's unit. -/
def State.tileRow (s : State) (tile i : Nat) : Nat → Int := fun n => s.count64 tile i n

/-- What a readout does once the stored bits of some rows of its tile are good (R434, R435); else it traps. -/
def State.withRows (s : State) (c : MCfg) (tile : Nat) (rows : List Nat) (k : State → Res) : Res :=
  if s.fleet.errors.isEmpty then k s
  else match s.meet (rows.flatMap (fun i => (List.range c.n).flatMap (fun n => accCells s.uid tile i n))) with
    | (some (x, d), s) => s.raise { Trap.lane' .memPermission with dataErr := d, va := x, access := 1 }
    | (none, s) => k s

def execMst (g : Guard) (d : VReg) (t : TReg) (b : SReg) (s : State) : Res :=
  s.laneRun (.mst g d t b) fun s =>
    let c := s.mc
    let act := s.actives g
    s.withRows c t.val (if act.isEmpty then [] else [(s.opB b).toNat % 32]) fun s =>
    let row := s.tileRow t.val ((s.opB b).toNat % 32)
    let xs : List LaneVal := (act.filter (· < c.n)).map (fun n =>
      let r := readElem c row n
      ⟨n, r.val, rowScale c row n, r.fl⟩)
    .next ((s.writeLanes c.outType d.val xs).laneEnd act (flagsOf xs))

/-- The accesses of mstm in order: address, size, value (R299). -/
def State.mstmStores (s : State) (c : MCfg) (tile : Nat) (base scb : Word) (pitch : Nat) : List (Nat × Nat × Nat) :=
  let eb := containerOf c.outType.ew
  let b := blockLen c.rblk
  let per := if b == 0 then 0 else (c.n + b - 1) / b
  (List.range c.g).flatMap (fun i =>
    let row := s.tileRow tile i
    (List.range c.n).map (fun n => ((base + BitVec.ofNat 64 (i * pitch + n * eb)).toNat, eb, (readElem c row n).val))
      ++ (if c.scaledOut then (List.range per).map (fun j =>
        ((scb + BitVec.ofNat 64 (i * per + j)).toNat, 1, wrapInt 8 (rowScale c row (j * b)))) else []))

/-- Stores checked in order up to the first that faults: those before it are on their way then and none after it, though
R299 leaves both open (DESIGN CHOICE: log entry 30). They are performed later, in any order but that of overlapping ones,
which end with the later one, a row's scale bytes coming after its elements (DESIGN CHOICE: log entry 30). -/
def State.putAll (s : State) : List (Nat × Nat × Nat) → Except AccFault Unit × State
  | [] => (.ok (), s)
  | (va, n, v) :: r =>
    match s.storeBytes noLane n va v false none with
    | (.error f, s) => (.error f, s)
    | (.ok (), s) => s.putAll r

/-- The flags of a whole readout. -/
def State.mstmFlags (s : State) (c : MCfg) (tile : Nat) : Nat :=
  (List.range c.g).foldl (fun f i =>
    (List.range c.n).foldl (fun f n => f ||| (readElem c (s.tileRow tile i) n).fl) f) 0

def execMstm (a : SReg) (t : TReg) (pitch : BitVec 22) (sc : Option SReg) (s : State) : Res :=
  s.laneRun (.mstm a t pitch sc) fun s =>
    let c := s.mc
    s.withRows c t.val (List.range c.g) fun s =>
    let fl := s.mstmFlags c t.val
    let scb := match sc with | some r => s.opC r | none => 0
    match s.putAll (s.mstmStores c t.val (s.opA a) scb pitch.toNat) with
    | (.error f, s) => s.raise (f.trap true none)
    | (.ok (), s) => .next (s.laneDone fl)

def execMzero (t : TReg) (s : State) : Res :=
  s.laneRun (.mzero t) fun s => .next ((s.zeroTile t.val).laneDone 0)
def execMlive (set : BitVec 8) (s : State) : Res :=
  s.laneRun (.mlive set) fun s => .next ((s.mapL (fun l => { l with live := set })).laneDone 0)

end Sys2Proof.Machine
end

