-- ==== Sys2Proof/Machine/Dispatch.lean ====
section
/-! DEFINITION. The meaning of every step of the opcode table: one arm for each constructor of Instr. -/

namespace Sys2Proof.Machine

def exec (i : Instr) (s : State) : Host.Outcome State Fault Refusal :=
  match i with
  | .add d a b => Sys2Proof.Machine.execAdd d a b s
  | .sub d a b => Sys2Proof.Machine.execSub d a b s
  | .and d a b => Sys2Proof.Machine.execAnd d a b s
  | .or d a b => Sys2Proof.Machine.execOr d a b s
  | .xor d a b => Sys2Proof.Machine.execXor d a b s
  | .andn d a b => Sys2Proof.Machine.execAndn d a b s
  | .sll d a b => Sys2Proof.Machine.execSll d a b s
  | .srl d a b => Sys2Proof.Machine.execSrl d a b s
  | .sra d a b => Sys2Proof.Machine.execSra d a b s
  | .mul d a b => Sys2Proof.Machine.execMul d a b s
  | .mulh d a b => Sys2Proof.Machine.execMulh d a b s
  | .mulhn d a b => Sys2Proof.Machine.execMulhn d a b s
  | .div d a b => Sys2Proof.Machine.execDiv d a b s
  | .divn d a b => Sys2Proof.Machine.execDivn d a b s
  | .rem d a b => Sys2Proof.Machine.execRem d a b s
  | .remn d a b => Sys2Proof.Machine.execRemn d a b s
  | .min d a b => Sys2Proof.Machine.execMin d a b s
  | .max d a b => Sys2Proof.Machine.execMax d a b s
  | .minn d a b => Sys2Proof.Machine.execMinn d a b s
  | .maxn d a b => Sys2Proof.Machine.execMaxn d a b s
  | .slt d a b => Sys2Proof.Machine.execSlt d a b s
  | .sltn d a b => Sys2Proof.Machine.execSltn d a b s
  | .seq d a b => Sys2Proof.Machine.execSeq d a b s
  | .popc d a => Sys2Proof.Machine.execPopc d a s
  | .clz d a => Sys2Proof.Machine.execClz d a s
  | .li d i1 => Sys2Proof.Machine.execLi d i1 s
  | .lih d i1 => Sys2Proof.Machine.execLih d i1 s
  | .lix d i1 => Sys2Proof.Machine.execLix d i1 s
  | .beq a b o => Sys2Proof.Machine.execBeq a b o s
  | .bne a b o => Sys2Proof.Machine.execBne a b o s
  | .blt a b o => Sys2Proof.Machine.execBlt a b o s
  | .bge a b o => Sys2Proof.Machine.execBge a b o s
  | .bltn a b o => Sys2Proof.Machine.execBltn a b o s
  | .bgen a b o => Sys2Proof.Machine.execBgen a b o s
  | .br o => Sys2Proof.Machine.execBr o s
  | .call o => Sys2Proof.Machine.execCall o s
  | .callr a => Sys2Proof.Machine.execCallr a s
  | .ret => Sys2Proof.Machine.execRet s
  | .bq o => Sys2Proof.Machine.execBq o s
  | .bqn o => Sys2Proof.Machine.execBqn o s
  | .bmz o => Sys2Proof.Machine.execBmz o s
  | .bmnz o => Sys2Proof.Machine.execBmnz o s
  | .popPhase => Sys2Proof.Machine.execPopPhase s
  | .ldB d a e => Sys2Proof.Machine.execLdB d a e s
  | .ldH d a e => Sys2Proof.Machine.execLdH d a e s
  | .ldW d a e => Sys2Proof.Machine.execLdW d a e s
  | .ldD d a e => Sys2Proof.Machine.execLdD d a e s
  | .ldBS d a e => Sys2Proof.Machine.execLdBS d a e s
  | .ldHS d a e => Sys2Proof.Machine.execLdHS d a e s
  | .ldWS d a e => Sys2Proof.Machine.execLdWS d a e s
  | .stB a b e => Sys2Proof.Machine.execStB a b e s
  | .stH a b e => Sys2Proof.Machine.execStH a b e s
  | .stW a b e => Sys2Proof.Machine.execStW a b e s
  | .stD a b e => Sys2Proof.Machine.execStD a b e s
  | .amo op dbl ord sc d a b c => Sys2Proof.Machine.execAmo op dbl ord sc d a b c s
  | .fenceAcq sc => Sys2Proof.Machine.execFenceAcq sc s
  | .fenceRel sc => Sys2Proof.Machine.execFenceRel sc s
  | .fenceAr sc => Sys2Proof.Machine.execFenceAr sc s
  | .vdrain => Sys2Proof.Machine.execVdrain s
  | .await a b => Sys2Proof.Machine.execAwait a b s
  | .awaitEv a b => Sys2Proof.Machine.execAwaitEv a b s
  | .qpush q a => Sys2Proof.Machine.execQpush q a s
  | .qpop d q => Sys2Proof.Machine.execQpop d q s
  | .setvl d a => Sys2Proof.Machine.execSetvl d a s
  | .setvlGrow d a b => Sys2Proof.Machine.execSetvlGrow d a b s
  | .setvlShrink d a => Sys2Proof.Machine.execSetvlShrink d a s
  | .strip d a b z0 z1 z2 z3 o => Sys2Proof.Machine.execStrip d a b z0 z1 z2 z3 o s
  | .nest k dims a => Sys2Proof.Machine.execNest k dims a s
  | .launch d a => Sys2Proof.Machine.execLaunch d a s
  | .launchW d a => Sys2Proof.Machine.execLaunchW d a s
  | .vcfg a => Sys2Proof.Machine.execVcfg a s
  | .setvl2 a b => Sys2Proof.Machine.execSetvl2 a b s
  | .vid g sel d => Sys2Proof.Machine.execVid g sel d s
  | .vadd m d a b => Sys2Proof.Machine.execVadd m d a b s
  | .vsub m d a b => Sys2Proof.Machine.execVsub m d a b s
  | .vmul m d a b => Sys2Proof.Machine.execVmul m d a b s
  | .vmulh m d a b => Sys2Proof.Machine.execVmulh m d a b s
  | .vdiv m d a b => Sys2Proof.Machine.execVdiv m d a b s
  | .vrem m d a b => Sys2Proof.Machine.execVrem m d a b s
  | .vmin m d a b => Sys2Proof.Machine.execVmin m d a b s
  | .vmax m d a b => Sys2Proof.Machine.execVmax m d a b s
  | .vneg m d a => Sys2Proof.Machine.execVneg m d a s
  | .vabs m d a => Sys2Proof.Machine.execVabs m d a s
  | .vand g d a b => Sys2Proof.Machine.execVand g d a b s
  | .vor g d a b => Sys2Proof.Machine.execVor g d a b s
  | .vandn g d a b => Sys2Proof.Machine.execVandn g d a b s
  | .vxor g d a b => Sys2Proof.Machine.execVxor g d a b s
  | .vxnor g d a b => Sys2Proof.Machine.execVxnor g d a b s
  | .vnot g d a => Sys2Proof.Machine.execVnot g d a s
  | .vsll m d a n => Sys2Proof.Machine.execVsll m d a n s
  | .vsrl m d a n => Sys2Proof.Machine.execVsrl m d a n s
  | .vsra m d a n => Sys2Proof.Machine.execVsra m d a n s
  | .vfsl g d a b n => Sys2Proof.Machine.execVfsl g d a b n s
  | .vfsr g d a b n => Sys2Proof.Machine.execVfsr g d a b n s
  | .vlut3 g d a b c t => Sys2Proof.Machine.execVlut3 g d a b c t s
  | .vcmp g cc d a b => Sys2Proof.Machine.execVcmp g cc d a b s
  | .vsel g d a b c => Sys2Proof.Machine.execVsel g d a b c s
  | .vmov g d b => Sys2Proof.Machine.execVmov g d b s
  | .vslideup g inn rot d a k => Sys2Proof.Machine.execVslideup g inn rot d a k s
  | .vslidedn g inn rot d a k => Sys2Proof.Machine.execVslidedn g inn rot d a k s
  | .vlscat g inn d a b => Sys2Proof.Machine.execVlscat g inn d a b s
  | .mand g d a b => Sys2Proof.Machine.execMand g d a b s
  | .mor g d a b => Sys2Proof.Machine.execMor g d a b s
  | .mxor g d a b => Sys2Proof.Machine.execMxor g d a b s
  | .mandn g d a b => Sys2Proof.Machine.execMandn g d a b s
  | .mnot g d a => Sys2Proof.Machine.execMnot g d a s
  | .mmov g d a => Sys2Proof.Machine.execMmov g d a s
  | .mpush a => Sys2Proof.Machine.execMpush a s
  | .minv => Sys2Proof.Machine.execMinv s
  | .mpop => Sys2Proof.Machine.execMpop s
  | .mpopc g d a => Sys2Proof.Machine.execMpopc g d a s
  | .vfadd m d a b => Sys2Proof.Machine.execVfadd m d a b s
  | .vfsub m d a b => Sys2Proof.Machine.execVfsub m d a b s
  | .vfmul m d a b => Sys2Proof.Machine.execVfmul m d a b s
  | .vfdiv m d a b => Sys2Proof.Machine.execVfdiv m d a b s
  | .vfsqrt m d a => Sys2Proof.Machine.execVfsqrt m d a s
  | .vfmin m d a b => Sys2Proof.Machine.execVfmin m d a b s
  | .vfmax m d a b => Sys2Proof.Machine.execVfmax m d a b s
  | .vfcmp m cc d a b => Sys2Proof.Machine.execVfcmp m cc d a b s
  | .vcvt m d a t => Sys2Proof.Machine.execVcvt m d a t s
  | .vcvtLg m d a t => Sys2Proof.Machine.execVcvtLg m d a t s
  | .vtab g d a b n => Sys2Proof.Machine.execVtab g d a b n s
  | .vkth g d a b => Sys2Proof.Machine.execVkth g d a b s
  | .vtopk g inn d a b => Sys2Proof.Machine.execVtopk g inn d a b s
  | .vtopp g inn d a b => Sys2Proof.Machine.execVtopp g inn d a b s
  | .vrsum g d a => Sys2Proof.Machine.execVrsum g d a s
  | .vrmin g d a => Sys2Proof.Machine.execVrmin g d a s
  | .vrmax g d a => Sys2Proof.Machine.execVrmax g d a s
  | .vscanadd g inn d a => Sys2Proof.Machine.execVscanadd g inn d a s
  | .vscanand g inn d a => Sys2Proof.Machine.execVscanand g inn d a s
  | .vfirst0 g d a => Sys2Proof.Machine.execVfirst0 g d a s
  | .vpick g d a b => Sys2Proof.Machine.execVpick g d a b s
  | .vrand g d b => Sys2Proof.Machine.execVrand g d b s
  | .vscatl g d a => Sys2Proof.Machine.execVscatl g d a s
  | .vmload a b c => Sys2Proof.Machine.execVmload a b c s
  | .vmicro g n d a b => Sys2Proof.Machine.execVmicro g n d a b s
  | .vld g d a sc e => Sys2Proof.Machine.execVld g d a sc e s
  | .vst g a b sc e => Sys2Proof.Machine.execVst g a b sc e s
  | .vstFree g a b sc e => Sys2Proof.Machine.execVstFree g a b sc e s
  | .vlds g d a b e => Sys2Proof.Machine.execVlds g d a b e s
  | .vsts g free a b c e => Sys2Proof.Machine.execVsts g free a b c e s
  | .tld g d a k e => Sys2Proof.Machine.execTld g d a k e s
  | .tst g a b k e => Sys2Proof.Machine.execTst g a b k e s
  | .vgather g mode d a i1 => Sys2Proof.Machine.execVgather g mode d a i1 s
  | .vscatter g mode a i1 c => Sys2Proof.Machine.execVscatter g mode a i1 c s
  | .vamo g op mode ord sc d a i1 c => Sys2Proof.Machine.execVamo g op mode ord sc d a i1 c s
  | .vred g op mode rel sc a i1 c => Sys2Proof.Machine.execVred g op mode rel sc a i1 c s
  | .racc m t v a i1 => Sys2Proof.Machine.execRacc m t v a i1 s
  | .rflush sc => Sys2Proof.Machine.execRflush sc s
  | .vfence sc => Sys2Proof.Machine.execVfence sc s
  | .arrive a b sc => Sys2Proof.Machine.execArrive a b sc s
  | .cpy d a => Sys2Proof.Machine.execCpy d a s
  | .mcfg a => Sys2Proof.Machine.execMcfg a s
  | .mmul g t a b => Sys2Proof.Machine.execMmul g t a b s
  | .mmulStep => Sys2Proof.Machine.execMmulStep s
  | .mst g d t b => Sys2Proof.Machine.execMst g d t b s
  | .mstm a t pitch sc => Sys2Proof.Machine.execMstm a t pitch sc s
  | .mzero t => Sys2Proof.Machine.execMzero t s
  | .mlive set => Sys2Proof.Machine.execMlive set s
  | .zopen z a lev b => Sys2Proof.Machine.execZopen z a lev b s
  | .zadv z => Sys2Proof.Machine.execZadv z s
  | .zldC g d z => Sys2Proof.Machine.execZldC g d z s
  | .zldP g d z => Sys2Proof.Machine.execZldP g d z s
  | .zldCK g d z => Sys2Proof.Machine.execZldCK g d z s
  | .zldPK g d z => Sys2Proof.Machine.execZldPK g d z s
  | .zldM g d z => Sys2Proof.Machine.execZldM g d z s
  | .zisect z m => Sys2Proof.Machine.execZisect z m s
  | .zunion z m => Sys2Proof.Machine.execZunion z m s
  | .zskip z b => Sys2Proof.Machine.execZskip z b s
  | .bzEnd z o => Sys2Proof.Machine.execBzEnd z o s
  | .zclose z => Sys2Proof.Machine.execZclose z s
  | .mfsr d n => Sys2Proof.Machine.execMfsr d n s
  | .mtsr n a => Sys2Proof.Machine.execMtsr n a s
  | .tfence => Sys2Proof.Machine.execTfence s
  | .yieldpt => Sys2Proof.Machine.execYieldpt s
  | .ifence => Sys2Proof.Machine.execIfence s
  | .vdead mask n => Sys2Proof.Machine.execVdead mask n s
  | .tret => Sys2Proof.Machine.execTret s
  | .exit => Sys2Proof.Machine.execExit s
  | .exitComplete => Sys2Proof.Machine.execExitComplete s
  | .brk code => Sys2Proof.Machine.execBrk code s
  | .nop => Sys2Proof.Machine.execNop s
  | .pair a b => Sys2Proof.Machine.execPair a b s
  | .laneQueuePush w => Sys2Proof.Machine.execLaneQueuePush w s
  | .awaitedCondition => Sys2Proof.Machine.execAwaitedCondition s
  | .pendingPush => Sys2Proof.Machine.execPendingPush s
  | .loadDataArrival r => Sys2Proof.Machine.execLoadDataArrival r s
  | .elementReturn n => Sys2Proof.Machine.execElementReturn n s
  | .homeSliceAccess n => Sys2Proof.Machine.execHomeSliceAccess n s
  | .streamDeadlock => Sys2Proof.Machine.execStreamDeadlock s
  | .faultRecordWrite => Sys2Proof.Machine.execFaultRecordWrite s
  | .copyChunkDone id chunk => Sys2Proof.Machine.execCopyChunkDone id chunk s
  | .copyComplete id => Sys2Proof.Machine.execCopyComplete id s
  | .streamFetchAhead z => Sys2Proof.Machine.execStreamFetchAhead z s
  | .accumulateRequest id => Sys2Proof.Machine.execAccumulateRequest id s
  | .accumulatePerform id => Sys2Proof.Machine.execAccumulatePerform id s
  | .acceptedReply id => Sys2Proof.Machine.execAcceptedReply id s
  | .refusalReply id => Sys2Proof.Machine.execRefusalReply id s
  | .fabricRequestReceive ch seq => Sys2Proof.Machine.execFabricRequestReceive ch seq s
  | .fabricAck ch => Sys2Proof.Machine.execFabricAck ch s
  | .nakBackoffExpire ch => Sys2Proof.Machine.execNakBackoffExpire ch s
  | .replyTimeoutResend ch => Sys2Proof.Machine.execReplyTimeoutResend ch s
  | .tcWatch => Sys2Proof.Machine.execTcWatch s
  | .stepEnd => Sys2Proof.Machine.execStepEnd s
  | .threadControlWrite site v => Sys2Proof.Machine.execThreadControlWrite site v s
  | .debugBlockRead die cluster off => Sys2Proof.Machine.execDebugBlockRead die cluster off s
  | .registerWrite off v trusted => Sys2Proof.Machine.execRegisterWrite off v trusted s
  | .doorbell q off size v => Sys2Proof.Machine.execDoorbell q off size v s
  | .hostRequest r => Sys2Proof.Machine.execHostRequest r s
  | .peerRequest port r => Sys2Proof.Machine.execPeerRequest port r s
  | .selection => Sys2Proof.Machine.execSelection s
  | .waitEventReread src => Sys2Proof.Machine.execWaitEventReread src s
  | .groupPlacement die => Sys2Proof.Machine.execGroupPlacement die s
  | .launchCompletion id => Sys2Proof.Machine.execLaunchCompletion id s
  | .save => Sys2Proof.Machine.execSave s
  | .resumePlacement task => Sys2Proof.Machine.execResumePlacement task s
  | .quadRetirement unit quad => Sys2Proof.Machine.execQuadRetirement unit quad s
  | .mailboxCompletion => Sys2Proof.Machine.execMailboxCompletion s
  | .reservedEncoding w => Sys2Proof.Machine.execReservedEncoding w s
  | .dataError l => Sys2Proof.Machine.execDataError l s
  | .thermalTrip temp => Sys2Proof.Machine.execThermalTrip temp s
  | .sealRequest ctx => Sys2Proof.Machine.execSealRequest ctx s
  | .batchClose ctx => Sys2Proof.Machine.execBatchClose ctx s
  | .scrubRead home => Sys2Proof.Machine.execScrubRead home s
  | .qcfg => Sys2Proof.Machine.execQcfg s
  | .qenable => Sys2Proof.Machine.execQenable s
  | .qdisable => Sys2Proof.Machine.execQdisable s
  | .qprio => Sys2Proof.Machine.execQprio s
  | .qreset => Sys2Proof.Machine.execQreset s
  | .setage => Sys2Proof.Machine.execSetage s
  | .ctxset => Sys2Proof.Machine.execCtxset s
  | .ctxmod => Sys2Proof.Machine.execCtxmod s
  | .ctxfree => Sys2Proof.Machine.execCtxfree s
  | .tlbinv => Sys2Proof.Machine.execTlbinv s
  | .fqcfg => Sys2Proof.Machine.execFqcfg s
  | .replay => Sys2Proof.Machine.execReplay s
  | .preempt => Sys2Proof.Machine.execPreempt s
  | .resume => Sys2Proof.Machine.execResume s
  | .inventory => Sys2Proof.Machine.execInventory s
  | .pset => Sys2Proof.Machine.execPset s
  | .tripclr => Sys2Proof.Machine.execTripclr s
  | .idinfo => Sys2Proof.Machine.execIdinfo s
  | .attest => Sys2Proof.Machine.execAttest s
  | .ccmap => Sys2Proof.Machine.execCcmap s
  | .dbgunlock => Sys2Proof.Machine.execDbgunlock s
  | .sealcfg => Sys2Proof.Machine.execSealcfg s
  | .sealflush => Sys2Proof.Machine.execSealflush s
  | .errcnt => Sys2Proof.Machine.execErrcnt s
  | .scrubcfg => Sys2Proof.Machine.execScrubcfg s
  | .qretire => Sys2Proof.Machine.execQretire s
  | .telem => Sys2Proof.Machine.execTelem s
  | .partset => Sys2Proof.Machine.execPartset s
  | .fwstage => Sys2Proof.Machine.execFwstage s
  | .fwfloor => Sys2Proof.Machine.execFwfloor s
  | .powerOn => Sys2Proof.Machine.execPowerOn s
  | .perst => Sys2Proof.Machine.execPerst s
  | .tdispStop => Sys2Proof.Machine.execTdispStop s
  | .ideStreamLoss => Sys2Proof.Machine.execIdeStreamLoss s
  | .packagePowerRemoved => Sys2Proof.Machine.execPackagePowerRemoved s
  | .ideKmKeyProgramming => Sys2Proof.Machine.execIdeKmKeyProgramming s
  | .tdiEntersRun => Sys2Proof.Machine.execTdiEntersRun s

end Sys2Proof.Machine
end

