-- ==== Sys2Proof/Machine/Fetch.lean ====
section
/-! DEFINITION. Fetching (R54, R168, R180, R205): which instruction the control stream executes next; and what follows
a committed word (R315, R317). -/

namespace Sys2Proof.Machine

/-- The instruction of a fetched word at a program counter (R29, R168, R177, R180, R183, R197): a lane instruction is
pushed; bit 2 names slot B of a pair, and is admitted only where the word has bit 63 set. -/
def fetched (pc w : Word) : Except Trap Instr :=
  if pc.getLsbD 2 && !w.getLsbD 63 then .error (Trap.of .codeBound)
  else match decode w with
    | .error _ => .ok (.reservedEncoding w)
    | .ok i => .ok (if isLane i then .laneQueuePush w else i)

/-- The number in its body of the word in progress, inside the body of a nest in progress. -/
def Ctrl.bodyNo (c : Ctrl) (a : Word) : Option Nat :=
  let k := (a.toNat - nestBody c.nestcfg) / 8
  if nestAct c.nestcfg && nestBody c.nestcfg ≤ a.toNat && k < nestLen c.nestcfg then some k else none

/-- The word in progress, where it takes no fetch: the pair whose slot A has taken effect (R168, R180), or a word in the
loop buffer (R54, R360). -/
def State.keptWord (s : State) : Option Word :=
  let c := s.t.c
  match if c.pc.getLsbD 2 then c.popWord else none, c.bodyNo s.wordAddr with
  | some w, _ => some w
  | none, some k => (c.body.find? (fun p => p.1 == k)).map (·.2)
  | none, none => none

/-- The word in progress, kept or else fetched; a word of the body of a nest in progress is fetched into the loop buffer
(R360). -/
def State.nextWord (s : State) : Word × State :=
  match s.keptWord with
  | some w => (w, s)
  | none =>
    let (w, s) := s.fetchWord s.wordAddr
    (w, match s.t.c.bodyNo s.wordAddr with
      | some k => s.mapC (fun c => { c with body := (k, w) :: c.body })
      | none => s)

/-- The next instruction of the control stream in focus: the end of a nest's body first (R54). -/
def State.fetch (s : State) : Except Trap Instr × State :=
  let s := s.nestStep
  let pc := s.t.c.pc
  let low := pc.toNat % 8
  if !s.ctxT.fetchable s.wordAddr || !(low == 0 || low == 2 || low == 4) then (.error (Trap.of .codeBound), s)
  else if low == 2 then (.ok .popPhase, s)
  else match (if s.keptWord.isSome then (none, s) else s.fetchError s.wordAddr) with
    | (some t, s) => (.error t, s)
    | (none, s) => let (w, s) := s.nextWord; (fetched pc w, s)

/-- The register that a short instruction of a slot writes (R179). -/
def shortDest (hi : Bool) : Short → Option SReg
  | .alu _ d _ _ | .addi d _ _ | .li d _ | .ldD d _ _ | .ldW d _ _ | .qpop d _ => some (bankS hi d)
  | _ => none

/-- The scalar register whose new value a trace record shows (R317). Of a word that writes more than one it is the return
address of a call, the granted length of strip, the register of a pair's slot B before that of slot A (DESIGN CHOICE: log
entry 61). -/
def destOf : Instr → Option SReg
  | .add d _ _ | .sub d _ _ | .and d _ _ | .or d _ _ | .xor d _ _ | .andn d _ _ | .sll d _ _ | .srl d _ _
  | .sra d _ _ | .mul d _ _ | .mulh d _ _ | .mulhn d _ _ | .div d _ _ | .divn d _ _ | .rem d _ _ | .remn d _ _
  | .min d _ _ | .max d _ _ | .minn d _ _ | .maxn d _ _ | .slt d _ _ | .sltn d _ _ | .seq d _ _ | .popc d _
  | .clz d _ | .li d _ | .lih d _ | .lix d _ | .ldB d _ _ | .ldH d _ _ | .ldW d _ _ | .ldD d _ _ | .ldBS d _ _
  | .ldHS d _ _ | .ldWS d _ _ | .amo _ _ _ _ d _ _ _ | .qpop d _ | .setvl d _ | .setvlGrow d _ _
  | .setvlShrink d _ | .strip d _ _ _ _ _ _ _ | .launch d _ | .launchW d _ | .mfsr d _ => some d
  | .call _ | .callr _ => some lrReg
  | .ret | .tret => some spReg
  | .pair a b => match shortDest true b with | some r => some r | none => shortDest false a
  | _ => none

/-- What follows a word of the control stream: once it has been committed its trace record is written (R317), which shows
the value of a load, performed for it, and a
thread that is single-stepped has made its step (R315). -/
def State.afterWord (before : State) (i : Instr) (s : State) : State :=
  if s.t.c.committed == before.t.c.committed then s
  else
    let d := s.t.dbg.ctl
    let s := if d.getLsbD 0 && d.getLsbD 4 then
        let s := match destOf i with | some r => s.drainFor r | none => s
        let x := match destOf i with | some r => (s.reg r).toNat | none => 0
        s.traceWrite s.t s.t.site 1 noLane before.t.c.pc s.t.c.committed x 0 0
      else s
    let d := before.t.dbg.ctl
    if d.getLsbD 0 && d.getLsbD 3 then s.mapD (fun g => { g with stepping := true }) else s

/-- The control stream may execute a word now (R35, R312, R315). -/
def Thread.controlReady (t : Thread) : Bool :=
  t.status == .running && t.dbg.watch.isNone && !t.dbg.stepping

end Sys2Proof.Machine
end

