-- ==== Sys2Proof/Machine/Moves.lean ====
section
/-! DEFINITION. The moves that are possible in a state: which agents can take a step (R29, R30, R35), and what is due in
the device (95_what_each_step_holds.md). -/

namespace Sys2Proof.Machine

/-- One event where a condition holds. -/
def due (b : Bool) (i : Instr) : List Instr := if b then [i] else []

/-- The thread of a unit whose turn it is, of those that satisfy a condition, in round-robin order after a thread number
(R35, R295). -/
def State.turnOf (s : State) (uid last : Nat) (p : Thread → Bool) : Option Nat :=
  ((List.range 4).map (fun k => (last + 1 + k) % 4)).find? (fun n =>
    s.threads.any (fun t => uidOf t.site == uid && siteThread t.site == n && p t))

/-- The two streams of a thread; accs as in Thread.laneReady. A unit issues for its ready threads in turn (R35). -/
def State.streams (s : State) (t : Thread) (accs : Bool) : List Move :=
  let uid := uidOf t.site
  let turn := fun (_ : Unit) => s.turnOf uid (s.unitSt uid).issued Thread.controlReady == some (siteThread t.site)
  (if t.controlReady && turn () then [.control t.site] else []) ++ (if t.laneReady accs then [.lane t.site] else [])

/-- An mmul of the thread waits for its next step. -/
def Thread.stepReady (t : Thread) : Bool :=
  !t.l.mm.isEmpty && (t.laneStarts || (t.status == .preempting && (match t.preempt with | .stopped _ => true | _ => false)))

/-- Numbers of the accesses on their way that may be performed now, those of the control stream before those of the lane
stream (R99, R109, R111). -/
def State.freeAccesses (s : State) : List Nat :=
  let c := s.t.c.accs
  let ctl := (List.range c.length).filter (fun n => match s.t.c.accs[n]? with
    | some op => s.accFree n op && op.left.any (fun i => !op.sent.contains i)
    | none => false)
  let lane := (List.range s.t.l.stores.length).filter (fun k => match s.t.l.stores[k]? with
    | some op => s.laneStoreFree k op
    | none => false)
  ctl ++ lane.map (c.length + ·)

/-- Numbers of the elements in flight whose turn it is (R267). -/
def State.freeElements (s : State) : List Nat :=
  (List.range s.t.l.returns.length).filter (fun n => match s.t.l.returns[n]? with
    | some e => s.elementFree n e
    | none => false)

/-- The events of the thread in focus. While a user trap holds entries its streams read nothing ahead, so that what a
handler repairs is read after the repair (R161; DEDUCED: log entry 9). -/
def State.events (s : State) : List Instr :=
  let t := s.t
  let blocked := match t.status with | .blocked w => some w | _ => none
  let goes := match t.status with | .running => true | .blocked _ => true | _ => false
  let fetches := match t.status with | .frozen _ => true | _ => goes
  due (blocked.any s.awaitOver) .awaitedCondition
    ++ due t.q.pendRoom .pendingPush
    ++ t.c.loads.map (fun p => .loadDataArrival (sreg p.1))
    ++ s.freeElements.map .elementReturn
    ++ s.freeAccesses.map .homeSliceAccess
    ++ due (blocked.any (fun w => s.deadlocked w && !s.awaitOver w && s.nothingDue)) .streamDeadlock
    ++ due (t.dbg.watch.isSome && goes && !t.laneBusy && !s.accBusy) .tcWatch
    ++ due (t.dbg.stepping && t.dbg.ctl.getLsbD 0 && t.status == .running && s.laneIdle) .stepEnd
    ++ due s.exitReady .exitComplete
    ++ due (t.stepReady && s.turnOf s.uid (s.unitSt s.uid).served Thread.stepReady == some (siteThread t.site)) .mmulStep
    ++ (if fetches && t.q.held.isEmpty then ((List.range 8).map (Fin.ofNat 8)).flatMap (fun k =>
        due (!(s.zreg k).unread.isEmpty) (.streamFetchAhead k)) else [])
    ++ due s.saveReady .save

/-- The events of a copy (R113, R115). -/
def State.copyEvents (s : State) (c : Copy) : List Instr :=
  if c.fault.isSome then []
  else c.todo.map (.copyChunkDone c.id)
    ++ due (c.todo.isEmpty && (!c.cleared || !c.landed.isEmpty) && c.code != 2 && s.masksReady c) (.copyChunkDone c.id 0)
    ++ due c.ended (.copyComplete c.id)

/-- The elements of a copy that can be moved ahead of the rest of their chunks (R284). -/
def Copy.moves (c : Copy) : List Move :=
  if c.fault.isSome then []
  else (c.todo.filter (fun k => !(c.rest k).isEmpty)).map (.element c.id)

/-- The events of an accumulate request (R137, R138, R143). -/
def State.reqEvents (s : State) (r : AccReq) : List Instr :=
  match r.phase with
  | .sent => [.accumulateRequest r.id]
  | .refused => [.refusalReply r.id]
  | .accepted =>
    let first := s.reqs.find? (fun x => x.line == r.line && x.phase == .accepted && !x.performed)
    due (first.map (·.id) == some r.id) (.accumulatePerform r.id) ++ due (!r.closed) (.acceptedReply r.id)

/-- The dies on which placement has something to do (R384 to R387). -/
def State.placeDies (s : State) : List Nat :=
  let l := s.waiters
  let sent := l.filterMap (fun p => p.1.targetOf p.2)
  let unsent := (l.filter (fun p => (p.1.targetOf p.2).isNone)).filterMap (fun p => (s.launchDies p.1).head?)
  (sent ++ unsent).eraseDups

/-- The saved threads whose groups may be resumed, one for each group. -/
def State.resumable (s : State) : List Nat :=
  (s.saved.filter (fun x => s.groupReady x
    && (s.savedGroup x).head?.map (·.th.task.id) == some x.th.task.id)).map (·.th.task.id)

/-- The events of the device while its clock runs. -/
def State.clockEvents (s : State) : List Instr :=
  s.copies.flatMap s.copyEvents
    ++ s.reqs.flatMap s.reqEvents
    ++ s.chans.flatMap Chan.events
    ++ due s.choose.isSome .selection
    ++ s.rereadSources.map .waitEventReread
    ++ s.placeDies.map .groupPlacement
    ++ (s.sched.launches.filter Launch.over).map (fun l => .launchCompletion l.id)
    ++ s.resumable.map .resumePlacement
    ++ s.retirable.map (fun p => .quadRetirement p.1 p.2)
    ++ s.sec.seals.flatMap (fun x => due (s.sealDue x) (.sealRequest x.ctx) ++ due (s.batchDue x) (.batchClose x.ctx))
    ++ ((s.fleet.errors.filterMap scrubHome).eraseDups.filter s.scrubs).map .scrubRead

/-- The events of the mailbox and of the fault queue, which go on while the clock is stopped (R417, R420). -/
def State.hostEvents (s : State) : List Instr :=
  let m := s.host.mbox
  (if m.busy && !m.waiting then (commandOf m.number).toList else [])
    ++ due s.completes .mailboxCompletion
    ++ due (!s.host.fqWait.isEmpty && s.host.ringRoom) .faultRecordWrite
    ++ due (s.power.state == 5) .packagePowerRemoved

/-- The thread in focus may perform part of a read of the instruction in progress ahead (R364): offered where something
else may write meanwhile. -/
def State.earlyMoves (s : State) (streams : List Move) : List Nat :=
  let t := s.t
  let crowd := !s.others.isEmpty || !s.copies.isEmpty || !s.host.posted.isEmpty || !s.inputs.isEmpty || !s.reqs.isEmpty
  let word := s.keptWord.getD (BitVec.ofNat 64 (s.rdN s.wordAddr.toNat 8))
  let reads := match decode word with
    | .ok .ret | .ok .tret | .ok (.launch ..) | .ok (.launchW ..) | .ok (.cpy ..) => true
    | _ => false
  (if streams.contains (.control t.site) && reads && (crowd || !s.laneIdle) then [0] else [])
    ++ (if streams.contains (.lane t.site) && (crowd || t.status == .running || !t.c.accs.isEmpty)
        && (t.q.lane.head?.bind LaneEntry.instr).any readsAsItRuns then [1] else [])
    ++ (if t.stepReady && (crowd || t.status == .running || !t.c.accs.isEmpty) then [2] else [])

/-- The moves of a thread. -/
def State.threadMoves (s : State) (t : Thread) : List Move :=
  let streams := s.streams t (s.reqs.any (fun r => r.taskId == t.task.id && !r.performed))
  streams ++ (s.focus t.site).events.map (.event t.site) ++ (if t.dbg.stop then [.stop t.site] else [])
    ++ ((s.focus t.site).earlyMoves streams).map (.early t.site)

/-- The moves of the state. -/
def State.moves (s : State) : List Move :=
  (if s.power.running then s.threads.flatMap s.threadMoves ++ s.copies.flatMap Copy.moves ++ s.clockEvents.map .device
    else [])
    ++ (if s.power.ready && s.power.state < 4 then (List.range s.host.posted.length).map .posted else [])
    ++ (if s.power.on then s.hostEvents.map .device else [])
    ++ (if s.power.on && s.power.phase < 6 then [.boot] else [])
    ++ (if s.inputs.isEmpty then [] else [.input])

/-- For how many steps a move has been possible and not made. -/
def State.waited (s : State) (m : Move) : Nat := ((s.waits.find? (fun p => p.1 == m)).map (·.2)).getD 0

/-- The move that has waited longest, of some, where one has waited for Config.patience steps: no agent that can move
waits for ever (R57, R58, R112; log entry 3). -/
def State.overdue (s : State) : List Move → Option Move
  | [] => none
  | m :: l => match s.overdue l with
    | some x => if s.waited x ≤ s.waited m then some m else some x
    | none => if Config.patience ≤ s.waited m then some m else none

/-- The move that comes next, where one is possible: the only one; one that has waited too long; or a free choice among
several (log entry 3). -/
def State.pick (s : State) : Option (Move × State) :=
  match s.moves with
  | [] => none
  | [m] => some (m, { s with waits := [] })
  | m :: l =>
    let (n, t) := s.free
    let x := (s.overdue (m :: l)).getD ((m :: l).getD (n % (l.length + 1)) m)
    some (x, { t with waits := ((m :: l).filter (· != x)).map (fun y => (y, s.waited y + 1)) })

/-- Cycles of a resident thread in which its quads run no pass (R322): stalled, and start-up dead time in a quad that has
started no lane instruction since binding or resume. -/
def Thread.waitCycles (t : Thread) (n : Nat) : Thread :=
  if t.status == .free then t
  else
    let begun := popc 16 (t.alloc.quads &&& t.l.started).toNat
    let idle := popc 16 (t.alloc.quads &&& ~~~t.l.started).toNat
    { t with l := { t.l with lcr := addLcr (addLcr t.l.lcr 4 (16384 * begun * n)) 3 (16384 * idle * n) } }

/-- Cycles pass for each of some threads, a free number each. -/
def waitAll : List Thread → Nat → List Thread
  | [], _ => []
  | t :: l, k => t.waitCycles (Config.freeNat k) :: waitAll l (k + 1)

/-- Time passes: a free number of ticks, up to the greatest %gts, for it never falls (R320); and while the clock runs free
numbers of waiting cycles (R19, R322; log entry 4). -/
def State.tick (s : State) : State :=
  let (n, s) := s.free
  let s := { s with gts := min (s.gts + n) (2 ^ 64 - 1) }
  if !s.power.running then s
  else
    let (k, s) := s.free
    { s with
      t := s.t.waitCycles k
      others := waitAll s.others s.fresh
      fresh := s.fresh + s.others.length }

end Sys2Proof.Machine
end

