-- ==== Sys2Proof/Machine/Run.lean ====
section
/-! DEFINITION. What a move does (R29, R30, R35): the control stream executes a word, the lane stream its head; and the
state in which nothing but one thread can move. -/

namespace Sys2Proof.Machine

/-- What follows a next state. -/
def Res.map (f : State → State) : Res → Res
  | .next s => .next (f s)
  | .fault r => .fault r
  | .refused r => .refused r

/-- The control stream in focus executes one word; at the end of a nest's body it stalls while a register that the step
reads awaits data (R54, R113, R200). -/
def State.control (s : State) : Res :=
  match s.nestWaits with
  | some r => .next (s.block (.token r.val))
  | none =>
  match s.fetch with
  | (.error t, s) => s.raise t
  | (.ok i, s) => Res.map (State.afterWord s i) (exec i s)

/-- The unit of the thread in focus issues for it (R35). -/
def State.takeTurn (s : State) : State := s.setUnit s.uid { s.unitSt s.uid with issued := siteThread s.t.site }

/-- What the head of the lane queue did, t, after s; nothing, where it must wait for an mmul in progress: its trap waits
(R216, R402), or it writes rows of A through memory (R296). -/
def State.unlessWaits (s t : State) : State :=
  let trapWaits := (!s.t.l.mm.isEmpty || s.accBusy) && !t.t.q.lane.isEmpty && t.t.q.lane.head?.map (·.seq) == s.t.q.lane.head?.map (·.seq)
  if trapWaits || (!s.t.l.mm.isEmpty && t.writesRows) then s else t

/-- The lane stream in focus executes its head, once the accesses on their way that it waits for have been performed
(R111, R145, R267) and the chunk masks that are due have been cleared (R115). -/
def State.lane (s : State) : Res :=
  match s.laneLanded with
  | none => .next s
  | some s =>
    let s := s.clearDue.bringHead
    match s.laneHead with
    | .inl s => .next s
    | .inr i => Res.map s.unlessWaits (exec i s)

/-- The reads that a move would make as its instruction runs, in order; none where it touches units that are away. -/
def Res.reads (touched : Nat) : Res → List Early
  | .next t => if touched < t.touched.length then [] else t.reads.reverse
  | _ => []

/-- A read has been performed in full ahead. -/
def readDone (es : List Early) (r : Early) : Bool := es.any (fun e => e.locs == r.locs && e.locs.length ≤ e.got.length)

/-- One of some reads, a free choice, performed in part, unless a read before it to some of its bytes is to be performed
first (R99): some of the bytes left of it, a free choice; all of them in a residual tile, whose words change beside all
stores (R144). -/
def State.takeEarly (s : State) (now : Loc → Byte) (es rs : List Early) : List Early × State :=
  let (n, s) := if rs.length ≤ 1 then (0, s) else s.free
  match rs[n % rs.length]? with
  | none => (es, s)
  | some r =>
    if readDone es r || (rs.take (n % rs.length)).any (fun x => !readDone es x && x.locs != r.locs && locsMeet x.locs r.locs)
    then (es, s)
    else
      let e := (es.find? (fun e => e.locs == r.locs)).getD r
      let left := (List.range e.locs.length).filter (fun i => !e.got.any (fun p => p.1 == i))
      let (is, s) := if left.length ≤ 1 || e.locs.any Loc.inTile then (left, s) else s.someOf left
      (({ e with got := e.got ++ is.map (fun i => (i, now (e.locs.getD i .void))) } : Early)
        :: es.filter (fun x => x.locs != r.locs), s)

/-- The control stream in focus performs part of a read of its word ahead (R364), after what the read follows (R99, R103). -/
def State.earlyControl (s : State) : State :=
  let full := match s.fetch.1 with
    | .ok (.launch ..) | .ok (.launchW ..) | .ok (.cpy ..) => true
    | _ => false
  let rs := Res.reads s.touched.length s.control
  if rs.isEmpty then s
  else
    let s := if full then s.drainAccs else s.drainOver (rs.flatMap (·.locs))
    let locs := rs.flatMap (·.locs)
    let s := s.mapC (fun c => { c with accs := c.accs.map (fun x => { x with seen := x.seen || locsMeet x.locs locs }) })
    let (es, s) := s.takeEarly s.ownByte s.t.c.early rs
    s.mapC (fun c => { c with early := es })

/-- The lane stream in focus performs part of a read of the head of its queue ahead, after what the head waits for. -/
def State.earlyLane (s : State) : State :=
  match s.laneLanded with
  | none => s
  | some t =>
    let rs := Res.reads s.touched.length t.lane
    if rs.isEmpty then s
    else
      let (es, t) := t.takeEarly t.rdLoc t.t.l.early rs
      t.mapL (fun l => { l with early := es })

/-- The engine performs part of a read of the next step of the oldest mmul in progress ahead. -/
def State.earlyStep (s : State) : State :=
  match s.t.l.mm with
  | [] => s
  | m :: ms => match m.entry.instr with
    | some (.mmul _ _ a _) =>
      let cells := s.stepCells (MCfg.of m.mcfg) m a.val m.entry.b.toNat (stepLanes m.v.vl m.next)
      let (n, s) := s.free
      let r := (cells[n % cells.length]?).map (fun p =>
        (⟨(List.range p.2).map (fun i => .cell (p.1 + i) (p.1 + i)), false, []⟩ : Early))
      let (es, s) := s.takeEarly s.rdLoc m.early r.toList
      s.mapL (fun l => { l with mm := { m with early := es } :: ms })
    | _ => s

/-- Part of a read of an instruction in progress performed ahead (R364). -/
def State.readEarly (s : State) (which : Nat) : State :=
  match which with | 0 => s.earlyControl | 1 => s.earlyLane | _ => s.earlyStep

/-- A stream has attempted its instruction: what it read ahead has been used, or is read again. -/
def State.ctlTried (before s : State) : State := (before.skids s).mapC (fun c => { c with early := [] })
def State.laneTried (before s : State) : State := (before.skids s).mapL (fun l => { l with early := [] })

/-- A move made. What a thread completes after a stop is counted (R314). -/
def State.made (s : State) : Move → Res
  | .control site => Res.map (s.focus site).ctlTried (s.focus site).takeTurn.control
  | .lane site => Res.map (s.focus site).laneTried (s.focus site).lane
  | .event site i => Res.map (s.focus site).skids (exec i (s.focus site))
  | .stop site => .next (s.stopReaches (·.site == site))
  | .device i => exec i s
  | .posted n => .next (s.performPosted n)
  | .element id chunk => .next (s.moveElement id chunk)
  | .early site which => .next ((s.focus site).readEarly which)
  | .boot => .next s.bootPhase
  | .input => match s.inputs with
    | i :: l => exec i { s with inputs := l }
    | [] => .next s

/-- A move made with what it touches in place (R406): where it has accessed units of movement that are away, they are
brought in and it is made again; n bounds how often. -/
def State.madeIn (s : State) (m : Move) : Nat → Res
  | 0 => s.made m
  | n + 1 => match s.made m with
    | .next t =>
      if t.touched.length ≤ s.touched.length then .next t
      else (s.bringCells (t.touched.drop s.touched.length)).madeIn m n
    | r => r

/-- The end of a move: the lane instructions whose last access it has performed complete. -/
def State.endMove (s : State) : State := { s.finishAll with reads := [] }

/-- A move made, and the completion of the lane instructions whose last access it has performed (R267, R317). -/
def State.move (s : State) (m : Move) : Res := Res.map State.endMove (s.madeIn m s.away.length)

/-- The thread of the state in focus as the one that runs a word at address a; stale is how many overwritten words there
have been by now (R168). -/
def Thread.runAt (t : Thread) (a : Word) (stale : Nat) : Thread :=
  let c := { t.c with
    pc := a, tokens := 0, accs := [], loads := [], flush := false, popWord := none, body := []
    fetchFrom := stale, launchRec := none, early := [] }
  let c := { c with nestcfg := c.nestcfg &&& ~~~(1#64 <<< 63) }
  let q := { t.q with lane := [], pend := none }
  let l := { t.l with mm := [], kept := [], keptStart := 0, returns := [], stores := [], early := [], going := [], flush := false, z := Vector.replicate 8 .closed }
  { t with status := .running, preempt := .none, c := c, q := q, l := l, r := ⟨[], []⟩, dbg := ⟨0, none, false, false⟩ }

/-- A state in which nothing but the thread in focus can move, which fetches at a, in its context. -/
def State.onlyAt (s : State) (a : Word) : State :=
  let c := s.ctxT
  let c' := { c with
    num := s.t.task.ctx
    codebase := if c.codebase.toNat ≤ a.toNat then c.codebase else a
    codebound := if a.toNat < c.codebound.toNat then c.codebound else a + 8 }
  { s with
    t := s.t.runAt a s.stale.length
    others := []
    saved := []
    away := []
    touched := []
    reads := []
    ctxs := c' :: s.ctxs.filter (fun x => x.num != s.t.task.ctx)
    copies := []
    reqs := []
    chans := []
    sched := { s.sched with queues := [], launches := [], tokens := [], preReqs := [] }
    host := { s.host with fqWait := [], mbox := .zero, posted := [] }
    power := .booted
    fleet := { s.fleet with errors := [] }
    inputs := []
    waits := [] }

end Sys2Proof.Machine
end

