-- ==== Sys2Proof/Machine/Step.lean ====
section
/-! DEFINITION. One step: time passes, one agent moves (R29, R30, R35); and the state that runs a given word next. -/

namespace Sys2Proof.Machine

/-- ONE STEP of the package. Without power nothing moves until an outside event comes (R417). -/
def step (s : State) : Host.Outcome State Fault Refusal :=
  match s.tick.pick with
  | some (m, s) => s.move m
  | none => if s.power.on then .next s.tick else .fault .unpowered

/-- The state that runs the instruction of a word next (log entry 13): the word stands at the fetch address of the
thread in focus, which alone can move. A lane instruction that passes its checks at decode has been fetched and
pushed, so that the lane stream runs it next. -/
def State.withFetchWord (s : State) (nbits w : Nat) : State :=
  let a := s.wordAddr
  let w := BitVec.ofNat 64 (w % 2 ^ nbits)
  let s := (s.onlyAt a).wrN a.toNat 8 w.toNat
  match decode w with
  | .ok i =>
    if isLane i then
      match execLaneQueuePush w s with
      | .next t => if t.t.q.lane.isEmpty then s else t.mapT (fun x => { x with status := .blocked .vdrain })
      | _ => s
    else s
  | .error _ => s

end Sys2Proof.Machine
end

