-- ==== Sys2Proof/Safety.lean ====
section
/-! DEFINITION. What counts as a safe run, in the terms that claims use: what a step may leave changed, and the
conditions under which an instruction is executed without waiting. -/

namespace Sys2Proof

open Machine

/-- Memory has its canonical form. -/
def MemWf (s : State) : Prop := Memory.wf s.mem = true

/-- Every register of a list is ready: it awaits no copy token (R113) and no load or atomic that has not been performed
(R200). -/
def NoToken (s : State) (rs : List SReg) : Prop := ∀ r ∈ rs, r ≠ 0 → s.t.c.awaits r = false

/-- A die has the features of a mask (R27). -/
def HasFeatures (s : State) (need : Nat) : Prop := s.lacks need = none

/-- Nothing but the control stream of the thread in focus differs: memory, queues, lanes, debug state, every other
thread and the device are as before. -/
def OnlyControl (s t : State) : Prop := t = s.mapC (fun _ => t.t.c) ∧ ∀ a, t.rd a = s.rd a

/-- The scalar registers after a write of v to register d: s0 is zero whatever is written to it (R9). -/
def RegsAfter (s t : State) (d : SReg) (v : Word) : Prop :=
  ∀ q, t.reg q = if q = d then (if d = 0 then 0 else v) else s.reg q

/-- The control stream of t is that of s at another word, with other scalar registers: one word more is committed;
system registers, control copies, accesses on their way and nests are as before. -/
def AtWord (s t : State) (pc : Word) : Prop :=
  t.t.c = { s.t.c with s := t.t.c.s, loads := t.t.c.loads, pc := pc, committed := s.t.c.committed + 1 }

/-- The answer r is a next state in which register d holds v and the next word follows; nothing else differs. -/
def Writes (s : State) (r : Res) (d : SReg) (v : Word) : Prop :=
  ∃ t, r = .next t ∧ RegsAfter s t d v ∧ AtWord s t (s.wordAddr + 8) ∧ OnlyControl s t

/-- The answer r is a next state that goes on at an address, every register as before; nothing else differs. -/
def GoesTo (s : State) (r : Res) (pc : Word) : Prop :=
  ∃ t, r = .next t ∧ (∀ q, t.reg q = s.reg q) ∧ AtWord s t pc ∧ OnlyControl s t

/-- An access of a control stream whose checks have left the state s is issued: it becomes the youngest one on its way
(R200), and the next word follows; nothing else differs. -/
def Issued (s : State) (r : Res) (kind : MemKind) (va : Nat) (ls : List Loc) : Prop :=
  r = .next (s.mapC (fun c => { c.issue kind va ls with pc := s.wordAddr + 8, committed := c.committed + 1 }))

/-- A branch: taken to its target, or on to the next word. -/
def Branches (s : State) (r : Res) (taken : Bool) (target : Word) : Prop :=
  GoesTo s r (if taken then target else s.wordAddr + 8)

/-- Between two states of a thread the scalar registers, the program counter and everything else of the control stream
are the same. -/
def SameControl (s t : State) : Prop := t.t.c = s.t.c

/-- The instruction at the head of the lane queue, which passed its checks at decode when it was pushed (R30). -/
def Heads (s : State) (e : LaneEntry) (l : List LaneEntry) : Prop := s.t.q.lane = e :: l

/-- Debug is not enabled in the thread in focus, so that nothing is traced (R309). -/
def NoTrace (s : State) : Prop := s.t.dbg.ctl.getLsbD 0 = false

/-- A mailbox command is in progress and has not been carried out (R372). -/
def InProgress (s : State) : Prop := s.host.mbox.busy = true ∧ s.host.mbox.waiting = false

/-- No unit of movement of a thread stands where another thread could write: none is saved or away (R406). -/
def NoneAway (s : State) : Prop := s.saved = [] ∧ s.away = []

/-- Nothing stands in the way of an access from outside to HBM: no frame is assigned, no page sealed, no context
confidential, no stored bit in error; no watchpoint and no saved thread stands by. -/
def PlainMemory (s : State) : Prop :=
  s.sec.owned = [] ∧ s.sec.seals = [] ∧ (∀ c ∈ s.ctxs, c.conf = false) ∧ s.fleet.errors = [] ∧ s.clusters = []
    ∧ NoneAway s

/-- The registers of a thread hold what the spec allows: s0 zero (R9), each queue at most sixteen entries (R18), the
reserved bits of %dbgctl zero (R309). -/
def RegsWf (t : Thread) : Prop :=
  t.c.s[0] = 0 ∧ t.q.q0.length ≤ 16 ∧ t.q.q1.length ≤ 16 ∧ t.q.q2.length ≤ 16 ∧ t.q.q3.length ≤ 16 ∧ t.q.bo.length ≤ 16
    ∧ t.dbg.ctl &&& ~~~0x7D#64 = 0

/-- The registers of the package hold what the spec allows: those of every thread, bound or saved; the debug settings of
contexts (R309, R394); power states (R417) and boot phases (R413); %gts of 64 bits (R19). -/
def RegInv (s : State) : Prop :=
  (∀ t ∈ s.threads, RegsWf t) ∧ (∀ x ∈ s.saved, RegsWf x.th) ∧ (∀ c ∈ s.ctxs, c.dbgctl &&& ~~~0x7D#64 = 0)
    ∧ s.power.state ≤ 5 ∧ s.power.target ≤ 5 ∧ (s.power.phase ≤ 6 ∨ s.power.phase = 15) ∧ s.gts < 2 ^ 64

/-- Some writes have been performed since s: the threads of t are those of s, f applied to the one in focus, but that loads
on their way have been made to start anew where a write met them (R95). -/
def LoadsAnew (s t : State) (f : Thread → Thread) : Prop :=
  ∃ ws : List (List Nat), let go := fun (x : Thread) => ws.foldl (fun x w => x.anew w) x
    t.t = f (go s.t) ∧ t.others = s.others.map go

/-- What a lane part of an instruction does to the lane stream when it is at the head of the lane queue (R21): the entry
leaves the queue, and f is applied. -/
def PartDoes (i : Instr) (f : LaneEntry → Lane → Lane) : Prop :=
  ∀ (s : State) (e : LaneEntry) (l : List LaneEntry), s.t.q.lane = e :: l → e.kind = .part → decode e.word = .ok i →
    s.laneHead = .inl ((s.mapQ (fun q => { q with lane := l })).mapL (f e))

/-- The answer of an instruction that moves rows through the row port (R435): where no stored bit of the package is in error,
what it does otherwise; else the rows are read, and the first one in error makes it trap at its lane. -/
def OverRows (s : State) (rows : List Nat) (r : Res) (does : State → Res) : Prop :=
  (s.fleet.errors = [] → r = does s)
  ∧ ∀ (bad : Option (Nat × AccFault)) (u : State), s.fleet.errors ≠ [] → s.readRows rows = (bad, u) →
    r = match bad with
      | some (n, f) => .next (u.trap (f.trap true (some n)))
      | none => does u

/-! ### Real numbers and rounding (R66, R69, R70) -/

/-- The real number of a finite value. -/
def IsReal (v : Val) (x : ℝ) : Prop :=
  ∃ n m e, v = .fin n m e ∧ x = (if n then -1 else 1) * ((m : ℝ) * (2 : ℝ) ^ (e : ℤ))

/-- The extended real number of a finite value or an infinity. -/
def IsExt (v : Val) (x : EReal) : Prop :=
  (∃ r : ℝ, IsReal v r ∧ x = r) ∨ (v = .inf false ∧ x = ⊤) ∨ (v = .inf true ∧ x = ⊥)

/-- A legal float format (R23). -/
def FmtOk (f : Fmt) : Prop := 2 ≤ f.fe ∧ f.fe ≤ 8 ∧ f.fm ≤ 23

/-- The finite numbers of a format, by their codes. -/
def FiniteCode (f : Fmt) (c : Nat) (y : ℝ) : Prop := c < 2 ^ f.width ∧ IsReal (f.val c) y

/-- R69: the number y of a code is what x is rounded to among the finite numbers of the format. -/
def RoundedBy (f : Fmt) (rm : Nat) (x : ℝ) (code : Nat) (y : ℝ) : Prop :=
  match rm with
  | 0 => ∀ c z, FiniteCode f c z → |y - x| ≤ |z - x| ∧ (|y - x| = |z - x| → z ≠ y → code % 2 = 0)
  | 1 => ∀ c z, FiniteCode f c z → |y - x| ≤ |z - x| ∧ (|y - x| = |z - x| → |z| ≤ |y|)
  | 2 => |y| ≤ |x| ∧ ∀ c z, FiniteCode f c z → |z| ≤ |x| → |z| ≤ |y|
  | 3 => x ≤ y ∧ ∀ c z, FiniteCode f c z → x ≤ z → y ≤ z
  | _ => y ≤ x ∧ ∀ c z, FiniteCode f c z → z ≤ x → z ≤ y

/-- R69, R70: r is a real number other than 0, of a sign, rounded to a format under a mode, with its flags. Where OV (bit
2) is clear, its code is that of the number rounded to, IX (bit 4) says that this is not x, and UN (bit 3) that x is tiny
beside: below the least normal number, and surely so where it is below it by a unit in the last place of the binade under
it. Where OV is set, x lies beyond the largest finite number of its sign, and the code is that number's or infinity's, as
the mode says; OV is set wherever x is twice that number or more. -/
def RoundsTo (f : Fmt) (rm : Nat) (neg : Bool) (x : ℝ) (r : Flagged) : Prop :=
  let s := if neg then 2 ^ (f.fe + f.fm) else 0
  let inf := s + (2 ^ f.fe - 1) * 2 ^ f.fm
  let top := if f.fin then s + 2 ^ (f.fe + f.fm) - (if neg then 2 else 1) else inf - 1
  let emin : ℤ := 2 - 2 ^ (f.fe - 1)
  s ≤ r.val ∧ r.val < s + 2 ^ (f.fe + f.fm)
  ∧ (r.fl.testBit 2 = false → ∃ y, FiniteCode f r.val y ∧ RoundedBy f rm x r.val y ∧ r.fl ||| 24 = 24
    ∧ (r.fl.testBit 4 = true ↔ y ≠ x) ∧ (r.fl.testBit 3 = true → y ≠ x ∧ |x| < (2 : ℝ) ^ emin)
    ∧ (y ≠ x → |x| ≤ (2 : ℝ) ^ emin - (2 : ℝ) ^ (emin - 1 - f.fm) → r.fl.testBit 3 = true))
  ∧ (r.fl.testBit 2 = true → r.fl = 20 ∧ (∃ y, FiniteCode f top y ∧ |y| < |x|)
    ∧ r.val = (if f.fin ∨ rm = 2 ∨ (rm = 3 ∧ neg = true) ∨ (rm = 4 ∧ neg = false) then top else inf))
  ∧ (∀ y, FiniteCode f top y → 2 * |y| ≤ |x| → r.fl.testBit 2 = true)

/-- R69: n is a real number rounded to an integer. -/
def RoundsInt (rm : Nat) (x : ℝ) (n : Int) : Prop :=
  match rm with
  | 0 => |(n : ℝ) - x| ≤ 1 / 2 ∧ (|(n : ℝ) - x| = 1 / 2 → n % 2 = 0)
  | 1 => |(n : ℝ) - x| ≤ 1 / 2 ∧ (|(n : ℝ) - x| = 1 / 2 → |x| < |(n : ℝ)|)
  | 2 => |(n : ℝ)| ≤ |x| ∧ |x| < |(n : ℝ)| + 1 ∧ 0 ≤ (n : ℝ) * x
  | 3 => x ≤ n ∧ (n : ℝ) < x + 1
  | _ => (n : ℝ) ≤ x ∧ x < n + 1

end Sys2Proof
end

