-- ==== Sys2Proof/Certificates/Slice0/Obligations.lean ====
section
/-! DEFINITION. The statements for the provers. -/

open Sys2Proof Sys2Proof.Machine

/-! ### Scalar instructions -/

/-- R192: the results of the two-operand arithmetic and logic instructions. -/
def Obligations.ScalarArithmeticResults : Prop :=
  ∀ (s : State) (d a : SReg) (b : Src2), NoToken s (d :: a :: src2Regs b) →
    let A := s.reg a
    let B := s.src2 b
    let k := bits B.toNat 5 0
    Writes s (exec (.add d a b) s) d (BitVec.ofNat 64 (A.toNat + B.toNat))
    ∧ Writes s (exec (.sub d a b) s) d (BitVec.ofInt 64 ((A.toNat : Int) - B.toNat))
    ∧ Writes s (exec (.and d a b) s) d (A &&& B)
    ∧ Writes s (exec (.or d a b) s) d (A ||| B)
    ∧ Writes s (exec (.xor d a b) s) d (A ^^^ B)
    ∧ Writes s (exec (.andn d a b) s) d (A &&& ~~~B)
    ∧ Writes s (exec (.sll d a b) s) d (BitVec.ofNat 64 (A.toNat * 2 ^ k))
    ∧ Writes s (exec (.srl d a b) s) d (BitVec.ofNat 64 (A.toNat / 2 ^ k))
    ∧ Writes s (exec (.sra d a b) s) d (BitVec.ofInt 64 (A.toInt / (2 ^ k : Nat)))
    ∧ Writes s (exec (.mul d a b) s) d (BitVec.ofNat 64 (A.toNat * B.toNat))
    ∧ Writes s (exec (.mulh d a b) s) d (BitVec.ofInt 64 (A.toInt * B.toInt / 2 ^ 64))
    ∧ Writes s (exec (.mulhn d a b) s) d (BitVec.ofNat 64 (A.toNat * B.toNat / 2 ^ 64))
    ∧ Writes s (exec (.div d a b) s) d (if B = 0 then BitVec.allOnes 64 else BitVec.ofInt 64 (A.toInt.tdiv B.toInt))
    ∧ Writes s (exec (.divn d a b) s) d (if B = 0 then BitVec.allOnes 64 else BitVec.ofNat 64 (A.toNat / B.toNat))
    ∧ Writes s (exec (.rem d a b) s) d
        (if B = 0 then A else BitVec.ofInt 64 (A.toInt - B.toInt * A.toInt.tdiv B.toInt))
    ∧ Writes s (exec (.remn d a b) s) d (if B = 0 then A else BitVec.ofNat 64 (A.toNat % B.toNat))
    ∧ Writes s (exec (.min d a b) s) d (BitVec.ofInt 64 (min A.toInt B.toInt))
    ∧ Writes s (exec (.max d a b) s) d (BitVec.ofInt 64 (max A.toInt B.toInt))
    ∧ Writes s (exec (.minn d a b) s) d (BitVec.ofNat 64 (min A.toNat B.toNat))
    ∧ Writes s (exec (.maxn d a b) s) d (BitVec.ofNat 64 (max A.toNat B.toNat))
    ∧ Writes s (exec (.slt d a b) s) d (if A.toInt < B.toInt then 1 else 0)
    ∧ Writes s (exec (.sltn d a b) s) d (if A.toNat < B.toNat then 1 else 0)
    ∧ Writes s (exec (.seq d a b) s) d (if A = B then 1 else 0)

/-- R193: popc counts the one bits; clz counts the zero bits above the highest one bit, 64 for zero.
R175: the constants. -/
def Obligations.BitCountsAndConstants : Prop :=
  (∀ (s : State) (d a : SReg), NoToken s [d, a] →
     Writes s (exec (.popc d a) s) d
         (BitVec.ofNat 64 ((List.range 64).filter (fun i => (s.reg a).getLsbD i)).length)
     ∧ ∃ n : Nat, Writes s (exec (.clz d a) s) d (BitVec.ofNat 64 n) ∧ n ≤ 64 ∧ (s.reg a).toNat < 2 ^ (64 - n)
       ∧ (n < 64 → 2 ^ (63 - n) ≤ (s.reg a).toNat))
  ∧ (∀ (s : State) (d : SReg) (i : BitVec 24) (j : BitVec 16), NoToken s [d] →
       Writes s (exec (.li d i) s) d (BitVec.ofInt 64 i.toInt)
       ∧ Writes s (exec (.lih d i) s) d
           (BitVec.ofNat 64 (bits (s.reg d).toNat 63 48 * 2 ^ 48 + i.toNat * 2 ^ 24 + bits (s.reg d).toNat 23 0))
       ∧ Writes s (exec (.lix d j) s) d (BitVec.ofNat 64 (j.toNat * 2 ^ 48 + bits (s.reg d).toNat 47 0)))

/-- R194: when the branches on scalar registers are taken, and where they go (R176). -/
def Obligations.ConditionalBranches : Prop :=
  ∀ (s : State) (a b : SReg) (o : BitVec 24), NoToken s [a, b] →
    let A := s.reg a
    let B := s.reg b
    let to' := s.wordAddr + 8 * BitVec.ofInt 64 o.toInt
    Branches s (exec (.beq a b o) s) (decide (A = B)) to'
    ∧ Branches s (exec (.bne a b o) s) (decide (A ≠ B)) to'
    ∧ Branches s (exec (.blt a b o) s) (decide (A.toInt < B.toInt)) to'
    ∧ Branches s (exec (.bge a b o) s) (decide (B.toInt ≤ A.toInt)) to'
    ∧ Branches s (exec (.bltn a b o) s) (decide (A.toNat < B.toNat)) to'
    ∧ Branches s (exec (.bgen a b o) s) (decide (B.toNat ≤ A.toNat)) to'
    ∧ Branches s (exec (.br o) s) true to'

/-- R195: bq and bqn pop the head of bo, whether or not they are taken.
R196, R443: bmz and bmnz push a probe and go on to the pop phase of their word. R43, R53, R444: the probe, once it is the head
of the lane queue, leaves it and puts at the tail of bo whether no lane below VL has its mask-stack top set, or keeps that
bit as its pending push where bo is full; at depth 0 the top is set in every lane. The pop phase of bmz, bmnz or bz.end, of
the word whose probe was pushed or else of the word as it is fetched, pops the head of bo and branches on it. -/
def Obligations.BitsSteerBranches : Prop :=
  (∀ (s : State) (o : BitVec 24) (x : Bool) (l : List Bool), HasFeatures s 1 → s.t.q.bo = x :: l →
     let s1 := s.mapQ (fun q => { q with bo := l })
     let to' := s.wordAddr + 8 * BitVec.ofInt 64 o.toInt
     Branches s1 (exec (.bq o) s) x to' ∧ Branches s1 (exec (.bqn o) s) (!x) to')
  ∧ (∀ (s : State) (e : LaneEntry) (l : List LaneEntry) (o : BitVec 24), Heads s e l → e.kind = .probe → NoTrace s →
       e.instr = some (.bmz o) ∨ e.instr = some (.bmnz o) →
       ∃ (t : State) (b : Bool), s.laneHead = .inl t ∧ t.mem = s.mem ∧ t.cols = s.cols
         ∧ (b = true ↔ ∀ n < s.t.l.v.vl, s.below n = true → s.top n = false)
         ∧ (s.t.q.bo.length < 16 → t.t.q = { s.t.q with lane := l, bo := s.t.q.bo ++ [b] })
         ∧ (16 ≤ s.t.q.bo.length → t.t.q = { s.t.q with lane := l, pend := some ⟨3, if b then 1 else 0, e.addr⟩ }))
  ∧ (∀ (s : State) (n : Nat), (s.t.l.depth = 0 → s.top n = true)
       ∧ (0 < s.t.l.depth → s.top n = (s.colWord n).getLsbD (31 + s.t.l.depth)))
  ∧ (∀ (s : State) (o : BitVec 24),
       (∀ i ∈ [Instr.bmz o, Instr.bmnz o], HasFeatures s 1 → s.t.q.lane.length < laneDepth →
         exec i s = .next (({ s with t := { s.t with
           c := { s.t.c with pc := s.wordAddr ||| 2, popWord := some (encode i) }
           q := { s.t.q with
             lane := s.t.q.lane ++ [⟨s.t.q.pushed, .probe, encode i, s.t.c.pc, 0, 0, 0, false, s.t.alloc.lanes⟩]
             pushed := s.t.q.pushed + 1 } } }) : State))
       ∧ ∀ (x : Bool) (l : List Bool) (w : Word) (s2 : State), s.popPhaseWord = (w, s2) → s.t.q.bo = x :: l →
         let s1 := (s2.mapQ (fun q => { q with bo := l })).mapC (fun c => { c with popWord := none })
         let to' := s.wordAddr + 8 * BitVec.ofInt 64 o.toInt
         (decode w = .ok (.bmz o) → Branches s1 (exec .popPhase s) x to')
         ∧ (decode w = .ok (.bmnz o) → Branches s1 (exec .popPhase s) (!x) to')
         ∧ ∀ z, decode w = .ok (.bzEnd z o) → Branches s1 (exec .popPhase s) x to')

/-- R50, R51, R197: call and callr, where the two words below sp may be written, put two stores on their way, of the
return address to the 8 bytes at sp − 16 and of the vector-state word to the 8 bytes above them, write the return address
to lr and sp − 16 to sp, and go to the target. Every other register, the control
copies, the queues, the lane stream and every byte of memory are as before. The word holds the depth, the type and the
length; two words that differ in its other bits only restore the same. -/
def Obligations.CallsPushTheirRecord : Prop :=
  ∀ (s s1 s2 : State) (i : Instr) (target : Word),
    NoToken s [spReg, lrReg] →
    ((∃ o : BitVec 24, i = .call o ∧ target = s.wordAddr + 8 * BitVec.ofInt 64 o.toInt)
      ∨ (∃ a, i = .callr a ∧ NoToken s [a] ∧ target = s.reg a ∧ targetOk target = true)) →
    let sp := s.reg spReg - 16
    let ra := s.wordAddr + 8
    let v := (vstateWord s.t.c.depth s.t.c.v).toNat
    s.alignFault s.ctlAgent .write 16 sp.toNat 16 = none →
    s.cstore 8 sp.toNat ra.toNat = (.ok (), s1) → s1.cstore 8 (sp + 8).toNat v = (.ok (), s2) →
    ∃ t o1 o2, exec i s = .next t ∧ t.reg lrReg = ra ∧ t.reg spReg = sp
      ∧ (∀ q, q ≠ lrReg → q ≠ spReg → t.reg q = s.reg q) ∧ t.t.c.pc = target
      ∧ t.t.c.accs = s.t.c.accs ++ [o1, o2] ∧ o1.kind = .store ra.toNat ∧ o2.kind = .store v
      ∧ (∃ u, s.check s.ctlAgent .write 8 sp.toNat = (.ok o1.locs, u))
      ∧ (∃ u, s1.check s1.ctlAgent .write 8 (sp + 8).toNat = (.ok o2.locs, u)) ∧ t.t.c.v = s.t.c.v ∧ t.t.c.depth = s.t.c.depth
      ∧ t.t.q = s.t.q ∧ t.t.l = s.t.l ∧ (∀ x, t.rd x = s.rd x)
      ∧ bits v 63 56 = 0 ∧ bits v 55 51 = s.t.c.depth % 32 ∧ bits v 50 24 = bits s.t.c.v.vtype.toNat 26 0
      ∧ bits v 23 19 = 0 ∧ bits v 18 0 = s.t.c.v.vl % 2 ^ 19
      ∧ ∀ (n : Nat) (x y : Word), wbits x 55 24 = wbits y 55 24 → wbits x 18 0 = wbits y 18 0 →
        s.t.c.v.restore n x = s.t.c.v.restore n y ∧ vstateDepth x = vstateDepth y

/-- R50 to R52: ret, where its record can be read as s1 and then s2 have read it, adds 16 to sp, goes to the return address, and restores the vector state and the
mask-stack depth, in the control copies at once and in the lane stream through the lane queue, where its entry restores
them once it is the head; it waits for room in that queue. Whether there is room or not, a misaligned return address takes
TC_CODE_BOUND and a recorded depth above the current one TC_BAD_HANDLE. The restored state has the recorded type, where that is legal, the recorded length, cut to the
owned lanes and to whole blocks, and no two-length mode; under an illegal type it is the illegal state. -/
def Obligations.ReturnRestoresItsRecord : Prop :=
  (∀ (s s1 s2 : State) (ra w : Nat),
    NoToken s [spReg] → s.alignFault s.ctlAgent .read 16 (s.reg spReg).toNat 16 = none →
    s.cload 8 (s.reg spReg).toNat = (.ok ra, s1) → s1.cload 8 (s.reg spReg + 8).toNat = (.ok w, s2) →
    let x := BitVec.ofNat 64 w
    let ok := targetOk (BitVec.ofNat 64 ra)
    (ok = false → exec .ret s = .next (s2.trap (Trap.of .codeBound)))
    ∧ (ok = true → s2.t.c.depth < vstateDepth x → exec .ret s = .next (s2.trap (Trap.of .badHandle)))
    ∧ (ok = true → vstateDepth x ≤ s2.t.c.depth → laneDepth ≤ s2.t.q.lane.length →
      exec .ret s = .next (s.block .laneRoom))
    ∧ (ok = true → vstateDepth x ≤ s2.t.c.depth → s2.t.q.lane.length < laneDepth →
      ∃ t, exec .ret s = .next t ∧ t.t.c.pc = BitVec.ofNat 64 ra ∧ t.t.c.v = s2.t.c.v.restore s2.t.alloc.lanes x
      ∧ t.t.c.depth = vstateDepth x ∧ RegsAfter s2 t spReg (s.reg spReg + 16)
      ∧ t.t.q.lane = s2.t.q.lane
          ++ [⟨s2.t.q.pushed, .part, encode .ret, s2.t.c.pc, x, 0, BitVec.ofNat 64 s2.t.alloc.lanes, false,
              s2.t.alloc.lanes⟩]
      ∧ t.t.c.accs = s2.t.c.accs ∧ t.t.l = s2.t.l ∧ ∀ a, t.rd a = s2.rd a))
  ∧ PartDoes .ret (fun e l => { l with v := l.v.restore e.c.toNat e.a, depth := vstateDepth e.a })
  ∧ ∀ (v : VState) (n : Nat) (w : Word),
      let y := wbits w 50 24
      let r := v.restore n w
      r.vlo = 0 ∧ r.vli = 0
      ∧ (vtypeLegal y = true → r.vtype = BitVec.ofNat 64 y ∧ r.illegal = false
        ∧ r.vl = grant n (BitVec.ofNat 64 y) (wbits w 18 0))
      ∧ (vtypeLegal y = false → r.illegal = true)

/-- R88 to R90, R94: the windows. The row view reaches the arrays of the unit: a harvested or retired quad refuses, an owned
one has its cells, a free one keeps nothing. A scratchpad, by its local window or its global one, is one place: the keyed
bank and row of R94, where the context may touch it. The residual tile is read alone, and the weight buffer takes no atomic.
What lies in no window or beyond its size has no place. Addresses of more than 56 bits are refused. -/
def WindowsResolve : Prop :=
  ∀ (s : State) (ag : Agent) (k : Access) (o d c : Nat),
    let uid := uidOf ag.site
    let key := (s.ctxD ag.ctx).bankkey
    let at' := fun (a : Nat) => s.window ag k a
    let glob := fun (d c : Nat) => at' (0x00FF800000000000 + d * 2 ^ 36 + c * 2 ^ 32 + o)
    let here := siteCluster ag.site
    (o < 2 ^ 24 →
      ((s.unitSt uid).usable.getLsbD (o / 2 ^ 20) = false → at' (0x00FFFF0000000000 + o) = none)
      ∧ ((s.unitSt uid).usable.getLsbD (o / 2 ^ 20) = true → at' (0x00FFFF0000000000 + o)
        = if (s.ownedQuads uid).getLsbD (o / 2 ^ 20) then some (.cell (arrayBase uid + o) (arrayBase uid + o)) else some .void))
    ∧ (2 ^ 24 ≤ o → at' (0x00FFFF0000000000 + o) = none)
    ∧ (d ≤ 7 → c ≤ 11 → o < 12 * 2 ^ 20 → s.scratchAllowed ag.ctx d c o = true →
      glob d c = some (.cell (scratchBase d c + (o / 2048 * 2048
        + ((bits o 10 6 ^^^ bits o 15 11 ^^^ bits o 20 16 ^^^ bits key 4 0) % 32) * 64 + o % 64)) (scratchBase d c + o)))
    ∧ (d ≤ 7 → o < 44 * 2 ^ 20 → s.scratchAllowed ag.ctx d 15 o = true →
      glob d 15 = some (.cell (scratchBase d 15 + (o / 4096 * 4096
        + ((bits o 11 6 ^^^ bits o 17 12 ^^^ bits o 23 18 ^^^ bits key 5 0) % 64) * 64 + o % 64)) (scratchBase d 15 + o)))
    ∧ (c ≤ 15 → o < 2 ^ 32 → d < 0x7B0 → 7 < d ∨ (11 < c ∧ c < 15) ∨ (if c = 15 then 44 else 12) * 2 ^ 20 ≤ o
        ∨ s.scratchAllowed ag.ctx d c o = false → glob d c = none)
    ∧ (o < 2 ^ 32 → here ≤ 11 → at' (0x00FFFE0000000000 + o) = glob (siteDie ag.site) here)
    ∧ (o < 2 ^ 32 → at' (0x00FFFD0000000000 + o) = glob (siteDie ag.site) 15)
    ∧ (o < 2 ^ 40 → at' (0x00FFFC0000000000 + o) = if o < 2 ^ 15 ∧ k = .read then some (.rtile ag.site o) else none)
    ∧ (o < 2 ^ 40 → at' (0x00FFFB0000000000 + o) = if o < 3 * 2 ^ 20 ∧ k.isAtomic = false then
        (if (s.ownedSegs uid).getLsbD (o / 2 ^ 18) then some (.cell (weightBase uid + o) (weightBase uid + o)) else some .void)
      else none)
    ∧ (o < 0x00FF800000000000 → at' o = none)
    ∧ (s.windowOk ag k o = true ↔ o < windowsBase ∨ (o < 2 ^ 56 ∧ at' o ≠ none))

/-- R396, R397, R92: translation. An entry that is not valid faults with TC_MEM_TRANSLATION; one with a reserved bit set, a
leaf at level 3 or 0, a leaf with c set, or one that is not aligned to its page, with TC_MEM_PERMISSION; else it names the
next table or its page. The walk takes the entries of levels 3, 2, 1 and 0 by their bits of the address, each from HBM that
the context may read. A translation comes from the walk, or from an entry of a cache of the agent; with empty caches from
the walk, one of sixteen entries serving for a page of 64 KiB. The leaf's bits then allow the access or not, and the
physical address is HBM that the context may use, host or peer memory, or refused. -/
def TranslationWalks : Prop :=
  (∀ lev e : Nat, lev ≤ 3 →
     let leaf := e / 32 % 2 = 1
     let c := e / 64 % 2 = 1
     let bad := e / 2 ^ 48 ≠ 0 ∨ bits e 11 7 ≠ 0 ∨ e / 2 % 2 = 1 ∨ (leaf ∧ (lev = 3 ∨ lev = 0 ∨ c))
     let size := if lev = 2 then 2 ^ 30 else if lev = 1 then 2 ^ 21 else if c then 2 ^ 16 else 4096
     (e % 2 = 0 → ptStep lev e = .error ⟨.memTranslation, 0, false, 0⟩)
     ∧ (e % 2 = 1 → bad → ptStep lev e = .error ⟨.memPermission, 0, false, 0⟩)
     ∧ (e % 2 = 1 → ¬ bad → lev ≠ 0 → ¬ leaf → ptStep lev e = .ok (.table (bits e 47 12 * 4096)))
     ∧ (e % 2 = 1 → ¬ bad → (lev = 0 ∨ leaf) → ptStep lev e
       = if bits e 47 12 * 4096 % size = 0 then .ok (.leaf ⟨e, size⟩) else .error ⟨.memPermission, 0, false, 0⟩))
  ∧ (∀ (s : State) (ctx va lev t : Nat), lev ≤ 3 →
       let a := t + 8 * (if lev = 3 then bits va 55 39 else va / 2 ^ (12 + 9 * lev) % 512)
       (∀ f, s.ptRead ctx a = .error f → s.walkFrom ctx va lev t = .error f)
       ∧ ∀ e, s.ptRead ctx a = .ok e →
         (∀ f, ptStep lev e = .error f → s.walkFrom ctx va lev t = .error f)
         ∧ (∀ l, ptStep lev e = .ok (.leaf l) → s.walkFrom ctx va lev t = .ok l)
         ∧ (∀ t', ptStep lev e = .ok (.table t') → s.walkFrom ctx va lev t = s.walkFrom ctx va (lev - 1) t'))
  ∧ (∀ (s : State) (ctx va a : Nat), s.walk0 ctx va = s.walkFrom ctx va 3 (s.ctxD ctx).ptroot
       ∧ ((a < 2 ^ 39 ∧ s.hbmAllowed ctx false a = true ∧ (s.ctxD ctx).conf = false) → s.fleet.errors = [] →
         s.ptRead ctx a = .ok (s.rdN a 8))
       ∧ ((2 ^ 39 ≤ a ∨ s.hbmAllowed ctx false a = false) → s.ptRead ctx a = .error ⟨.memPermission, 0, true, a⟩))
  ∧ (∀ (s : State) (ag : Agent) (va : Nat),
       (s.tlb = [] → (s.translate ag va).1 = s.walk0 ag.ctx va ∨ ∃ l, s.walk0 ag.ctx va = .ok l ∧ l.size = 65536)
       ∧ ((s.translate ag va).1 ∈ [s.walkCached ag va 3 (s.ctxD ag.ctx).ptroot,
             s.free.2.walkCached ag va 3 (s.ctxD ag.ctx).ptroot].map (·.1)
         ∨ ∃ e ∈ s.tlb, e.lev = 0 ∧ e.ctx = ag.ctx ∧ e.va ≤ va ∧ va < e.va + e.size ∧ (e.kind, e.num) ∈ ag.caches
           ∧ (s.translate ag va).1 = .ok ⟨e.leaf.toNat, e.size⟩))
  ∧ (∀ (s : State) (ag : Agent) (k : Access) (n va : Nat) (l : Leaf),
       let pa := bits l.entry 47 12 * 4096 + va % l.size
       let may := match k with
         | .read => l.entry / 4 % 2 = 1
         | .write => l.entry / 8 % 2 = 1
         | .atomic _ => l.entry / 4 % 8 = 7
       let r := s.leafLoc ag k n va l
       (¬ may → r = .error .memPermission)
       ∧ (may → pa < 2 ^ 39 → r = if s.hbmAllowed ag.ctx k.isWrite pa then .ok (.cell pa pa) else .error .memPermission)
       ∧ (may → 2 ^ 39 ≤ pa → pa < 2 ^ 47 → r = .error .memPermission)
       ∧ (may → 2 ^ 47 ≤ pa → k.isAtomic = false → r = .ok (.cell pa pa))
       ∧ (may → 2 ^ 47 ≤ pa → ∀ ok, k = .atomic ok → r
         = if ok && Config.atomicCompleter (completerOf pa) n then .ok (.cell pa pa) else .error .hostAtomic))

/-- R88, R184, R396: what the checks of an access answer, in their order. A byte that no window has refuses it; then an
atomic that is not aligned; then a page that is not translated; then the leaf's permissions. An access that lies in windows
or in one page, where no stored bit is in error, has its bytes where these place them. -/
def AccessesAreChecked : Prop :=
  ∀ (s s1 : State) (ag : Agent) (k : Access) (n va : Nat) (l : Leaf) (f : WalkFault) (ls : List Loc),
    let ok := ∀ i < n, s.windowOk ag k ((va + i) % 2 ^ 64) = true
    let refused := fun (c : Cause) => Except.error (ε := AccFault) (α := List Loc) ⟨c, 0, va, k.code⟩
    (¬ ok → s.check ag k n va = (refused .memPermission, s))
    ∧ (ok → k.isAtomic = true → va % n ≠ 0 → s.check ag k n va = (refused .memAlign, s))
    ∧ (ok → (k.isAtomic = false ∨ va % n = 0) → s.fleet.errors = [] →
      (windowsBase ≤ va → va + n ≤ 2 ^ 56 →
        (s.check ag k n va).1 = .ok ((List.range n).map (fun i => (s.window ag k (va + i)).getD .void)))
      ∧ (0 < n → va + n ≤ windowsBase →
        (s.translate ag va = (.error f, s1) →
          (s.check ag k n va).1 = .error ⟨f.cause, f.detail, va, if f.table then 4 else k.code⟩)
        ∧ (s.translate ag va = (.ok l, s1) → va % l.size + n ≤ l.size →
          ((∀ i < n, ∃ x, ls[i]? = some x ∧ s1.leafLoc ag k n (va + i) l = .ok x) → ls.length = n →
            (s.check ag k n va).1 = .ok ls)
          ∧ ∀ i c, i < n → s1.leafLoc ag k n (va + i) l = .error c →
            (∀ j < i, ∃ x, s1.leafLoc ag k n (va + j) l = .ok x) →
            (s.check ag k n va).1 = .error ⟨c, 0, va + i, k.code⟩)))

/-- R198, R200: a load of 1, 2, 4 or 8 bytes, zero- or sign-extended, and a store of the low bytes of sB, whose checks
pass and leave the state s1: the access is issued. It is the youngest one of the thread on its way, its bytes lie where
the checks place them, and the next word follows; no register and no byte of memory has changed yet.
R184: the checks change cached translations, free values, the state of errors and the model's own mark of touched units
alone, and place every byte. R88 to R90, R92, R94, R396, R397: where they place it, and what they refuse. -/
def Obligations.ScalarLoadsAndStores : Prop :=
  (∀ (s s1 : State) (d a : SReg) (e : BitVec 24) (ls : List Loc), NoToken s [d, a] →
     let va := (s.reg a + BitVec.ofInt 64 e.toInt).toNat
     let loaded := fun (n : Nat) (signed : Bool) (i : Instr) => s.check s.ctlAgent .read n va = (.ok ls, s1) →
       Issued s1 (exec i s) (.load d.val signed) va ls
     loaded 1 false (.ldB d a e) ∧ loaded 1 true (.ldBS d a e) ∧ loaded 2 false (.ldH d a e)
     ∧ loaded 2 true (.ldHS d a e) ∧ loaded 4 false (.ldW d a e) ∧ loaded 4 true (.ldWS d a e)
     ∧ loaded 8 false (.ldD d a e))
  ∧ (∀ (s s1 : State) (a b : SReg) (e : BitVec 24) (ls : List Loc), NoToken s [a, b] →
       let va := (s.reg a + BitVec.ofInt 64 e.toInt).toNat
       let stored := fun (n : Nat) (i : Instr) => s.check s.ctlAgent .write n va = (.ok ls, s1) →
         Issued s1 (exec i s) (.store ((s.reg b).toNat % 2 ^ (8 * n))) va ls
       stored 1 (.stB a b e) ∧ stored 2 (.stH a b e) ∧ stored 4 (.stW a b e) ∧ stored 8 (.stD a b e))
  ∧ (∀ (s s1 : State) (ag : Agent) (k : Access) (n va : Nat) (r : Except AccFault (List Loc)),
       s.check ag k n va = (r, s1) →
       s1 = { s with tlb := s1.tlb, displaced := s1.displaced, fresh := s1.fresh, fleet := s1.fleet, touched := s1.touched }
       ∧ ∀ ls, r = .ok ls → ls.length = n)
  ∧ WindowsResolve ∧ TranslationWalks ∧ AccessesAreChecked

/-- R3, R95, R96, R111, R198, R200, R202: an access of the control stream performed at the home slices of its own die. A
single-copy-atomic store leaves its value in the bytes of its cells and every other byte of memory as it was, where no
thread has given up the cells; where the bytes have become another context's or read-only meanwhile it leaves every byte as
it was (R428, R432; the model's choice: log entry 60). A load takes some of its bytes, a free choice, as the thread sees them, its own older stores
before memory: when it has them all its register, unless that is s0, holds their value, extended or not, and the access is
gone; else it stays, with the bytes taken. A single-copy-atomic atomic hands its register, unless that is s0, the value of
its bytes before it, and is gone. Other single-copy-atomic accesses are performed whole. -/
def Obligations.PerformedStoreWritesItsBytes : Prop :=
  (∀ (s : State) (n a k v : Nat) (op : MemOp), NoneAway s → s.clusters = [] → s.t.c.accs[n]? = some op →
     s.accFree n op = true → op.kind = .store v → op.whole = true → op.sent = [] → 0 < k → op.left = List.range k →
     op.locs = (List.range k).map (fun i => Loc.cell (a + i) (a + i)) →
     homeDie (siteDie s.t.site) op.locs = siteDie s.t.site →
     ∃ t, exec (.homeSliceAccess n) s = .next t
       ∧ ((∀ l ∈ op.locs, s.homeTakes s.t.task.ctx l = true) →
         (∀ i < k, (t.rd (a + i)).toNat = v / 256 ^ i % 256) ∧ t.rdN a k = v % 256 ^ k)
       ∧ ((∀ l ∈ op.locs, s.homeTakes s.t.task.ctx l = false) → ∀ x, t.rd x = s.rd x)
       ∧ (∀ x, x < a ∨ a + k ≤ x → t.rd x = s.rd x)
       ∧ LoadsAnew s t (fun x => { x with c := { x.c with accs := x.c.accs.eraseIdx n } }))
  ∧ (∀ (s s1 : State) (n : Nat) (r : SReg) (op : MemOp) (signed : Bool) (is : List Nat), s.clusters = [] →
       s.t.c.accs[n]? = some op → s.accFree n op = true → op.kind = .load r.val signed →
       s.portion op = (is, s1) → is ≠ [] → homeDie (siteDie s.t.site) (op.part is) = siteDie s.t.site →
       let older := s.t.c.accs.take n
       let got := op.got ++ is.zip ((op.part is).map (s.fwdByte older))
       let left := op.left.filter (fun i => !is.contains i)
       let v := natOfBytes ((List.range op.locs.length).map
         (fun i => ((got.find? (fun p => p.1 == i)).map (·.2)).getD 0))
       let rest := fun (x : List MemOp) => older.map (fun y => y.see op) ++ x ++ s.t.c.accs.drop (n + 1)
       ∃ t, exec (.homeSliceAccess n) s = .next t ∧ t.mem = s.mem ∧ t.t.c.pc = s.t.c.pc
         ∧ (left = [] → t.t.c.accs = rest [] ∧ RegsAfter s t r
           (if signed then BitVec.ofInt 64 (sextNat (8 * op.locs.length) v) else BitVec.ofNat 64 v))
         ∧ (left ≠ [] → (∀ q, t.reg q = s.reg q) ∧ t.t.c.accs
           = rest [{ op with left := left, sent := op.sent.filter (fun i => !is.contains i), got := got }]))
  ∧ (∀ (s : State) (n : Nat) (r : SReg) (op : MemOp) (o : AmoOp) (v k : Nat), s.clusters = [] →
       s.t.c.accs[n]? = some op → s.accFree n op = true → op.kind = .amo r.val o v k → op.whole = true → op.sent = [] →
       op.locs ≠ [] → op.left = List.range op.locs.length → homeDie (siteDie s.t.site) op.locs = siteDie s.t.site →
       (∀ l ∈ op.locs, s.homeTakes s.t.task.ctx l = true) →
       let u := (s.amoLocs s.ctlAgent o op.locs v k).2
       ∃ t, exec (.homeSliceAccess n) s = .next t ∧ RegsAfter s t r (BitVec.ofNat 64 (s.rdLocs op.locs))
         ∧ t.t.c.accs = u.t.c.accs.eraseIdx n ∧ t.mem = u.mem ∧ t.t.c.pc = s.t.c.pc)
  ∧ (∀ (s s1 : State) (op : MemOp) (is : List Nat), s.portion op = (is, s1) →
       (∀ i ∈ is, i ∈ op.left ∧ i ∉ op.sent) ∧ ((∃ i ∈ op.left, i ∉ op.sent) → is ≠ [])
       ∧ (op.whole = true → (∀ r g, op.kind ≠ .load r g) → is = op.left.filter (fun i => !op.sent.contains i)))

/-- R201, R202: an atomic whose checks pass is issued; one that releases, where the residual tile holds nothing, after the
release has been marked (R103); an acquiring one is then performed, with every load and atomic before it.
R202: the new value of each operation on n bits but cas; cas writes its operand where the old value is the comparand, and
else writes nothing. R111: the atomic of n bytes gives the old value, leaves the new one in its bytes, and every other byte
of memory is as it was, where no thread has given up the cells. -/
def Obligations.AtomicResultAndOperations : Prop :=
  (∀ (s s1 : State) (op : AmoOp) (dbl : Bool) (ord : Ordering4) (sc : Scope) (d a b c : SReg) (ls : List Loc),
     NoToken s [d, a, b, c] →
     (ordRel ord = true → s.t.c.flush = false ∧ s.nothingHeld = true) →
     let s0 := if ordRel ord then s.mapC (fun c => { c with relNo := c.accNo }) else s
     let n := if dbl then 8 else 4
     let va := (s0.reg a).toNat
     s0.check s0.ctlAgent (.atomic (AmoOp.hostOk op)) n va = (.ok ls, s1) →
     let kind : MemKind := .amo d.val op ((s0.reg b).toNat % 2 ^ (8 * n)) ((s0.reg c).toNat % 2 ^ (8 * n))
     (ordAcq ord = false → Issued s1 (exec (.amo op dbl ord sc d a b c) s) kind va ls)
     ∧ (ordAcq ord = true →
       exec (.amo op dbl ord sc d a b c) s = .next (s1.mapC (·.issue kind va ls)).drainReads.advance
       ∧ ∀ x ∈ (s1.mapC (·.issue kind va ls)).drainReads.t.c.accs, x.dest = none))
  ∧ (∀ (n x v : Nat), 0 < n → x < 2 ^ n → v < 2 ^ n →
       amoFun .add n x v = (x + v) % 2 ^ n ∧ amoFun .swap n x v = v
       ∧ (∀ i, (amoFun .and n x v).testBit i = (x.testBit i && v.testBit i))
       ∧ (∀ i, (amoFun .or n x v).testBit i = (x.testBit i || v.testBit i))
       ∧ (∀ i, (amoFun .xor n x v).testBit i = (x.testBit i ^^ v.testBit i))
       ∧ amoFun .minn n x v = min x v ∧ amoFun .maxn n x v = max x v
       ∧ sextNat n (amoFun .min n x v) = min (sextNat n x) (sextNat n v)
       ∧ sextNat n (amoFun .max n x v) = max (sextNat n x) (sextNat n v))
  ∧ (∀ (s : State) (ag : Agent) (ls : List Loc) (v k : Nat), s.clusters = [] →
       s.amoLocs ag .cas ls v k = (s.rdLocs ls, if s.rdLocs ls = k then s.writeLocs ag (.atomic true) ls v else s))
  ∧ (∀ (s : State) (ag : Agent) (op : AmoOp) (a n v k : Nat), NoneAway s → s.clusters = [] → 0 < n → v < 2 ^ (8 * n) →
       let old := s.rdN a n
       let r := s.amoLocs ag op ((List.range n).map (fun i => Loc.cell (a + i) (a + i))) v k
       r.1 = old ∧ r.2.rdN a n = (if op = .cas ∧ old ≠ k then old else amoFun op (8 * n) old v)
       ∧ ∀ x, x < a ∨ a + n ≤ x → r.2.rd x = s.rd x)

/-- R103, R203: a fence goes on to the next word: one that acquires after every load and atomic so far has been
performed; one that releases, where the residual tile holds nothing, at once, and no store or atomic after it may be
performed while an access before it is not, though a load may; a full fence after every access of the thread has been
performed.
R108, R206, R49: vdrain goes on once every lane instruction has completed; the waits of await go on where the phase
of the barrier differs from sB or the event has reached sB, and block where not. -/
def Obligations.FencesAndWaits : Prop :=
  (∀ (s : State) (sc : Scope),
     GoesTo s.drainReads (exec (.fenceAcq sc) s) (s.drainReads.wordAddr + 8)
     ∧ (∀ op ∈ s.drainReads.t.c.accs, op.dest = none)
     ∧ (s.t.c.flush = false → s.nothingHeld = true → exec (.fenceRel sc) s = .next (s.mapC (fun c => { c with
         relNo := c.accNo, pc := s.wordAddr + 8, committed := c.committed + 1 })))
     ∧ (s.drainAccs.t.c.flush = false → s.drainAccs.nothingHeld = true →
       s.drainAccs.t.c.accs = [] ∧ GoesTo s.drainAccs (exec (.fenceAr sc) s) (s.drainAccs.wordAddr + 8)))
  ∧ (∀ (s : State) (n : Nat) (op x : MemOp), s.t.c.accs[n]? = some op →
       ((∀ r g, op.kind ≠ .load r g) → x ∈ s.t.c.accs.take n → x.id < op.rel → s.accFree n op = false)
       ∧ (∀ r g, op.kind = .load r g → (∀ y ∈ s.t.c.accs.take n, y.overlaps op = false) → s.accFree n op = true)
       ∧ ∀ (c : Ctrl) (kind : MemKind) (va : Nat) (ls : List Loc), ∀ y ∈ (c.issue kind va ls).accs,
         y ∈ c.accs ∨ (y.rel = c.relNo ∧ y.id = c.accNo))
  ∧ (∀ (s s1 : State) (a b : SReg) (v : Nat),
       (HasFeatures s 1 → s.laneIdle = true → GoesTo s (exec .vdrain s) (s.wordAddr + 8))
       ∧ (NoToken s [a, b] → s.alignFault s.ctlAgent .read 16 (s.reg a).toNat 16 = none →
           s.cload 4 (s.reg a + 8).toNat = (.ok v, s1) →
           (v ≠ (s1.reg b).toNat % 2 ^ 32 → GoesTo s1 (exec (.await a b) s) (s1.wordAddr + 8))
           ∧ (v = (s1.reg b).toNat % 2 ^ 32 → exec (.await a b) s = .next (s1.block (.phase (s.reg a) v))))
       ∧ (NoToken s [a, b] → s.alignFault s.ctlAgent .read 8 (s.reg a).toNat 8 = none →
           s.cload 8 (s.reg a).toNat = (.ok v, s1) →
           ((s1.reg b).toNat ≤ v → GoesTo s1 (exec (.awaitEv a b) s) (s1.wordAddr + 8))
           ∧ (v < (s1.reg b).toNat → exec (.awaitEv a b) s = .next (s1.block (.event (s.reg a) (s1.reg b))))))

/-- R18, R207: qpush puts sA at the tail of a queue with room; qpop takes the head of a queue. -/
def Obligations.QueueMoves : Prop :=
  ∀ (s : State) (q : QReg) (r : SReg) (v : Word) (l : List Word), HasFeatures s 1 → NoToken s [r] →
    ((s.t.q.get q.val).length < 16 →
      GoesTo (s.mapQ (fun x => x.set q.val (x.get q.val ++ [s.reg r]))) (exec (.qpush q r) s) (s.wordAddr + 8))
    ∧ (s.t.q.get q.val = v :: l → Writes (s.mapQ (fun x => x.set q.val l)) (exec (.qpop r q) s) r v)

/-- The lane part of a grant: an entry at the tail of the lane queue with the granted length. -/
def GrantQueued (s t : State) (i : Instr) (g : Nat) : Prop :=
  t.t.q = { s.t.q with
    lane := s.t.q.lane ++ [⟨s.t.q.pushed, .part, encode i, s.t.c.pc, BitVec.ofNat 64 g, 0, 0, false, s.t.alloc.lanes⟩]
    pushed := s.t.q.pushed + 1 }

/-- R21, R37, R208: setvl grants min(sA, lanes) in whole blocks: to sVL, to the control copies, ending two-length mode,
and to the lane stream through the lane queue. A grant is at most the request and the owned lanes, whole blocks, and no
larger such number exists; the entry of setvl sets the lane stream's length, and leaves two-length mode, once it is the
head. The owned lanes are 16,384 for each owned quad. -/
def Obligations.SetvlGrantsWholeBlocks : Prop :=
  (∀ (s : State) (d a : SReg), HasFeatures s 1 → s.t.c.v.illegal = false → NoToken s [d, a] →
     s.t.q.lane.length < laneDepth →
     let g := grant s.lanes s.t.c.v.vtype (s.reg a).toNat
     ∃ t, exec (.setvl d a) s = .next t ∧ RegsAfter s t d (BitVec.ofNat 64 g)
       ∧ t.t.c.v = { s.t.c.v with vl := g, vlo := 0, vli := 0 } ∧ t.t.c.pc = s.wordAddr + 8
       ∧ GrantQueued s t (.setvl d a) g ∧ t.t.l = s.t.l ∧ t.t.alloc = s.t.alloc ∧ ∀ x, t.rd x = s.rd x)
  ∧ (∀ (lanes req : Nat) (vtype : Word),
       let b := (vtypeFields vtype.toNat).blen
       let g := grant lanes vtype req
       g ≤ req ∧ g ≤ lanes ∧ (b ≠ 0 → b ∣ g) ∧ ∀ m, m ≤ req → m ≤ lanes → (b ≠ 0 → b ∣ m) → m ≤ g)
  ∧ (∀ d a : SReg, PartDoes (.setvl d a) (fun e x => { x with v := { x.v with vl := e.a.toNat, vlo := 0, vli := 0 } }))
  ∧ (∀ s : State, s.lanes = 16384 * ((List.range 16).filter (fun i => s.t.alloc.quads.getLsbD i)).length)

/-- R38, R39, R208: setvl.grow keeps every quad, tile and segment owned and adds free quads only, and grants its request
from the lanes then owned: to sVL, to the control copies and through the lane queue. setvl.shrink grants its request from
the lanes owned, in the same three ways, and keeps of the quads those of lowest rank that the granted length and the
launch's minimum need; that what was in flight to lanes has landed before is the model's choice (log entry 66).
R36, R38, R40: the quads added are the first free ones above the highest owned, in ascending order, as many as the request
needs; of the tiles and segments, the first free ones up to the totals of sRes, cut to 8 and 12. What is added reads zero in
every slot, mask column, count and byte, and every other one is as before. Free is what is usable, not waiting for
retirement and owned by no thread of the unit. Their entries set the lane stream's length, and leave
two-length mode, once they are the head. -/
def Obligations.GrowAndShrink : Prop :=
  (∀ d a b : SReg, let sets := fun (e : LaneEntry) (x : Lane) => { x with v := { x.v with vl := e.a.toNat, vlo := 0, vli := 0 } }
     PartDoes (.setvlGrow d a b) sets ∧ PartDoes (.setvlShrink d a) sets)
  ∧ (∀ (s : State) (uid : Nat),
       (s.freeQuads uid).Pairwise (· < ·) ∧ (s.freeTiles uid).Pairwise (· < ·) ∧ (s.freeSegs uid).Pairwise (· < ·)
       ∧ (∀ q, q ∈ s.freeQuads uid ↔ q < 16 ∧ (s.unitSt uid).usable.getLsbD q = true
         ∧ (s.unitSt uid).pending.getLsbD q = false ∧ ∀ t ∈ s.unitThreads uid, t.alloc.quads.getLsbD q = false)
       ∧ (∀ n, n ∈ s.freeTiles uid ↔ n < 8 ∧ ∀ t ∈ s.unitThreads uid, t.alloc.tiles.getLsbD n = false)
       ∧ ∀ g, g ∈ s.freeSegs uid ↔ g < 12 ∧ ∀ t ∈ s.unitThreads uid, t.alloc.segs.getLsbD g = false)
  ∧ ∀ (s : State) (d a b : SReg), HasFeatures s 1 → s.t.c.v.illegal = false → NoToken s [d, a, b] →
    s.t.q.lane.length < laneDepth →
    (∃ t, exec (.setvlGrow d a b) s = .next t
      ∧ (let g := grant t.lanes s.t.c.v.vtype (s.reg a).toNat
         RegsAfter s t d (BitVec.ofNat 64 g) ∧ t.t.c.v = { s.t.c.v with vl := g, vlo := 0, vli := 0 }
           ∧ t.t.q.lane = s.t.q.lane ++ [⟨s.t.q.pushed, .part, encode (.setvlGrow d a b), s.t.c.pc, BitVec.ofNat 64 g, 0, 0,
               false, t.t.alloc.lanes⟩])
      ∧ (∀ q, s.t.alloc.quads.getLsbD q = true → t.t.alloc.quads.getLsbD q = true)
      ∧ (∀ q, t.t.alloc.quads.getLsbD q = true → s.t.alloc.quads.getLsbD q = true ∨ q ∈ s.freeQuads s.uid)
      ∧ (∀ q, s.t.alloc.tiles.getLsbD q = true → t.t.alloc.tiles.getLsbD q = true)
      ∧ (∀ q, s.t.alloc.segs.getLsbD q = true → t.t.alloc.segs.getLsbD q = true)
      ∧ t.t.c.pc = s.wordAddr + 8
      ∧ let own := (List.range 16).filter (fun q => s.t.alloc.quads.getLsbD q)
        let qs := ((s.freeQuads s.uid).filter (fun q => own.all (fun o => decide (o < q)))).take
          (((s.reg a).toNat + 16383) / 16384 - own.length)
        let ts := (s.freeTiles s.uid).take (min ((s.reg b).toNat % 16) 8 - popc 8 s.t.alloc.tiles.toNat)
        let gs := (s.freeSegs s.uid).take (min ((s.reg b).toNat / 16 % 16) 12 - popc 12 s.t.alloc.segs.toNat)
        (∀ q, t.t.alloc.quads.getLsbD q = (s.t.alloc.quads.getLsbD q || qs.contains q))
        ∧ (∀ n, t.t.alloc.tiles.getLsbD n = (s.t.alloc.tiles.getLsbD n || ts.contains n))
        ∧ (∀ g, t.t.alloc.segs.getLsbD g = (s.t.alloc.segs.getLsbD g || gs.contains g))
        ∧ (∀ x, t.rd x = if qs.any (fun q => decide (arrayBase s.uid + q * 2 ^ 20 ≤ x ∧ x < arrayBase s.uid + (q + 1) * 2 ^ 20))
            || gs.any (fun g => decide (weightBase s.uid + g * 2 ^ 18 ≤ x ∧ x < weightBase s.uid + (g + 1) * 2 ^ 18)) then 0
          else s.rd x)
        ∧ (∀ k, cellGet 0 t.cols k = if qs.any (fun q => decide (colKey s.uid (q * 16384) ≤ k
            ∧ k < colKey s.uid (q * 16384) + 16384)) then 0 else cellGet 0 s.cols k)
        ∧ ∀ k, cellGet 0 t.accs k = if ts.any (fun n => decide (accKey s.uid n 0 0 ≤ k ∧ k < accKey s.uid n 0 0 + 4096))
          then 0 else cellGet 0 s.accs k)
    ∧ (let g := grant s.lanes s.t.c.v.vtype (s.reg a).toNat
       ∃ t, exec (.setvlShrink d a) s = .next t ∧ RegsAfter s t d (BitVec.ofNat 64 g)
        ∧ t.t.alloc = s.t.alloc.keep (max ((g + 16383) / 16384) s.t.task.minQuads)
        ∧ t.t.c.v = { s.t.c.v with vl := g, vlo := 0, vli := 0 }
        ∧ t.t.q.lane = (s.t.q.lane ++ [(⟨s.t.q.pushed, .part, encode (.setvlShrink d a), s.t.c.pc, BitVec.ofNat 64 g, 0,
            0, false, s.t.alloc.lanes⟩ : LaneEntry)]).map (fun e => { e with lanes := min e.lanes t.t.alloc.lanes })
        ∧ t.t.c.pc = s.wordAddr + 8 ∧ ∀ x, t.rd x = s.settle.rd x)

/-- R56, R209: strip subtracts the lanes done from sD (not below 0), advances its pointers, grants the rest to sA and
branches back while lanes remain. Its entry sets the lane stream's length, and leaves two-length mode, once it is the
head. -/
def Obligations.StripStep : Prop :=
  (∀ (d a b : SReg) (z0 z1 z2 z3 : StripSz) (o : BitVec 12), PartDoes (.strip d a b z0 z1 z2 z3 o)
     (fun e x => { x with v := { x.v with vl := e.a.toNat, vlo := 0, vli := 0 } }))
  ∧ ∀ (s : State) (d a b : SReg) (z0 z1 z2 z3 : StripSz) (o : BitVec 12), HasFeatures s 1 →
    s.t.c.v.illegal = false →
    let blen := (vtypeFields s.t.c.v.vtype.toNat).blen
    let vl := s.t.c.v.vl
    let rem := (s.reg d).toNat - vl
    let g := grant s.lanes s.t.c.v.vtype rem
    (StripSz.blk ∈ [z0, z1, z2, z3] → blen ≠ 0) → (rem = 0 ∨ g ≠ 0) → s.t.q.lane.length < laneDepth →
    NoToken s ([d, a] ++ (List.range (stripCount z1 z2 z3)).map (fun j => sreg (b.val + j))) →
    let p := (s.setReg d (BitVec.ofNat 64 rem)).stripPtrs b vl blen [z0, z1, z2, z3]
    ∃ t, exec (.strip d a b z0 z1 z2 z3 o) s = .next t ∧ RegsAfter p t a (BitVec.ofNat 64 g)
      ∧ t.t.c.v = { s.t.c.v with vl := g, vlo := 0, vli := 0 }
      ∧ t.t.c.pc = (if rem ≠ 0 then s.wordAddr + 8 * BitVec.ofInt 64 o.toInt else s.wordAddr + 8)
      ∧ GrantQueued s t (.strip d a b z0 z1 z2 z3 o) g ∧ ∀ x, t.rd x = s.rd x

/-- R54, R55, R210: nest captures its body as it is fetched, and its place, length, dimensions and descriptors in
%nestcfg, clears the counters and goes on.
R168: the words fetched are those in memory, where no stored bit is in error, no frame is assigned, and no word there has
been overwritten since the thread last discarded what it had fetched.
R54, R55: the step of a nest in progress, at the end of its body and with its registers ready: where some counter is below its
count, the innermost such one (dimension 0 is the innermost: the model's choice, log entry 11) is one more, those inside it
are 0 and those outside it as before, s56 to s59 rise by the strides of that dimension alone, and the body begins again; after
the last iteration act clears and nothing is added. Nothing else changes, and away from the end of the body nothing does. -/
def Obligations.NestCapture : Prop :=
  (∀ s : State, let cfg := s.t.c.nestcfg
     let desc := fun j => s.reg (sreg (nestDesc cfg + j))
     let ctr := fun (w : Word) j => wbits w (10 * j + 9) (10 * j)
     let below := fun j => ctr s.t.c.nestctr j < wbits (desc j) 61 52
     let last := nestBody cfg + 8 * nestLen cfg
     ((nestAct cfg = false ∨ s.t.c.pc.toNat ≠ last) → s.nestStep = s)
     ∧ (nestAct cfg = true → s.t.c.pc.toNat = last → NoToken s (nestRegs cfg) →
       ((∀ j < nestDims cfg, j < 6 ∧ ¬ below j) →
         s.nestStep = s.mapC (fun c => { c with nestcfg := cfg &&& ~~~(1#64 <<< 63) }))
       ∧ ∀ j < 6, j < nestDims cfg → below j → (∀ i < j, ¬ below i) →
         let t := s.nestStep
         t = s.mapC (fun c => { c with
           s := t.t.c.s, loads := t.t.c.loads, nestctr := t.t.c.nestctr, pc := BitVec.ofNat 64 (nestBody cfg) })
         ∧ (∀ i < 6, ctr t.t.c.nestctr i = if i < j then 0 else if i = j then ctr s.t.c.nestctr j + 1
             else ctr s.t.c.nestctr i)
         ∧ ∀ q : SReg, t.reg q = if 56 ≤ q.val ∧ q.val < 60
           then s.reg q + BitVec.ofInt 64 ((desc j).extractLsb' (13 * (q.val - 56)) 13).toInt else s.reg q))
  ∧
  (∀ (s : State) (a : Word) (k n : Nat), s.fleet.errors = [] → s.sec.owned = [] →
     (∀ i < n, s.oldFetches (a + BitVec.ofNat 64 (8 * i)) = []) →
     s.fetchBody a k n = (.ok ((List.range n).map (fun i =>
       (k + i, BitVec.ofNat 64 (s.rdN (a + BitVec.ofNat 64 (8 * i)).toNat 8)))), s))
  ∧ ∀ (s s1 : State) (k : Fin 16) (dims : Fin 8) (a : SReg) (ws : List (Nat × Word)), nestSus s.t.c.nestcfg = false →
    let regs := (List.range (dims.val + 1)).map (fun j => sreg (a.val + j))
    let body := (s.wordAddr + 8).toNat
    let words := (List.range (k.val + 1)).map (fun j => body + 8 * j)
    NoToken s regs → (∀ w ∈ words, s.ctxT.fetchable (BitVec.ofNat 64 w) = true) →
    s.fetchBody (s.wordAddr + 8) 0 (k.val + 1) = (.ok ws, s1) → (∀ w ∈ ws, bodyOk w.2 = true) →
    (∀ r ∈ regs, wbits (s.reg r) 63 62 = 0) →
    exec (.nest k dims a) s = .next (s1.mapC (fun c => { c with
      nestctr := 0
      body := ws
      nestcfg := BitVec.ofNat 64
        (2 ^ 63 + k.val * 2 ^ 59 + dims.val * 2 ^ 56 + a.val * 2 ^ 50 + body / 8 % 2 ^ 45)
      pc := s.wordAddr + 8
      committed := c.committed + 1 }))

/-- R211, R390: launch and launch.w, after their release, enter a record that passes its checks into the pool of the die
while depth and pool admit it, and give 0; at depth 8 they give 2; a full pool gives 1 to launch and blocks launch.w,
which keeps the record that it has captured; with a captured record they go on from there. -/
def Obligations.LaunchFromTheDevice : Prop :=
  ∀ (s : State) (d a : SReg), NoToken s [d, a] →
    (∀ (s1 s2 : State) (ws : List Word) (l : Launch), s.t.c.launchRec = none →
      s.drainAccs.t.c.flush = false → s.drainAccs.nothingHeld = true →
      s.alignFault s.ctlAgent .read 128 (s.reg a).toNat 128 = none →
      s.drainAccs.loadWords (s.reg a) 16 = (.ok ws, s1) →
      let cap := match s1.launch? s1.t.task.launch with | some p => p.prio | none => 0
      s1.takeRecord (launchOf s1.sched.nextId (8192 + siteDie s1.t.site) ws (s.reg a) (s1.t.task.depth + 1) cap
        (some s1.t.task.id)) s1.t.task.ctx false false = (.ok l, s2) →
      let s3 : State := { s2 with sched := { s2.sched with
        launches := s2.sched.launches ++ [{ l with
          id := s2.sched.nextId, source := 8192 + siteDie s2.t.site, since := l.since.map (fun _ => s2.gts) }]
        nextId := s2.sched.nextId + 1 } }
      let room := s2.poolAdmits (siteDie s2.t.site) l.depth
      (s2.t.task.depth < 8 → room = true →
        Writes s3 (exec (.launch d a) s) d 0 ∧ Writes s3 (exec (.launchW d a) s) d 0)
      ∧ (8 ≤ s2.t.task.depth → Writes s2 (exec (.launch d a) s) d 2 ∧ Writes s2 (exec (.launchW d a) s) d 2)
      ∧ (s2.t.task.depth < 8 → room = false → Writes s2 (exec (.launch d a) s) d 1
        ∧ exec (.launchW d a) s = .next ((s2.mapC (fun c => { c with launchRec := some l })).block .pool)))
    ∧ ∀ l, s.t.c.launchRec = some l →
      exec (.launch d a) s = s.enterPool d l false ∧ exec (.launchW d a) s = s.enterPool d l true

/-! ### System instructions and traps -/

/-- R30: a lane instruction that passes its checks at decode enters the lane queue with the operand values of its
registers at that moment; bz.end goes on to its pop phase (R443), every other one to the next word.
R27, R184: on a die that lacks the lane stream's feature bq, bqn, vdrain and the push of a vadd take
TC_FEATURE_ABSENT.
R172: what the operands of the head are: a vector group as it stands; a scalar register as it was at the push; the head of q0 or
q1, which leaves its queue and is held in the entry, or the value that the entry holds already, and then nothing leaves; with an
empty queue and no held value there is none yet. The element that each lane receives from a scalar, and the scale of each
block. -/
def Obligations.LaneQueuePushes : Prop :=
  (∀ (s : State) (e : LaneEntry) (l : List LaneEntry) (v : VReg) (r : SReg) (k : BitVec 19), Heads s e l →
     let pops := fun (n : Nat) (x : Option (Word × State)) =>
       (e.bPopped = true → x = some (e.b, s)) ∧ (e.bPopped = false → (s.t.q.get n = [] → x = none)
         ∧ ∀ w rest, s.t.q.get n = w :: rest → ∃ t, x = some (w, t)
           ∧ t = s.mapQ (fun q => { q.set n rest with lane := { e with b := w, bPopped := true } :: l })
           ∧ t.t.q.get n = rest ∧ ∀ j < 4, j ≠ n → t.t.q.get j = s.t.q.get j)
     s.operandB (.vec v) = some (.lanes v.val, s) ∧ s.operandB (.scalar r) = some (.scalar e.b, s)
     ∧ s.operandS (.scalar r) = some (e.b, s) ∧ s.operandK (.imm k) = some (k.toNat, s)
     ∧ s.operandK (.scalar r) = some (e.b.toNat, s) ∧ pops 0 (s.operandS .q0) ∧ pops 1 (s.operandS .q1)
     ∧ s.operandB .q0 = (s.operandS .q0).map (fun p => (.scalar p.1, p.2))
     ∧ s.operandB .q1 = (s.operandS .q1).map (fun p => (.scalar p.1, p.2))
     ∧ s.operandK .q0 = (s.operandS .q0).map (fun p => (p.1.toNat, p.2))
     ∧ s.operandK .q1 = (s.operandS .q1).map (fun p => (p.1.toNat, p.2)))
  ∧ (∀ (s : State) (vt : VType) (v n : Nat) (w : Word),
       s.bElem vt (.lanes v) n = s.elem vt.ew v n ∧ s.bScale vt (.lanes v) n = s.scale vt v n
       ∧ (vt.ew ≤ 64 → s.bElem vt (.scalar w) n = w.toNat % 2 ^ vt.ew)
       ∧ (64 < vt.ew → vt.kind = 0 → s.bElem vt (.scalar w) n = (w.signExtend vt.ew).toNat)
       ∧ (64 < vt.ew → vt.kind ≠ 0 → s.bElem vt (.scalar w) n = w.toNat)
       ∧ (vt.kind = 3 → vt.scaled = true → s.bScale vt (.scalar w) n = ((w.extractLsb' 8 8).toInt, 0))
       ∧ (vt.kind ≠ 3 ∨ vt.scaled = false → s.bScale vt (.scalar w) n = (0, 0)))
  ∧
  (∀ (s : State) (w : Word) (i : Instr), decode w = .ok i → isLane i = true → s.laneTrap i = none →
     let r := laneRegs i
     NoToken s [r.1, r.2.1, r.2.2] → s.t.q.lane.length < laneDepth →
     ∃ t, exec (.laneQueuePush w) s = .next t
       ∧ t.t.q.lane = s.t.q.lane ++ [⟨s.t.q.pushed, (match i with | .bzEnd .. => .probe | _ => .instr), w, s.t.c.pc,
           s.pushA i (s.reg r.1) (s.reg r.2.1), s.reg r.2.1, s.reg r.2.2, false, s.t.alloc.lanes⟩]
       ∧ t.t.c.pc = (match i with | .bzEnd .. => s.wordAddr ||| 2 | _ => s.wordAddr + 8)
       ∧ (∀ q, t.reg q = s.reg q) ∧ t.t.l = s.t.l ∧ ∀ a, t.rd a = s.rd a)
  ∧ (∀ (s : State) (tr : Trap), s.lacks 1 = some tr →
       tr.cause = .featureAbsent ∧ (∀ o, exec (.bq o) s = .next (s.trap tr) ∧ exec (.bqn o) s = .next (s.trap tr))
       ∧ exec .vdrain s = .next (s.trap tr)
       ∧ ∀ w m d a b, decode w = .ok (.vadd m d a b) → NoToken s [(laneRegs (.vadd m d a b)).2.1] →
         exec (.laneQueuePush w) s = .next (s.trap tr))

/-- R19, R21, R25, R26, R212, R213, R431: what mfsr reads from each system register, and nothing else changes: of the
registers whose reads wait (R21: %vstart, %edone, %xclass, %xflags, %xen, %mstack.depth) where every earlier lane
instruction has completed, of every other one whether or not. What %vcp holds at an idle lane stream is the model's choice
(log entry 12). %dbgctl reads 0 while debug is locked for the context.
R21: a read of a register that waits is blocked while a lane instruction has not completed. -/
def Obligations.SystemRegisterReadResults : Prop :=
  (∀ (s : State) (d : SReg), NoToken s [d] →
     (∀ p ∈ ([(0x00, BitVec.ofNat 64 s.t.c.v.vl), (0x01, BitVec.ofNat 64 s.t.c.v.vlo), (0x02, BitVec.ofNat 64 s.t.c.v.vli),
         (0x03, s.t.c.v.vtype), (0x04, BitVec.ofNat 64 s.t.l.vstart), (0x05, s.vcp), (0x06, BitVec.ofNat 64 s.edone),
         (0x07, s.t.l.xclass.setWidth 64), (0x08, s.t.l.xflags.setWidth 64), (0x09, s.t.l.xen.setWidth 64),
         (0x0A, BitVec.ofNat 64 s.t.l.depth), (0x0B, s.t.task.wid), (0x0C, s.quadsReg),
         (0x0D, BitVec.ofNat 64 (s.feat (siteDie s.t.site))), (0x0E, 0x335666#64), (0x0F, BitVec.ofNat 64 s.ctxT.bankkey),
         (0x10, BitVec.ofNat 64 s.ctxT.rquota), (0x11, 0x00FFFC0000000000#64), (0x12, s.t.c.drawkey.extractLsb' 0 64),
         (0x13, s.t.c.drawkey.extractLsb' 64 64), (0x14, s.t.c.drawid.setWidth 64), (0x15, BitVec.ofNat 64 s.gts),
         (0x16, s.t.c.tvec), (0x17, s.t.c.nestctr), (0x18, s.t.c.nestcfg), (0x19, if s.locked s.t.task.ctx then 0 else s.t.dbg.ctl), (0x1A, s.ctxT.codebase),
         (0x1B, s.ctxT.codebound), (0x1C, BitVec.ofNat 64 s.ctxT.nakbackoff)] : List (Fin 64 × Word)),
       (p.1 ∈ [(0x04 : Fin 64), 0x06, 0x07, 0x08, 0x09, 0x0A] → s.laneIdle = true) → Writes s (exec (.mfsr d p.1) s) d p.2)
     ∧ ∀ n : Fin 64, (n ∈ [(0x04 : Fin 64), 0x06, 0x07, 0x08, 0x09, 0x0A] → s.laneIdle = true) →
       Writes s (exec (.mfsr d n) s) d (s.sysRead n.val))
  ∧ (∀ (s : State) (d : SReg) (n : Fin 64), NoToken s [d] → s.laneIdle = false →
       n ∈ [(0x04 : Fin 64), 0x06, 0x07, 0x08, 0x09, 0x0A] → exec (.mfsr d n) s = .next (s.block .sysRead))

/-- R212, R213, R24: mtsr sets %tvec at once; every other register in the lane stream, through the lane queue; the
draw registers in the control stream too. A reserved bit of a flag register traps TC_ILLEGAL_CONFIG.
At the head of the lane queue the entry sets %vstart (its low 19 bits), %xclass, %xflags or %xen (eight bits), half of
%drawkey, or %drawid; that of any other register sets nothing. -/
def Obligations.SystemRegisterWrites : Prop :=
  (∀ (n : Fin 64) (a : SReg), PartDoes (.mtsr n a) (fun e l =>
     if n = 0x04 then { l with vstart := e.a.toNat % 2 ^ 19 }
     else if n = 0x07 then { l with xclass := e.a.setWidth 8 }
     else if n = 0x08 then { l with xflags := e.a.setWidth 8 }
     else if n = 0x09 then { l with xen := e.a.setWidth 8 }
     else if n = 0x12 then { l with drawkey := l.drawkey.extractLsb' 64 64 ++ e.a }
     else if n = 0x13 then { l with drawkey := e.a ++ l.drawkey.extractLsb' 0 64 }
     else if n = 0x14 then { l with drawid := e.a.setWidth 32 }
     else l))
  ∧ ∀ (s : State) (n : Fin 64) (a : SReg), NoToken s [a] →
    (n = 0x16 → exec (.mtsr n a) s = .next (s.mapC (fun c => { c with
      tvec := s.reg a &&& 0xFFFFFFFFFFFF#64, pc := s.wordAddr + 8, committed := c.committed + 1 })))
    ∧ (n ≠ 0x16 → s.t.q.lane.length < laneDepth → (n ∈ [(0x07 : Fin 64), 0x08, 0x09] → wbits (s.reg a) 63 8 = 0) →
      ∃ t, exec (.mtsr n a) s = .next t
        ∧ t.t.q.lane = s.t.q.lane
          ++ [⟨s.t.q.pushed, .part, encode (.mtsr n a), s.t.c.pc, s.reg a, 0, 0, false, s.t.alloc.lanes⟩]
        ∧ t.t.c.pc = s.wordAddr + 8 ∧ (∀ q, t.reg q = s.reg q) ∧ t.t.l = s.t.l ∧ t.t.c.tvec = s.t.c.tvec
        ∧ (n = 0x12 → t.t.c.drawkey = s.t.c.drawkey.extractLsb' 64 64 ++ s.reg a)
        ∧ (n = 0x13 → t.t.c.drawkey = s.reg a ++ s.t.c.drawkey.extractLsb' 0 64)
        ∧ (n = 0x14 → t.t.c.drawid = (s.reg a).setWidth 32)
        ∧ (n ∉ [(0x12 : Fin 64), 0x13, 0x14] → t.t.c.drawkey = s.t.c.drawkey ∧ t.t.c.drawid = s.t.c.drawid)
        ∧ ∀ x, t.rd x = s.rd x)
    ∧ (n ∈ [(0x07 : Fin 64), 0x08, 0x09] → wbits (s.reg a) 63 8 ≠ 0 →
      exec (.mtsr n a) s = .next (s.trap (Trap.of .illegalConfig)))

/-- R59, R60, R205, R214, R219 to R221, R183: nop, ifence, tfence, yieldpt, exit and a reserved word. ifence discards what the thread had
fetched, after its accesses have been performed, which is the model's choice (log entry 9); tfence traps TC_ARITH where an enabled flag is set; yieldpt stops the
thread where a soft pre-emption is pending, and its entry, once it is the head of the lane queue, clears every owned tile
outside the live set and no other count; exit ends its control stream and drops a soft pre-emption; brk, with debug off,
takes TC_BREAK with resume at the next word; a reserved encoding takes TC_ILLEGAL_WORD at its word. -/
def Obligations.ThreadControlWords : Prop :=
  (∀ (s : State) (e : LaneEntry) (l : List LaneEntry), s.t.q.lane = e :: l → e.kind = .part →
     decode e.word = .ok .yieldpt → s.clusters = [] → ∃ t, s.laneHead = .inl t ∧ t.t = { s.t with q := { s.t.q with lane := l } }
       ∧ t.mem = s.mem ∧ ∀ uid n i k, n < 8 → i < 32 → k < 128 → t.count64 n i k
         = (if s.t.alloc.tiles.getLsbD n = true ∧ s.t.l.live.getLsbD n = false then 0 else s.count64 n i k)
           ∧ (uid ≠ s.uid → cellGet 0 t.accs (accKey uid n i k) = cellGet 0 s.accs (accKey uid n i k)))
  ∧ ∀ (s : State) (code : BitVec 16) (w : Word),
    GoesTo s (exec .nop s) (s.wordAddr + 8)
    ∧ exec .ifence s = .next (s.drainAccs.mapC (fun c => { c with
      fetchFrom := s.drainAccs.stale.length, pc := s.wordAddr + 8, committed := c.committed + 1 }))
    ∧ (s.laneIdle = true → s.t.l.xflags &&& s.t.l.xen = 0 → GoesTo s (exec .tfence s) (s.wordAddr + 8))
    ∧ (s.laneIdle = true → s.t.l.xflags &&& s.t.l.xen ≠ 0 →
      exec .tfence s = .next (s.trap { Trap.of .arith with detail := (s.t.l.xflags &&& s.t.l.xen).toNat }))
    ∧ (s.t.q.lane.length < laneDepth → ∃ t, exec .yieldpt s = .next t
      ∧ t.t.status = (if s.t.preempt = .soft then .preempting else s.t.status) ∧ t.t.c.pc = s.wordAddr + 8
      ∧ t.t.q.lane = s.t.q.lane ++ [⟨s.t.q.pushed, .part, encode .yieldpt, s.t.c.pc, 0, 0, 0, false, s.t.alloc.lanes⟩]
      ∧ (∀ q, t.reg q = s.reg q) ∧ t.t.l = s.t.l ∧ ∀ x, t.rd x = s.rd x)
    ∧ (∃ t, exec .exit s = .next t ∧ t.t.status = .exiting ∧ t.t.preempt = (if s.t.preempt = .soft then .none else s.t.preempt)
      ∧ t.t.q.lane = s.t.q.lane ∧ t.t.l = s.t.l ∧ (∀ q, t.reg q = s.reg q) ∧ ∀ x, t.rd x = s.rd x)
    ∧ (s.t.laneBusy = false → s.accBusy = false → NoTrace s →
      exec (.brk code) s = .next (s.advance.trap { Trap.of .brk with detail := code.toNat }))
    ∧ exec (.reservedEncoding w) s = .next (({ s with t := { s.t with c := { s.t.c with pc := s.wordAddr } } } : State).trap
      (Trap.of .illegalWord))

/-- R59, R204, R367: vdead goes on once every earlier lane instruction has completed, and is blocked until then; then the
slot or mask column reads zero in every owned lane and is dead, and every byte outside it is as before. -/
def Obligations.VdeadClears : Prop :=
  ∀ (s : State) (n : Fin 32), HasFeatures s 1 → NoneAway s →
    (s.laneIdle = false → ∀ b, exec (.vdead b n) s = .next (s.block .vdead))
    ∧ (s.laneIdle = true → ∃ t, exec (.vdead false n) s = .next t
      ∧ (∀ l < s.lanes, t.rd (s.slotCell n.val l) = 0 ∧ t.rd (s.slotCell n.val l + 1) = 0)
      ∧ (∀ a, (∀ l < s.lanes, a ≠ s.slotCell n.val l ∧ a ≠ s.slotCell n.val l + 1) → t.rd a = s.rd a)
      ∧ t.t.l.deadSlots.getLsbD n.val = true ∧ t.t.c.pc = s.wordAddr + 8 ∧ ∀ q, t.reg q = s.reg q)
    ∧ (s.laneIdle = true → ∃ t, exec (.vdead true n) s = .next t
      ∧ (∀ l < s.lanes, (t.colWord l).getLsbD n.val = false)
      ∧ (∀ l k, k ≠ n.val → (t.colWord l).getLsbD k = (s.colWord l).getLsbD k)
      ∧ t.t.l.deadMasks.getLsbD n.val = true ∧ t.t.c.pc = s.wordAddr + 8 ∧ (∀ q, t.reg q = s.reg q)
      ∧ ∀ a, t.rd a = s.rd a)

/-- R180, R168: a pair executes slot A and then slot B, at the address of the word with bit 2 set; a stall or a trap in
slot A holds slot B; slot B that has stalled or trapped is executed again from its address. The word is kept until slot B
has been executed. Two nops are one committed word.
R180, R181: a pair of two register additions, in the low bank and then in the high bank (R179). -/
def Obligations.PairsRunTheirSlots : Prop :=
  (∀ (s t : State) (a b : Short), s.t.c.pc.getLsbD 2 = false → s.runShort false (encode (.pair a b)) a = .next t →
     let ends := fun (u : State) => if u.t.c.committed = s.t.c.committed then u
       else u.mapC (fun c => { c with popWord := none })
     (t.t.c.committed = s.t.c.committed → exec (.pair a b) s = .next t)
     ∧ (t.t.c.committed ≠ s.t.c.committed → ∀ u,
       ((t.mapC (fun c => { c with
         pc := s.wordAddr ||| 4, committed := s.t.c.committed, popWord := some (encode (.pair a b)) })).runShort true
         (encode (.pair a b)) b) = .next u → exec (.pair a b) s = .next (ends u))
     ∧ GoesTo (s.mapC (fun c => { c with popWord := none })) (exec (.pair .nop .nop) s) (s.wordAddr + 8))
  ∧ (∀ (s u : State) (a b : Short), s.t.c.pc.getLsbD 2 = true →
       ((s.mapC (fun c => { c with pc := s.wordAddr ||| 4, popWord := some (encode (.pair a b)) })).runShort true
         (encode (.pair a b)) b) = .next u →
       exec (.pair a b) s = .next (if u.t.c.committed = s.t.c.committed then u
         else u.mapC (fun c => { c with popWord := none })))
  ∧ (∀ (s : State) (d a b e f g : Fin 32), s.t.c.pc.getLsbD 2 = false →
       NoToken s [bankS false d, bankS false a, bankS false b, bankS true e, bankS true f, bankS true g] →
       ∃ t u, Writes s (.next t) (bankS false d) (s.reg (bankS false a) + s.reg (bankS false b))
         ∧ exec (.pair (.alu .add d a b) (.alu .add e f g)) s = .next u ∧ u.t.c.pc = s.wordAddr + 8
         ∧ RegsAfter t u (bankS true e) (t.reg (bankS true f) + t.reg (bankS true g))
         ∧ u.t.c.committed = s.t.c.committed + 1)

/-- R216, R217: a trap that the user vector takes, while nothing that the lane stream has started is left and no access on
its way loads sp: four stores of the frame below sp are put on their way, sp falls by 32, the lane queue is held, and the
control stream goes to the vector. The frame's first two words are the program counter and the cause word, the others the
two-length state and the vector-state word of the lane stream. The control copies are kept for the return.
R216, R400, R402: a trap of a cause that never goes to the user vector, TC_FEATURE_ABSENT apart, or one that cannot, since
%tvec is 0, sp is misaligned, a data error raised it, the vector cannot be fetched from, entries are held already, or the
frame cannot be written, goes to the driver: a record waits for the fault queue, the thread is faulted under a fresh replay
token, and nothing else changes but that bytes read ahead are read again; that the lane queue's entries stay in it until
REPLAY is the model's choice (log entry 17). TC_STEP leaves only a record, without a token (R315). R357: TC_FEATURE_ABSENT
leaves a record without a token, its task ends as R358 has it, and its launch's required mask gains the absent bit.
R216: at delivery to the user vector a nest in progress becomes one suspended (step 4), and the control copies of the
mask-stack depth and of the matrix configuration take the lane stream's values (the model's choice: log entry 22).
R215 to R217: the cause word: the code of the cause in bits 7:0, the reason in bits 12:8, the stream in bits 15:13
and the detail above. -/
def Obligations.TrapEntry : Prop :=
  (∀ (s s1 : State) (tr : Trap) (l0 l1 l2 l3 : List Loc),
     s.t.status = .running → s.t.laneBusy = false → s.accBusy = false → s.t.l.returns = [] → s.t.l.stores = [] →
     NoTrace s → (∀ op ∈ s.t.c.accs, op.dest ≠ some spReg.val) → s.t.task.ended = false →
     tr.cause.user = true → tr.dataErr = 0 → s.t.c.tvec ≠ 0 → (s.reg spReg).toNat % 16 = 0 → s.t.q.held = [] →
     nestSus s.t.c.nestcfg = false → s.ctxT.fetchable s.t.c.tvec = true →
     s.checkWords .write (s.reg spReg - 32).toNat 4 = (.ok [l0, l1, l2, l3], s1) →
     ∃ t o0 o1 o2 o3, s.trap tr = t ∧ t.t.c.pc = s.t.c.tvec ∧ t.t.status = .running
       ∧ RegsAfter s t spReg (s.reg spReg - 32) ∧ t.t.q.held = s.t.q.lane ∧ t.t.q.lane = []
       ∧ t.t.c.trapV = (s.reg spReg - 32, s.t.c.v) :: s.t.c.trapV ∧ t.t.c.committed = s.t.c.committed
       ∧ nestAct t.t.c.nestcfg = false ∧ nestSus t.t.c.nestcfg = nestAct s.t.c.nestcfg
       ∧ (∀ i, i ≠ 63 → i ≠ 49 → t.t.c.nestcfg.getLsbD i = s.t.c.nestcfg.getLsbD i)
       ∧ t.t.c.nestctr = s.t.c.nestctr ∧ t.t.c.v = s.t.c.v ∧ t.t.c.depth = s.t.l.depth ∧ t.t.c.mcfg = s.t.l.mcfg
       ∧ t.t.l = { s.t.l with early := [] }
       ∧ t.t.c.accs = s.t.c.accs ++ [o0, o1, o2, o3]
       ∧ o0.locs = l0 ∧ o0.kind = .store s.t.c.pc.toNat ∧ o1.locs = l1 ∧ o1.kind = .store tr.word
       ∧ o2.locs = l2 ∧ o2.kind = .store (s.t.l.v.vli * 2 ^ 32 + s.t.l.v.vlo)
       ∧ o3.locs = l3 ∧ o3.kind = .store (vstateWord s.t.l.depth s.t.l.v).toNat ∧ ∀ a, t.rd a = s.rd a)
  ∧ (∀ (s s1 : State) (tr : Trap) (f : AccFault), s.t.status ≠ .preempting → s.t.laneBusy = false → s.accBusy = false →
       s.t.l.returns = [] → s.t.l.stores = [] → NoTrace s → (∀ op ∈ s.t.c.accs, op.dest ≠ some spReg.val) →
       (tr.cause.user = false ∨ s.t.c.tvec = 0 ∨ (s.reg spReg).toNat % 16 ≠ 0 ∨ tr.dataErr ≠ 0
         ∨ s.ctxT.fetchable s.t.c.tvec = false ∨ s.t.q.held ≠ [] ∨ nestSus s.t.c.nestcfg = true
         ∨ s.checkWords .write (s.reg spReg - 32).toNat 4 = (.error f, s1)) →
       (tr.cause = .stepEnd → s.trap tr
         = { s with t := s.t.noEarly, host := { s.host with fqWait := s.host.fqWait ++ [s.trapRecord tr 0] } })
       ∧ (tr.cause = .featureAbsent → (s.trap tr).t = s.t.noEarly.stopTask ∧ (s.trap tr).t.status = .exiting
         ∧ (s.trap tr).host = { s.host with fqWait := s.host.fqWait ++ [s.trapRecord tr 0] }
         ∧ (s.trap tr).mem = s.mem ∧ ∀ l, s.launch? s.t.task.launch = some l →
           ∃ l', (s.trap tr).launch? s.t.task.launch = some l' ∧ l'.mask = l.mask ||| 2 ^ tr.feat)
       ∧ (tr.cause ≠ .featureAbsent → tr.cause ≠ .stepEnd → s.trap tr = { s with
         t := { s.t.noEarly with status := .faulted s.sched.nextToken }
         host := { s.host with fqWait := s.host.fqWait ++ [s.trapRecord tr s.sched.nextToken] }
         sched := { s.sched with
           nextToken := s.sched.nextToken + 1
           tokens := s.sched.tokens ++ [(s.sched.nextToken, .task s.t.task.id tr.cause.code)] } }))
  ∧ (∀ tr : Trap, tr.detail < 2 ^ 48 → tr.stream < 8 → tr.reason < 32 →
       bits tr.word 7 0 = tr.cause.code ∧ bits tr.word 12 8 = tr.reason ∧ bits tr.word 15 13 = tr.stream
       ∧ bits tr.word 63 16 = tr.detail ∧ 1 ≤ tr.cause.code ∧ tr.cause.code ≤ 16)

/-- R218: tret, where its frame can be read as s1 has read it, adds 32 to sp, goes to the resume address, puts the lane
part that restores the vector state into the lane queue and the held entries after it, and restores the control copies of
the trap whose frame stands at sp. That a moved frame takes those of the last trap, and a return without a trap those of
task start, is the model's choice (log entry 59). A suspended nest is in progress again. The control copies of the depth and
of the matrix configuration are those of the frame and of before, changed by the held entries as they are pushed again: mpush
and mpop count, mcfg sets. Once its entry is the head, the lane stream's vector state and depth are
restored, with two-length mode where the frame's outer length is not 0. -/
def Obligations.TrapReturn : Prop :=
  PartDoes .tret (fun e l => { l with v := l.v.restore2 e.c.toNat e.a e.b, depth := vstateDepth e.a })
  ∧ (∀ (v : VState) (n : Nat) (w two : Word), let o := wbits two 18 0
       let i := wbits two 50 32
       v.restore2 n w two = if o = 0 then v.restore n w else (v.restore n w).two (twoOuter n o i) i)
  ∧ (∀ (c : Ctrl) (e : LaneEntry) (m : MReg) (a : SReg) (i : Instr), e.kind = .instr → decode e.word = .ok i →
       (i = .mpush m → c.reissue e = { c with depth := c.depth + 1 })
       ∧ (i = .mpop → c.reissue e = { c with depth := c.depth - 1 })
       ∧ (i = .mcfg a → c.reissue e = { c with mcfg := e.a })
       ∧ ((∀ m, i ≠ .mpush m) → i ≠ .mpop → (∀ a, i ≠ .mcfg a) → c.reissue e = c))
  ∧ ∀ (s s1 : State) (resume cause two vst : Word), NoToken s [spReg] →
    s.alignFault s.ctlAgent .read 32 (s.reg spReg).toNat 16 = none →
    s.loadWords (s.reg spReg) 4 = (.ok [resume, cause, two, vst], s1) → resumeOk resume = true →
    vstateDepth vst ≤ s1.t.c.depth → s1.tretRoom = true →
    ∃ t, exec .tret s = .next t ∧ t.t.c.pc = resume ∧ RegsAfter s1 t spReg (s1.reg spReg + 32)
      ∧ (∀ (l r : List (Word × VState)) (v : VState), s1.t.c.trapV = l ++ (s1.reg spReg, v) :: r →
        (∀ p ∈ l, p.1 ≠ s1.reg spReg) → t.t.c.v = v ∧ t.t.c.trapV = r)
      ∧ (∀ (p : Word × VState) (r : List (Word × VState)), s1.t.c.trapV = p :: r →
        (∀ x ∈ s1.t.c.trapV, x.1 ≠ s1.reg spReg) → t.t.c.v = p.2 ∧ t.t.c.trapV = r)
      ∧ (s1.t.c.trapV = [] → t.t.c.v = .start ∧ t.t.c.trapV = []) ∧ t.t.q.held = []
      ∧ nestAct t.t.c.nestcfg = (nestAct s1.t.c.nestcfg || nestSus s1.t.c.nestcfg) ∧ nestSus t.t.c.nestcfg = false
      ∧ (∀ i, i ≠ 63 → i ≠ 49 → t.t.c.nestcfg.getLsbD i = s1.t.c.nestcfg.getLsbD i) ∧ t.t.c.nestctr = s1.t.c.nestctr
      ∧ (let c := s1.t.q.held.foldl Ctrl.reissue { s1.t.c with depth := vstateDepth vst }
         t.t.c.depth = c.depth ∧ t.t.c.mcfg = c.mcfg)
      ∧ t.t.q.lane = s1.t.q.lane ++ [⟨s1.t.q.pushed, .part, encode .tret, s1.t.c.pc, vst, two,
          BitVec.ofNat 64 s1.t.alloc.lanes, false, s1.t.alloc.lanes⟩] ++ s1.t.q.held
      ∧ t.t.l = s1.t.l ∧ ∀ a, t.rd a = s1.rd a

/-! ### Lane instructions: results -/

/-- R22, R41, R225, R226, R290, R300, R59: vcfg, setvl2, mcfg and mlive at the head of the lane queue set the lane
stream's type, two-length state, matrix configuration and live set from the operands captured at push; mzero zeroes the
counts of its tile and of no other one, and no thread, memory or mask changes. Each then leaves the queue.
R23, R225: a legal type takes effect and cuts VL to whole blocks; an illegal one leaves the illegal state. In two-length
mode a legal type keeps the lengths, and one whose block is longer than the padded inner length leaves the illegal state.
R41: a length of 0 makes both streams' lengths 0; else each inner row is padded to the least power of two that holds it,
and the outer length granted is the one asked for, or as many rows as the owned lanes hold. -/
def Obligations.LaneTypeAndConfiguration : Prop :=
  (∀ (s : State) (e : LaneEntry) (l : List LaneEntry) (a b : SReg) (t : TReg) (set : BitVec 8), Heads s e l →
     exec (.vcfg a) s = .next (s.mapL (fun x => { x with v := x.v.config e.a })).lanePop
     ∧ exec (.setvl2 a b) s = .next (s.mapL (fun x => { x with v := x.v.two e.a.toNat e.b.toNat })).lanePop
     ∧ exec (.mcfg a) s = .next ((s.mapL (fun x => { x with mcfg := e.a })).laneDone 0)
     ∧ exec (.mlive set) s = .next ((s.mapL (fun x => { x with live := set })).laneDone 0)
     ∧ exec (.mzero t) s = .next ((s.zeroTile t.val).laneDone 0)
     ∧ (s.clusters = [] → let u := s.zeroTile t.val
       u.t = s.t ∧ u.others = s.others ∧ u.mem = s.mem ∧ u.cols = s.cols
         ∧ ∀ uid k i n, k < 8 → i < 32 → n < 128 → u.count64 k i n = (if k = t.val then 0 else s.count64 k i n)
           ∧ (uid ≠ s.uid → cellGet 0 u.accs (accKey uid k i n) = cellGet 0 s.accs (accKey uid k i n))))
  ∧ (∀ (v : VState) (w : Word),
       (vtypeLegal w.toNat = false → v.config w = { v with illegal := true })
       ∧ (vtypeLegal w.toNat = true → v.vlo = 0 →
         let b := (vtypeFields w.toNat).blen
         (v.config w).vtype = w ∧ (v.config w).illegal = false ∧ (v.config w).vl ≤ v.vl
           ∧ (b = 0 → (v.config w).vl = v.vl) ∧ (b ≠ 0 → b ∣ (v.config w).vl ∧ v.vl < (v.config w).vl + b))
       ∧ (vtypeLegal w.toNat = true → v.vlo ≠ 0 → v.config w = if v.vl / v.vlo < (vtypeFields w.toNat).blen
           then { v with illegal := true } else { v with vtype := w, illegal := false }))
  ∧ (∀ (v : VState) (lanes outer inner : Nat),
       (inner = 0 ∨ outer = 0 → v.two outer inner = { v with vl := 0, vlo := 0, vli := 0 })
       ∧ (inner = 0 → twoOuter lanes outer inner = 0)
       ∧ (0 < inner → ∃ k, inner ≤ 2 ^ k ∧ (∀ j, inner ≤ 2 ^ j → k ≤ j)
         ∧ twoOuter lanes outer inner = min outer (lanes / 2 ^ k)
         ∧ (0 < outer → v.two outer inner = { v with vl := outer * 2 ^ k, vlo := outer, vli := inner })))

/-- R227, R228, R229: integer arithmetic at the head of the lane queue gives each active lane the exact result of its
elements, fitted to the type; division by zero gives all ones, the remainder by zero the dividend, with ZD.
R64, R228: an exact integer result fitted to w bits: wrapped modulo 2^w without flags, or saturated to the bounds
of the type with SV where it is cut. -/
def Obligations.IntegerLaneResults : Prop :=
  (∀ (s s1 : State) (m : GuardX) (d a : VReg) (b : BSrc) (v : BVal) (e : LaneEntry) (l : List LaneEntry),
     Heads s e l → NoTrace s → s.operandB b = some (v, s1) →
     let vt := s1.vt
     let x := fun n => vt.int (s1.elem vt.ew a.val n)
     let y := fun n => vt.int (s1.bElem vt v n)
     let gives := fun (i : Instr) (f : Nat → Flagged) =>
       exec i s = .next (s1.gives m vt d fun n => ⟨n, (f n).val, 0, (f n).fl⟩)
     gives (.vadd m d a b) (fun n => vt.fit (x n + y n))
     ∧ gives (.vsub m d a b) (fun n => vt.fit (x n - y n))
     ∧ gives (.vmul m d a b) (fun n => vt.fit (x n * y n))
     ∧ gives (.vmulh m d a b) (fun n => ⟨wrapInt vt.ew (x n * y n / (2 ^ vt.ew : Nat)), 0⟩)
     ∧ gives (.vdiv m d a b) (fun n => if y n = 0 then ⟨2 ^ vt.ew - 1, flZD⟩ else vt.fit ((x n).tdiv (y n)))
     ∧ gives (.vrem m d a b) (fun n => if y n = 0 then ⟨s1.elem vt.ew a.val n, flZD⟩ else vt.fit ((x n).tmod (y n)))
     ∧ gives (.vmin m d a b) (fun n => vt.fit (min (x n) (y n)))
     ∧ gives (.vmax m d a b) (fun n => vt.fit (max (x n) (y n))))
  ∧ (∀ (signed : Bool) (w : Nat) (x : Int), 0 < w →
       fitInt signed false w x = ⟨(x % (2 ^ w : Nat)).toNat, 0⟩
       ∧ intVal signed w (fitInt signed true w x).val = max (intMin signed w) (min (intMax signed w) x)
       ∧ ((fitInt signed true w x).fl = 0 ↔ intMin signed w ≤ x ∧ x ≤ intMax signed w))

/-- R228, R230, R231: negation, absolute value, shifts by an immediate or by the lane's own amount, funnel shifts. -/
def Obligations.LaneShiftResults : Prop :=
  ∀ (s s1 : State) (m : GuardX) (g : Guard) (d a c : VReg) (b : BSrc) (v : BVal) (k : BitVec 7) (e : LaneEntry)
    (l : List LaneEntry), Heads s e l →
    let vt := s.vt
    let x := fun n => s.elem vt.ew a.val n
    let z := fun n => s.elem vt.ew c.val n
    let gives := fun (i : Instr) (m : GuardX) (f : Nat → Flagged) =>
      exec i s = .next (s.gives m vt d fun n => ⟨n, (f n).val, 0, (f n).fl⟩)
    let sll := fun (vt : VType) (x k : Nat) =>
      if vt.ew ≤ k && !vt.sat then (⟨0, 0⟩ : Flagged) else vt.fit (vt.int x * (2 ^ min k 128 : Nat))
    let srl := fun (vt : VType) (x k : Nat) => (⟨x / 2 ^ min k vt.ew, 0⟩ : Flagged)
    let sra := fun (vt : VType) (x k : Nat) =>
      (⟨wrapInt vt.ew (sextNat vt.ew x / (2 ^ min k vt.ew : Nat)), 0⟩ : Flagged)
    gives (.vneg m d a) m (fun n => vt.fit (-(vt.int (x n))))
    ∧ gives (.vabs m d a) m (fun n => vt.fit |vt.int (x n)|)
    ∧ gives (.vsll m d a (.imm k)) m (fun n => sll vt (x n) k.toNat)
    ∧ gives (.vsrl m d a (.imm k)) m (fun n => srl vt (x n) k.toNat)
    ∧ gives (.vsra m d a (.imm k)) m (fun n => sra vt (x n) k.toNat)
    ∧ gives (.vfsl g d a c k) ⟨g, 0⟩ (fun n => ⟨(x n * 2 ^ k.toNat + z n / 2 ^ (vt.ew - k.toNat)) % 2 ^ vt.ew, 0⟩)
    ∧ gives (.vfsr g d a c k) ⟨g, 0⟩ (fun n => ⟨(z n / 2 ^ k.toNat + x n * 2 ^ (vt.ew - k.toNat)) % 2 ^ vt.ew, 0⟩)
    ∧ (s.operandB b = some (v, s1) →
      let vt := s1.vt
      let by' := fun (i : Instr) (f : VType → Nat → Nat → Flagged) =>
        exec i s = .next (s1.gives m vt d fun n =>
          ⟨n, (f vt (s1.elem vt.ew a.val n) (s1.bElem vt v n)).val, 0, (f vt (s1.elem vt.ew a.val n) (s1.bElem vt v n)).fl⟩)
      by' (.vsll m d a (.b b)) sll ∧ by' (.vsrl m d a (.b b)) srl ∧ by' (.vsra m d a (.b b)) sra)

/-- R224, R227, R232, R233, R235, R236: logic, tables of three inputs, select, moves and lane numbers give each active
lane the bits shown, with the block scales of the source, and the flag of a scale that is not defined, which is the
model's choice (log entry 59).
R233: bit i of a table result is the table's bit at the three inputs' bits i. -/
def Obligations.LogicLaneResults : Prop :=
  (∀ (s s1 : State) (g : Guard) (d a : VReg) (b : BSrc) (v : BVal) (c : MReg) (e : LaneEntry) (l : List LaneEntry),
     Heads s e l → NoTrace s → s.operandB b = some (v, s1) →
     let vt := s1.vt
     let x := fun n => s1.elem vt.ew a.val n
     let y := fun n => s1.bElem vt v n
     let sc := fun n => s1.scale vt a.val n
     let bits := fun (i : Instr) (f : Nat → Nat → Nat) =>
       exec i s = .next (s1.gives ⟨g, 0⟩ vt d fun n => ⟨n, f (x n) (y n), (sc n).1, (sc n).2⟩)
     bits (.vand g d a b) (· &&& ·) ∧ bits (.vor g d a b) (· ||| ·) ∧ bits (.vxor g d a b) (· ^^^ ·)
     ∧ bits (.vandn g d a b) (fun x y => x &&& notBits vt.ew y) ∧ bits (.vxnor g d a b) (fun x y => notBits vt.ew (x ^^^ y))
     ∧ exec (.vnot g d a) s = .next (s.gives ⟨g, 0⟩ s.vt d fun n =>
         ⟨n, notBits s.vt.ew (s.elem s.vt.ew a.val n), (s.scale s.vt a.val n).1, (s.scale s.vt a.val n).2⟩)
     ∧ (∀ (p q : VReg) (t : BitVec 8), exec (.vlut3 g d a p q t) s = .next (s.gives ⟨g, 0⟩ s.vt d fun n =>
         ⟨n, lut3 t s.vt.ew (s.elem s.vt.ew a.val n) (s.elem s.vt.ew p.val n) (s.elem s.vt.ew q.val n),
           (s.scale s.vt a.val n).1, (s.scale s.vt a.val n).2⟩))
     ∧ (vt.scaled = false → exec (.vsel g d a b c) s = .next (s1.gives ⟨g, 0⟩ vt d fun n =>
         ⟨n, if s1.mask c n then x n else y n, 0, 0⟩))
     ∧ (vt.scaled = true → exec (.vsel g d a b c) s = .next (s1.gives ⟨g, 0⟩ vt d fun n =>
         let r := if s1.mask c (s1.t.l.v.blockFirst vt.blen n) then sc n else s1.bScale vt v n
         ⟨n, if s1.mask c n then x n else y n, r.1, r.2⟩))
     ∧ exec (.vmov g d b) s = .next (s1.gives ⟨g, 0⟩ vt d fun n => ⟨n, y n, (s1.bScale vt v n).1, (s1.bScale vt v n).2⟩)
     ∧ ∀ sel, exec (.vid g sel d) s = .next (s.gives ⟨g, 0⟩ s.vt d fun n =>
         ⟨n, (match sel with | .lane => n | .inner => s.t.l.v.inner n | .outer => s.t.l.v.outer n) % 2 ^ s.vt.ew, 0, 0⟩))
  ∧ (∀ (t : BitVec 8) (w x y z i : Nat), i < w →
       (lut3 t w x y z).testBit i
         = t.getLsbD ((x.testBit i).toNat * 4 + (y.testBit i).toNat * 2 + (z.testBit i).toNat)
       ∧ lut3 t w x y z < 2 ^ w)

/-- R11 to R13, R72, R84, R117, R222, R267: what giving elements does: each active lane's element of the group is its
value, and of a block-scaled type its scale byte its scale; every byte outside those is as before; under the x modifier the
exception mask column holds, in each active lane, whether one of the lane's flags is in %xclass, and every other column bit
is as before; the head leaves the lane queue, %vstart is 0, the flags are added to %xflags, and no scalar register, type or
tile changes. Where no access of the instruction is on its way, it has completed. No thread's units stand by to be moved,
and no watchpoint. R12: the columns above the element's width in the last byte that it touches are as before.
R14, R72, R234: what giving mask bits does: each active lane's bit of the column is its value, and of the exception mask
column as above, which stands where both are one column (the model's choice: log entry 59); inactive lanes and the other
columns keep theirs; memory and the control stream are as before, and the head leaves the lane queue. -/
def Obligations.GivenValuesAreWritten : Prop :=
  (∀ (s : State) (m : GuardX) (vt : VType) (d : VReg) (f : Nat → LaneVal), NoneAway s → s.clusters = [] → NoTrace s →
     0 < vt.ew → 2 * d.val + (vt.ew + 7) / 8 ≤ 64 →
     (vt.scaled = true → (vt.kind = 2 ∧ d.val + groupOf vt.ew < 32) ∨ (vt.kind = 3 ∧ vt.ew = 8)) → (∀ n, (f n).lane = n) →
     let t := s.gives m vt d f
     let act := s.actives m.g
     (∀ n ∈ act, t.elem vt.ew d.val n = (f n).val % 2 ^ vt.ew
       ∧ t.rdN (s.slotCell d.val n) ((vt.ew + 7) / 8) / 2 ^ vt.ew = s.rdN (s.slotCell d.val n) ((vt.ew + 7) / 8) / 2 ^ vt.ew
       ∧ (vt.scaled = true → t.rd (s.scaleCell vt d.val n) = BitVec.ofInt 8 (f n).scale))
     ∧ (∀ a, (∀ n ∈ act, (a < s.slotCell d.val n ∨ s.slotCell d.val n + (vt.ew + 7) / 8 ≤ a)
       ∧ (vt.scaled = true → a ≠ s.scaleCell vt d.val n)) → t.rd a = s.rd a)
     ∧ (m.x = 0 → t.cols = s.cols)
     ∧ (∀ n k, n < s.lanes → (t.colWord n).getLsbD k = if m.x ≠ 0 ∧ k = m.x.val ∧ n ∈ act
         then (f n).fl &&& s.t.l.xclass.toNat != 0 else (s.colWord n).getLsbD k)
     ∧ LoadsAnew s t (fun x => { x with
         q := { x.q with lane := x.q.lane.tail }
         l := { x.l with
           vstart := 0, done := t.t.l.done, going := t.t.l.going, started := s.t.alloc.quads, lcr := t.t.l.lcr
           xflags := x.l.xflags ||| BitVec.ofNat 8 (flagsOf (act.map f)) } }) ∧ t.accs = s.accs
     ∧ ((∀ p ∈ s.openInstrs, p.1 ≠ s.laneSeq) → t.t.l.done = s.t.l.done + 1 ∧ t.t.l.going = s.t.l.going))
  ∧ (∀ (s : State) (m : GuardX) (d : MReg) (f : Nat → LaneVal), NoneAway s → NoTrace s → d ≠ 0 →
       (∀ n, (f n).lane = n) →
       let t := s.givesMask m d f
       (∀ n k, n < s.lanes → (t.colWord n).getLsbD k = if n ∉ s.actives m.g then (s.colWord n).getLsbD k
         else if m.x ≠ 0 ∧ k = m.x.val then (f n).fl &&& s.t.l.xclass.toNat != 0
         else if k = d.val then (f n).val != 0 else (s.colWord n).getLsbD k)
       ∧ t.mem = s.mem ∧ t.t.c = s.t.c ∧ t.t.q = { s.t.q with lane := s.t.q.lane.tail } ∧ t.others = s.others)

/-- R234, R239, R247: compares and mask logic give each active lane its bit. R234, R247: which comparisons hold: of integers,
and of numbers and infinities by value, without a flag; with a NaN `ne` and `un` hold and no other, and the ordered ones set IV.
R15, R53, R40: mpush makes a new top of the stack from the old top and a mask, in every lane owned since the push; minv
complements the top under the entry below it; every other column of every lane is as before; mpop takes the top away. -/
def Obligations.MaskResultsAndStack : Prop :=
  (∀ (a b : Val) (x y : EReal), IsExt a x → IsExt b y → ∀ cc, (fCmp cc a b).fl = 0 ∧ (fCmp cc a b).val ≤ 1
     ∧ ((fCmp cc a b).val = 1 ↔ match cc with
       | .eq => x = y | .ne => x ≠ y | .lt => x < y | .le => x ≤ y | .gt => y < x | .ge => y ≤ x | .un => False))
  ∧ (∀ (a b : Val) (cc : Cond), a.isNan = true ∨ b.isNan = true →
       fCmp cc a b = ⟨if cc ∈ [Cond.ne, .un] then 1 else 0, if cc ∈ [Cond.lt, .le, .gt, .ge] then flIV else 0⟩)
  ∧ (∀ x y : Int, condHolds .eq (intCmp x y) = decide (x = y) ∧ condHolds .ne (intCmp x y) = decide (x ≠ y)
       ∧ condHolds .lt (intCmp x y) = decide (x < y) ∧ condHolds .le (intCmp x y) = decide (x ≤ y)
       ∧ condHolds .gt (intCmp x y) = decide (y < x) ∧ condHolds .ge (intCmp x y) = decide (y ≤ x))
  ∧
  (∀ (s s1 : State) (m : GuardX) (g : Guard) (cc : Cond) (d p q : MReg) (a : VReg) (b : BSrc) (v : BVal)
     (e : LaneEntry) (l : List LaneEntry), Heads s e l →
     let logic := fun (i : Instr) (f : Nat → Bool) =>
       exec i s = .next (s.givesMask ⟨g, 0⟩ d fun n => ⟨n, (f n).toNat, 0, 0⟩)
     logic (.mand g d p q) (fun n => s.mask p n && s.mask q n)
     ∧ logic (.mor g d p q) (fun n => s.mask p n || s.mask q n)
     ∧ logic (.mxor g d p q) (fun n => s.mask p n ^^ s.mask q n)
     ∧ logic (.mandn g d p q) (fun n => s.mask p n && !s.mask q n)
     ∧ logic (.mnot g d p) (fun n => !s.mask p n) ∧ logic (.mmov g d p) (fun n => s.mask p n)
     ∧ (s.operandB b = some (v, s1) →
       let vt := s1.vt
       exec (.vcmp g cc d a b) s = .next (s1.givesMask ⟨g, 0⟩ d fun n =>
         ⟨n, (condHolds cc (intCmp (vt.int (s1.elem vt.ew a.val n)) (vt.int (s1.bElem vt v n)))).toNat, 0, 0⟩)
       ∧ exec (.vfcmp m cc d a b) s = .next (s1.givesMask m d fun n =>
         let r := fCmp cc (vt.fmt.val (s1.elem vt.ew a.val n)) (vt.fmt.val (s1.bElem vt v n))
         ⟨n, r.val, 0, r.fl⟩)))
  ∧ (∀ (s : State) (a : MReg) (e : LaneEntry) (l : List LaneEntry), Heads s e l → s.saved = [] → NoTrace s →
       s.t.l.depth < 16 →
       (∃ t, exec (.mpush a) s = .next t ∧ t.t.l.depth = s.t.l.depth + 1
         ∧ (∀ n < s.ownLanes, t.top n = (s.top n && s.mask a n))
         ∧ (∀ n k, k ≠ 32 + s.t.l.depth → (t.colWord n).getLsbD k = (s.colWord n).getLsbD k) ∧ t.mem = s.mem ∧ t.t.c = s.t.c ∧ t.t.q.lane = l)
       ∧ (0 < s.t.l.depth → ∃ t, exec .minv s = .next t ∧ t.t.l.depth = s.t.l.depth
         ∧ (∀ n < s.ownLanes, t.top n = ((s.t.l.depth = 1 || s.stackBit (s.t.l.depth - 2) n) && !s.top n))
         ∧ (∀ n k, k ≠ 31 + s.t.l.depth → (t.colWord n).getLsbD k = (s.colWord n).getLsbD k)
         ∧ t.mem = s.mem ∧ t.t.c = s.t.c ∧ t.t.q.lane = l)
       ∧ (∃ t, exec .mpop s = .next t ∧ t.t.l.depth = s.t.l.depth - 1 ∧ t.cols = s.cols ∧ t.mem = s.mem
         ∧ t.t.c = s.t.c ∧ t.t.q.lane = l))

/-- R66: the numbers of the codes of a float format, by sign, exponent field and fraction. -/
def CodesAreNumbers : Prop :=
  ∀ (f : Fmt) (sg ex fr : Nat), FmtOk f → sg < 2 → ex < 2 ^ f.fe → fr < 2 ^ f.fm →
    let c := sg * 2 ^ (f.fe + f.fm) + ex * 2 ^ f.fm + fr
    let bias : ℤ := 2 ^ (f.fe - 1) - 1
    let sign : ℝ := if sg = 1 then -1 else 1
    if f.fin = true ∧ c = 2 ^ f.width - 1 then f.val c = .nan
    else if f.fin = false ∧ ex = 2 ^ f.fe - 1 then f.val c = if fr = 0 then .inf (sg == 1) else .nan
    else if ex = 0 then IsReal (f.val c) (sign * (fr * (2 : ℝ) ^ (1 - bias - f.fm)))
    else IsReal (f.val c) (sign * ((2 ^ f.fm + fr) * (2 : ℝ) ^ (ex - bias - f.fm)))

/-- R245, R70: the results on codes of numbers: the exact result, rounded once; a zero result is exact, with the sign of
the rules. -/
def FloatArithmeticRounds : Prop :=
  ∀ (f : Fmt) (rm ca cb : Nat) (x y : ℝ), FmtOk f → rm ≤ 4 → FiniteCode f ca x → FiniteCode f cb y →
    let a := f.val ca
    let b := f.val cb
    let sa := 2 ^ (f.fe + f.fm) ≤ ca
    let sb := 2 ^ (f.fe + f.fm) ≤ cb
    let zero := fun (neg : Prop) (r : Flagged) => (neg → r = ⟨2 ^ (f.fe + f.fm), 0⟩) ∧ (¬ neg → r = ⟨0, 0⟩)
    let rounds := fun (z : ℝ) (r : Flagged) => z ≠ 0 → ∀ neg, (neg = true ↔ z < 0) → RoundsTo f rm neg z r
    rounds (x + y) (fAdd f rm a b) ∧ rounds (x - y) (fSub f rm a b) ∧ rounds (x * y) (fMul f rm a b)
    ∧ (y ≠ 0 → rounds (x / y) (fDiv f rm a b)) ∧ (0 < x → rounds (Real.sqrt x) (fSqrt f rm a))
    ∧ (x + y = 0 → zero (if x = 0 ∧ (sa ↔ sb) then sa else rm = 4) (fAdd f rm a b))
    ∧ (x - y = 0 → zero (if x = 0 ∧ (sa ↔ ¬ sb) then sa else rm = 4) (fSub f rm a b))
    ∧ (x * y = 0 → zero (¬ (sa ↔ sb)) (fMul f rm a b)) ∧ (y ≠ 0 → x = 0 → zero (¬ (sa ↔ sb)) (fDiv f rm a b))
    ∧ (x = 0 → zero sa (fSqrt f rm a))

/-- R245, R68: the results on NaN, infinities and zeros: the canonical NaN, with IV where the operation is invalid, and
infinity, which a format without infinities cannot take. -/
def FloatSpecialRows : Prop :=
  ∀ (f : Fmt) (rm : Nat) (a b : Val), FmtOk f → rm ≤ 4 →
    let bad : Flagged := ⟨f.nan.val, flIV⟩
    let inf := fun (neg : Bool) => f.sign neg + (2 ^ f.fe - 1) * 2 ^ f.fm
    f.nan.val = (if f.fin = true ∨ f.fm = 0 then 2 ^ f.width - 1 else (2 ^ f.fe - 1) * 2 ^ f.fm + 2 ^ (f.fm - 1))
    ∧ (a.isNan = true ∨ b.isNan = true →
      fAdd f rm a b = f.nan ∧ fSub f rm a b = f.nan ∧ fMul f rm a b = f.nan ∧ fDiv f rm a b = f.nan)
    ∧ (a.isNan = true → fSqrt f rm a = f.nan)
    ∧ (∀ x, fAdd f rm (.inf x) (.inf (!x)) = bad ∧ fSub f rm (.inf x) (.inf x) = bad ∧ fSqrt f rm (.inf true) = bad
      ∧ ∀ y, fDiv f rm (.inf x) (.inf y) = bad)
    ∧ (∀ x n e, fMul f rm (.inf x) (.fin n 0 e) = bad ∧ fMul f rm (.fin n 0 e) (.inf x) = bad)
    ∧ (∀ n e k d, fDiv f rm (.fin n 0 e) (.fin k 0 d) = bad)
    ∧ (∀ n m e, 0 < m → fSqrt f rm (.fin true m e) = bad
      ∧ ∀ k d, fDiv f rm (.fin n m e) (.fin k 0 d) = ⟨if f.fin then f.maxCode (n != k) else inf (n != k), flZD⟩)
    ∧ (f.fin = false → fSqrt f rm (.inf false) = ⟨inf false, 0⟩ ∧ ∀ x n m e,
      fAdd f rm (.inf x) (.inf x) = ⟨inf x, 0⟩ ∧ fAdd f rm (.inf x) (.fin n m e) = ⟨inf x, 0⟩
      ∧ fAdd f rm (.fin n m e) (.inf x) = ⟨inf x, 0⟩ ∧ fSub f rm (.inf x) (.fin n m e) = ⟨inf x, 0⟩
      ∧ fSub f rm (.fin n m e) (.inf x) = ⟨inf (!x), 0⟩ ∧ fDiv f rm (.inf x) (.fin n m e) = ⟨inf (x != n), 0⟩
      ∧ fDiv f rm (.fin n m e) (.inf x) = ⟨f.sign (n != x), 0⟩
      ∧ (0 < m → fMul f rm (.inf x) (.fin n m e) = ⟨inf (x != n), 0⟩ ∧ fMul f rm (.fin n m e) (.inf x) = ⟨inf (n != x), 0⟩)
      ∧ ∀ y, fMul f rm (.inf x) (.inf y) = ⟨inf (x != y), 0⟩)

/-- R246: minimum and maximum deliver one of their operands bit for bit, by the order of numbers with −0 below +0. -/
def MinMaxDeliver : Prop :=
  ∀ (f : Fmt) (x y : Nat), FmtOk f → x < 2 ^ f.width → y < 2 ^ f.width →
    let nan := fun c => (f.val c).isNan = true
    let key := fun (c : Nat) => if 2 ^ (f.fe + f.fm) ≤ c then (2 ^ (f.fe + f.fm) : Int) - 1 - c else (c : Int)
    ∀ max : Bool, let r := (fMinMax f max x y).val
      (nan x → nan y → r = f.nan.val) ∧ (nan x → ¬ nan y → r = y) ∧ (¬ nan x → nan y → r = x)
      ∧ (¬ nan x → ¬ nan y → (r = x ∨ r = y)
        ∧ (max = false → key r ≤ key x ∧ key r ≤ key y) ∧ (max = true → key x ≤ key r ∧ key y ≤ key r))

/-- R73, R74, R79: the magnitudes of the log codes, k steps of an eighth or a 256th of an octave, scaled: those of the
tables, whose entries are the powers rounded. -/
def LogCodesAreNumbers : Prop :=
  (∀ (w k : Nat) (neg : Bool) (scale : Int), w = 8 ∨ w = 16 → 0 < k → k < 2 ^ (w - 1) →
     let step : Int := if w = 8 then 8 else 256
     let n := (k : Int) - (if w = 8 then 64 else 16384) + scale * (step / 8)
     let f := (n % step).toNat
     let m : Nat := if w = 8 then t8 f else t16 f
     IsReal (logVal w (k + if neg then 2 ^ (w - 1) else 0) scale)
       ((if neg then -1 else 1) * ((m : ℝ) * (2 : ℝ) ^ (n / step - (if w = 8 then 10 else 15)))))
  ∧ (∀ f < 8, (2 * t8 f - 1) ^ 8 < 2 ^ (88 + f) ∧ 2 ^ (88 + f) < (2 * t8 f + 1) ^ 8)
  ∧ (∀ f < 256, (2 * t16 f - 1) ^ 256 < 2 ^ (4096 + f) ∧ 2 ^ (4096 + f) < (2 * t16 f + 1) ^ 256)
  ∧ ∀ (w : Nat) (scale : Int), w = 8 ∨ w = 16 → logVal w 0 scale = .fin false 0 0 ∧ logVal w (2 ^ (w - 1)) scale = .nar

/-- R248, R71, R75, R77, R79: what a conversion of the code x of a type u into a type v delivers, by the value that x has
under the residue sc of its block scale. -/
def ConversionsDeliver : Prop :=
  ∀ (u v : VType) (x : Nat) (sc : Int), v.rm ≤ 4 → (v.kind = 2 → FmtOk v.fmt) → (v.kind = 3 → v.ew = 8 ∨ v.ew = 16) →
    let a := elemVal u sc x
    let r := convert u v x sc
    let same := u.ew = v.ew ∧ u.kind = v.kind ∧ u.fe = v.fe ∧ u.fm = v.fm ∧ u.fin = v.fin
    (u.kind ≤ 1 → 0 < u.ew → IsReal a (intVal (u.kind == 0) u.ew x))
    ∧ (u.kind = 2 → ∀ y, IsReal (u.fmt.val x) y → IsReal a (y * (2 : ℝ) ^ (sc / 8)))
    ∧ (u.kind = 3 → a = logVal u.ew x sc)
    ∧ (same → r = ⟨x, 0⟩)
    ∧ (¬ same → u.kind ≤ 1 → v.kind ≤ 1 → r = fitInt (v.kind == 0) v.sat v.ew (intVal (u.kind == 0) u.ew x))
    ∧ (¬ same → v.kind = 2 →
      (∀ y, IsReal a y → y ≠ 0 → ∀ neg, (neg = true ↔ y < 0) → RoundsTo v.fmt v.rm neg y r)
      ∧ (∀ n e, a = .fin n 0 e → r = ⟨v.fmt.sign n, 0⟩) ∧ (a = .nan → r = v.fmt.nan)
      ∧ (a = .nar → r = ⟨v.fmt.nan.val, v.fmt.nan.fl ||| flIV⟩)
      ∧ (∀ n, a = .inf n → r = if v.fin then ⟨v.fmt.maxCode n, flOV⟩ else ⟨v.fmt.sign n + v.fmt.infMag, 0⟩))
    ∧ (2 ≤ u.kind → v.kind ≤ 1 →
      let hi := intMax (v.kind == 0) v.ew
      let lo := intMin (v.kind == 0) v.ew
      (∀ (y : ℝ) (n : Int), IsReal a y → RoundsInt v.rm y n →
        (hi < n → r = ⟨wrapInt v.ew hi, flIV⟩) ∧ (n < lo → r = ⟨wrapInt v.ew lo, flIV⟩)
        ∧ (lo ≤ n → n ≤ hi → r.val = wrapInt v.ew n ∧ (r.fl = 0 ∨ r.fl = flIX) ∧ (r.fl = 0 ↔ (n : ℝ) = y)))
      ∧ (∀ n, a = .inf n → r = ⟨wrapInt v.ew (if n then lo else hi), flIV⟩) ∧ (a.isNan = true → r = ⟨0, flIV⟩))
    ∧ (u.kind ≤ 2 → v.kind = 3 →
      let step : Nat := if v.ew = 8 then 8 else 256
      let top : Int := if v.ew = 8 then 127 else 32767
      let neg := fun (y : ℝ) (n : Nat) => (y < 0 → r.val = n + 2 ^ (v.ew - 1)) ∧ (0 < y → r.val = n)
      (∀ y, IsReal a y → y = 0 → r = ⟨0, 0⟩)
      ∧ (∀ (y : ℝ) (k : Int), IsReal a y → y ≠ 0 → (2 : ℝ) ^ (2 * k - 1) ≤ |y| ^ (2 * step) →
        |y| ^ (2 * step) < (2 : ℝ) ^ (2 * k + 1) →
        let n := k + (if v.ew = 8 then 64 else 16384)
        (top < n → neg y top.toNat) ∧ (n < 1 → r.val = 0) ∧ (1 ≤ n → n ≤ top → neg y n.toNat)
        ∧ (r.fl.testBit 6 = true ↔ (top < n ∨ n < 1)) ∧ (r.fl.testBit 4 = true ↔ ¬ IsReal (logVal v.ew r.val 0) y))
      ∧ ((a.isNan = true ∨ ∃ n, a = .inf n) → r = ⟨2 ^ (v.ew - 1), flIV⟩))
    ∧ (u.kind = 3 → v.kind = 3 → u.ew = 8 → v.ew = 16 →
      r = ⟨x / 128 % 2 * 2 ^ 15 + (if x % 128 = 0 then 0 else 32 * (x % 128) + 14336), 0⟩)
    ∧ (u.kind = 3 → v.kind = 3 → u.ew = 16 → v.ew = 8 →
      let s : Nat := x / 2 ^ 15 % 2 * 128
      let k : Nat := x % 2 ^ 15
      (k = 0 → r = ⟨s, 0⟩)
      ∧ (0 < k → ∀ q : Int, |32 * q - ((k : Int) - 14336)| ≤ 16 → (|32 * q - ((k : Int) - 14336)| = 16 → q % 2 = 0) →
        r.val = (if 127 < q then s + 127 else if q < 1 then 0 else s + q.toNat)
        ∧ (r.fl.testBit 6 = true ↔ (127 < q ∨ q < 1))
        ∧ (r.fl.testBit 4 = true ↔ ((k : Int) - 14336) % 32 ≠ 0 ∨ 127 < q ∨ q < 1)))

/-- R249: the code whose value approximates 2^y. -/
def PowersDeliver : Prop :=
  ∀ (w : Nat) (a : Val), w = 8 ∨ w = 16 →
    let r := logExp w a
    let step : Int := if w = 8 then 8 else 256
    let top : Int := if w = 8 then 127 else 32767
    (a.isNan = true → r = ⟨2 ^ (w - 1), flIV⟩) ∧ (a = .inf true → r = ⟨0, 0⟩) ∧ (a = .inf false → r = ⟨top.toNat, flLR⟩)
    ∧ ∀ (y : ℝ) (n : Int), IsReal a y → RoundsInt 0 (step * y) n →
      let k := n + (if w = 8 then 64 else 16384)
      r.val = (if top < k then top else if k < 1 then 0 else k).toNat
      ∧ r.fl ||| (flLR ||| flIX) = flLR ||| flIX ∧ (r.fl.testBit 6 = true ↔ (top < k ∨ k < 1))
      ∧ (r.fl.testBit 4 = true ↔ (n : ℝ) ≠ step * y)

/-- R245 to R249: float arithmetic gives each active lane the rounded result of its operands' values; minimum and
maximum one of the operands; conversions the code of the source's value in the type, or of its power of two. What those
results are: the exact sum, difference, product, quotient or root of the operands' numbers rounded once by the format and
mode, with the flags of R70 (RoundsTo); the NaN, infinity and zero rows of R245; the operand that R246 delivers; the values
and codes of R248 with R71, R75, R77 and R79; the powers of two of R249. That infinity into a format without infinities, and
a number beyond an integer's bounds, set no IX beside OV and IV is the model's choice (log entry 59). -/
def Obligations.LaneFloatResults : Prop :=
  CodesAreNumbers ∧ FloatArithmeticRounds ∧ FloatSpecialRows ∧ MinMaxDeliver ∧ LogCodesAreNumbers ∧ ConversionsDeliver
  ∧ PowersDeliver ∧ ∀ (s s1 : State) (m : GuardX) (d a : VReg) (b : BSrc) (v : BVal) (t : BitVec 20) (e : LaneEntry)
    (l : List LaneEntry), Heads s e l →
    let vt := s.vt
    (s.operandB b = some (v, s1) →
      let vt := s1.vt
      let x := fun n => s1.elem vt.ew a.val n
      let y := fun n => s1.bElem vt v n
      let gives := fun (i : Instr) (f : Nat → Flagged) =>
        exec i s = .next (s1.gives m vt d fun n => ⟨n, (f n).val, 0, (f n).fl⟩)
      gives (.vfadd m d a b) (fun n => fAdd vt.fmt vt.rm (vt.fmt.val (x n)) (vt.fmt.val (y n)))
      ∧ gives (.vfsub m d a b) (fun n => fSub vt.fmt vt.rm (vt.fmt.val (x n)) (vt.fmt.val (y n)))
      ∧ gives (.vfmul m d a b) (fun n => fMul vt.fmt vt.rm (vt.fmt.val (x n)) (vt.fmt.val (y n)))
      ∧ gives (.vfdiv m d a b) (fun n => fDiv vt.fmt vt.rm (vt.fmt.val (x n)) (vt.fmt.val (y n)))
      ∧ gives (.vfmin m d a b) (fun n => ⟨(fMinMax vt.fmt false (x n) (y n)).val, 0⟩)
      ∧ gives (.vfmax m d a b) (fun n => ⟨(fMinMax vt.fmt true (x n) (y n)).val, 0⟩))
    ∧ exec (.vfsqrt m d a) s = .next (s.gives m vt d fun n =>
        ⟨n, (fSqrt vt.fmt vt.rm (vt.fmt.val (s.elem vt.ew a.val n))).val, 0,
          (fSqrt vt.fmt vt.rm (vt.fmt.val (s.elem vt.ew a.val n))).fl⟩)
    ∧ (let u := srcType t vt
       vt.scaled = false → exec (.vcvt m d a t) s = .next (s.gives m vt d fun n =>
        let r := convert u vt (s.elem u.ew a.val n) 0
        ⟨n, r.val, 0, r.fl ||| (s.scale u a.val n).2⟩))
    ∧ (let u := srcType t vt
       vt.scaled = true → exec (.vcvt m d a t) s = .next (s.gives m vt d fun n =>
        let sc := s.scale u a.val n
        let rest := if vt.kind = 2 then sc.1 % 8 else 0
        let r := convert u vt (s.elem u.ew a.val n) rest
        ⟨n, r.val, sc.1 - rest, r.fl ||| sc.2⟩))
    ∧ (let u := srcType t vt
       exec (.vcvtLg m d a t) s = .next (s.gives m vt d fun n =>
        let sc := s.scale u a.val n
        let r := logExp vt.ew (elemVal u sc.1 (s.elem u.ew a.val n))
        ⟨n, r.val, 0, r.fl ||| sc.2⟩))

/-- R237, R238: slides give each active lane whose source lane lies in its segment, below VL, the element of that lane,
with its scale under a block-scaled type, and leave the others: the source lies k lanes below or above, or, rotating, does
so modulo the segment's length. Under a block-scaled type a k, or rotating a segment, that is not whole blocks traps
TC_ILLEGAL_CONFIG. vlscat, which a block-scaled type does not admit, gives each named active lane the element of the
highest-numbered lane that names it. R435: both read the rows they move first, and one in error stops them at its lane; which
address that fault names is the model's choice (log entry 62). -/
def Obligations.LaneMovesBetweenLanes : Prop :=
  (∀ (s : State) (n : Nat) (r : List Nat), s.readRows [] = (none, s)
     ∧ (∀ u, s.readRow n = (.ok (), u) → s.readRows (n :: r) = u.readRows r)
     ∧ (∀ f u, s.readRow n = (.error f, u) → s.readRows (n :: r) = (some (n, f), u) ∧ f.cause = .memPermission
       ∧ f.va = 0x00FFFF0000000000 + 64 * s.unitLane n)
     ∧ (s.fleet.errors = [] → s.readRow n = (.ok (), s)))
  ∧
  (∀ (s : State) (up inn : Bool) (k l j : Nat),
     let seg := s.t.l.v.segment inn l
     let here := seg.1 ≤ j ∧ j < seg.1 + seg.2 ∧ s.below j = true
     (s.slideSource up inn false k l = some j ↔ here ∧ (if up then j + k = l else j = l + k))
     ∧ (seg.1 ≤ l → (s.slideSource up inn true k l = some j ↔ here ∧
       if up then Nat.ModEq seg.2 (j + k) l else Nat.ModEq seg.2 j (l + k))))
  ∧ ∀ (s s1 : State) (g : Guard) (inn rot : Bool) (d a b : VReg) (k : SlideSrc) (n : Nat) (e : LaneEntry)
    (l : List LaneEntry), Heads s e l →
    s.operandK k = some (n, s1) →
    let from' := fun (up : Bool) => (s1.actives g).filterMap (s1.slideSource up inn rot n)
    let rows := fun (up : Bool) =>
      from' up ++ (if s1.vt.scaled then (from' up).map (s1.t.l.v.blockFirst s1.vt.blen) else [])
    let moved := fun (up : Bool) (u : State) => (s1.actives g).filterMap (fun x =>
      (s1.slideSource up inn rot n x).map (fun j => (⟨x, u.elem s1.vt.ew a.val j, (u.scale s1.vt a.val j).1,
        (u.scale s1.vt a.val j).2⟩ : LaneVal)))
    let ends := fun (up : Bool) (u : State) =>
      Host.Outcome.next ((u.writeLanes s1.vt d.val (moved up u)).laneEnd (s1.actives g) (flagsOf (moved up u)))
    let apart := s1.vt.scaled = true ∧ (n % s1.vt.blen ≠ 0 ∨ (rot = true ∧ (s1.t.l.v.segment inn 0).2 % s1.vt.blen ≠ 0))
    (¬ apart → OverRows s1 (rows true) (exec (.vslideup g inn rot d a k) s) (ends true)
      ∧ OverRows s1 (rows false) (exec (.vslidedn g inn rot d a k) s) (ends false))
    ∧ (apart → ∀ i ∈ [Instr.vslideup g inn rot d a k, .vslidedn g inn rot d a k],
      exec i s = .next (s1.trap (Trap.lane' .illegalConfig)))
    ∧ (s.vt.scaled = false → OverRows s (s.actives g) (exec (.vlscat g inn d a b) s) (fun u =>
      .next ((u.writeLanes s.vt d.val ((s.actives g).filterMap (fun x =>
        let seg := s.t.l.v.segment inn x
        let j := u.elem 32 b.val x
        if j < seg.2 && s.active g (seg.1 + j) then some (⟨seg.1 + j, u.elem s.vt.ew a.val x, 0, 0⟩ : LaneVal)
        else none))).laneEnd (s.actives g) 0)))

/-- R42, R43, R185, R241, R251, R252, R255, R256: reductions. Each segment's result is pushed to q2 or q3, or given to
every active lane of the segment: the count of set mask bits, the k-th largest eligible element, the sum, the least and
the greatest element, the first lane that is not set, and the lane that a draw picks. R435: vpick reads the rows of its active
lanes first, and one in error stops it.
R256: the pick: the first permitted lane that holds +∞; else, where the masses have a positive sum, the first one whose prefix
sum of masses exceeds u × total; else none, with IV.
R43, R444: a whole reduction puts its result at the tail of q2 or q3, or makes it the pending push where that queue is
full, and leaves the lane queue; q0, q1, bo, the control stream, memory and the mask columns are as before.
R252: where there is a k-th largest of some lanes, it is one of them, with fewer than k elements above it and at least k
that are not below it. -/
def Obligations.Reductions : Prop :=
  (∀ (s s1 s2 : State) (g : Guard) (q : QReg) (d : RedDst) (a : VReg) (p : MReg) (b : SQSrc) (c : BSrc) (k : Word) (v : BVal)
     (e : LaneEntry) (l : List LaneEntry), Heads s e l →
     exec (.mpopc g (.queue q) p) s
         = .next ((s.pushQ q ((s.actives g).filter (s.mask p)).length).laneEnd (s.actives g) 0)
     ∧ (∀ r, exec (.mpopc g (.vec r) p) s = .next (s.gives ⟨g, 0⟩ s.vt r fun n =>
         ⟨n, ((s.actives g).filter (fun j => s.mask p j && s.t.l.v.segment true j == s.t.l.v.segment true n)).length
           % 2 ^ s.vt.ew, 0, 0⟩))
     ∧ exec (.vrsum g d a) s
         = .next (s.givesSeg g d s.vt fun whole sg => s.sumOf a.val (if whole then 64 else s.vt.ew) sg.act)
     ∧ (s.vt.kind ≤ 1 → ∀ w ls, s.sumOf a.val w ls = fitInt (s.vt.kind == 0) s.vt.sat w
         (ls.map (fun n => s.vt.int (s.elem s.vt.ew a.val n))).sum)
     ∧ exec (.vrmin g d a) s = .next (s.givesSeg g d s.vt fun whole sg =>
         let x := match s.extreme false a.val (s.eligible a.val sg).1 with
           | some n => s.elem s.vt.ew a.val n
           | none => if sg.act = [] then orderEnd s.vt true else elemNan s.vt
         ⟨if whole then queueElem s.vt x else x, 0⟩)
     ∧ exec (.vrmax g d a) s = .next (s.givesSeg g d s.vt fun whole sg =>
         let x := match s.extreme true a.val (s.eligible a.val sg).1 with
           | some n => s.elem s.vt.ew a.val n
           | none => if sg.act = [] then orderEnd s.vt false else elemNan s.vt
         ⟨if whole then queueElem s.vt x else x, 0⟩)
     ∧ exec (.vfirst0 g d p) s = .next (s.givesSeg g d s.vt fun whole sg =>
         match sg.act.find? (fun n => !s.mask p n) with
         | some n => ⟨if whole then n else (n - sg.base) % 2 ^ s.vt.ew, 0⟩
         | none => ⟨if whole then sg.len else sg.len % 2 ^ s.vt.ew, 0⟩)
     ∧ (s.operandS b = some (k, s1) → exec (.vkth g d a b) s = .next (s1.givesSeg g d s1.vt fun whole sg =>
         let el := s1.eligible a.val sg
         let r : Flagged := match s1.kth a.val el.1 k.toNat with
           | some n => ⟨s1.elem s1.vt.ew a.val n, el.2⟩
           | none => ⟨orderEnd s1.vt false, el.2 ||| flIV⟩
         ⟨if whole then queueElem s1.vt r.val else r.val, r.fl⟩))
     ∧ (s.operandB c = some (v, s2) → OverRows s2 (s2.actives g) (exec (.vpick g d a c) s) (fun z =>
       .next (z.givesSeg g d (intType false 32) fun whole sg =>
         let u := match v with
           | .scalar w => w.toNat
           | .lanes x => match sg.act with | n :: _ => z.elem 64 x n | [] => 0
         let r := z.pickOf a.val sg u
         ⟨match r.1 with | some n => if whole then n else n - sg.base | none => 0xFFFFFFFF, r.2⟩))))
  ∧ (∀ (s : State) (v u : Nat) (sg : Seg), u < 2 ^ 64 →
       let pe := s.permitted v sg
       let xs := s.masses v pe.1
       let total := (xs.map (·.2)).sum
       let r := s.pickOf v sg u
       (∀ n, pe.1.find? (fun j => (s.value v j).isPosInf) = some n → r = (some n, pe.2))
       ∧ (pe.1.find? (fun j => (s.value v j).isPosInf) = none →
         (total ≤ 0 → r = (none, pe.2 ||| flIV))
         ∧ (0 < total → r.2 = pe.2 ∧ ∃ l x l', xs = l ++ x :: l' ∧ r.1 = some x.1
           ∧ (u : Int) * total < ((l.map (·.2)).sum + x.2) * 2 ^ 64
           ∧ ∀ p q : List (Nat × Int), l = p ++ q → (p.map (·.2)).sum * 2 ^ 64 ≤ (u : Int) * total)))
  ∧ (∀ (s : State) (g : Guard) (q : QReg) (vt : VType) (f : Bool → Seg → Flagged), NoTrace s → 2 ≤ q.val →
       let r := f true ⟨0, s.t.l.v.vl, s.actives g⟩
       let t := s.givesSeg g (.queue q) vt f
       ((s.t.q.get q.val).length < 16 → t.t.q.get q.val = s.t.q.get q.val ++ [BitVec.ofNat 64 r.val]
         ∧ t.t.q.pend = s.t.q.pend)
       ∧ (16 ≤ (s.t.q.get q.val).length → t.t.q.get q.val = s.t.q.get q.val
         ∧ t.t.q.pend = some ⟨q.val - 1, BitVec.ofNat 64 r.val, s.t.q.headAddr⟩)
       ∧ t.t.q.lane = s.t.q.lane.tail ∧ t.t.q.q0 = s.t.q.q0 ∧ t.t.q.q1 = s.t.q.q1 ∧ t.t.q.bo = s.t.q.bo
       ∧ t.t.c = s.t.c ∧ t.mem = s.mem ∧ t.cols = s.cols)
  ∧ (∀ (s : State) (v k n : Nat) (ls : List Nat), s.kth v ls k = some n →
       n ∈ ls ∧ (ls.filter (fun j => fLess (s.value v n) (s.value v j))).length < k
       ∧ k ≤ (ls.filter (fun j => !fLess (s.value v j) (s.value v n))).length)

/-- R253, R254, R255: vtopk marks the eligible lanes of rank below k; vtopp the lanes of the nucleus; vscanand the lanes
up to which every mask bit is set; vscanadd gives each active lane the sum of the elements up to it. R435: vscanadd reads the
rows of its active lanes first, and one in error stops it.
R254: the permitted lanes are the active ones whose mass is a number and not below zero, and a lane excluded sets IV; the
masses are the lanes' values, exactly, in one unit; the threshold is the largest mass v with S(v) at or above p × total. -/
def Obligations.SelectionAndScanResults : Prop :=
  (∀ (s : State) (v : Nat) (sg : Seg),
     let bad := fun n => (s.value v n).isNan = true ∨ ∃ x, IsExt (s.value v n) x ∧ x < 0
     (∀ n, n ∈ (s.permitted v sg).1 ↔ n ∈ sg.act ∧ ¬ bad n) ∧ ((s.permitted v sg).1).Sublist sg.act
     ∧ ((∃ n ∈ sg.act, bad n) → (s.permitted v sg).2 = flIV) ∧ ((∀ n ∈ sg.act, ¬ bad n) → (s.permitted v sg).2 = 0))
  ∧ (∀ (s : State) (v : Nat) (ls : List Nat), ∃ (e : ℤ) (i : Nat → Int), s.masses v ls = ls.map (fun n => (n, i n))
       ∧ ∀ n ∈ ls, ∀ x : ℝ, IsReal (s.value v n) x → x = i n * (2 : ℝ) ^ e)
  ∧ (∀ xs : List (Nat × Int), massSum xs = (xs.map (·.2)).sum)
  ∧ (∀ (xs : List (Nat × Int)) (p : Nat),
       let reaches := fun (v : Int) =>
         p * (xs.map (·.2)).sum ≤ ((xs.filter (fun x => decide (v ≤ x.2))).map (·.2)).sum * 2 ^ 32
       (∀ t, nucleus xs p = some t → (∃ x ∈ xs, x.2 = t) ∧ reaches t ∧ ∀ x ∈ xs, reaches x.2 → x.2 ≤ t)
       ∧ (nucleus xs p = none → ∀ x ∈ xs, ¬ reaches x.2))
  ∧ ∀ (s s1 : State) (g : Guard) (inn : Bool) (d p : MReg) (r a : VReg) (b : SQSrc) (k : Word) (e : LaneEntry)
    (l : List LaneEntry), Heads s e l →
    exec (.vscanand g inn d p) s = .next (s.givesSegMask g inn d fun sg =>
        (fun n => (sg.act.filter (· ≤ n)).all (s.mask p), 0))
    ∧ OverRows s (s.actives g) (exec (.vscanadd g inn r a) s) (fun u =>
       let xs := (s.segs inn g).flatMap (fun sg => sg.act.map (fun n =>
        let r := u.sumOf a.val s.vt.ew (sg.act.filter (· ≤ n))
        (⟨n, r.val, 0, r.fl⟩ : LaneVal)))
       .next ((u.writeLanes s.vt r.val xs).laneEnd (lanesOf xs) (flagsOf xs)))
    ∧ (s.operandS b = some (k, s1) →
      exec (.vtopk g inn d a b) s = .next (s1.givesSegMask g inn d fun sg =>
        let el := s1.eligible a.val sg
        (fun n => el.1.contains n && decide (s1.rank a.val el.1 n < k.toNat), el.2))
      ∧ exec (.vtopp g inn d a b) s = .next (s1.givesSegMask g inn d fun sg =>
        let pe := s1.permitted a.val sg
        let xs := s1.masses a.val pe.1
        if pe.1.any (fun n => (s1.value a.val n).isPosInf) then
          (fun n => pe.1.contains n && (s1.value a.val n).isPosInf, pe.2)
        else if massSum xs = 0 then (fun _ => false, pe.2 ||| flIV)
        else match nucleus xs (min (wbits k 32 0) (2 ^ 32)) with
          | none => (fun _ => false, pe.2)
          | some t => (fun n => xs.any (fun x => x.1 == n && decide (t ≤ x.2)), pe.2)))

/-- R257: the draw function, by its rounds on words of 32 bits: the ten rounds of X from the counter's halves, the lane and the
stream identifier give x1 × 2^32 + x0. -/
def DrawsByRounds : Prop :=
  ∀ (c n id key : Nat) (X : Nat → BitVec 32 × BitVec 32 × BitVec 32 × BitVec 32), n < 2 ^ 32 → id < 2 ^ 32 →
    let k := fun i => BitVec.ofNat 32 (key / 2 ^ (32 * i))
    X 0 = (BitVec.ofNat 32 c, BitVec.ofNat 32 (c / 2 ^ 32), BitVec.ofNat 32 n, BitVec.ofNat 32 id) →
    (∀ r < 10, let x := X r
      let x0 := x.1 + x.2.1
      let x3 := (x.2.2.2 ^^^ x0).rotateLeft ([16, 12, 8, 7].getD (r % 4) 0)
      let x2 := x.2.2.1 + x3
      let x1 := (x.2.1 ^^^ x2).rotateLeft ([13, 9, 17, 11].getD (r % 4) 0)
      X (r + 1) = (x0 ^^^ k (r % 4), x1, x2 ^^^ (k ((r + 2) % 4) + BitVec.ofNat 32 r), x3)) →
    draw c n id key = (X 10).2.1.toNat * 2 ^ 32 + (X 10).1.toNat

/-- R260: the entries that name a lane's token are applied to its logit one after the other, in their order. One entry: the
logit times its factor, by the logit's sign, rounded, less the exact penalty, rounded; NaN stays the canonical NaN without a
flag, and a factor or penalty that is none gives it with IV. -/
def PenaltiesApply : Prop :=
  (∀ (s : State) (d : VReg) (sg : Seg) (t : CountTab) (es : List CountEnt) (e : CountEnt) (n : Nat),
     let named := e.id ≠ 0xFFFFFFFF ∧ 0 < e.count ∧ e.id = n - sg.base
     let before : Nat × Nat := match s.penalised d sg t es n with
       | some y => (y.val, y.fl)
       | none => (s.elem s.vt.ew d.val n, 0)
     s.penalised d sg t [] n = none ∧ (¬ named → s.penalised d sg t (es ++ [e]) n = s.penalised d sg t es n)
     ∧ (named → let q := penalise s.vt t e.count before.1
       s.penalised d sg t (es ++ [e]) n = some ⟨n, q.val, 0, before.2 ||| q.fl⟩))
  ∧ (∀ (vt : VType) (t : CountTab) (k x : Nat), let f := vt.fmt
       let p := t.pres.plus (t.freq.timesNat k)
       let by' := fun (fac : Val) => if fac.isNan = true ∨ p.isNan = true then penalise vt t k x = ⟨f.nan.val, flIV⟩
         else let y := fMul f vt.rm (f.val x) fac
           let z := fSub f vt.rm (f.val y.val) p
           penalise vt t k x = ⟨z.val, y.fl ||| z.fl⟩
       ((f.val x).isNan = true → penalise vt t k x = ⟨f.nan.val, 0⟩)
       ∧ ∀ y : EReal, IsExt (f.val x) y → (0 < y → by' t.rpos) ∧ (¬ 0 < y → by' t.rneg))
  ∧ ∀ (a b : Val) (x y : ℝ) (k : Nat), IsReal a x → IsReal b y → IsReal (a.plus (b.timesNat k)) (x + y * k)

/-- R119 to R123: the loop of a routine, word by word, and a pass: its tag holds the active lanes in which every enabled
selector's column holds its key; a compare-popcount pass adds their number, shifted by the innermost index, and writes
nothing; another pass writes, in the lanes of the tag, the columns of its write-enabled selectors in order. A column written in a
lane holds the value, and every other column of every lane is as before. -/
def RoutinesRun : Prop :=
  (∀ (tbl : Nat → Word) (vt : VType) (r : Roles) (act : List Nat) (k e : Nat) (ls : List Loop) (m : Micro),
     let w := tbl e
     let run := Micro.run tbl vt r act
     let n := loopCount vt w
     let down := w.getLsbD 59
     (wbits w 63 62 ≠ 2 → run (k + 1) e ls m = run k (e + 1) ls (m.pass r act e w ls))
     ∧ (wbits w 63 62 = 2 →
       (wbits w 61 60 = 0 → run (k + 1) e ls m
         = if n = 0 then run k (afterNext tbl 4096 (e + 1) 0) ls m
           else run k (e + 1) (⟨n, if down then n - 1 else 0, down, wbits w 55 52, e + 1⟩ :: ls) m)
       ∧ (∀ l o, wbits w 61 60 = 1 → ls = l :: o → run (k + 1) e ls m
         = if (if l.down then l.i = 0 else l.i + 1 = l.n) then run k (e + 1) o m
           else run k l.body ({ l with i := if l.down then l.i - 1 else l.i + 1 } :: o) m)
       ∧ (2 ≤ wbits w 61 60 → run (k + 1) e ls m = m)))
  ∧ (∀ (m : Micro) (r : Roles) (act : List Nat) (e : Nat) (w : Word) (ls : List Loop),
       let tag := act.filter (fun l => (selsOf w).all (fun x => !x.cen || m.col r x ls l == x.key))
       let t := m.pass r act e w ls
       let u := tag.foldl (fun m l => ((selsOf w).filter (·.wen)).foldl (fun m x => m.put r x ls l) m) m
       (wbits w 63 62 = 1 → t.s = m.s ∧ t.scr = m.scr
         ∧ t.p = m.p + tag.length * 2 ^ (match ls with | l :: _ => l.i | [] => 0))
       ∧ (wbits w 63 62 ≠ 1 → t.p = m.p ∧ t.s = u.s ∧ t.scr = u.scr))
  ∧ (∀ (m : Micro) (r : Roles) (x y : Sel) (ls ls' : List Loop) (l l' : Nat), NoneAway m.s → l < m.s.lanes → l' < m.s.lanes →
       let c := selColumn r x (selOffset x ls)
       let c' := selColumn r y (selOffset y ls')
       (if c.1 then c.2 < 512 else c.2 < 16 ∧ ∃ v, (l, v) ∈ m.scr) → (if c'.1 then c'.2 < 512 else c'.2 < 16) →
       (m.put r x ls l).col r y ls' l' = if c = c' ∧ l = l' then x.val else m.col r y ls' l')
  ∧ ∀ (r : Roles) (x : Sel) (a o : Loop) (rest : List Loop) (off : Nat),
      selOffset x [] = x.base ∧ selOffset x [a] = x.base + (if x.li then a.i else 0)
      ∧ selOffset x (a :: o :: rest) = x.base + (if x.li then a.i else 0) + (if a.shift.testBit x.role then o.i else 0)
      ∧ selColumn r x off = if x.role = 0 then (true, 16 * r.a + off) else if x.role = 1 then (true, 16 * r.b + off)
        else if x.role = 2 then (true, 16 * r.d + off) else (false, off)

/-- R250, R257, R258, R260: table lookup, where the table can be read; draws; and penalties from a count table, where
its tables can be read. What a draw is, what the entries of a table do to a logit (DrawsByRounds, PenaltiesApply).
R119 to R123: how a routine runs (RoutinesRun).
R124, R262, R263: vmload puts the words read, where each passes its check, into the unit's entries and changes no other
entry; vmicro runs the routine from its entry over the active lanes, where its structure and its columns pass their
checks, and pushes its tag count where it counts tags. -/
def Obligations.LookupDrawAndMicrocode : Prop :=
  DrawsByRounds ∧ PenaltiesApply ∧ RoutinesRun ∧ (∀ (s s1 s2 s3 : State) (g : Guard) (d i : VReg) (a : SReg) (k : Fin 16) (b : BSrc) (v : BVal) (e : LaneEntry)
     (l : List LaneEntry) (n : Nat) (r : List Nat) (tbl : List Nat) (tabs : List (Seg × CountTab × List CountEnt)),
     Heads s e l →
     (s.operandB b = some (v, s1) → exec (.vrand g d b) s = .next (s1.gives ⟨g, 0⟩ (intType false 64) d fun x =>
         ⟨x, draw (match v with | .scalar w => w.toNat | .lanes u => s1.elem 64 u x) x s1.t.l.drawid.toNat
           s1.t.l.drawkey.toNat, 0, 0⟩))
     ∧ (s.actives g = n :: r → s.alignFault s.laneAgent .read (containerOf s.vt.ew) e.a.toNat (containerOf s.vt.ew) = none →
       s.laneReads (containerOf s.vt.ew) e.a.toNat (2 ^ k.val) = (.ok tbl, s2) →
       exec (.vtab g d a i k) s = .next (s2.gives ⟨g, 0⟩ s.vt d fun x =>
         ⟨x, tbl.getD (s2.elem 16 i.val x % 2 ^ k.val) 0 % 2 ^ s.vt.ew, 0, 0⟩))
     ∧ (s.countTabs e.a.toNat (2 ^ 20) (s.segs true g) = (.ok tabs, s3) →
       let xs := tabs.flatMap (fun p => p.1.act.filterMap (s3.penalised d p.1 p.2.1 p.2.2))
       exec (.vscatl g d a) s = .next ((s3.writeLanes s3.vt d.val xs).laneEnd (s3.actives g) (flagsOf xs))))
  ∧ (∀ (s s1 : State) (g : Guard) (a b c : SReg) (k : BitVec 12) (d x y : VReg) (ws : List Nat) (e : LaneEntry)
       (l : List LaneEntry), Heads s e l →
       (3072 ≤ e.b.toNat → e.b.toNat ≤ 4095 → e.b.toNat + e.c.toNat ≤ 4096 → 0 < e.c.toNat →
         e.a.toNat % 8 = 0 → s.laneReads 8 e.a.toNat e.c.toNat = (.ok ws, s1) →
         (ws.map (BitVec.ofNat 64)).all microWordOk = true →
         ∃ t : State, exec (.vmload a b c) s = .next (t.laneDone 0)
           ∧ (∀ i < e.c.toNat, t.microWord s1.uid (e.b.toNat + i) = BitVec.ofNat 64 (ws.getD i 0))
           ∧ (∀ i, i < e.b.toNat ∨ e.b.toNat + e.c.toNat ≤ i → i < 4096 → t.microWord s1.uid i = s1.microWord s1.uid i)
           ∧ t = { s1 with micro := t.micro })
       ∧ (microCheck (s.microWord s.uid) s.vt ⟨x.val, y.val, d.val⟩ 1025 k.toNat [] = (true, true) → s.clusters = [] →
         let m := s.runMicro k.toNat ⟨x.val, y.val, d.val⟩ (s.actives g)
         let t := m.records m.s
         exec (.vmicro g k d x y) s = .next ((if countsTags (s.microWord s.uid) 1025 k.toNat then
             t.mapQ (·.push 2 (BitVec.ofNat 64 m.p)) else t).laneEnd (s.actives g) 0)))

/-! ### Vector memory -/

/-- R265 to R271: contiguous, scaled, strided and tile forms check each active lane's access in ascending order, at
base + displacement + index × step, with a block's scale before its elements; they complete where no lane faults, and else
trap at the faulting lane with %vstart at it (R270). That no lane above the faulting one of a .free store is then on its
way is the model's choice (log entry 30).
R95, R96, R109, R111, R267, R268: the checked load or store of one lane is put on its way with its instruction and its
lane, whole where it is single-copy atomic and else byte by byte; no byte of memory, no queue and nothing of the control
stream has changed. A lane store whose turn it is writes its bytes and no others, where no watchpoint and no saved thread
stands by; where they have become another context's or read-only meanwhile it writes none (R428, R432; the model's choice: log
entry 60). A block's scale is checked, and put on its way, once, for the block's first active lane; it goes to the scale column
of every active lane of the block. A store reads the lane's data row first, and one in error stops it (R435; log entry 62).
R270, R83, R269: the lanes are taken one after the other up to the first that faults; of a scaled form, block by block, the
block's own access before its lanes, where a block is a run of active lanes with one first lane.
R271: a tile form moves k + 1 raw slots: a whole data row of the row view, or one slot, together where it is aligned; else
slot by slot where the address is even, and else byte by byte.
R109, R269: without .free the elements, scale bytes among them, are performed in order; with .free a scale byte only before
the first active element of its block. -/
def Obligations.VectorMemoryAccesses : Prop :=
  (∀ (s s1 : State) (g : Guard) (d : VReg) (a b : SReg) (x : BitVec 22) (y : BitVec 18) (k : Fin 32) (free : Bool)
     (r : Option (Nat × AccFault)) (en : LaneEntry) (l : List LaneEntry), Heads s en l →
     let v := s.t.l.v
     let act := s.actives g
     let step := fun (disp : Word) (st : Word) (n : Nat) => (en.a + disp + BitVec.ofNat 64 (v.elemIndex v.vli n) * st).toNat
     let w := BitVec.ofNat 64 (containerOf s.vt.ew)
     let x' := BitVec.ofInt 64 x.toInt
     let t' := step (BitVec.ofInt 64 y.toInt) (BitVec.ofNat 64 (2 * (k.val + 1)))
     let after := match r with
       | none => s1.laneEnd act 0
       | some (n, f) => (s1.mapL (fun z => { z with vstart := n })).trap (f.trap true (some n))
     let ends := fun (i : Instr) (one : State → Nat → Except AccFault Unit × State) => s.eachLane one act = (r, s1) →
       exec i s = .next after
     ends (.vld g d a none x) (loadOne s.vt d (step x' w))
     ∧ ends (.vlds g d a b x) (loadOne s.vt d (step x' en.b))
     ∧ ends (.vst g a d none x) (storeOne s.vt (s.storeVals d) (step x' w) (some 0))
     ∧ ends (.vstFree g a d none x) (storeOne s.vt (s.storeVals d) (step x' w) none)
     ∧ ends (.vsts g free a b d x) (storeOne s.vt (s.storeVals d) (step x' en.b) (if free then none else some 0))
     ∧ ends (.tld g d a k y) (tldOne (2 * (k.val + 1)) d t')
     ∧ ends (.tst g a d k y) (tstOne (2 * (k.val + 1)) d t')
     ∧ (let blocks := blocksOf v s.vt.blen act
        (s.eachBlock (loadScale v s.vt en.c) (loadScaledOne v s.vt d en.a x) blocks = (r, s1) →
          exec (.vld g d a (some b) x) s = .next after)
        ∧ (s.eachBlock (storeScale v s.vt false d en.c) (storeScaledOne v s.vt false d en.a x) blocks = (r, s1) →
          exec (.vst g a d (some b) x) s = .next after)
        ∧ (s.eachBlock (storeScale v s.vt true d en.c) (storeScaledOne v s.vt true d en.a x) blocks = (r, s1) →
          exec (.vstFree g a d (some b) x) s = .next after)))
  ∧ (∀ (s s1 : State) (one : State → Nat → Except AccFault Unit × State) (n : Nat) (l : List Nat) (f : AccFault),
       s.eachLane one [] = (none, s)
       ∧ (one s n = (.error f, s1) → s.eachLane one (n :: l) = (some (n, f), s1))
       ∧ (one s n = (.ok (), s1) → s.eachLane one (n :: l) = s1.eachLane one l))
  ∧ (∀ (s s1 s2 : State) (own : State → Nat → Except AccFault (List Loc) × State)
       (one : List Loc → Nat → State → Nat → Except AccFault Unit × State) (n : Nat) (b : List Nat) (r : List (List Nat))
       (f : AccFault) (p : Nat × AccFault) (ls : List Loc),
       s.eachBlock own one [] = (none, s)
       ∧ (own s n = (.error f, s1) → s.eachBlock own one ((n :: b) :: r) = (some (n, f), s1))
       ∧ (own s n = (.ok ls, s1) → s1.eachLane (one ls n) (n :: b) = (some p, s2) →
         s.eachBlock own one ((n :: b) :: r) = (some p, s2))
       ∧ (own s n = (.ok ls, s1) → s1.eachLane (one ls n) (n :: b) = (none, s2) →
         s.eachBlock own one ((n :: b) :: r) = s2.eachBlock own one r))
  ∧ (∀ (v : VState) (blen : Nat) (act : List Nat), let blocks := blocksOf v blen act
       blocks.flatten = act
       ∧ (∀ b ∈ blocks, b ≠ [] ∧ ∀ i ∈ b, ∀ j ∈ b, v.blockFirst blen i = v.blockFirst blen j)
       ∧ ∀ p q b c, blocks = p ++ b :: c :: q → v.blockFirst blen (b.headD 0) ≠ v.blockFirst blen (c.headD 0))
  ∧ (∀ (s s0 s1 : State) (d : VReg) (addr : Nat → Nat) (k n : Nat) (ls : List Loc) (f : AccFault),
       let row := (homeOf ls).any (fun h => decide (0x20000000000 ≤ h ∧ h < 0x30000000000))
       let parts := if wholeAccess (addr n) ls = true ∧ (ls.length = 2 ∨ (ls.length = 64 ∧ row = true)) then [(0, ls.length)]
         else if addr n % 2 = 0 then (List.range (ls.length / 2)).map (fun i => (2 * i, 2))
         else (List.range ls.length).map (fun i => (i, 1))
       let bytes := fun (p : Nat × Nat) => (ls.drop p.1).take p.2
       let x := s.rdN (s.slotCell d.val n) k
       (s.check (s.elemAgent n) .read k (addr n) = (.ok ls, s1) →
         tldOne k d addr s n = (.ok (), s1.mapL (fun l => { l with returns := l.returns ++ parts.map (fun p =>
           ⟨s.laneSeq, s.laneAddr, n, s.slotCell d.val n + p.1, min (8 * p.2) (8 * k - 8 * p.1), bytes p, none, [], none,
             []⟩) })))
       ∧ (s.check (s.elemAgent n) .read k (addr n) = (.error f, s1) → tldOne k d addr s n = (.error f, s1))
       ∧ (s.readRow n = (.error f, s0) → tstOne k d addr s n = (.error f, s0))
       ∧ (s.readRow n = (.ok (), s0) →
         (s0.check (s.elemAgent n) .write k (addr n) = (.error f, s1) → tstOne k d addr s n = (.error f, s1))
         ∧ (s0.check (s.elemAgent n) .write k (addr n) = (.ok ls, s1) →
           tstOne k d addr s n = (.ok (), s1.mapL (fun l => { l with stores := l.stores ++ parts.map (fun p =>
             ⟨n, .store (x / 256 ^ p.1 % 256 ^ p.2), bytes p, true, List.range (bytes p).length, [], [], s.laneSeq,
               s.laneAddr, n, true, 0, false⟩) })))))
  ∧ (∀ (s : State) (n : Nat) (r : Except AccFault Unit) (s0 : State), s.readRow n = (r, s0) →
       s0 = { s with fleet := s0.fleet, fresh := s0.fresh })
  ∧ (∀ (s s0 s1 : State) (vt : VType) (d : VReg) (addr val : Nat → Nat) (o : StoreOrder) (n : Nat) (ls : List Loc),
       let parts := if wholeAccess (addr n) ls then [(0, ls.length)] else (List.range ls.length).map (fun i => (i, 1))
       let bytes := fun (p : Nat × Nat) => (ls.drop p.1).take p.2
       (s.check (s.elemAgent n) .read (containerOf vt.ew) (addr n) = (.ok ls, s1) →
         ∃ t, loadOne vt d addr s n = (.ok (), t) ∧ t.mem = s.mem ∧ t.t.c = s.t.c ∧ t.t.q = s.t.q
           ∧ t.t.l = { s.t.l with returns := s.t.l.returns ++ parts.map (fun p =>
               ⟨s.laneSeq, s.laneAddr, n, s.slotCell d.val n + p.1, min (8 * p.2) (vt.ew - 8 * p.1), bytes p, none, [],
                 none, []⟩) })
       ∧ (s.readRow n = (.ok (), s0) → s0.check (s.elemAgent n) .write (containerOf vt.ew) (addr n) = (.ok ls, s1) →
         ∃ t, storeOne vt val addr o s n = (.ok (), t) ∧ t.mem = s.mem ∧ t.t.c = s.t.c ∧ t.t.q = s.t.q
           ∧ t.t.l = { s.t.l with stores := s.t.l.stores ++ parts.map (fun p =>
               ⟨n, .store (val n / 256 ^ p.1 % 256 ^ p.2), bytes p, true, List.range (bytes p).length, [], [], s.laneSeq,
                 s.laneAddr, n, o.isSome, o.getD 0, false⟩) })
       ∧ (∀ f, s.check (s.elemAgent n) .read (containerOf vt.ew) (addr n) = (.error f, s1) →
         loadOne vt d addr s n = (.error f, s1))
       ∧ (∀ f, s.readRow n = (.ok (), s0) → s0.check (s.elemAgent n) .write (containerOf vt.ew) (addr n) = (.error f, s1) →
         storeOne vt val addr o s n = (.error f, s1))
       ∧ ∀ f, s.readRow n = (.error f, s0) → storeOne vt val addr o s n = (.error f, s0))
  ∧ (∀ (s s0 s1 : State) (v : VState) (vt : VType) (d : VReg) (base scb : Word) (x : BitVec 22) (free : Bool)
       (first n : Nat) (ls : List Loc) (f : AccFault),
       let i := if v.vlo = 0 then n else n / v.stride * (if vt.blen = 0 then v.vli else (v.vli + vt.blen - 1) / vt.blen * vt.blen)
         + n % v.stride
       scaleAddr v vt scb n = (scb + BitVec.ofNat 64 (i / vt.blen)).toNat
       ∧ scaledAddr v vt base x n
         = (base + BitVec.ofInt 64 x.toInt + BitVec.ofNat 64 i * BitVec.ofNat 64 (containerOf vt.ew)).toNat
       ∧ storeScaledOne v vt free d base x () first s n
         = storeOne vt (fun j => containerVal vt (s.elem vt.ew d.val j)) (scaledAddr v vt base x)
             (if free = true then (if n = first then some (first + 1) else none) else some 0) s n
       ∧ loadScale v vt scb s n = s.check (s.elemAgent n) .read 1 (scaleAddr v vt scb n)
       ∧ (loadOne vt d (scaledAddr v vt base x) s n = (.error f, s1) →
         loadScaledOne v vt d base x ls first s n = (.error f, s1))
       ∧ (loadOne vt d (scaledAddr v vt base x) s n = (.ok (), s1) →
         (n = first → loadScaledOne v vt d base x ls first s n = (.ok (), s1.mapL (fun l => { l with returns := l.returns
           ++ [⟨s1.laneSeq, s1.laneAddr, n, s1.scaleCell vt d.val n, 8, ls, none, [], some (vt.kind != 3), []⟩] })))
         ∧ (n ≠ first → loadScaledOne v vt d base x ls first s n = (.ok (), s1.mapL (fun l => { l with
           returns := l.returns.map (fun e => if e.seq = s1.laneSeq ∧ e.lane = first ∧ e.scale.isSome = true then
             { e with more := e.more ++ [s1.scaleCell vt d.val n] } else e) }))))
       ∧ (s.readRow n = (.error f, s0) → storeScale v vt free d scb s n = (.error f, s0))
       ∧ (s.readRow n = (.ok (), s0) → s0.check (s.elemAgent n) .write 1 (scaleAddr v vt scb n) = (.error f, s1) →
         storeScale v vt free d scb s n = (.error f, s1))
       ∧ (s.readRow n = (.ok (), s0) → s0.check (s.elemAgent n) .write 1 (scaleAddr v vt scb n) = (.ok ls, s1) →
         let k := s.scale vt d.val n
         storeScale v vt free d scb s n = (.ok (), (s1.mapL (fun l => { l with stores := l.stores ++
           [⟨noLane, .store (wrapInt 8 k.1), ls, true, List.range ls.length, [], [], s.laneSeq, s.laneAddr, noLane, true,
             if free = true then n + 1 else 0, false⟩] })).addFlags k.2)))
  ∧ (∀ (s : State) (k n a v : Nat) (op : MemOp), NoneAway s → s.clusters = [] → s.t.l.stores[k]? = some op →
       s.laneStoreFree k op = true → op.kind = .store v → op.left = List.range n →
       op.locs = (List.range n).map (fun i => Loc.cell (a + i) (a + i)) →
       ∃ t, exec (.homeSliceAccess (s.t.c.accs.length + k)) s = .next t
         ∧ ((∀ l ∈ op.locs, s.homeTakes s.t.task.ctx l = true) → ∀ i < n, (t.rd (a + i)).toNat = v / 256 ^ i % 256)
         ∧ ((∀ l ∈ op.locs, s.homeTakes s.t.task.ctx l = false) → ∀ x, t.rd x = s.rd x)
         ∧ (∀ x, x < a ∨ a + n ≤ x → t.rd x = s.rd x)
         ∧ LoadsAnew s t (fun x => { x with l := { x.l with stores := x.l.stores.eraseIdx k } }))

/-- R166, R272 to R277: indexed forms act on the active lanes whose %edone bit is clear; where none faults they complete
with column 0 cleared; where some fault, the lowest of them traps and the others are done and marked. Of vamo and vred
those that neither release nor acquire.
What a lane does: where its access passes its checks at its indexed address (base plus the scaled or byte index), its load,
store or atomic, with the lane's operand and comparand, is put on its way, and its bit of column 0 is set; where it faults,
or the lane's data row, which it reads first, is in error (R435; log entry 62), nothing is put on its way and its bit is left.
That a lane above a faulting one is put on its way even where their bytes overlap is the model's choice (log entry 30). No other column and no byte of memory changes meanwhile. -/
def Obligations.IndexedForms : Prop :=
  (∀ (s : State) (base : Word) (i : VReg) (size n : Nat),
     s.indexAddr base 0 i size n = (base + BitVec.ofNat 64 (s.elem 32 i.val n * size)).toNat
     ∧ s.indexAddr base 1 i size n = (base + BitVec.ofInt 64 (sextNat 32 (s.elem 32 i.val n) * size)).toNat
     ∧ s.indexAddr base 2 i size n = (base + BitVec.ofNat 64 (s.elem 64 i.val n)).toNat)
  ∧ (∀ (s s0 : State) (vt : VType) (base : Word) (mode : Fin 3) (d i c : VReg) (n w : Nat) (f : AccFault) (op : AmoOp)
       (addr v k : Nat → Nat) (r : Option VReg), s.readRow n = (.error f, s0) →
       gatherOne vt base mode d i s n = (.error f, s0) ∧ scatterOne vt base mode i c s n = (.error f, s0)
       ∧ atomicOne w op addr v k r s n = (.error f, s0))
  ∧ (∀ (s s0 s1 : State) (vt : VType) (base : Word) (mode : Fin 3) (d i c : VReg) (n w : Nat) (ls : List Loc) (f : AccFault)
       (op : AmoOp) (addr v k : Nat → Nat), s.readRow n = (.ok (), s0) →
       let va := s.indexAddr base mode i (containerOf vt.ew) n
       let parts := if wholeAccess va ls then [(0, ls.length)] else (List.range ls.length).map (fun i => (i, 1))
       let bytes := fun (p : Nat × Nat) => (ls.drop p.1).take p.2
       let x := containerVal vt (s.elem vt.ew c.val n)
       let read := s0.check (s.elemAgent n) .read (containerOf vt.ew) va
       let write := s0.check (s.elemAgent n) .write (containerOf vt.ew) va
       let both := s0.check (s.elemAgent n) (.atomic (AmoOp.hostOk op)) (w / 8) (addr n)
       let one := fun (r : Option VReg) => atomicOne w op addr v k r s n
       (read = (.error f, s1) → gatherOne vt base mode d i s n = (.error f, s1))
       ∧ (read = (.ok ls, s1) → gatherOne vt base mode d i s n = (.ok (), s1.mapL (fun l => { l with
         returns := l.returns ++ parts.map (fun p => ⟨s.laneSeq, s.laneAddr, n, s.slotCell d.val n + p.1,
           min (8 * p.2) (vt.ew - 8 * p.1), bytes p, none, [], none, []⟩) })))
       ∧ (write = (.error f, s1) → scatterOne vt base mode i c s n = (.error f, s1))
       ∧ (write = (.ok ls, s1) → scatterOne vt base mode i c s n = (.ok (), s1.mapL (fun l => { l with
         stores := l.stores ++ parts.map (fun p => ⟨n, .store (x / 256 ^ p.1 % 256 ^ p.2), bytes p, true,
           List.range (bytes p).length, [], [], s.laneSeq, s.laneAddr, n, false, 0, false⟩) })))
       ∧ (both = (.error f, s1) → ∀ r, one r = (.error f, s1))
       ∧ (both = (.ok ls, s1) → one (some d) = (.ok (), s1.mapL (fun l => { l with
         returns := l.returns ++ [⟨s.laneSeq, s.laneAddr, n, s.slotCell d.val n, w, ls, some (op, v n, k n), [], none,
           []⟩] }))
         ∧ one none = (.ok (), s1.mapL (fun l => { l with stores := l.stores ++ [⟨n, .amo 0 op (v n) (k n), ls, true,
           List.range ls.length, [], [], s.laneSeq, s.laneAddr, n, false, 0, false⟩] }))))
  ∧ (∀ (s s1 : State) (one : State → Nat → Except AccFault Unit × State) (n : Nat) (l : List Nat) (f : AccFault),
       s.eachMarked one [] = (none, s)
       ∧ (one s n = (.error f, s1) → s.eachMarked one (n :: l) = (some (n, f), (s1.eachMarked one l).2))
       ∧ (one s n = (.ok (), s1) → s.eachMarked one (n :: l) = (s1.setCol 0 n true).eachMarked one l))
  ∧ (∀ (s : State) (n : Nat), NoneAway s → n < s.lanes → let t := s.setCol 0 n true
       t = { s with cols := t.cols } ∧ ∀ j k, j < s.lanes →
         (t.colWord j).getLsbD k = ((s.colWord j).getLsbD k || (decide (j = n) && decide (k = 0))))
  ∧ (∀ (s : State) (op : AmoOp) (mode : Fin 3) (d i c : VReg) (a : SReg) (act : List Nat),
       let w := s.vt.ew
       let addr := s.indexAddr (s.opA a) mode i (w / 8)
       s.vamoLanes op mode d a i c act = s.eachMarked (atomicOne w op addr (s.elem w c.val) (s.elem w d.val) (some d)) act
       ∧ s.vredLanes op mode a i c act = s.eachMarked (atomicOne w op addr (s.elem w c.val) (fun _ => 0) none) act)
  ∧ ∀ (s s1 : State) (g : Guard) (op : AmoOp) (mode : Fin 3) (sc : Scope) (d i c : VReg) (a : SReg)
    (r : Option (Nat × AccFault)) (en : LaneEntry) (l : List LaneEntry), Heads s en l →
    let act := s.pendingLanes g
    let ends := fun (j : Instr) (x : Option (Nat × AccFault) × State) => x = (r, s1) →
      exec j s = .next (match r with
        | none => s1.clearEdone.laneEnd act 0
        | some (n, f) => ((s1.addFlags 0).laneCycles act).trap (f.trap true (some n)))
    ends (.vgather g mode d a i) (s.eachMarked (gatherOne s.vt (s.opA a) mode d i) act)
    ∧ ends (.vscatter g mode a i c) (s.eachMarked (scatterOne s.vt (s.opA a) mode i c) act)
    ∧ ends (.vamo g op mode .none sc d a i c) (s.vamoLanes op mode d a i c act)
    ∧ ends (.vred g op mode false sc a i c) (s.vredLanes op mode a i c act)

/-- The residual tile is empty, every accumulate of the task has been performed, and no flush has begun. -/
def NothingToFlush (s : State) : Prop := s.t.l.flush = false ∧ s.t.r.entries = [] ∧ s.accOpen = false

/-- R103, R146, R277, R279, R280: rflush, vfence, arrive and the releasing and acquiring vector atomics, those that do both
too, where nothing is to be flushed, complete; every access of the lane stream on its way is performed before a release, a fence or an arrival, and
after an acquiring atomic. arrive adds the lanes of its mask to a barrier, or raises SV on overflow. That an acquiring atomic
performs every access of the lane stream at once is the model's choice (log entry 33), and so is that arrive is one
atomic of sixteen bytes, checked whole (log entry 34).
R47, R48: a barrier's phase advances by one for each full round of its expected arrivals; the rest stays arrived. -/
def Obligations.LaneSynchronisationAndBarriers : Prop :=
  (∀ (s s1 : State) (g : Guard) (op : AmoOp) (mode : Fin 3) (sc : Scope) (d i c : VReg) (a : SReg) (m : MReg)
     (ls : List Loc) (en : LaneEntry) (l : List LaneEntry), Heads s en l →
     let u := s.drainLane
     (NothingToFlush u →
       exec (.rflush sc) s = .next (u.laneDone 0) ∧ exec (.vfence sc) s = .next (u.laneDone 0)
       ∧ (let act := u.pendingLanes g
          (u.vredLanes op mode a i c act = (none, s1) →
            exec (.vred g op mode true sc a i c) s = .next (s1.clearEdone.laneEnd act 0))
          ∧ (u.vamoLanes op mode d a i c act = (none, s1) →
            exec (.vamo g op mode .rel sc d a i c) s = .next (s1.clearEdone.laneEnd act 0)
            ∧ (NothingToFlush s1.drainLane →
              exec (.vamo g op mode .ar sc d a i c) s = .next (s1.drainLane.clearEdone.laneEnd act 0))))
       ∧ (let act := u.actives noGuard
          let n := (act.filter (u.mask m)).length
          (n = 0 → exec (.arrive a m sc) s = .next (u.laneEnd act 0))
          ∧ (n ≠ 0 → u.check u.laneAgent (.atomic false) 16 (u.opA a).toNat = (.ok ls, s1) →
            let v := s1.rdLocs ls
            exec (.arrive a m sc) s = .next (match barrierStep (bits v 31 0) (bits v 63 32) (bits v 95 64) n with
              | none => s1.laneEnd act flSV
              | some (x, p) =>
                (s1.writeLocs s1.laneAgent (.atomic false) ((ls.drop 4).take 8) (x + p * 2 ^ 32)).laneEnd act 0))))
     ∧ (let act := s.pendingLanes g
        s.vamoLanes op mode d a i c act = (none, s1) → NothingToFlush s1.drainLane →
        exec (.vamo g op mode .acq sc d a i c) s = .next (s1.drainLane.clearEdone.laneEnd act 0)))
  ∧ (∀ (expected arrived phase n x p : Nat), 0 < expected → barrierStep expected arrived phase n = some (x, p) →
       x < expected ∧ ∃ r, arrived + n = r * expected + x ∧ p = (phase + r) % 2 ^ 32)

/-- R135: the addends of one target address are combined in ascending order, the first one's place kept; the combined
addends of one line of virtual addresses stand together, in their order, each with its home line and its word. -/
def AddendsCombined : Prop :=
  (∀ (typ : Nat) (xs : List (Target × Nat)),
     let ys := combine typ [] xs
     (ys.map (·.1)).Sublist (xs.map (·.1)) ∧ (ys.map (·.1.va)).Nodup
     ∧ (∀ x ∈ xs, ∃ y ∈ ys, y.1.va = x.1.va)
     ∧ ∀ y ∈ ys, ∃ x r, xs.filter (fun p => p.1.va == y.1.va) = x :: r ∧ y.1 = x.1
         ∧ y.2 = r.foldl (fun n p => accAdd typ n p.2) x.2)
  ∧ (∀ (typ seq : Nat) (addr : Word) (xs : List (Target × Nat)) (n i j k : Nat) (a b c : Addend),
       let all := xs.filterMap (fun p => (homeOf p.1.locs).map (fun h =>
         (⟨p.1.va / 64, h / 64, typ, h % 64 / accWidth typ, BitVec.ofNat 64 p.2, seq, addr⟩ : Addend)))
       let new := lineAddends typ seq addr xs
       new.filter (fun x => x.vline == n) = all.filter (fun x => x.vline == n)
       ∧ (new[i]? = some a → new[j]? = some b → new[k]? = some c → i < j → j < k → a.vline = c.vline → b.vline = a.vline))

/-- R136, R141, R142: the waiting addends are placed from the front, those of one instruction and line together, until
one cannot be; where the line's entry stands, its words go out with the sums that it holds, the held sum first, and
are held in it where a request of the line is outstanding or an entry of it is held back. -/
def PlacementsMade : Prop :=
  (∀ (s s1 : State) (n : Nat) (a : Addend) (l : List Addend),
     (s.t.r.place = [] → s.placeAll n = s)
     ∧ (s.t.r.place = a :: l →
       let words := ((a :: l).takeWhile a.with).map (fun x => (x.word, x.value))
       (s.placeLine a.line a.typ words (a.seq, a.addr) = (false, s1) → s.placeAll (n + 1) = s1)
       ∧ (s.placeLine a.line a.typ words (a.seq, a.addr) = (true, s1) →
         s.placeAll (n + 1) = (s1.mapR (fun r => { r with place := (a :: l).dropWhile a.with })).placeAll n)))
  ∧ (∀ (s : State) (line typ : Nat) (words : List (Nat × Word)) (racc : Nat × Word) (e : REntry),
       s.fleet.errors = [] → s.t.r.find line typ = some e → s.t.r.otherType line typ = none →
       let f := words.foldl (fun e p => e.add s.gts p.1 p.2) e
       (s.lineBusy line = true ∨ s.t.r.lineHeld line = true →
         s.placeLine line typ words racc = (true, s.mapR (·.put f)))
       ∧ (s.lineBusy line = false → s.t.r.lineHeld line = false →
         s.placeLine line typ words racc = (true, (s.sendReq line typ f.words (some f.idx) false (some racc) false).mapR
           (·.put { f.cleared with fl := true }))))
  ∧ (∀ (e : REntry) (now j : Nat) (v : Word), j < 16 →
       let f := e.add now j v
       f.sums.toArray.getD j 0 = (if e.valid.getLsbD j then BitVec.ofNat 64 (accAdd e.typ (e.sums.toArray.getD j 0).toNat v.toNat)
         else v)
       ∧ (∀ k, k ≠ j → f.sums.toArray.getD k 0 = e.sums.toArray.getD k 0)
       ∧ (∀ k, f.valid.getLsbD k = (e.valid.getLsbD k || decide (k = j))))

/-- R99, R135, R151, R278: racc, where every target passes its checks and nothing that it follows waits for an older racc,
puts the addends of its lanes, combined by target address and sorted by virtual line, up for placement, marks the lanes,
and completes. R135, R136, R141, R142: how they are combined and placed.
R139: accumulation at an address adds modulo the width of the type; the order of two integer addends does not
matter. -/
def Obligations.ResidualAccumulation : Prop :=
  (∀ (s s1 : State) (m : GuardX) (t : AccTy) (v i : VReg) (a : SReg) (ts : List Target) (en : LaneEntry)
     (l : List LaneEntry), Heads s en l →
     let act := s.pendingLanes m.g
     let typ := accTyp t
     s.targets typ (s.indexAddr (s.opA a) 0 i (accWidth typ)) act [] [] = (ts, [], s1) → s1.accWaits = false →
     let s2 := (s1.drainLaneOver (ts.flatMap (·.locs))).setCols 0 (ts.map (fun t => (t.lane, true)))
     let new := lineAddends typ en.seq en.addr (combine typ [] (ts.map (fun p => (p, (s.addend t v p.lane).val))))
     let s3 := s2.mapR (fun r => { r with place := r.place ++ new })
     let s4 := s3.placeAll s3.t.r.place.length
     let xs : List LaneVal := ts.map (fun p => ⟨p.lane, 0, 0, (s.addend t v p.lane).fl⟩)
     exec (.racc m t v a i) s = .next ((s4.writeX m.x xs).clearEdone.laneEnd act (flagsOf xs)))
  ∧ (∀ x y z : Nat, accAdd 0 x y = (x + y) % 2 ^ 32 ∧ accAdd 1 x y = (x + y) % 2 ^ 64 ∧ accAdd 2 x y = (x + y) % 2 ^ 64
       ∧ ∀ t ∈ [0, 1, 2], accAdd t (accAdd t x y) z = accAdd t (accAdd t x z) y)
  ∧ AddendsCombined ∧ PlacementsMade

/-! ### Copies, matrices, streams -/

/-- R281: cpy, where its block can be read as s1 has read it and the task has fewer than sixteen copies, adds a copy with
its chunks still to do, or one that has stopped where the block is malformed; it sets its token on sD and goes on.
R113, R115, R283, R284: a chunk whose elements are moved without a refused access, in the order that a free choice gives
them, counts as done. R96, R284: what is left of an element is moved unit by unit, a unit being min(2^esz, 8) bytes where
its source and its destination are aligned to that and one byte else; a unit, where no watchpoint stands by and the copy
has overwritten nothing, takes the bytes of its source to its destination. One unit of one element, both freely chosen,
may be moved ahead of the rest. A copy with nothing left to do puts its status (chunks done, code) into the token
register of its bound task, clears the token and is gone. -/
def Obligations.CopiesRunToTheirEnd : Prop :=
  (∀ (s s1 : State) (d a : SReg) (ws : List Word), NoToken s [d, a] → s.alignFault s.ctlAgent .read 64 (s.reg a).toNat 64 = none →
     (s.copiesOf s.t.task.id).length < 16 → s.drainAccs.loadWords (s.reg a) 8 = (.ok ws, s1) →
     let c := copyOf s1.sched.nextId s1.t.site s1.t.task.id s1.t.task.ctx d.val s1.t.q.pushed (blockOf ws) s1.t.c.pc
     let c' := if c.malformed (blockOf ws) s1.lanes then { c with code := 2 } else { c with todo := List.range c.chunks }
     ∃ t, exec (.cpy d a) s = .next t ∧ t.copies = s1.copies ++ [c'] ∧ t.t.c.pc = s1.wordAddr + 8
       ∧ (∀ n, t.t.c.tokens.getLsbD n = (s1.t.c.tokens.getLsbD n || (decide (n = d.val) && decide (d ≠ 0))))
       ∧ (∀ q, q ≠ d → t.reg q = s1.reg q) ∧ t.mem = s1.mem)
  ∧ (∀ (s s1 s2 : State) (c c' : Copy) (chunk : Nat) (l : List Nat), s.copy? c.id = some c →
       (c.fault = none → c.todo.contains chunk = true →
         s.shuffle (c.rest chunk).length (c.rest chunk) = (l, s1) → s1.copyMove c l = (.ok (), c', s2) →
         exec (.copyChunkDone c.id chunk) s = .next (s2.copyBits { c' with
           todo := c'.todo.filter (· != chunk), done := c'.done + 1, landed := c'.landed ++ [chunk]
           moved := c'.moved.filter (fun k => !(c'.elems chunk).contains k) }))
       ∧ (c.ended = true → s.t.task.id = c.taskId → s.t.status ≠ .free → ∀ h : c.token < 64, c.token ≠ 0 →
         ∃ t, exec (.copyComplete c.id) s = .next t ∧ t.t.c.s[c.token] = BitVec.ofNat 64 (c.done * 2 ^ 32 + c.code)
           ∧ t.t.c.tokens.getLsbD c.token = false
           ∧ (∀ n, n ≠ c.token → t.t.c.tokens.getLsbD n = s.t.c.tokens.getLsbD n) ∧ t.copy? c.id = none ∧ t.mem = s.mem))
  ∧ (∀ (s s1 : State) (c : Copy) (k o : Nat) (os : List Nat) (src dst : List Loc),
       let u := c.unit k
       let part := fun (l : List Loc) => (l.drop o).take u
       u = (if c.srcOf k % min c.esize 8 = 0 ∧ c.dstOf k % min c.esize 8 = 0 then min c.esize 8 else 1)
       ∧ (o ∈ c.unitsLeft k ↔ o < c.esize ∧ o % u = 0 ∧ (k, o) ∉ c.parts)
       ∧ (s.clusters = [] → c.olds = [] → ∃ c',
           s.copyUnits c k src dst [o] = (c', s.writeLocs c.agent .write (part dst) (s.rdLocs (part src)))
           ∧ c'.parts = c.parts ++ [(k, o)] ∧ c'.moved = c.moved ∧ c'.todo = c.todo)
       ∧ s.copyUnits c k src dst (o :: os)
           = (let r := s.copyUnits c k src dst [o]; r.2.copyUnits r.1 k src dst os)
       ∧ (s.copyCheck c k = (.ok (src, dst), s1) →
           let r := s1.copyUnits c k src dst (c.unitsLeft k)
           s.copyMove c [k] = (.ok (), r.1.close k, r.2) ∧ (r.1.close k).moved = c.moved ++ [k]))
  ∧ (∀ (s s1 : State) (c : Copy) (chunk : Nat) (src dst : List Loc), s.copy? c.id = some c → c.fault = none →
       c.todo.contains chunk = true → c.rest chunk ≠ [] →
       let k := (c.rest chunk).getD (s.free.1 % (c.rest chunk).length) 0
       s.free.2.copyCheck c k = (.ok (src, dst), s1) → c.unitsLeft k ≠ [] →
       ∃ o ∈ c.unitsLeft k, let r := s1.free.2.copyUnits c k src dst [o]
         s.moveElement c.id chunk = r.2.setCopy (r.1.close k))

/-- R292, R295: an mmul whose B region is owned and whose presence array is read without an error leaves the lane queue and
begins at %vstart, with its type, configuration and active lanes fixed; one that was stopped goes on from %vstart with
what was fixed then (log entry 64). A step of it that meets no error adds the products of its lanes to the tile, and the
last one completes the instruction. Without a watchpoint, a step leaves in each count of the g rows and N columns the saturating
sum of what it held and of the products of the step's active lanes, in ascending order.
R297 to R299, where no stored bit is in error: mst gives the active lanes below N the rounded elements of a row of a tile; mstm stores every row, with
its scales where the readout is scaled, where no store faults. -/
def Obligations.MatrixSteps : Prop :=
  (∀ (s s1 : State) (g : Guard) (t : TReg) (a : VReg) (b : SReg) (en : LaneEntry) (l : List LaneEntry), Heads s en l →
     s.away = [] →
     let c := s.mc
     let sb := en.b.toNat
     let p := s1.presence c sb s.t.l.v.vl
     let cells := s.presenceCells c sb s.t.l.v.vl
     let starts := fun (u : State) (m : MmState) (vstart : Nat) => Host.Outcome.next { u with t := { s.t with
         q := { s.t.q with lane := l }
         l := { s.t.l with
           mm := s.t.l.mm ++ [m], vstart := vstart
           kept := s.t.l.kept.filter (fun x => x.entry.seq != m.entry.seq)
           started := s.t.alloc.quads } } }
     (s.t.l.kept = [] → s.t.l.early = [] → s.regionOwned sb (sb + c.presenceBytes s.t.l.v.vl) = true →
       s.meet (if (s.actives g).isEmpty then [] else cells) = (none, s1) →
       s.regionOwned sb (regionEnd c p sb s.t.l.v.vl) = true →
       exec (.mmul g t a b) s
         = starts (if c.bsp then s1.noteRead (cells.map (fun x => .cell x x)) false else s1)
             ⟨en, s.t.l.vstart, 0, p, s.t.l.v, s.t.l.mcfg, s.actives g, []⟩ 0)
     ∧ ∀ m k, s.t.l.kept = m :: k → m.entry.seq = en.seq →
       exec (.mmul g t a b) s = starts s { m with next := s.t.l.vstart, flags := 0, early := [] } s.t.l.keptStart)
  ∧ (∀ (s s2 : State) (m : MmState) (ms : List MmState) (g : Guard) (t : TReg) (a : VReg) (b : SReg),
       s.t.l.mm = m :: ms → m.entry.instr = some (.mmul g t a b) →
       let c := MCfg.of m.mcfg
       let sb := m.entry.b.toNat
       let ag := { s.matrixAgent with pc := m.entry.addr }
       let lanes := stepLanes m.v.vl m.next
       let cells := s.stepCells c m a.val sb lanes
       let s1 := s.setUnit s.uid { s.unitSt s.uid with served := siteThread s.t.site }
       let act := m.act.filter (fun l => lanes.contains l && decide (l < m.entry.lanes) && m.hasBlock c l)
       s1.stepMeets c t.val cells act = (none, s2) →
       let r := (s2.watchStep ag cells).stepAdd ag c m t.val a.val sb act
       (m.next + lanes.length < m.v.vl → exec .mmulStep s = .next (r.1.mapL (fun x => { x with
         mm := { m with next := m.next + lanes.length, flags := m.flags ||| r.2, early := [] } :: ms })))
       ∧ (m.v.vl ≤ m.next + lanes.length → exec .mmulStep s = .next (r.1.mmulEnd m (m.flags ||| r.2)))
       ∧ (s.clusters = [] → m.early = [] → act ≠ [] → ∀ i < c.g, ∀ n < c.n,
         let u := s2.mapL (fun x => { x with v := m.v, mcfg := m.mcfg })
         r.1.count64 t.val i n = (addProducts (fun l => laneProduct c (aWidth u.vt c) (u.aCode c a.val i l)
           (u.bCode c m.present sb m.v.vl l n)) (s.count64 t.val i n) 0 act).1))
  ∧ (∀ (s s1 : State) (g : Guard) (d : VReg) (t : TReg) (a b : SReg) (pitch : BitVec 22) (sc : Option SReg) (en : LaneEntry)
       (l : List LaneEntry), Heads s en l → s.fleet.errors = [] →
       let c := s.mc
       let row := s.tileRow t.val (en.b.toNat % 32)
       let xs : List LaneVal := ((s.actives g).filter (· < c.n)).map (fun n =>
         ⟨n, (readElem c row n).val, rowScale c row n, (readElem c row n).fl⟩)
       exec (.mst g d t b) s = .next ((s.writeLanes c.outType d.val xs).laneEnd (s.actives g) (flagsOf xs))
       ∧ (s.putAll (s.mstmStores c t.val en.a (if sc.isSome then en.c else 0) pitch.toNat) = (.ok (), s1) →
         exec (.mstm a t pitch sc) s = .next (s1.laneDone (s.mstmFlags c t.val))))

/-- R156, R157, R162, R303: zopen opens a closed stream on a well-formed descriptor; zisect and zunion join two open
single streams; zclose closes a stream and its partner. -/
def Obligations.StreamOpenMergeClose : Prop :=
  ∀ (s s1 s2 : State) (z m : ZReg) (a b : SReg) (lev : Fin 6) (h w : List Word) (en : LaneEntry) (l : List LaneEntry),
    Heads s en l →
    ((s.zreg z).isOpen = false → (lev.val = 0 → en.b = 0) →
      s.alignFault s.laneAgent .read 64 en.a.toNat 64 = none → s.laneWords en.a 8 = (.ok h, s1) →
      headerOk h lev.val = true → s1.laneWords (en.a + 64 + BitVec.ofNat 64 (32 * lev.val)) 4 = (.ok w, s2) →
      let r : LevelRec := ⟨w.getD 0 0, w.getD 1 0, w.getD 2 0, w.getD 3 0⟩
      r.bad = false → r.misaligned = none →
      exec (.zopen z a lev b) s = .next ((s2.setZ z (openStream en.a lev.val en.b.toNat r)).laneDone 0))
    ∧ (z ≠ m → (s.zreg z).isOpen = true → (s.zreg m).isOpen = true → (s.zreg z).mode = 0 → (s.zreg m).mode = 0 →
      let join := fun (mode : Nat) => ((s.setZ z { s.zreg z with mode := mode, partner := m.val }).setZ m
        { s.zreg m with mode := mode, partner := z.val }).laneDone 0
      exec (.zisect z m) s = .next (join 1) ∧ exec (.zunion z m) s = .next (join 2))
    ∧ ((s.zreg z).isOpen = true → exec (.zclose z) s = .next ((if (s.zreg z).mode = 0 then s.setZ z .closed
        else (s.setZ z .closed).setZ (s.zreg z).other .closed).laneDone 0))

/-- R158, R162, R163, R305 to R307: zadv consumes an item; the zld forms deliver items to the lanes from %vstart on and
push the lane count to q2, consuming them or, in the .k and .m forms, not; zskip passes items below a coordinate; bz.end
pushes to bo whether the fibre has ended. Each where no item is malformed and no read faults; a zld form without an active lane
pushes %vstart.
R155, R158, R163: a dense stream that is single: zadv delivers the coordinate at its position; zskip moves to the
coordinate asked for, within the fibre.
R159, R160: the engine reads an entry ahead, a free choice among those not read; what it finds, a value or a fault, is
kept with the stream. -/
def Obligations.StreamItemsAndReadAhead : Prop :=
  (∀ (s s1 s2 : State) (z : ZReg) (g : Guard) (d : VReg) (mr : MReg) (b : SReg) (o : BitVec 24) (p q : Pulled) (x : Bool)
     (en : LaneEntry) (l : List LaneEntry), Heads s en l → (s.zreg z).isOpen = true →
     (s.pull z 1 = (p, s1) → p.trap = none → exec (.zadv z) s = .next ((s1.goTo z p.a p.b).laneDone 0))
     ∧ (let act := s.actives g
        let v0 := s.t.l.vstart
        act ≠ [] → s.pull z (s.t.l.v.vl - v0) = (q, s2) → q.trap = none →
        let dest := (((List.range q.items.length).map (v0 + ·)).zip q.items).filter (fun x => act.contains x.1)
        let ends := fun (t : State) (fl : Nat) =>
         (t.mapQ (·.push 2 (BitVec.ofNat 64 (v0 + q.items.length)))).laneEnd act fl
        let c := State.deliverTo d (·.coord) s2 dest
        let a := State.deliverTo d (·.pa.getD 0) s2 dest
        exec (.zldC g d z) s = .next (ends (c.1.goTo z q.a q.b) c.2)
        ∧ exec (.zldP g d z) s = .next (ends (a.1.goTo z q.a q.b) a.2)
        ∧ exec (.zldCK g d z) s = .next (ends c.1 c.2) ∧ exec (.zldPK g d z) s = .next (ends a.1 a.2)
        ∧ ((s.zreg z).mode ≠ 0 → exec (.zldM g mr z) s = .next (ends ((s2.setCols mr.val
           (dest.map (fun x => (x.1, x.2.pa.isSome)))).setCols (mr.val + 1) (dest.map (fun x => (x.1, x.2.pb.isSome)))) 0)))
     ∧ (s.actives g = [] → let none := (s.mapQ (·.push 2 (BitVec.ofNat 64 s.t.l.vstart))).laneEnd [] 0
        (∀ i ∈ [Instr.zldC g d z, .zldP g d z, .zldCK g d z, .zldPK g d z], exec i s = .next none)
        ∧ ((s.zreg z).mode ≠ 0 → exec (.zldM g mr z) s = .next none))
     ∧ (s.skipTo z en.b.toNat = (.ok (), s1) →
       ((s1.zreg z).mode = 0 → exec (.zskip z b) s = .next (s1.laneDone 0))
       ∧ ((s1.zreg z).mode ≠ 0 → s1.skipTo (s1.zreg z).other en.b.toNat = (.ok (), s2) →
         exec (.zskip z b) s = .next (s2.laneDone 0)))
     ∧ (s.testEnd z = (.ok x, s1) → exec (.bzEnd z o) s = .next ((s1.mapQ (·.pushBo x)).laneDone 0)))
  ∧ (∀ (s : State) (z : ZReg) (b : SReg) (en : LaneEntry) (l : List LaneEntry), Heads s en l → NoTrace s →
       let r := s.zreg z
       let base := r.parent * r.lrec.size.toNat
       r.isOpen = true → r.mode = 0 → r.bounds = true → r.lrec.kind = 0 → r.pos < r.endPos → r.endPos ≤ 2 ^ 48 → base ≤ r.pos →
       (∃ t, exec (.zadv z) s = .next t ∧ (t.zreg z).pos = r.pos + 1 ∧ (t.zreg z).coord = r.pos - base
         ∧ (t.zreg z).lv = true ∧ ((t.zreg z).ended = true ↔ (r.ended = true ∨ r.pos + 1 = r.endPos)) ∧ t.mem = s.mem ∧ t.t.c = s.t.c)
       ∧ ((r.lv = true → r.coord < en.b.toNat) → ∃ t, exec (.zskip z b) s = .next t
         ∧ (t.zreg z).pos = min r.endPos (max r.pos (base + en.b.toNat)) ∧ t.mem = s.mem ∧ t.t.c = s.t.c))
  ∧ (∀ (s s1 : State) (z : ZReg) (va : Word) (n v : Nat) (f : AccFault), (s.zreg z).nextAhead s.free.1 = some (va, n) →
       let u := s.free.2
       let kept := fun (t : State) (r : ReadAhead) =>
         t.setZ z ({ t.zreg z with ahead := (t.zreg z).ahead ++ [r] } : Stream).boundsAhead
       (u.load u.laneAgent n va.toNat = (.ok v, s1) → exec (.streamFetchAhead z) s = .next (kept s1 ⟨va, n, v, none⟩))
       ∧ (u.load u.laneAgent n va.toNat = (.error f, s1) → f.detail = 0 →
         exec (.streamFetchAhead z) s = .next (kept s1 ⟨va, n, 0, some f.cause⟩)))

/-! ### What happens beside the instructions -/

/-- R96, R106, R107, R110, R111, R269: an element in flight. The bytes that are read of it next are some of those left of it,
a free choice, all of them for an atomic, in a residual tile, or where no two are left; each is the byte at its source, where
no older store of the lane stream waits and the source has not become another context's. Read in part it waits for the rest;
read in full it lands, where no watchpoint stands by: its value is written to its columns, columns above its width keeping
their bits; a binary-kind scale with its low three bits cleared, with IV where they were not zero. -/
def ElementsLand : Prop :=
  (∀ (s s1 : State) (n : Nat) (e : Element) (is : List Nat), s.t.l.returns[n]? = some e → s.elementFree n e = true →
     s.clusters = [] → s.elementPortion e = (is, s1) →
     let k := e.got.length + is.length
     (k < e.src.length → exec (.elementReturn n) s = .next (s1.mapL (fun l => { l with
       returns := l.returns.set n { e with got := e.got ++ is.map (fun i => (i, s1.elementByte e i)) } })))
     ∧ (e.src.length ≤ k →
       let lands := fun (u : State) (v : Nat) =>
         let w := e.gives v
         exec (.elementReturn n) s
           = .next (((u.store ((e.cell :: e.more).flatMap (fun c => u.widthCells c e.width w.1))).mapL (fun l => { l with
               xflags := l.xflags ||| BitVec.ofNat 8 w.2 })).mapL (fun l => { l with returns := l.returns.eraseIdx n }))
       (e.amo = none → lands s1 (s1.elementValue e))
       ∧ ∀ op x y, e.amo = some (op, x, y) → (∀ l ∈ e.src, s1.homeTakes s1.t.task.ctx l = true) →
         let a := s1.amoLocs { s1.laneAgent with pc := e.addr, lane := e.lane } op e.src x y
         a.1 = s1.rdLocs e.src ∧ lands a.2 a.1))
  ∧ (∀ (s : State) (e : Element) (i v : Nat),
       let left := (List.range e.src.length).filter (fun i => !e.got.any (fun p => p.1 == i))
       let is := (s.elementPortion e).1
       is.Sublist left ∧ (left ≠ [] → is ≠ [])
       ∧ (e.amo.isSome = true ∨ (∃ l ∈ e.src, l.inTile = true) ∨ left.length ≤ 1 → is = left)
       ∧ (∀ l, e.src[i]? = some l → (∀ op ∈ s.t.l.stores, e.seq ≤ op.seq) → s.foreign s.t.task.ctx l = false →
         s.elementByte e i = s.rdLoc l)
       ∧ (i < e.src.length → s.elementValue e / 256 ^ i % 256
         = (((e.got.find? (fun p => p.1 == i)).map (·.2)).getD (s.elementByte e i)).toNat)
       ∧ (e.scale ≠ some true → e.gives v = (v, 0))
       ∧ (e.scale = some true → e.gives v = (v % 256 / 8 * 8, if v % 8 = 0 then 0 else flIV)))
  ∧ (∀ (s : State) (a w x i : Nat), i < (w + 7) / 8 → ∃ b : Byte, (s.widthCells a w x)[i]? = some (a + i, b)
       ∧ ∀ j < 8, b.getLsbD j = if 8 * i + j < w then x.testBit (8 * i + j) else (s.rd (a + i)).getLsbD j)

/-- R35, R444, R200, R111: an awaited condition that has come about lets the blocked thread run; a pending push enters
its queue where that has room; the data of a load reaches its register; an element in flight whose turn it is is read and
lands (ElementsLand).
R96, R111, R116: of an access of the control stream whose turn it is, the portion that goes next, where its home slice is
on another die, takes a place in the replay window of the channel to that die, where the window has room. -/
def Obligations.DataAndStoresInFlight : Prop :=
  ElementsLand ∧ (∀ (s : State) (w : Wait) (r : SReg) (v : Word) (p : PendPush),
     (s.t.status = .blocked w → s.awaitOver w = true →
       exec .awaitedCondition s = .next { s with t := { s.t with status := .running } })
     ∧ (s.t.q.pend = some p → p.queue ∈ [1, 2] → (s.t.q.get (p.queue + 1)).length < 16 →
       ∃ t, exec .pendingPush s = .next t ∧ t.t.q.pend = none
         ∧ t.t.q.get (p.queue + 1) = s.t.q.get (p.queue + 1) ++ [p.value] ∧ t.t.q.lane = s.t.q.lane ∧ t.t.c = s.t.c
         ∧ t.mem = s.mem)
     ∧ (s.t.q.pend = some p → p.queue = 3 → s.t.q.bo.length < 16 →
       exec .pendingPush s = .next (s.mapQ (fun q => { q with pend := none, bo := q.bo ++ [p.value == 1] })))
     ∧ (r ≠ 0 → s.t.c.loads.find? (fun x => x.1 == r.val) = some (r.val, v) →
       ∃ t, exec (.loadDataArrival r) s = .next t ∧ t.t.c.s[r] = v ∧ (∀ x ∈ t.t.c.loads, x.1 ≠ r.val)
         ∧ (∀ q, t.reg q = s.reg q) ∧ t.t.c.pc = s.t.c.pc ∧ t.mem = s.mem))
  ∧ (∀ (s s1 : State) (n : Nat) (op : MemOp) (is : List Nat), s.t.c.accs[n]? = some op → s.accFree n op = true →
       s.portion op = (is, s1) → is ≠ [] →
       let here := siteDie s.t.site
       let dst := homeDie here (op.part is)
       let c := s.chanFor s.t.site dst
       dst ≠ here → c.window.length < 64 →
       exec (.homeSliceAccess n) s = .next ((s1.mapC (fun x => { x with
         accs := x.accs.set n { op with sent := op.sent ++ is } })).setChan { c with
           window := c.window ++ [⟨c.next, op.id, is, true, false⟩], next := c.next + 1 }))

/-- R116, R437: the receiver applies the next expected request, and answers it; but while refusals and lost replies in a
row are fewer than the model's bound, a free choice (log entry 3) may find its queue full and refuse it, or lose the
reply. A request already applied is acknowledged without effect; any other number is refused. Acknowledged requests leave
the window; a refusal or a time-out sends again from the number refused, or from the oldest. -/
def Obligations.FabricDeliversOnce : Prop :=
  ∀ (s : State) (c : Chan) (r : ChanReq), s.chan? c.id = some c →
    let gone := c.update r.seq (fun x => { x with inFlight := false })
    let refused := fun (x : Chan) => { x with
      nacks := x.nacks + 1
      refused := match x.refused with | some n => some (min n r.seq) | none => some r.seq }
    (c.window.find? (fun x => x.seq == r.seq && x.inFlight) = some r → r.applied = true →
      exec (.fabricRequestReceive c.id r.seq) s = .next (s.setChan { gone with acked := max c.acked (r.seq + 1) }))
    ∧ (c.window.find? (fun x => x.seq == r.seq && x.inFlight) = some r → r.applied = false → r.seq ≠ c.expected →
      exec (.fabricRequestReceive c.id r.seq) s = .next (s.setChan (refused gone)))
    ∧ (c.window.find? (fun x => x.seq == r.seq && x.inFlight) = some r → r.applied = false → r.seq = c.expected →
      let u := s.free.2
      let chosen := fun (k : Nat) => c.nacks < Config.patience ∧ s.free.1 % 4 = k
      (chosen 1 → exec (.fabricRequestReceive c.id r.seq) s = .next (u.setChan (refused gone)))
      ∧ (¬ chosen 1 → exec (.fabricRequestReceive c.id r.seq) s = .next ((u.apply c.source r).setChan
          { gone.update r.seq (fun x => { x with applied := true }) with
            expected := r.seq + 1
            acked := if chosen 2 then c.acked else max c.acked (r.seq + 1)
            nacks := if chosen 2 then c.nacks + 1 else 0 })))
    ∧ exec (.fabricAck c.id) s = .next (s.setChan { c with window := c.window.filter (fun x => c.acked ≤ x.seq) })
    ∧ (∀ n, c.refused = some n → exec (.nakBackoffExpire c.id) s = .next (s.setChan (c.resend n)))
    ∧ (∀ w, c.window = r :: w →
      exec (.replyTimeoutResend c.id) s = .next ((s.setChan (c.resend r.seq)).count (siteDie c.source) 6))

/-- R137, R138, R143: the home slice accepts a request of a line below its quota (what counts as one line: log entry 63) or
a forced one and refuses another; an accepted one is performed in the order of acceptance of its line; the replies clear the entry's outstanding mark, a refusal
giving its sums back; for each of the two flushes that may hold the entry (R146) it then leaves the set, or is due to leave as a forced
request. -/
def Obligations.AccumulateRequests : Prop :=
  ∀ (s : State) (r : AccReq), s.req? r.id = some r →
    (r.phase = .sent → (r.forced = true ∨ s.pendingCount r.line < (s.ctxD r.ctx).rquota) →
      exec (.accumulateRequest r.id) s
        = .next { s with reqs := s.reqs.filter (fun x => x.id != r.id) ++ [{ r with phase := .accepted }] })
    ∧ (r.phase = .sent → r.forced = false → (s.ctxD r.ctx).rquota ≤ s.pendingCount r.line →
      exec (.accumulateRequest r.id) s = .next (s.setReq { r with phase := .refused }))
    ∧ ((s.reqs.find? (fun x => x.line == r.line && x.phase == .accepted && !x.performed)).map (·.id) = some r.id →
      exec (.accumulatePerform r.id) s
        = .next ((r.words.foldl (fun s p => s.performWord r p.1 p.2) s).setReq { r with performed := true }).dropReq)
    ∧ (∀ (s1 : State) (e : REntry), r.phase = .accepted → r.closed = false →
      ((s.setReq { r with closed := true }).dropReq).focusTask r.taskId = some s1 →
      r.entry.bind (fun i => s1.t.r.entries.find? (fun e => e.idx == i)) = some e →
      let e' := { e with fl := false, flush := e.flush.accepted, cflush := e.cflush.accepted }
      exec (.acceptedReply r.id) s = .next
        (if e'.flush = .mustSend ∨ e'.cflush = .mustSend then s1.makeDue e' else s1.mapR (·.put e')).afterReply)
    ∧ (∀ (s1 : State) (e : REntry), r.phase = .refused →
      ({ s with reqs := s.reqs.filter (fun x => x.id != r.id) } : State).focusTask r.taskId = some s1 →
      r.entry.bind (fun i => s1.t.r.entries.find? (fun e => e.idx == i)) = some e →
      let back := r.words.foldl (fun (e : REntry) p => e.add s1.gts p.1 p.2) ({ e with fl := false } : REntry)
      let e' := { back with flush := back.flush.refused, cflush := back.cflush.refused }
      exec (.refusalReply r.id) s = .next
        (if e'.flush = .mustSend ∨ e'.cflush = .mustSend then s1.makeDue e' else s1.mapR (·.put e')).afterReply)
    ∧ (∀ m : FlushMark, m.accepted = (if m = .waitOld true then .mustSend else .none)
      ∧ m.refused = (if m = .none then .none else .mustSend))

/-- R44, R312, R315, R221, R401: the deadlock of the two streams traps; a pending watch traps at a control-word boundary
or a blocked word once no lane instruction is in progress, and a single step once its lane stream is idle, the thread
frozen with fz set; an exiting task begins its flush, and ends when that is over, its copies have completed and its
accumulates have been performed; the oldest fault record of a die, which die being free, goes to the ring at its tail,
FQTAIL advances, and vector 1 is signalled: sent, or pending while it is masked (log entry 39, PRESUMED). The clause on the
record is for a device without frames, seals, confidential contexts or stored bits in error, and without units away. -/
def Obligations.ThreadEndEvents : Prop :=
  ∀ (s : State) (w : Wait) (n : Nat),
    (s.t.status = .blocked w → s.deadlocked w = true → s.awaitOver w = false → s.nothingDue = true →
      exec .streamDeadlock s = .next (s.trap (Trap.of .streamDeadlock)))
    ∧ (s.t.dbg.watch = some n → (s.t.status = .running ∨ s.t.status = .blocked w) → s.t.laneBusy = false →
      s.accBusy = false →
      exec .tcWatch s = .next ((s.mapD (fun d => { d with watch := none })).trap { Trap.of .watch with detail := n }))
    ∧ (s.t.dbg.stepping = true → s.t.dbg.ctl.getLsbD 0 = true → s.t.dbg.ctl.getLsbD 4 = false →
      s.t.dbg.ctl.getLsbD 5 = false → s.t.status = .running → s.laneIdle = true →
      exec .stepEnd s = .next (({ s with t := { s.t with
        status := .frozen none
        dbg := { s.t.dbg with stepping := false, ctl := s.t.dbg.ctl ||| 4 }
        c := { s.t.c with popWord := none, body := [] } } } : State).trap (Trap.of .stepEnd)))
    ∧ (s.t.status = .exiting → s.laneIdle = true →
      (s.t.c.flush = false → s.nothingHeld = false →
        exec .exitComplete s = .next (s.startFlush.mapC (fun c => { c with flush := true })))
      ∧ ((if s.t.c.flush then s.ctlFlushed else s.nothingHeld) = true → s.exitLeft = false →
        exec .exitComplete s = .next s.endTask))
    ∧ (∀ (i : Nat) (r : FaultRec),
      let first := firstOfDies s.host.fqWait
      i = first.getD (if first.length ≤ 1 then 0 else s.free.1 % first.length) 0 → s.host.fqWait[i]? = some r →
      s.host.ringRoom = true → NoneAway s → s.fleet.errors = [] → s.sec.owned = [] → s.sec.seals = [] →
      (∀ c ∈ s.ctxs, c.conf = false) →
      let h : HostIf := { s.host with fqWait := s.host.fqWait.eraseIdx i, fqTail := (s.host.fqTail + 1) % 2 ^ 32 }
      ∃ t, exec .faultRecordWrite s = .next t
        ∧ t.host = (if s.host.masked 1 then h.setPending 1 true else { h with out := .msix 1 :: h.out })
        ∧ (∀ k (hk : k < 8), t.rdN (s.host.fqBase + 64 * (s.host.fqTail % 2 ^ s.host.fqLsize) + 8 * k) 8
            = (r.words[k]).toNat)
        ∧ LoadsAnew s t id)

/-! ### Outside, scheduling, commands, device events -/

/-- R309, R332, R370 to R373, R375, R112, R442: accesses from outside. A write of a thread-control word, while no stop is
on its way, sets the fields of %dbgctl of the bound, running thread (the bits kept: log entry 49, DEDUCED), and freezes it
where en and fz are both set, which is the model's reading of R309 (log entry 49); TRPTR of a
debug block reads as it stands; an argument register takes the value written, HBMWIN the value down to a multiple of the
BAR4 size; a doorbell moves the tail or puts the queue in error, and its head is read again; where nothing stands in the
way, reads and writes through BAR4 and from peers reach HBM at the address they name and change no other byte, and a write
with Relaxed Ordering waits until it is performed (log entry 39). -/
def Obligations.AccessesFromOutside : Prop :=
  ∀ (s : State), s.power.on = true →
    (∀ v : Word, s.t.status = .running → s.locked s.t.task.ctx = false → (∀ x ∈ s.threads, x.dbg.stop = false) →
      ∃ t, exec (.threadControlWrite s.t.site v) s = .next t ∧ t.t.dbg.ctl = v &&& 0x7D#64
        ∧ t.t.status = (if v.getLsbD 0 && v.getLsbD 2 then .frozen none else .running)
        ∧ (∀ q, t.reg q = s.reg q) ∧ t.t.c.pc = s.t.c.pc ∧ t.others = s.others ∧ t.mem = s.mem)
    ∧ (∀ die cl, die < 8 → cl < 12 → exec (.debugBlockRead die cl 0x10) s
      = .next (s.answer (bytesOf 8 (s.cluster (12 * die + cl)).trptr.toNat)))
    ∧ (∀ (k : Fin 7) (v : Word) (tr : Bool), exec (.registerWrite (8 + 8 * k.val) v tr) s = .next { s with
      host := { s.host with mbox := { s.host.mbox with args := s.host.mbox.args.set k.val v } } })
    ∧ (∀ (v : Word) (tr : Bool), exec (.registerWrite 0x1000 v tr) s = .next { s with
      host := { s.host with hbmwin := v.toNat / 2 ^ s.host.bar4 * 2 ^ s.host.bar4 } })
    ∧ (∀ (q : Nat) (v : Word), q < 8192 → s.power.phase = 6 → (s.queue q).state = 1 → wbits v 63 32 = 0 →
      let x := s.queue q
      let tail := wbits v 31 0
      let near := fun (y : Nat) => (tail + 2 ^ 32 - y) % 2 ^ 32 ≤ 2 ^ x.lsize
      let after := fun (y : Queue) => if s.power.running then (s.setQueue y).rereadSource q else s.setQueue y
      (near x.head → near x.tail → exec (.doorbell q 0 8 v) s = .next (after { x with tail := tail }))
      ∧ (tail ≠ x.tail → ¬ (near x.head ∧ near x.tail) → exec (.doorbell q 0 8 v) s
        = .next (after { x with state := 2, error := 1, probe := none, since := none })))
    ∧ (PlainMemory s → s.power.phase = 6 → s.power.state < 4 →
      let only := fun (t : State) => LoadsAnew s t id
        ∧ t = { s with mem := t.mem, stale := t.stale, t := t.t, others := t.others }
      (∀ off len relaxed, off + len ≤ 2 ^ s.host.bar4 → s.host.hbmwin + off + len ≤ 2 ^ 39 →
        (relaxed = true ∨ s.host.posted = []) → exec (.hostRequest (.read off len false relaxed)) s
          = .next (s.answer ((List.range len).map (fun i => s.rd (s.host.hbmwin + off + i)))))
      ∧ (∀ off data, off + data.length ≤ 2 ^ s.host.bar4 → s.host.hbmwin + off + data.length ≤ 2 ^ 39 →
        exec (.hostRequest (.write off data false true)) s = .next { s with
          host := { s.host with posted := s.host.posted ++ [⟨s.host.hbmwin + off, data, false⟩] } }
        ∧ ∃ t, exec (.hostRequest (.write off data false false)) s = .next t
          ∧ (∀ i (h : i < data.length), t.rd (s.host.hbmwin + off + i) = data[i])
          ∧ (∀ a, a < s.host.hbmwin + off ∨ s.host.hbmwin + off + data.length ≤ a → t.rd a = s.rd a) ∧ only t)
      ∧ (∀ (port : Fin 4) (pa len : Nat), port ≠ 0 → pa + len ≤ 2 ^ 39 → exec (.peerRequest port (.read pa len)) s
        = .next (s.answer ((List.range len).map (fun i => s.rd (pa + i)))))
      ∧ (∀ (port : Fin 4) (pa : Nat) (data : List Byte), port ≠ 0 → pa + data.length ≤ 2 ^ 39 →
        ∃ t, exec (.peerRequest port (.write pa data)) s = .next t
          ∧ (∀ i (h : i < data.length), t.rd (pa + i) = data[i])
          ∧ (∀ a, a < pa ∨ pa + data.length ≤ a → t.rd a = s.rd a) ∧ only t))

/-- R28, R36, R40, R386: a task bound to a thread starts at its launch's entry with its arguments in s1, the driver's two
words in s61 and s62 and 0 elsewhere, fresh queues and lane stream, the first free quads, tiles and segments of the unit as
many as its launch asks for, the quads zero, where no stored bit is in error; it is bound on a unit that can take it; a
placement group without a bound level is its tasks bound one after the other. It starts frozen where en and fz are both
set (the model's reading of R309: log entry 49, DEDUCED). -/
def TasksAreBound : Prop :=
  (∀ (s : State) (l : Launch) (ord site slot : Nat), s.fleet.errors = [] →
    let t := s.bindTask l ord site slot
    let c := s.ctxD l.ctx
    let b := slotBaseOf c slot
    let u := uidOf site
    let s1 : State := { (s.hostUnit u l.ctx).focus site with t := Thread.fresh site }
    let dbg := if s.locked l.ctx then 0 else c.dbgctl
    t.t.site = site ∧ t.t.task = ⟨s.sched.nextId, l.ctx, l.id, ord, l.depth, slot, l.widOf ord, l.quads, false⟩
    ∧ t.t.c.pc = BitVec.ofNat 64 l.entry
    ∧ (∀ q, t.reg q = if q = 1 then BitVec.ofNat 64 l.args else if q = 61 then BitVec.ofNat 64 (s.rdN (b + 0x700) 8)
        else if q = 62 then BitVec.ofNat 64 (s.rdN (b + 0x708) 8) else 0)
    ∧ t.t.q = (Thread.fresh site).q ∧ t.t.l = { Lane.fresh with drawkey := c.drawkey, drawid := BitVec.ofNat 32 ord }
    ∧ t.t.status = (if dbg.getLsbD 0 && dbg.getLsbD 2 then .frozen none else .running)
    ∧ (∀ q < 16, t.t.alloc.quads.getLsbD q = ((s1.freeQuads u).take l.quads).contains q)
    ∧ (∀ n < 8, t.t.alloc.tiles.getLsbD n = ((s1.freeTiles u).take l.tiles).contains n)
    ∧ (∀ n < 12, t.t.alloc.segs.getLsbD n = ((s1.freeSegs u).take l.wseg).contains n)
    ∧ ∀ q ∈ (s1.freeQuads u).take l.quads, ∀ o < 2 ^ 20, t.rd (arrayBase u + q * 2 ^ 20 + o) = 0)
  ∧ (∀ (s t : State) (l : Launch) (ord : Nat) (units : List Nat), State.bindOne l s ord units = some t →
    ∃ uid ∈ units, ∃ site slot, s.freeSlot l.ctx = some slot ∧ s.unitTakes l uid = true
      ∧ s.freeSite uid (siteOfUid uid) = some site ∧ t = s.bindTask l ord site slot)
  ∧ (∀ (s t : State) (l : Launch) (g die : Nat), l.placeLevel = none → t.launch? l.id = some l →
    (l.groupTasks g).foldl (fun o k => o.bind (fun s => State.bindOne l s k (dieUnits die))) (some s) = some t →
    s.placeGroup l g die = some (t.setLaunch { l with
      todo := l.todo.filter (fun o => !(l.groupTasks g).contains o)
      targets := l.targets.filter (fun p => p.1 != g)
      live := l.live + (l.groupTasks g).length }))

/-- R405, R406, R410: a saved thread is resumed with its task at the program counter, the scalar registers and the lane
state of its image, on a free thread, with as many quads as it owned, a hard-saved one on its former unit with its former
quads; it is no longer saved, and a unit of movement that does not stand there is away until it is touched (log entry 26,
DEDUCED). The first clause is for a device without stored bits in error. -/
def ThreadsAreResumed : Prop :=
  (∀ (s : State) (x : Saved) (site : Nat) (quads : List Nat), s.fleet.errors = [] →
    let t := s.restoreAt x site quads
    let w := fun (off : Nat) => s.imageWord (slotBaseOf (s.ctxD x.th.task.ctx) x.th.task.slot) off
    t.t.site = site ∧ t.t.task = x.th.task ∧ t.t.c.pc = BitVec.ofNat 64 (w 0x598)
    ∧ (∀ q, t.reg q = if q = 0 then 0 else BitVec.ofNat 64 (w (8 * q.val)))
    ∧ t.t.l.v.vl = w 0x200 % 2 ^ 19 ∧ t.t.l.v.vtype = BitVec.ofNat 64 (w 0x218 % 2 ^ 63)
    ∧ t.t.l.vstart = w 0x220 % 2 ^ 19 ∧ t.t.l.xclass = BitVec.ofNat 8 (w 0x238)
    ∧ t.t.l.xflags = BitVec.ofNat 8 (w 0x240) ∧ t.t.l.xen = BitVec.ofNat 8 (w 0x248)
    ∧ t.t.l.mcfg = BitVec.ofNat 64 (w 0x328) ∧ t.t.c.nestcfg = BitVec.ofNat 64 (w 0x2C0)
    ∧ ((BitVec.ofNat 64 (w 0x2C8)).getLsbD 0 = false → t.t.status = .running)
    ∧ (∀ q < 16, t.t.alloc.quads.getLsbD q = quads.contains q)
    ∧ (∀ y ∈ t.saved, y.th.task.id ≠ x.th.task.id)
    ∧ ∀ m ∈ x.units, m.stays (uidOf site) t.t.alloc.quadList = false →
      ∃ a ∈ t.away, a.task = x.th.task.id ∧ a.unit.kind = m.kind ∧ a.unit.rank = m.rank ∧ a.unit.num = m.num)
  ∧ (∀ (s t : State) (l : Launch) (ord : Nat) (units : List Nat), State.resumeOne l s ord units = some t →
    ∃ x ∈ s.saved, x.th.task.launch = l.id ∧ x.th.task.ordinal = ord ∧ ∃ site quads, uidOf site ∈ units
      ∧ (s.threadAt site).status = .free ∧ s.resumeFits x (uidOf site) = true
      ∧ quads.length = x.th.alloc.quadList.length
      ∧ (x.hard = true → uidOf site = uidOf x.th.site ∧ quads = x.th.alloc.quadList)
      ∧ t = s.restoreAt x site quads)

/-- R377, R380 to R382, R385 to R391, R407, R410: a selected ring record that passes its checks enters the launch table,
eligible since its head was found so, and the queue's next head is probed in the same step (log entry 51, DEDUCED); a
selected pool entry that passes its own
leaves the pool; a head not yet eligible is probed and its wait event read; the first group that waits on a die, with
nothing before it, is bound where it fits, and binding a task sets what TasksAreBound says; a launch that is over writes
its status, adds to its signal event, interrupts where its record asks for it, and leaves the table; a softly stopped
thread whose streams, accesses, copies and residual tile are at rest is saved and its thread is free; a saved thread that
is ready and a group of its own, of a launch with no bound level, is resumed where it fits, with what ThreadsAreResumed
says. -/
def Obligations.SchedulingAndSaving : Prop :=
  TasksAreBound ∧ ThreadsAreResumed ∧ ∀ (s : State), s.power.running = true →
    (∀ (src p : Nat) (c : Sched) (ws : List Word) (l : Launch) (s2 : State), s.choose = some (src, p, c) →
      let s0 : State := { s with sched := c }
      let q := s0.queue src
      let s1 := s0.ringMet (q.slot q.head) 128
      let q' := { q with head := (q.head + 1) % 2 ^ 32, probe := none, since := none }
      let s1' := s1.setQueue q'
      let l0 : Launch := { launchOf s1'.sched.nextId q.num ws (BitVec.ofNat 64 (q.slot q.head)) 0 q.maxprio none with
        prio := p, selected := s.gts }
      let known := q.since.isSome && (match q.probe with
        | some x => x.2 == (BitVec.ofNat 64 l0.wev, BitVec.ofNat 64 l0.wval)
        | none => false)
      (src < 8192 → q.headwb = 0 → s1.ringWords (q.slot q.head) = some ws →
        ({ s1' with sched := { s1'.sched with nextId := s1'.sched.nextId + 1 } } : State).takeRecord
          l0 q.ctx true known = (.ok l, s2) →
        let t : State := { s2 with
          sched := { s2.sched with launches := s2.sched.launches ++ [{ l with
            todo := List.range l.total, since := if known then q.since else l.since }] } }
        exec .selection s = .next (t.probeHead (t.queue src)))
      ∧ (8192 ≤ src → s0.poolHead src = some l → s0.lateReasons l = [] → exec .selection s
        = .next (s0.setLaunch { l with pooled := false, prio := p, selected := s.gts, todo := List.range l.total })))
    ∧ (∀ (src a b v wev wval : Nat) (s2 : State), src < 8192 → (∀ l ∈ s.sched.launches, l.source ≠ src) →
      let q := s.queue src
      let s1 := ((s.ringMet (q.slot q.head + 8) 8).ringMet (q.slot q.head + 88) 8).ringMet (q.slot q.head + 96) 8
      q.present = true → q.since = none → s1.ringRead (q.slot q.head + 8) = some a →
      s1.ringRead (q.slot q.head + 88) = some wev → s1.ringRead (q.slot q.head + 96) = some wval → b = bits a 19 16 →
      let q' := { q with probe := some (b, BitVec.ofNat 64 wev, BitVec.ofNat 64 wval) }
      (wev = 0 → exec (.waitEventReread src) s = .next (s1.setQueue { q' with since := some s.gts }))
      ∧ (wev ≠ 0 → wev % 8 = 0 → s1.distLoad q.ctx wev = (.ok v, s2) → s2.sched.launches = s.sched.launches →
        exec (.waitEventReread src) s
        = .next (s2.setQueue { q' with since := if wval ≤ v then some s2.gts else none })))
    ∧ (∀ (die g : Nat) (l : Launch) (t : State), let s1 := s.sendNext.sendPackage (s.partOf die)
      firstTurn (fun p => p.1.turn p.2) (s1.waiters.filter (fun p => p.1.targetOf p.2 == some die)) = some (l, g) →
      s1.heldBack die (l.turn g) = false → s1.placeGroup l g die = some t → exec (.groupPlacement die) s = .next t)
    ∧ (∀ (id : Nat) (l : Launch) (s1 : State), s.launch? id = some l → l.over = true → l.steps = 0 →
      (l.stat = 0 → s1 = s) → (l.stat ≠ 0 → s.distPut l.ctx l.stat (l.status.1 + l.status.2 * 256) = (.ok (), s1)) →
      s1.launch? id = some l →
      let ends := fun (t : State) (v : Nat) =>
        let t' := if l.interrupt = true ∧ l.source < 8192 ∧ v ≠ 0 then t.signal v else t
        Host.Outcome.next { t' with sched := { t.sched with launches := t.sched.launches.filter (fun x => x.id != id) } }
      (l.sev = 0 → exec (.launchCompletion id) s = ends s1 (s1.queue l.source).msix)
      ∧ ∀ (s2 : State) (l3 : Launch), l.sev ≠ 0 →
        (s1.setLaunch { l with steps := 1 }).distAdd l.ctx l.sev = (.ok (), s2) →
        let s3 := ((s2.wakeParent { l with steps := 1 }).setLaunch { l with steps := 2 }).rereadPart (s2.ctxPart l.ctx)
        s3.launch? id = some l3 → l3.over = true → l3.steps = 2 → l3.interrupt = l.interrupt → l3.source = l.source →
        exec (.launchCompletion id) s = ends s3 (s3.queue l.source).msix)
    ∧ (s.t.status = .preempting → s.t.preempt = .soft → s.t.laneBusy = false → s.t.q.lane = [] → s.t.r.entries = [] →
      s.accOpen = false → s.t.c.loads = [] → s.t.c.accs = [] → s.t.l.returns = [] → s.t.l.stores = [] →
      s.t.l.going = [] → s.copies = [] → slotBaseOf s.ctxT s.t.task.slot + 21 * 2 ^ 20 ≤ 2 ^ 39 →
      (∀ c ∈ s.ctxs, c.ucode + 8192 ≤ 2 ^ 39) →
      ∃ (t : State) (x : Saved), exec .save s = .next t ∧ t.t = Thread.fresh s.t.site ∧ t.saved = s.saved ++ [x]
        ∧ x.th.task = s.t.task ∧ x.th.c.s = s.t.c.s ∧ x.th.c.pc = s.t.c.pc ∧ x.hard = false
        ∧ LoadsAnew s t (fun _ => Thread.fresh s.t.site))
    ∧ (∀ (x : Saved) (l : Launch) (t : State), s.saved.find? (fun y => y.th.task.id == x.th.task.id) = some x →
      s.groupReady x = true → s.savedGroup x = [x] →
      s.launch? x.th.task.launch = some l → l.boundLevel = none →
      State.resumeOne l s x.th.task.ordinal (((s.partDies (s.ctxPart l.ctx)).filter
        (fun d => !s.heldBack d (s.savedTurn x))).flatMap dieUnits) = some t →
      exec (.resumePlacement x.th.task.id) s = .next t)

/-- R372, R373, R376, R378, R393: the queue commands. A queue number above 8,191 gives result 2, and so does QCFG for a
context of another partition than the queue's die, or where that die is in none (R440); a command that completes
writes its result into MBSTAT with done set and busy clear, and vector 0 is signalled: sent, or pending while it is masked
(log entry 39, PRESUMED). QENABLE probes the head; QDISABLE waits for its end, and the queue keeps its position (log entry
45, DEDUCED). -/
def Obligations.QueueCommands : Prop :=
  ∀ (s : State), InProgress s →
    let n := s.arg 0
    let q := s.queue n
    (∀ r < 256, (s.finish r none none).host.mbox.stat = BitVec.ofNat 64 (2 ^ 63 + r)
      ∧ (s.finish r none none).host.mbox.busy = false
      ∧ (s.host.masked 0 = false → (s.finish r none none).host.out = .msix 0 :: s.host.out)
      ∧ (s.host.masked 0 = true → (s.finish r none none).host.out = s.host.out
        ∧ (s.finish r none none).host.msixPending = (s.host.setPending 0 true).msixPending)
      ∧ (s.finish r none none).mem = s.mem ∧ (s.finish r none none).t = s.t)
    ∧ (8191 < n → ∀ i ∈ [Instr.qcfg, .qenable, .qdisable, .qprio, .qreset], exec i s = .next (s.finish 2 none none))
    ∧ (n ≤ 8191 →
      (s.inPartition (n / 1024) (s.ctxPart (bits (s.arg 3) 15 0)) = false → exec .qcfg s = .next (s.finish 2 none none))
      ∧ (∀ die part, s.inPartition die part = (s.power.dies.getLsbD die && s.partOf die == part))
      ∧ (let base := s.arg 1
       let headwb := s.arg 2
       let f := s.arg 3
       let vec := s.arg 4
       base % 4096 = 0 → headwb % 8 = 0 → bits f 31 28 ≤ 12 → bits f 27 20 ≠ 0 → vec ≤ 2047 → vec ≠ 1 → vec ≠ 2 →
       (s.ctx? (bits f 15 0)).isSome = true → inHbmOrHost base = true → (headwb = 0 ∨ inHbmOrHost headwb = true) →
       s.inPartition (n / 1024) (s.ctxPart (bits f 15 0)) = true →
        (q.state = 0 → exec .qcfg s = .next ((s.setQueue { q with
          base := base, headwb := headwb, head := 0, tail := 0, ctx := bits f 15 0, lsize := bits f 31 28 + 4
          maxprio := bits f 19 16, weight := bits f 27 20, msix := vec, configured := true, probe := none
          since := none }).finish 0 none none))
        ∧ (q.state ≠ 0 → exec .qcfg s = .next (s.finish 3 none none)))
      ∧ (q.state ≠ 2 → q.configured = true → exec .qenable s
        = .next (let u := s.setQueue { q with state := 1 }; (u.probeHead (u.queue q.num)).finish 0 none none))
      ∧ (q.state = 1 → exec .qdisable s = .next (s.setQueue { q with state := 0 }).wait)
      ∧ (q.state ≠ 1 → exec .qdisable s = .next (s.setQueue q).wait)
      ∧ (bits (s.arg 1) 11 4 ≠ 0 → s.arg 1 < 2 ^ 12 → exec .qprio s = .next ((s.setQueue { q with
        maxprio := bits (s.arg 1) 3 0, weight := bits (s.arg 1) 11 4 }).finish 0 none none))
      ∧ (q.state ≠ 1 → exec .qreset s = .next ((s.setQueue { q with state := 0, error := 0 }).finish 0 none none)))
    ∧ exec .setage s
      = .next (({ s with host := { s.host with agelimit := s.arg 0 } } : State).finish 0 none none)

/-- R394, R395, R399, R401, R403, R408, R410: where their arguments are good and nothing denies them, CTXSET adds a
context that is not confidential, and CTXMOD replaces what it may, each where no stored bit is in error; CTXFREE of a context with no frames removes it and its
translations; TLBINV removes the translations of its range, those displaced from their caches among them (the model's choice: log entry
44, DEDUCED), and every cached table entry of the context; FQCFG sets the fault queue, FQTAIL and FQHEAD as they were (log entry 45, DEDUCED); REPLAY of an unknown token gives result 2, and a retry of the thread in focus lets it run; PREEMPT of the
group of the running thread in focus stops it, or marks it for its next yieldpt; RESUME of a context makes its saved
threads eligible, but passes evicted ones by (log entry 42, DEDUCED). -/
def Obligations.ContextCommands : Prop :=
  ∀ (s : State), InProgress s →
    let n := s.arg 0
    let d := s.readCtx n (s.arg 1)
    let c := s.ctxD n
    (0 < n → n < 65536 → s.fleet.errors = [] → s.badRecord d (s.arg 1) = false → s.ctx? n = none → d.conf = false →
      exec .ctxset s = .next (({ s with ctxs := s.ctxs ++ [d] } : State).finish 0 none none))
    ∧ ((s.ctx? n).isSome = true → s.fleet.errors = [] → s.badRecord d (s.arg 1) = false → d.ptroot = c.ptroot → d.codebase = c.codebase →
      d.codebound = c.codebound → d.imgbase = c.imgbase → d.imgcount = c.imgcount → d.ucode = c.ucode →
      d.conf = c.conf → s.boundThreads n = [] → exec .ctxmod s = .next ((s.setCtx { c with
        bankkey := d.bankkey, rquota := d.rquota, nakbackoff := d.nakbackoff, drawkey := d.drawkey
        dbgctl := d.dbgctl }).finish 0 none none))
    ∧ ((s.ctx? n).isSome = true → (∀ l ∈ s.sched.launches, l.ctx ≠ n) → s.boundThreads n = [] →
      (∀ x ∈ s.saved, x.th.task.ctx ≠ n) → (∀ q ∈ s.sched.queues, q.configured = true → q.ctx ≠ n) →
      s.sec.owned = [] → ∃ t, exec .ctxfree s = .next t ∧ t.ctx? n = none ∧ (∀ m, m ≠ n → t.ctx? m = s.ctx? m)
        ∧ t.tlb = s.tlb.filter (fun e => e.ctx != n) ∧ t.host.mbox.waiting = true ∧ t.mem = s.mem ∧ t.t = s.t)
    ∧ (s.arg 1 % 4096 = 0 → ∃ t, exec .tlbinv s = .next t ∧ t.host.mbox.waiting = true ∧ t.mem = s.mem ∧ t.t = s.t
      ∧ let stays := fun (e : Tlb) => !(e.ctx == n
          && (e.lev != 0 || s.arg 2 == 0 || (s.arg 1 < e.va + e.size && e.va < s.arg 1 + s.arg 2)))
        t.tlb = s.tlb.filter stays ∧ t.displaced = s.displaced.filter stays)
    ∧ (n % 4096 = 0 → inHbmOrHost n = true → 6 ≤ s.arg 1 → s.arg 1 ≤ 16 → s.host.fqTail = s.host.fqHead →
      exec .fqcfg s = .next (({ s with host := { s.host with fqBase := n, fqLsize := s.arg 1 } } : State).finish 0 none none))
    ∧ (s.sched.tokens.find? (fun p => p.1 == n) = none → exec .replay s = .next (s.finish 2 none none))
    ∧ (∀ code, s.sched.tokens.find? (fun p => p.1 == n) = some (n, .task s.t.task.id code) →
      s.t.status = .faulted n → s.t.task.ended = false → s.t.dbg.ctl.getLsbD 2 = false → s.arg 1 = 0 →
      ∃ t, exec .replay s = .next t ∧ t.t = { s.t with status := .running } ∧ (∀ p ∈ t.sched.tokens, p.1 ≠ n)
        ∧ t.host.mbox.stat = BitVec.ofNat 64 (2 ^ 63) ∧ t.mem = s.mem)
    ∧ (s.arg 1 = s.t.site → s.t.task.ctx = n → s.t.status = .running → s.t.task.ended = false → bits (s.arg 2) 2 1 = 0 →
      (∀ t ∈ s.inRange n s.t.site 0, t.status ≠ .preempting) →
      ∃ t, exec .preempt s = .next t ∧ t.mem = s.mem ∧ (∀ q, t.reg q = s.reg q) ∧ t.host.mbox.stat = BitVec.ofNat 64 (2 ^ 63)
        ∧ (if (s.arg 2).testBit 0 then t.t.status = .preempting ∧ t.t.preempt = .hard
          else t.t.status = .running ∧ t.t.preempt = .soft))
    ∧ (bits (s.arg 2) 2 1 = 1 → (∃ x ∈ s.saved, x.th.task.ctx = n ∧ x.evicted = none) →
      ∃ t, exec .resume s = .next t ∧ t.mem = s.mem ∧ t.t = s.t
        ∧ ∀ x ∈ t.saved, x.th.task.ctx = n → x.evicted = none → x.eligible = true)

/-- R416, R417, R420, R423, R427 to R433: inventory, power states, trip, identity, attestation, confidential memory,
debug unlock and the sealer's commands, where their arguments are good and nothing denies them. That a PSET of a state
above 5 gives result 2 (log entry 46), how CCMAP numbers stripes (log entry 15) and what the report's partition table
holds (log entry 50) are the model's choices, DEDUCED. -/
def Obligations.PowerAndTrustCommands : Prop :=
  ∀ (s : State), InProgress s →
    let a := s.arg 0
    (a % 4096 = 0 → a + 4096 ≤ 2 ^ 39 → exec .inventory s = .next ((s.deviceWrite a s.inventory).finish 0 none none))
    ∧ (5 < a → s.power.trip = false → exec .pset s = .next (s.finish 2 none none))
    ∧ ((a ≤ 5 ∨ s.power.trip = true) → s.psetDenied a = true → exec .pset s = .next (s.finish 3 none none))
    ∧ (a ≤ 5 → s.psetDenied a = false →
      exec .pset s = .next (({ s with power := { s.power with target := a, busy := true } } : State).wait))
    ∧ (s.power.trip = true → s.power.temp ≤ 95 → ∃ t, exec .tripclr s = .next t ∧ t.power.trip = false
      ∧ t.power.busy = false ∧ t.power.state = (if s.power.busy then s.power.target else s.power.state)
      ∧ t.host.mbox.waiting = true ∧ t.mem = s.mem ∧ t.t = s.t)
    ∧ (a % 4096 = 0 → a + 4096 ≤ 2 ^ 39 → exec .idinfo s
      = .next (((s.deviceWrite a (fitBytes 68 Config.identityKey)).deviceWrite (a + 128) Config.identityCert).finish 0
          (some Config.identityCert.length) (some (2 ^ 40 - s.sec.next))))
    ∧ (s.touchesFrames (s.arg 1) 6144 = false → (a = 0 ∨ (s.ctxD a).conf = true) →
      s.sec.next < 2 ^ 40 →
      let x := s.sec.takeIndex
      let r := s.report a x.1
      exec .attest s = .next (({ s with sec := x.2 } : State).deviceWrite (s.arg 1)
        (fitBytes 6144 (r ++ fitBytes 5605 (Config.identitySign x.1 r)))).wait
      ∧ x.1 = s.sec.next ∧ x.2.next = s.sec.next + 1)
    ∧ (∀ us, s.arg 1 ≤ 2 → ccUnits (s.arg 1) (s.arg 2) (s.arg 3) = some us → 0 < a → a < 65536 →
      (∀ u ∈ us, s.ownerOf (s.arg 1) u.1 = none ∨ s.ownerOf (s.arg 1) u.1 = some a) →
      (∀ u ∈ us, s.partOf u.2 = s.unitPart a us ∧ s.power.dies.getLsbD u.2 = true) →
      s.host.mbox.trusted = true → s.boundThreads a = [] → exec .ccmap s = .next (s.assign a (s.arg 1) us).wait)
    ∧ ((s.ctxD a).conf = true → s.host.mbox.trusted = true →
      exec .dbgunlock s = .next ((s.setCtx { s.ctxD a with unlocked := true }).finish 0 none none))
    ∧ ((s.ctxD a).conf = true → s.host.mbox.trusted = true → 4 ≤ s.arg 2 → s.arg 2 ≤ 12 → 1 ≤ s.arg 5 → s.arg 5 ≤ 10 →
      (s.framePages a (s.arg 1) (32 * 2 ^ s.arg 2)).isSome = true → (s.framePages a (s.arg 3) 8).isSome = true →
      s.touchesFrames (s.arg 4) (batchSlot * 2 ^ s.arg 5) = false →
      ∃ t x, exec .sealcfg s = .next t ∧ t.seal? a = some x ∧ x.ringVa = BitVec.ofNat 64 (s.arg 1) ∧ x.lsize = s.arg 2
        ∧ x.tailVa = BitVec.ofNat 64 (s.arg 3) ∧ x.batchPa = s.arg 4 ∧ x.batchLsize = s.arg 5 ∧ t.mem = s.mem
        ∧ t.host.mbox.stat = BitVec.ofNat 64 (2 ^ 63))
    ∧ (s.host.mbox.trusted = false → ∀ i ∈ [Instr.sealflush], exec i s = .next (s.finish 3 none none))
    ∧ (s.host.mbox.trusted = true → s.sec.next < 2 ^ 40 → exec .sealflush s = .next s.wait)

/-- R436 to R441, R372: error counters, scrub, quad retirement, telemetry, partitions and firmware, where their
arguments are good and nothing denies them. An unknown command gives result 1; a command that has been carried out and
waits ends with result 0: PSET when the power state has been reached, TLBINV when the accesses it waits for are performed
(which these are: log entry 44, DEDUCED), SEALFLUSH when its context has no open leaf, the others at once. -/
def Obligations.MaintenanceCommands : Prop :=
  (∀ (s : State) (i : Instr), s.host.mbox.busy = true → s.host.mbox.waiting = true →
    commandOf s.host.mbox.number = some i →
    (i ≠ .tlbinv → i ≠ .sealflush → i ≠ .pset → exec .mailboxCompletion s = .next (s.finish 0 none none))
    ∧ (i = .pset → exec .mailboxCompletion s
      = .next (({ s with power := s.power.arrive } : State).finish 0 none none))
    ∧ (i = .tlbinv → s.duePerformed = true →
      exec .mailboxCompletion s = .next ((s.drainContext (s.arg 0)).finish 0 none none))
    ∧ (i = .sealflush → (∀ x ∈ s.sec.seals, x.ctx = s.arg 0 → x.leaves = []) →
      exec .mailboxCompletion s = .next (s.finish 0 none none)))
  ∧ ∀ (s : State), InProgress s →
    let a := s.arg 0
    (a ≤ 7 → s.arg 1 % 64 = 0 → s.arg 1 + 64 ≤ 2 ^ 39 →
      let row := s.fleet.counters.toArray.getD a (Vector.replicate 7 0)
      ∃ t, exec .errcnt s = .next t ∧ t.mem = (s.deviceWrite (s.arg 1) (fitBytes 64 (row.toList.flatMap (bytesOf 8)))).mem
        ∧ t.fleet.counters = (if s.arg 2 % 2 = 1 then s.fleet.counters.setIfInBounds a (Vector.replicate 7 0)
          else s.fleet.counters) ∧ t.host.mbox.stat = BitVec.ofNat 64 (2 ^ 63) ∧ LoadsAnew s t id)
    ∧ (a ≤ 255 → s.arg 1 ≤ 65535 → exec .scrubcfg s
      = .next (({ s with fleet := { s.fleet with scrubMask := a, scrubMs := s.arg 1 } } : State).finish 0 none none))
    ∧ (a < 32768 → siteCluster a < 12 → siteUnit a < 8 → s.power.dies.getLsbD (siteDie a) = true →
      (s.unitSt (uidOf a)).usable.getLsbD (a % 16) = true → ∃ t, exec .qretire s = .next t
        ∧ (uidOf a, a % 16) ∈ t.fleet.retired ∧ t.host.mbox.stat = BitVec.ofNat 64 (2 ^ 63)
        ∧ (s.quadOwned (uidOf a) (a % 16) = true → (t.unitSt (uidOf a)).pending.getLsbD (a % 16) = true
          ∧ t.host.mbox.res0 = 1 ∧ t.mem = s.mem)
        ∧ (s.quadOwned (uidOf a) (a % 16) = false → (t.unitSt (uidOf a)).usable.getLsbD (a % 16) = false
          ∧ t.host.mbox.res0 = 0 ∧ t.fleet.cfggen = s.fleet.cfggen + 1))
    ∧ (a % 4096 = 0 → a + 256 ≤ 2 ^ 39 → NoneAway s → s.fleet.errors = [] → s.sec.owned = [] → s.sec.seals = [] →
      (∀ c ∈ s.ctxs, c.conf = false) → ∃ t, exec .telem s = .next t ∧ t.rdN a 8 = s.gts % 2 ^ 64
      ∧ (∀ x, x < a ∨ a + 256 ≤ x → t.rd x = s.rd x) ∧ t.host.mbox.stat = BitVec.ofNat 64 (2 ^ 63)
      ∧ LoadsAnew s t id)
    ∧ (a < 2 ^ 32 → (∀ d < 8, a.testBit (4 * d + 3) = false) → s.ctxs = [] → (∀ q ∈ s.sched.queues, q.state ≠ 1) →
      ∃ t, exec .partset s = .next t ∧ t.fleet.cfggen = s.fleet.cfggen + 1 ∧ t.mem = s.mem ∧ t.t = s.t
        ∧ ∀ d < 8, t.partOf d = (if s.power.dies.getLsbD d then bits a (4 * d + 2) (4 * d) else s.partOf d))
    ∧ (let image := (List.range (s.arg 1)).map (fun i => s.rd (a + i))
       a % 4096 = 0 → a + s.arg 1 ≤ 2 ^ 39 → s.fleet.errors = [] → exec .fwstage s
        = .next (if firmwareOk s.sec.fwfloor s.sec.fwkeyh image
          then ({ s with sec := { s.sec with standby := image, pendingBank := true } } : State).wait
          else s.finish 2 none none))
    ∧ (s.sec.fwfloor ≤ a → a ≤ 64 → a ≤ s.sec.fwver % 256 → exec .fwfloor s
      = .next (({ s with sec := { s.sec with fwfloor := a } } : State).wait))
    ∧ (commandOf s.host.mbox.number = none → exec .mailboxCompletion s = .next (s.finish 1 none none))

/-- R412, R413, R414, R417, R418, R420, R426: power, reset, trust on the link and the thermal trip. Power and PERST#, also
in PS5 (log entry 46, DEDUCED), begin the boot sequence at phase 0: no context, no launch and no task is left, the device's
own memory reads 0 (log entry 5), and the memory of host and peers, the fuses and the retired quads are kept. Each phase
leads to the next or halts the boot with its code, until phase 6; what it finds is a free value, and how many steps it
takes is the model's (log entry 47, DESIGN CHOICE). BOOTSTAT shows code and phase; before phase 6 the mailbox and BAR4 are
dead. A masked vector 2 is not sent (log entry 39, PRESUMED). -/
def Obligations.PowerAndLinkEvents : Prop :=
  ∀ (s : State),
    ((s.power.on = false → s.power.state ≠ 5 → exec .powerOn s = .next s.outside)
      ∧ ((s.power.on = true ∨ s.power.state = 5) → exec .powerOn s = .next s ∧ exec .perst s = .next s.outside)
      ∧ (s.power.on = false → s.power.state ≠ 5 → exec .perst s = .next s))
    ∧ (let b := s.outside
       b.power = ⟨true, 0, 0, 0, 0, 0, false, false, 0⟩ ∧ b.ctxs = [] ∧ b.sched.launches = [] ∧ b.saved = []
      ∧ b.t.status = .free ∧ b.others = [] ∧ (∀ a, a < 2 ^ 47 → b.rd a = 0) ∧ (∀ a, 2 ^ 47 ≤ a → b.rd a = s.rd a)
      ∧ b.fleet.retired = s.fleet.retired ∧ b.sec.hmark = s.sec.hmark ∧ b.sec.fwfloor = s.sec.fwfloor
      ∧ b.sec.active = s.sec.active ∧ b.sec.standby = s.sec.standby)
    ∧ (∀ (d0 boundary : Bool) (dies : Nat) (failing : List (Nat × Nat)),
      Config.bootFindings s.sec.boots = (d0, boundary, dies, failing) →
      let p := s.power.phase
      let t := s.bootPhase
      let halts := fun (code : Nat) => t.power.phase = 15 ∧ t.power.code = code
      let goesOn := t.power.phase = p + 1 ∧ t.power.code = s.power.code
      (p = 0 → if d0 then halts 2 else goesOn)
      ∧ (p = 1 → (s.sec.chooseFirmware = none → halts 1) ∧ ∀ x, s.sec.chooseFirmware = some x → goesOn ∧ t.sec = x)
      ∧ (p = 2 → t.power.dies = BitVec.ofNat 8 dies ∧ if BitVec.ofNat 8 dies = 0 then halts 4 else goesOn)
      ∧ (p = 3 → if boundary then halts 3 else goesOn)
      ∧ (p = 4 → goesOn ∧ (∀ q ∈ failing ++ s.fleet.retired, q ∈ t.fleet.retired) ∧ t.units = t.fleet.unitList)
      ∧ (p = 5 → goesOn) ∧ (6 ≤ p → t = s) ∧ s.made .boot = .next t
      ∧ (s.power.on = true → p < 6 → .boot ∈ s.moves)
      ∧ (p ≠ 6 → (∀ v tr, s.writeCommand v tr = s) ∧ ∀ off len, s.windowOpen off len = false))
    ∧ (let ok := firmwareOk s.sec.fwfloor s.sec.fwkeyh
       (s.sec.chooseFirmware = none ↔ ok s.sec.active = false ∧ (s.sec.pendingBank = false ∨ ok s.sec.standby = false))
      ∧ ∀ x, s.sec.chooseFirmware = some x → x.pendingBank = false
        ∧ (if s.sec.pendingBank && ok s.sec.standby then x.active = s.sec.standby ∧ x.standby = s.sec.active
           else x.active = s.sec.active ∧ x.standby = s.sec.standby))
    ∧ s.bar0 0x1018 = s.power.dies.toNat * 2 ^ 40 + s.power.code * 2 ^ 32 + s.power.phase * 2 ^ 4
    ∧ (s.power.on = true → ∃ t, exec .packagePowerRemoved s = .next t ∧ t.power.on = false
      ∧ t.power.state = (if s.power.state = 5 then 5 else 0) ∧ t.host.out = .linkDown :: s.host.out
      ∧ (∀ a, a < 2 ^ 47 → t.rd a = 0) ∧ (∀ a, 2 ^ 47 ≤ a → t.rd a = s.rd a) ∧ t.fleet.retired = s.fleet.retired)
    ∧ (s.power.on = true → s.power.phase = 6 →
      exec .ideKmKeyProgramming s = .next { s with sec := { s.sec with ideUp := true } }
      ∧ exec .tdiEntersRun s = .next { s with sec := { s.sec with bound := true, tdiRun := true } })
    ∧ (∃ t, exec .tdispStop s = .next t ∧ (∀ b, t.trusts b = false) ∧ t.mem = s.mem ∧ t.t = s.t ∧ t.ctxs = s.ctxs)
    ∧ (∃ t, exec .ideStreamLoss s = .next t ∧ (∀ b, t.trusts b = false) ∧ t.mem = s.mem ∧ t.t = s.t ∧ t.ctxs = s.ctxs)
    ∧ (∀ temp, s.power.on = true → ∃ t, exec (.thermalTrip temp) s = .next t ∧ t.power.temp = temp ∧ t.mem = s.mem
      ∧ t.power.trip = (s.power.trip || decide (105 ≤ temp))
      ∧ t.host.out = (if 105 ≤ temp ∧ s.power.trip = false ∧ s.host.masked 2 = false then .msix 2 :: s.host.out
        else s.host.out) ∧ t.t = s.t)

/-- R432 to R438: a stored bit that flips is an error of its sector, row or word; a second symbol of a sector or bit of a
word makes it uncorrectable, a second column of a row is not detected; a column of a row is flipped data. While an access is
on its way there the flip is still to come (log entry 62, DEDUCED). The scrub of a
sector that holds the device's one error corrects and counts it; of a row with a parity mismatch, and of a sector that
cannot be corrected (log entry 48, DEDUCED: R436 names mismatches only), it counts it and makes a fault record, kind 5,
detail 2 or 1. A quad whose retirement is pending and that no thread
owns is retired. A request of the seal ring with good arguments makes its pages read-only, takes the next leaf and has
its status written, where that word is not read-only itself and no stored bit is in error; a batch that is due is closed: it uses one index and frees its pages. -/
def Obligations.FleetAndSealEvents : Prop :=
  ∀ (s : State),
    (∀ l, s.power.on = true → errExists l = true → s.accessAt l = true →
      exec (.dataError l) s = .next { s with inputs := s.inputs ++ [.dataError l] })
    ∧ (∀ e l, s.power.on = true → errExists l = true → s.accessAt l = false → NoneAway s → ∃ t, exec (.dataError l) s = .next t
      ∧ ((∀ x ∈ s.fleet.errors, errSite x ≠ errSite l) → t.fleet.errors = s.fleet.errors ++ [l])
      ∧ (s.fleet.errors = [e] → errSite e = errSite l → t.fleet.errors = (match e, l with
          | .arrayParity .., _ => []
          | .hbmCorrectable p, .hbmCorrectable q => [if p = q then e else .hbmBad p]
          | .sramCorrectable h a, .sramCorrectable _ b => if a = b then [] else [.sramBad h]
          | .hbmCorrectable p, _ => [.hbmBad p]
          | .sramCorrectable h _, _ => [.sramBad h]
          | _, _ => [e]))
      ∧ (∀ h c, l = .arrayParity h c → c < 512 → t.rd (h / 64 * 64 + c / 8) = s.rd (h / 64 * 64 + c / 8) ^^^ (1#8 <<< (c % 8))
          ∧ ∀ a, a ≠ h / 64 * 64 + c / 8 → t.rd a = s.rd a)
      ∧ ((∀ h c, l ≠ .arrayParity h c) → t.mem = s.mem) ∧ t.t = s.t ∧ t.host = s.host)
    ∧ (∀ p, s.fleet.errors = [.hbmCorrectable p] → s.scrubs (p / 32 * 32) = true → ∃ t,
      exec (.scrubRead (p / 32 * 32)) s = .next t ∧ t.fleet.errors = [] ∧ t.mem = s.mem ∧ t.host = s.host
        ∧ t.fleet.counters = (s.count (dieOfCell (p / 32 * 32)) 0).fleet.counters)
    ∧ (let reports := fun (home detail k : Nat) => ∃ t r, exec (.scrubRead home) s = .next t
        ∧ t.fleet.errors = s.fleet.errors ∧ t.fleet.counters = (s.count (dieOfCell home) k).fleet.counters
        ∧ t.host.fqWait = s.host.fqWait ++ [r] ∧ r.words[2] = BitVec.ofNat 64 home
        ∧ wbits r.words[1] 63 56 = detail ∧ wbits r.words[1] 47 40 = 5 ∧ t.mem = s.mem
       (∀ p, s.fleet.errors = [.hbmBad p] → s.scrubs (p / 32 * 32) = true → reports (p / 32 * 32) 1 1)
       ∧ ∀ h c, s.fleet.errors = [.arrayParity h c] → s.scrubs (h / 64 * 64) = true → reports (h / 64 * 64) 2 3)
    ∧ (∀ uid q, q < 16 → (s.unitSt uid).pending.getLsbD q = true → s.quadOwned uid q = false → ∃ t,
      exec (.quadRetirement uid q) s = .next t ∧ (t.unitSt uid).usable.getLsbD q = false
        ∧ (t.unitSt uid).pending.getLsbD q = false ∧ t.fleet.cfggen = s.fleet.cfggen + 1 ∧ t.t = s.t)
    ∧ (∀ ctx x slot pages, s.seal? ctx = some x → s.sealDue x = true → s.fleet.errors = [] →
      s.frameAddr ctx (x.ringVa.toNat + 32 * (x.taken % 2 ^ x.lsize)) = some slot →
      let va := s.rdN slot 8
      let len := s.rdN (slot + 8) 8
      len % 4096 = 0 → 4096 ≤ len → len ≤ 2 ^ 28 → va % 4096 = 0 → s.framePages ctx va len = some pages →
      (∀ i < 8, s.readOnly (slot + 24 + i) = false ∧ ∀ p ∈ pages, p / 4096 ≠ (slot + 24 + i) / 4096) →
      ∃ (t : State) (y : Seal), exec (.sealRequest ctx) s = .next t ∧ t.seal? ctx = some y ∧ y.seq = x.seq + 1
        ∧ y.taken = (x.taken + 1) % 2 ^ 64 ∧ y.leaves.length = x.leaves.length + 1 ∧ (∀ p ∈ pages, t.sealedPage p = true)
        ∧ t.rdN (slot + 24) 8 = (1 + x.leaves.length * 2 ^ 8 + x.batch % 2 ^ 32 * 2 ^ 32) % 2 ^ 64)
    ∧ (∀ ctx x, s.seal? ctx = some x → s.batchDue x = true → ∃ (t : State) (y : Seal),
      exec (.batchClose ctx) s = .next t ∧ t.seal? ctx = some y ∧ y.batch = x.batch + 1 ∧ y.leaves = [] ∧ y.frozen = []
        ∧ t.sec.next = s.sec.next + 1 ∧ LoadsAnew s t id)

/-! ### Steps, encodings, invariants, reset -/

/-- R29, R30, R35, R54, R168, R443: a step runs the decoded instruction. It makes the move that is picked; where that
touches units of movement that are away, these are brought in and it is made again (R406); then the lane instructions
whose last access it has performed complete (R267). A control move fetches the word at the program counter, or takes one
that is kept, and executes its instruction, or pushes it where it is a lane instruction; the word is the one in memory
where no earlier one may still be fetched; the pop phase of a word executes its own; at the end of a nest's body it
stalls while a register of the loop step awaits data (log entry 20, DEDUCED); that it keeps or refetches its words, and
captures those of a body, as nextWord says is log entry 9 (DEDUCED). What a stream has read ahead it uses or gives up as it
attempts its instruction (log entry 10). A lane move executes the head of the lane queue, after the accesses
that it waits for, of which there are none where nothing is on its way. What completes after a stop of the cluster is
counted as skid. -/
def Obligations.StepRunsTheDecodedInstruction : Prop :=
  (∀ (s s1 : State) (m : Move), s.tick.pick = some (m, s1) →
    (s1.away = [] → step s = Res.map State.endMove (s1.made m))
    ∧ ∀ t, s1.made m = .next t →
      (t.touched.length ≤ s1.touched.length → step s = .next t.endMove)
      ∧ (s1.touched.length < t.touched.length → ∀ n, s1.away.length = n + 1 →
        step s = Res.map State.endMove ((s1.bringCells (t.touched.drop s1.touched.length)).madeIn m n)))
  ∧ (∀ s : State, s.tick.pick = none → step s = if s.power.on then .next s.tick else .fault .unpowered)
  ∧ ∀ (s g1 : State) (site : Nat) (w : Word) (i : Instr), decode w = .ok i →
    let f := s.focus site
    let g := f.takeTurn
    let runs := fun (u : State) (j : Instr) => Res.map f.ctlTried (Res.map (State.afterWord u j) (exec j u))
    let u := g.nestStep
    (g.nestWaits = none → u.ctxT.fetchable u.wordAddr = true →
      (u.t.c.pc.toNat % 8 = 0 ∨ (u.t.c.pc.toNat % 8 = 4 ∧ w.getLsbD 63 = true) →
        (u.keptWord = none → u.fetchError u.wordAddr = (none, u)) → u.nextWord = (w, g1) →
        s.made (.control site) = runs g1 (if isLane i then .laneQueuePush w else i))
      ∧ (u.t.c.pc.toNat % 8 = 2 → s.made (.control site) = runs u .popPhase))
    ∧ (nestAct g.t.c.nestcfg = false → u = g ∧ g.nestWaits = none)
    ∧ (∀ x, u.keptWord = some x → u.nextWord = (x, u))
    ∧ (u.keptWord = none → u.fetchWord u.wordAddr = (w, g1) →
      (u.t.c.bodyNo u.wordAddr = none → u.nextWord = (w, g1))
      ∧ ∀ k, u.t.c.bodyNo u.wordAddr = some k → u.nextWord = (w, g1.mapC (fun c => { c with body := (k, w) :: c.body })))
    ∧ (∀ r, g.nestWaits = some r → s.made (.control site) = .next (f.ctlTried (g.block (.token r.val))))
    ∧ (u.fleet.errors = [] → (u.ownerOf 0 (u.wordAddr.toNat / 2 ^ 21) = none
        ∨ u.ownerOf 0 (u.wordAddr.toNat / 2 ^ 21) = some u.t.task.ctx) → u.fetchError u.wordAddr = (none, u))
    ∧ (u.oldFetches u.wordAddr = [] →
      u.fetchWord u.wordAddr = (BitVec.ofNat 64 (u.rdN u.wordAddr.toNat 8), u))
    ∧ (∀ (e : LaneEntry) (l : List LaneEntry), f.laneLanded = some g1 → g1.clearDue.bringHead.t.q.lane = e :: l →
      e.kind = .instr → e.instr = some i →
      s.made (.lane site) = Res.map f.laneTried (Res.map g1.clearDue.bringHead.unlessWaits (exec i g1.clearDue.bringHead)))
    ∧ (f.t.l.returns = [] → f.t.l.stores = [] → f.accBusy = false → f.laneLanded = some f)
    ∧ (f.copies = [] → f.away = [] → f.clearDue.bringHead = f)
    ∧ (∀ t, f.t.l.mm = [] → f.accBusy = false → f.unlessWaits t = t)
    ∧ (∀ j, s.made (.event site j) = Res.map f.skids (exec j f) ∧ s.made (.device j) = exec j s)
    ∧ (∀ which, s.made (.early site which) = .next (f.readEarly which))
    ∧ (∀ t, f.ctlTried t = (f.skids t).mapC (fun c => { c with early := [] })
      ∧ f.laneTried t = (f.skids t).mapL (fun l => { l with early := [] }))
    ∧ (∀ t : State, t.endMove = { t.finishAll with reads := [] })
    ∧ s.made (.stop site) = .next (s.stopReaches (·.site == site))

/-- R169 to R183: words of each family decode to the instructions they stand for, and words outside the tables to none.
A sanity statement. -/
def Obligations.WordsDecode : Prop :=
  decode (BitVec.ofNat 64 (0x01 * 2 ^ 55 + 3 * 2 ^ 49 + 4 * 2 ^ 43 + 5 * 2 ^ 37)) = .ok (.add 3 4 (.reg 5))
  ∧ decode (BitVec.ofNat 64 (0x2C * 2 ^ 55 + 7 * 2 ^ 49 + 62 * 2 ^ 43 + 16)) = .ok (.ldD 7 62 16)
  ∧ decode (BitVec.ofNat 64 (0x43 * 2 ^ 55 + 1 * 2 ^ 49 + 2 * 2 ^ 43 + 3 * 2 ^ 37)) = .ok (.vadd ⟨⟨0, false⟩, 0⟩ 1 2 (.vec 3))
  ∧ decode (BitVec.ofNat 64 (0xC1 * 2 ^ 55 + 2 * 2 ^ 49 + 9 * 2 ^ 43 + 10 * 2 ^ 37)) = .ok (.mmul ⟨0, false⟩ 2 9 10)
  ∧ decode (BitVec.ofNat 64 (0xD1 * 2 ^ 55 + 5 * 2 ^ 43)) = .ok (.zadv 5)
  ∧ decode (BitVec.ofNat 64 (0xE9 * 2 ^ 55)) = .ok .nop
  ∧ decode (BitVec.ofNat 64 (2 ^ 63 + 0x0A * 2 ^ 56 + 1 * 2 ^ 51 + 5 * 2 ^ 32)) = .ok (.pair (.li 1 5) .nop)
  ∧ decode 0 = .error .unlistedOpcode
  ∧ decode (BitVec.ofNat 64 (0xE9 * 2 ^ 55 + 1)) = .error .unusedField

/-- R169 to R183: for every well-formed instruction that has a word, decoding its word gives it back, with every operand
at every value its encoding admits. -/
def Obligations.DecodeInvertsEncode : Prop :=
  ∀ i : Instr, i.wf = true → decode (encode i) = .ok i

/-- Invariants of every step, whatever moves and whatever the free values are. The memory keeps its canonical form (the
model's own, log entry 5). R9, R18, R309, R413, R417: of every thread, bound or saved, s0 holds zero, the queues q0 to q3
and bo hold at most sixteen entries, and the reserved bits of %dbgctl, as in the context records, are zero; the power state
is a state of R417 and the boot phase one of R413; %gts stays a number of 64 bits. -/
def Obligations.StepsKeepMemoryCanonical : Prop :=
  ∀ s t : State, step s = .next t → (MemWf s → MemWf t) ∧ (RegInv s → RegInv t)

/-- R9, R19, R288, R373, R413, R414, R419: what reset leaves: no task is bound, the boot sequence stands at phase 0 with no
die usable, the power state is PS0, the type of the first task's streams is 0x90, AGELIMIT is 100,000. Memory lists nothing (log entries 5 and 6 are the model's
choices: every other register holds 0). -/
def Obligations.ResetState : Prop :=
  MemWf State.reset ∧ RegInv State.reset ∧ State.reset.power.phase = 0 ∧ State.reset.power.dies = 0 ∧ State.reset.bar0 0x1018 = 0 ∧ State.reset.power.state = 0 ∧ State.reset.host.agelimit = 100000
  ∧ State.reset.t.status = .free ∧ State.reset.others = [] ∧ State.reset.ctxs = []
  ∧ (∀ a, State.reset.rd a = 0) ∧ (∀ q, State.reset.reg q = 0)
  ∧ Ctrl.fresh.v.vtype = 0x90 ∧ Ctrl.fresh.v.vl = 0 ∧ Lane.fresh.v.vtype = 0x90 ∧ Lane.fresh.mcfg = 0xE6000FFF
  ∧ Ctrl.fresh.tvec = 0 ∧ Lane.fresh.xflags = 0 ∧ Lane.fresh.depth = 0
end

