-- ==== Sys2Proof/Laws/Cells.lean ====
section
/-! SUPPORT. The laws of sparse data: what an address reads as after each operation, and that every operation keeps the
canonical form. -/

namespace Sys2Proof.Machine

variable {β : Type}

/-! ### The canonical form, as pairwise order -/

theorem cellsRising_iff (m : List (Nat × β)) : cellsRising m = true ↔ m.Pairwise (fun p q => p.1 < q.1) := by
  induction m with
  | nil => simp [cellsRising]
  | cons p m ih =>
    cases m with
    | nil => simp [cellsRising]
    | cons q m =>
      simp only [cellsRising, Bool.and_eq_true, decide_eq_true_eq, ih, List.pairwise_cons]
      constructor
      · rintro ⟨hpq, hq, hm⟩
        refine ⟨?_, hq, hm⟩
        intro r hr
        rcases List.mem_cons.1 hr with rfl | hr
        · exact hpq
        · exact lt_trans hpq (hq r hr)
      · rintro ⟨h, hq, hm⟩
        exact ⟨h q (List.mem_cons_self ..), hq, hm⟩

theorem cellsWf_iff [DecidableEq β] (d : β) (m : List (Nat × β)) :
    cellsWf d m = true ↔ m.Pairwise (fun p q => p.1 < q.1) ∧ ∀ p ∈ m, p.2 ≠ d := by
  simp [cellsWf, cellsRising_iff]

theorem cellsWf_nil [DecidableEq β] (d : β) : cellsWf d ([] : List (Nat × β)) = true := rfl

/-! ### Operations keep the canonical form -/

/-- Dropping pairs keeps the form. -/
theorem cellsWf_filter [DecidableEq β] (d : β) (m : List (Nat × β)) (f : Nat × β → Bool) (h : cellsWf d m = true) :
    cellsWf d (m.filter f) = true := by
  rw [cellsWf_iff] at h ⊢
  exact ⟨h.1.filter f, fun p hp => h.2 p (List.mem_of_mem_filter hp)⟩

theorem cellsWf_clear [DecidableEq β] (d : β) (m : List (Nat × β)) (lo len : Nat) (h : cellsWf d m = true) :
    cellsWf d (cellClear m lo len) = true := cellsWf_filter d m _ h

theorem mem_cellIns (m : List (Nat × β)) (a : Nat) (v : β) (p : Nat × β) :
    p ∈ cellIns m a v ↔ p = (a, v) ∨ p ∈ m := by
  induction m with
  | nil => simp [cellIns]
  | cons q m ih =>
    simp only [cellIns]
    split
    · simp
    · simp only [List.mem_cons, ih]; tauto

theorem cellIns_pairwise (m : List (Nat × β)) (a : Nat) (v : β) (h : m.Pairwise (fun p q => p.1 < q.1))
    (ha : ∀ p ∈ m, p.1 ≠ a) : (cellIns m a v).Pairwise (fun p q => p.1 < q.1) := by
  induction m with
  | nil => simp [cellIns]
  | cons q m ih =>
    obtain ⟨hq, hm⟩ := List.pairwise_cons.1 h
    simp only [cellIns]
    split
    · rename_i hlt
      refine List.pairwise_cons.2 ⟨?_, h⟩
      intro r hr
      rcases List.mem_cons.1 hr with rfl | hr
      · exact hlt
      · exact lt_trans hlt (hq r hr)
    · rename_i hlt
      refine List.pairwise_cons.2 ⟨?_, ih hm (fun p hp => ha p (List.mem_cons_of_mem _ hp))⟩
      intro r hr
      rcases (mem_cellIns m a v r).1 hr with rfl | hr
      · have := ha q (List.mem_cons_self ..)
        simp only; omega
      · exact hq r hr

theorem cellsWf_set [DecidableEq β] (d : β) (m : List (Nat × β)) (a : Nat) (v : β) (h : cellsWf d m = true) :
    cellsWf d (cellSet d m a v) = true := by
  have hf := cellsWf_filter d m (fun p => p.1 != a) h
  unfold cellSet
  split
  · exact hf
  · rename_i hv
    rw [cellsWf_iff] at hf ⊢
    refine ⟨cellIns_pairwise _ _ _ hf.1 (fun p hp => by simpa using (List.mem_filter.1 hp).2), ?_⟩
    intro p hp
    rcases (mem_cellIns _ _ _ _).1 hp with rfl | hp
    · exact hv
    · exact hf.2 p hp

theorem cellsWf_put [DecidableEq β] (d : β) (m : List (Nat × β)) (lo len : Nat) (new : List (Nat × β)) (h : cellsWf d m = true) :
    cellsWf d (cellPut d m lo len new) = true := by
  unfold cellPut
  have hc := cellsWf_clear d m lo len h
  generalize cellClear m lo len = m' at hc
  induction new generalizing m' with
  | nil => exact hc
  | cons p new ih =>
    refine ih _ ?_
    show cellsWf d (if p.1 < len then cellSet d m' (lo + p.1) p.2 else m') = true
    split
    · exact cellsWf_set d _ _ _ hc
    · exact hc

/-! ### What an address holds -/

theorem cellGet_filter (d : β) (m : List (Nat × β)) (f : Nat → Bool) (a : Nat) :
    cellGet d (m.filter (fun p => f p.1)) a = if f a then cellGet d m a else d := by
  induction m with
  | nil => simp [cellGet]
  | cons p m ih =>
    simp only [List.filter_cons]
    by_cases hp : f p.1 = true
    · simp only [hp, if_true, cellGet, ih]
      by_cases he : p.1 = a
      · subst he; simp [hp]
      · simp [he]
    · simp only [hp, cellGet]
      by_cases he : p.1 = a
      · subst he; simp [hp, ih]
      · simp [he, ih]

theorem cellGet_ins (d : β) (m : List (Nat × β)) (a : Nat) (v : β) (ha : ∀ p ∈ m, p.1 ≠ a) (b : Nat) :
    cellGet d (cellIns m a v) b = if a = b then v else cellGet d m b := by
  induction m with
  | nil => simp [cellIns, cellGet]
  | cons q m ih =>
    have hq := ha q (List.mem_cons_self ..)
    have hm := ih (fun p hp => ha p (List.mem_cons_of_mem _ hp))
    simp only [cellIns]
    split
    · simp [cellGet]
    · simp only [cellGet, hm]
      by_cases h1 : q.1 = b
      · subst h1; simp [Ne.symm hq]
      · simp [h1]

/-- A read after a write: the value written at its address, what was there before at every other. -/
theorem cellGet_set [DecidableEq β] (d : β) (m : List (Nat × β)) (a : Nat) (v : β) (b : Nat) :
    cellGet d (cellSet d m a v) b = if a = b then v else cellGet d m b := by
  have hf : cellGet d (m.filter (fun p => p.1 != a)) b = if a = b then d else cellGet d m b := by
    have := cellGet_filter d m (fun k => k != a) b
    rw [this]
    by_cases h : a = b
    · subst h; simp
    · simp [h, Ne.symm h]
  unfold cellSet
  split
  · rename_i hv; rw [hf, hv]
  · rw [cellGet_ins _ _ _ _ (fun p hp => by simpa using (List.mem_filter.1 hp).2), hf]
    split <;> rfl

theorem cellGet_clear (d : β) (m : List (Nat × β)) (lo len b : Nat) :
    cellGet d (cellClear m lo len) b = if b < lo ∨ lo + len ≤ b then cellGet d m b else d := by
  have := cellGet_filter d m (fun k => decide (k < lo) || decide (lo + len ≤ k)) b
  simpa [cellClear] using this

theorem cellGet_slice (d : β) (m : List (Nat × β)) (lo len b : Nat) (hb : b < len) :
    cellGet d (cellSlice m lo len) b = cellGet d m (lo + b) := by
  induction m with
  | nil => rfl
  | cons p m ih =>
    simp only [cellSlice, List.filter_cons] at ih ⊢
    by_cases hp : lo ≤ p.1 ∧ p.1 < lo + len
    · simp only [hp, decide_true, Bool.and_self, if_true, List.map_cons, cellGet]
      by_cases he : p.1 = lo + b
      · simp [he]
      · have : p.1 - lo ≠ b := by omega
        simp only [this, he, if_false]; exact ih
    · have hne : p.1 ≠ lo + b := by omega
      have hc : (decide (lo ≤ p.1) && decide (p.1 < lo + len)) = false := by
        by_contra h; simp at h; exact hp ⟨h.1, h.2⟩
      simp only [hc, cellGet, hne, if_false]; exact ih

/-! ### Equal contents are equal lists -/

theorem cellGet_of_mem [DecidableEq β] (d : β) (m : List (Nat × β)) (h : cellsWf d m = true) (p : Nat × β) (hp : p ∈ m) :
    cellGet d m p.1 = p.2 := by
  rw [cellsWf_iff] at h
  induction m with
  | nil => cases hp
  | cons q m ih =>
    obtain ⟨hq, hm⟩ := List.pairwise_cons.1 h.1
    simp only [cellGet]
    rcases List.mem_cons.1 hp with rfl | hp'
    · simp
    · have := hq p hp'
      rw [if_neg (by omega)]
      exact ih ⟨hm, fun r hr => h.2 r (List.mem_cons_of_mem _ hr)⟩ hp'

theorem cellGet_unlisted (d : β) (m : List (Nat × β)) (a : Nat) (h : ∀ p ∈ m, p.1 ≠ a) : cellGet d m a = d := by
  induction m with
  | nil => rfl
  | cons q m ih =>
    simp only [cellGet]
    rw [if_neg (h q (List.mem_cons_self ..))]
    exact ih (fun p hp => h p (List.mem_cons_of_mem _ hp))

/-- The pairs listed are exactly the addresses that hold something else than d, with what they hold. -/
theorem mem_iff_cellGet [DecidableEq β] (d : β) (m : List (Nat × β)) (h : cellsWf d m = true) (a : Nat) (v : β) :
    (a, v) ∈ m ↔ cellGet d m a = v ∧ v ≠ d := by
  constructor
  · intro hm
    exact ⟨cellGet_of_mem d m h (a, v) hm, ((cellsWf_iff d m).1 h).2 _ hm⟩
  · rintro ⟨hv, hd⟩
    by_contra hn
    by_cases ha : ∃ p ∈ m, p.1 = a
    · obtain ⟨p, hp, rfl⟩ := ha
      have := cellGet_of_mem d m h p hp
      rw [hv] at this
      exact hn (by rw [this]; exact hp)
    · push Not at ha
      rw [cellGet_unlisted d m a ha] at hv
      exact hd hv.symm

end Sys2Proof.Machine
end

