-- ==== Sys2Proof/Laws/Encoding.lean ====
section
/-! SUPPORT. Fields of instruction words (R169, R172, R178): codes read back, operands read back from their fields and
bits, and the words of fields split again. -/

namespace Sys2Proof

theorem asFin_v6 (d : Fin 32) : asFin 32 (v6 d).val = some d := by simp [asFin, v6]
theorem asFin_t6 (d : Fin 8) : asFin 8 (t6 d).val = some d := by simp [asFin, t6]
theorem asFin_q6 (d : Fin 4) : asFin 4 (q6 d).val = some d := by simp [asFin, q6]
theorem asFin_val {k : Nat} (d : Fin k) : asFin k d.val = some d := by simp [asFin]

theorem AmoOp.code_lt (o : AmoOp) : o.code < 16 := by cases o <;> decide
theorem AmoOp.ofCode_code (o : AmoOp) : AmoOp.ofCode o.code = some o := by cases o <;> rfl
theorem Ordering4.code_lt (o : Ordering4) : o.code < 4 := by cases o <;> decide
theorem Ordering4.ofCode_code (o : Ordering4) : Ordering4.ofCode o.code = o := by cases o <;> rfl
theorem Scope.code_lt (o : Scope) : o.code < 8 := by cases o <;> decide
theorem Scope.ofCode_code (o : Scope) : Scope.ofCode o.code = some o := by cases o <;> rfl
theorem Cond.code_lt (o : Cond) : o.code < 8 := by cases o <;> decide
theorem Cond.ofCode_code (o : Cond) : Cond.ofCode o.code = some o := by cases o <;> rfl
theorem StripSz.code_lt (o : StripSz) : o.code < 8 := by cases o <;> decide
theorem StripSz.ofCode_code (o : StripSz) : StripSz.ofCode o.code = some o := by cases o <;> rfl
theorem AccTy.code_lt (o : AccTy) : o.code < 4 := by cases o <;> decide
theorem AccTy.ofCode_code (o : AccTy) : AccTy.ofCode o.code = o := by cases o <;> rfl
theorem VidSel.code_lt (o : VidSel) : o.code < 4 := by cases o <;> decide
theorem VidSel.ofCode_code (o : VidSel) : VidSel.ofCode o.code = some o := by cases o <;> rfl
theorem BSrc.os_lt (b : BSrc) : b.os < 4 := by cases b <;> simp [BSrc.os]
theorem RedDst.inn_lt (d : RedDst) : d.inn < 2 := by cases d <;> simp [RedDst.inn]

/-- A field of 24 bits holds the numbers below 2^24. -/
theorem f24 (n : Nat) (h : n < 2 ^ 24) : (BitVec.ofNat 24 n).toNat = n :=
  Nat.mod_eq_of_lt h

/-- The second operand is read back from its field and bits. -/
theorem src2_of (r : Raw) (s : Src2) (hb : r.b = s.field) (hf : r.f.toNat = s.bits) : r.src2 = s := by
  cases s with
  | reg b => simp [Raw.src2, hf, Src2.bits, hb, Src2.field]
  | imm v =>
    have h : v.toNat < 2 ^ 23 := v.isLt
    have h1 : r.f.toNat / 8388608 = 1 := by simp only [hf, Src2.bits]; omega
    have h2 : BitVec.ofNat 23 r.f.toNat = v := by
      apply BitVec.eq_of_toNat_eq
      simp only [hf, Src2.bits, BitVec.toNat_ofNat]; omega
    simp [Raw.src2, h1, h2]

/-- Operand b is read back, whatever the lower bits of f. -/
theorem bSrc_of (r : Raw) (b : BSrc) (n : Nat) (hb : r.b = b.field) (hf : r.f.toNat = b.os * 2 ^ 22 + n)
    (hn : n < 2 ^ 22) : r.bSrc = some b := by
  have ho : r.os = b.os := by simp only [Raw.os, hf]; omega
  cases b with
  | vec v =>
    have : r.vb = some v := by
      simp only [Raw.vb, hb]
      exact asFin_v6 v
    simp [Raw.bSrc, ho, BSrc.os, this]
  | scalar s => simp [Raw.bSrc, ho, BSrc.os, hb, BSrc.field]
  | q0 => simp [Raw.bSrc, ho, BSrc.os]
  | q1 => simp [Raw.bSrc, ho, BSrc.os]

theorem sqSrc_of (r : Raw) (b : SQSrc) (n : Nat) (hb : r.b = b.field) (hf : r.f.toNat = b.os * 2 ^ 22 + n)
    (hn : n < 2 ^ 22) : r.sqSrc = some b := by
  have ho : r.os = b.os := by
    simp only [Raw.os, hf]; omega
  cases b <;> simp [Raw.sqSrc, ho, SQSrc.os, hb, SQSrc.field]

theorem shiftSrc_of (r : Raw) (n : ShiftSrc) (hb : r.b = n.field) (hf : r.f.toNat = n.bits) : r.shiftSrc = some n := by
  cases n with
  | imm k =>
    have h : k.toNat < 2 ^ 7 := k.isLt
    have hfn : r.fn = 2 ^ 7 + k.toNat := by simp only [Raw.fn, hf, ShiftSrc.bits]; omega
    have h1 : r.fn / 128 % 2 = 1 := by omega
    have h2 : BitVec.ofNat 7 r.fn = k := by
      apply BitVec.eq_of_toNat_eq
      simp only [hfn, BitVec.toNat_ofNat]; omega
    simp [Raw.shiftSrc, h1, h2]
  | b s =>
    have ho := s.os_lt
    have hfn : r.fn = 0 := by simp only [Raw.fn, hf, ShiftSrc.bits]; omega
    simp [Raw.shiftSrc, hfn, bSrc_of r s 0 hb (by simpa [ShiftSrc.bits] using hf) (by omega)]

theorem slideSrc_of (r : Raw) (k : SlideSrc) (n : Nat) (hb : r.b = k.field)
    (hf : r.f.toNat = k.bits + n % 4 / 2 * 2 ^ 21 + n % 2 * 2 ^ 19) : r.slideSrc = some k := by
  have h2 : n % 4 / 2 < 2 := by omega
  cases k with
  | imm x =>
    have h : x.toNat < 2 ^ 19 := x.isLt
    have hfn : r.fn = 2 ^ 20 + x.toNat + n % 2 * 2 ^ 19 := by simp only [Raw.fn, hf, SlideSrc.bits]; omega
    have h1 : r.fn / 1048576 = 1 := by omega
    have h3 : BitVec.ofNat 19 r.fn = x := by
      apply BitVec.eq_of_toNat_eq
      simp only [hfn, BitVec.toNat_ofNat]; omega
    simp [Raw.slideSrc, h1, h3]
  | scalar s =>
    have hfn : r.fn / 1048576 = 0 := by simp only [Raw.fn, hf, SlideSrc.bits]; omega
    have ho : r.os = 1 := by simp only [Raw.os, hf, SlideSrc.bits]; omega
    simp [Raw.slideSrc, hfn, ho, hb, SlideSrc.field]
  | q0 =>
    have hfn : r.fn / 1048576 = 0 := by simp only [Raw.fn, hf, SlideSrc.bits]; omega
    have ho : r.os = 2 := by simp only [Raw.os, hf, SlideSrc.bits]; omega
    simp [Raw.slideSrc, hfn, ho]
  | q1 =>
    have hfn : r.fn / 1048576 = 0 := by simp only [Raw.fn, hf, SlideSrc.bits]; omega
    have ho : r.os = 3 := by simp only [Raw.os, hf, SlideSrc.bits]; omega
    simp [Raw.slideSrc, hfn, ho]

theorem redDst_of (r : Raw) (d : RedDst) (k : Nat) (hd : r.d = d.field) (hf : r.f.toNat = k * 2 ^ 22 + d.inn * 2 ^ 21) :
    r.redDst = some d := by
  cases d with
  | queue q =>
    have hi : r.inn = false := by simp only [Raw.inn, hf, RedDst.inn]; simp; omega
    have : asFin 4 r.d.val = some q := by rw [hd]; exact asFin_q6 q
    simp [Raw.redDst, hi, this]
  | vec v =>
    have hi : r.inn = true := by simp only [Raw.inn, hf, RedDst.inn]; simp; omega
    have : r.vd = some v := by simp only [Raw.vd, hd]; exact asFin_v6 v
    simp [Raw.redDst, hi, this]

theorem guardX_rawX (m : GuardX) (op : Fin 256) (d a b : Fin 64) (f : Nat) : (rawX m op d a b f).guardX = some m := by
  rcases m with ⟨g, x⟩
  by_cases h : x = 0
  · subst h; rfl
  · simp [Raw.guardX, rawX, h, asFin_v6, Raw.guard]

/-- The fields of R169 of a packed word are those packed. -/
theorem Raw.unpack_pack (r : Raw) : Raw.unpack r.pack = r := by
  rcases r with ⟨op, d, a, b, c, g, gi, x, f⟩
  have h1 := op.isLt; have h2 := d.isLt; have h3 := a.isLt; have h4 := b.isLt; have h5 := c.isLt
  have h6 := g.isLt; have h7 := gi.toNat_lt; have h8 := x.toNat_lt; have h9 := f.isLt
  have hw : (Raw.pack ⟨op, d, a, b, c, g, gi, x, f⟩).toNat = op.val * 2 ^ 55 + d.val * 2 ^ 49 + a.val * 2 ^ 43
      + b.val * 2 ^ 37 + c.val * 2 ^ 31 + g.val * 2 ^ 26 + gi.toNat * 2 ^ 25 + x.toNat * 2 ^ 24 + f.toNat := by
    simp only [Raw.pack, BitVec.toNat_ofNat]; omega
  have hgi : ∀ n : Bool, (n.toNat == 1) = n := by decide
  simp only [Raw.unpack, hw, Raw.mk.injEq]
  refine ⟨?_, ?_, ?_, ?_, ?_, ?_, ?_, ?_, ?_⟩
  all_goals first
    | (apply Fin.ext; simp only [Fin.ofNat]; omega)
    | (apply BitVec.eq_of_toNat_eq; simp only [BitVec.toNat_ofNat]; omega)
    | skip
  · refine Eq.trans (congrArg (· == 1) ?_) (hgi gi); omega
  · refine Eq.trans (congrArg (· == 1) ?_) (hgi x); omega

/-- The fields of R178 of a packed slot are those packed; a slot fits in 31 bits. -/
theorem RawShort.unpack_pack (r : RawShort) : RawShort.unpack r.pack = r ∧ r.pack < 2 ^ 31 := by
  rcases r with ⟨op, d, a, i⟩
  have h1 := op.isLt; have h2 := d.isLt; have h3 := a.isLt; have h4 := i.isLt
  simp only [RawShort.pack, RawShort.unpack, RawShort.mk.injEq]
  refine ⟨⟨?_, ?_, ?_, ?_⟩, by omega⟩
  all_goals first
    | (apply Fin.ext; simp only [Fin.ofNat]; omega)
    | (apply BitVec.eq_of_toNat_eq; simp only [BitVec.toNat_ofNat]; omega)

/-- The opcode of a packed word, and its top bit (R168, R177). -/
theorem Raw.pack_op (r : Raw) : r.pack.toNat / 2 ^ 55 = r.op.val ∧ r.pack.toNat / 2 ^ 63 = r.op.val / 2 ^ 8 := by
  rcases r with ⟨op, d, a, b, c, g, gi, x, f⟩
  have h1 := op.isLt; have h2 := d.isLt; have h3 := a.isLt; have h4 := b.isLt; have h5 := c.isLt
  have h6 := g.isLt; have h7 := gi.toNat_lt; have h8 := x.toNat_lt; have h9 := f.isLt
  simp only [Raw.pack, BitVec.toNat_ofNat]
  omega

end Sys2Proof
end

