-- ==== Sys2Proof/Laws/Exec.lean ====
section
/-! SUPPORT. exec, constructor by constructor (rfl): what dispatch calls. -/

namespace Sys2Proof.Machine

variable (s : State)

theorem exec_add (d : SReg) (a : SReg) (b : Src2) : exec (.add d a b) s = execAdd d a b s := rfl
theorem exec_sub (d : SReg) (a : SReg) (b : Src2) : exec (.sub d a b) s = execSub d a b s := rfl
theorem exec_and (d : SReg) (a : SReg) (b : Src2) : exec (.and d a b) s = execAnd d a b s := rfl
theorem exec_or (d : SReg) (a : SReg) (b : Src2) : exec (.or d a b) s = execOr d a b s := rfl
theorem exec_xor (d : SReg) (a : SReg) (b : Src2) : exec (.xor d a b) s = execXor d a b s := rfl
theorem exec_andn (d : SReg) (a : SReg) (b : Src2) : exec (.andn d a b) s = execAndn d a b s := rfl
theorem exec_sll (d : SReg) (a : SReg) (b : Src2) : exec (.sll d a b) s = execSll d a b s := rfl
theorem exec_srl (d : SReg) (a : SReg) (b : Src2) : exec (.srl d a b) s = execSrl d a b s := rfl
theorem exec_sra (d : SReg) (a : SReg) (b : Src2) : exec (.sra d a b) s = execSra d a b s := rfl
theorem exec_mul (d : SReg) (a : SReg) (b : Src2) : exec (.mul d a b) s = execMul d a b s := rfl
theorem exec_mulh (d : SReg) (a : SReg) (b : Src2) : exec (.mulh d a b) s = execMulh d a b s := rfl
theorem exec_mulhn (d : SReg) (a : SReg) (b : Src2) : exec (.mulhn d a b) s = execMulhn d a b s := rfl
theorem exec_div (d : SReg) (a : SReg) (b : Src2) : exec (.div d a b) s = execDiv d a b s := rfl
theorem exec_divn (d : SReg) (a : SReg) (b : Src2) : exec (.divn d a b) s = execDivn d a b s := rfl
theorem exec_rem (d : SReg) (a : SReg) (b : Src2) : exec (.rem d a b) s = execRem d a b s := rfl
theorem exec_remn (d : SReg) (a : SReg) (b : Src2) : exec (.remn d a b) s = execRemn d a b s := rfl
theorem exec_min (d : SReg) (a : SReg) (b : Src2) : exec (.min d a b) s = execMin d a b s := rfl
theorem exec_max (d : SReg) (a : SReg) (b : Src2) : exec (.max d a b) s = execMax d a b s := rfl
theorem exec_minn (d : SReg) (a : SReg) (b : Src2) : exec (.minn d a b) s = execMinn d a b s := rfl
theorem exec_maxn (d : SReg) (a : SReg) (b : Src2) : exec (.maxn d a b) s = execMaxn d a b s := rfl
theorem exec_slt (d : SReg) (a : SReg) (b : Src2) : exec (.slt d a b) s = execSlt d a b s := rfl
theorem exec_sltn (d : SReg) (a : SReg) (b : Src2) : exec (.sltn d a b) s = execSltn d a b s := rfl
theorem exec_seq (d : SReg) (a : SReg) (b : Src2) : exec (.seq d a b) s = execSeq d a b s := rfl
theorem exec_popc (d : SReg) (a : SReg) : exec (.popc d a) s = execPopc d a s := rfl
theorem exec_clz (d : SReg) (a : SReg) : exec (.clz d a) s = execClz d a s := rfl
theorem exec_li (d : SReg) (i1 : BitVec 24) : exec (.li d i1) s = execLi d i1 s := rfl
theorem exec_lih (d : SReg) (i1 : BitVec 24) : exec (.lih d i1) s = execLih d i1 s := rfl
theorem exec_lix (d : SReg) (i1 : BitVec 16) : exec (.lix d i1) s = execLix d i1 s := rfl
theorem exec_beq (a : SReg) (b : SReg) (o : BitVec 24) : exec (.beq a b o) s = execBeq a b o s := rfl
theorem exec_bne (a : SReg) (b : SReg) (o : BitVec 24) : exec (.bne a b o) s = execBne a b o s := rfl
theorem exec_blt (a : SReg) (b : SReg) (o : BitVec 24) : exec (.blt a b o) s = execBlt a b o s := rfl
theorem exec_bge (a : SReg) (b : SReg) (o : BitVec 24) : exec (.bge a b o) s = execBge a b o s := rfl
theorem exec_bltn (a : SReg) (b : SReg) (o : BitVec 24) : exec (.bltn a b o) s = execBltn a b o s := rfl
theorem exec_bgen (a : SReg) (b : SReg) (o : BitVec 24) : exec (.bgen a b o) s = execBgen a b o s := rfl
theorem exec_br (o : BitVec 24) : exec (.br o) s = execBr o s := rfl
theorem exec_call (o : BitVec 24) : exec (.call o) s = execCall o s := rfl
theorem exec_callr (a : SReg) : exec (.callr a) s = execCallr a s := rfl
theorem exec_ret : exec (.ret) s = execRet s := rfl
theorem exec_bq (o : BitVec 24) : exec (.bq o) s = execBq o s := rfl
theorem exec_bqn (o : BitVec 24) : exec (.bqn o) s = execBqn o s := rfl
theorem exec_bmz (o : BitVec 24) : exec (.bmz o) s = execBmz o s := rfl
theorem exec_bmnz (o : BitVec 24) : exec (.bmnz o) s = execBmnz o s := rfl
theorem exec_popPhase : exec (.popPhase) s = execPopPhase s := rfl
theorem exec_ldB (d : SReg) (a : SReg) (e : BitVec 24) : exec (.ldB d a e) s = execLdB d a e s := rfl
theorem exec_ldH (d : SReg) (a : SReg) (e : BitVec 24) : exec (.ldH d a e) s = execLdH d a e s := rfl
theorem exec_ldW (d : SReg) (a : SReg) (e : BitVec 24) : exec (.ldW d a e) s = execLdW d a e s := rfl
theorem exec_ldD (d : SReg) (a : SReg) (e : BitVec 24) : exec (.ldD d a e) s = execLdD d a e s := rfl
theorem exec_ldBS (d : SReg) (a : SReg) (e : BitVec 24) : exec (.ldBS d a e) s = execLdBS d a e s := rfl
theorem exec_ldHS (d : SReg) (a : SReg) (e : BitVec 24) : exec (.ldHS d a e) s = execLdHS d a e s := rfl
theorem exec_ldWS (d : SReg) (a : SReg) (e : BitVec 24) : exec (.ldWS d a e) s = execLdWS d a e s := rfl
theorem exec_stB (a : SReg) (b : SReg) (e : BitVec 24) : exec (.stB a b e) s = execStB a b e s := rfl
theorem exec_stH (a : SReg) (b : SReg) (e : BitVec 24) : exec (.stH a b e) s = execStH a b e s := rfl
theorem exec_stW (a : SReg) (b : SReg) (e : BitVec 24) : exec (.stW a b e) s = execStW a b e s := rfl
theorem exec_stD (a : SReg) (b : SReg) (e : BitVec 24) : exec (.stD a b e) s = execStD a b e s := rfl
theorem exec_amo (op : AmoOp) (dbl : Bool) (ord : Ordering4) (sc : Scope) (d : SReg) (a : SReg) (b : SReg) (c : SReg) : exec (.amo op dbl ord sc d a b c) s = execAmo op dbl ord sc d a b c s := rfl
theorem exec_fenceAcq (sc : Scope) : exec (.fenceAcq sc) s = execFenceAcq sc s := rfl
theorem exec_fenceRel (sc : Scope) : exec (.fenceRel sc) s = execFenceRel sc s := rfl
theorem exec_fenceAr (sc : Scope) : exec (.fenceAr sc) s = execFenceAr sc s := rfl
theorem exec_vdrain : exec (.vdrain) s = execVdrain s := rfl
theorem exec_await (a : SReg) (b : SReg) : exec (.await a b) s = execAwait a b s := rfl
theorem exec_awaitEv (a : SReg) (b : SReg) : exec (.awaitEv a b) s = execAwaitEv a b s := rfl
theorem exec_qpush (q : QReg) (a : SReg) : exec (.qpush q a) s = execQpush q a s := rfl
theorem exec_qpop (d : SReg) (q : QReg) : exec (.qpop d q) s = execQpop d q s := rfl
theorem exec_setvl (d : SReg) (a : SReg) : exec (.setvl d a) s = execSetvl d a s := rfl
theorem exec_setvlGrow (d : SReg) (a : SReg) (b : SReg) : exec (.setvlGrow d a b) s = execSetvlGrow d a b s := rfl
theorem exec_setvlShrink (d : SReg) (a : SReg) : exec (.setvlShrink d a) s = execSetvlShrink d a s := rfl
theorem exec_strip (d : SReg) (a : SReg) (b : SReg) (z0 : StripSz) (z1 : StripSz) (z2 : StripSz) (z3 : StripSz) (o : BitVec 12) : exec (.strip d a b z0 z1 z2 z3 o) s = execStrip d a b z0 z1 z2 z3 o s := rfl
theorem exec_nest (k : Fin 16) (dims : Fin 8) (a : SReg) : exec (.nest k dims a) s = execNest k dims a s := rfl
theorem exec_launch (d : SReg) (a : SReg) : exec (.launch d a) s = execLaunch d a s := rfl
theorem exec_launchW (d : SReg) (a : SReg) : exec (.launchW d a) s = execLaunchW d a s := rfl
theorem exec_vcfg (a : SReg) : exec (.vcfg a) s = execVcfg a s := rfl
theorem exec_setvl2 (a : SReg) (b : SReg) : exec (.setvl2 a b) s = execSetvl2 a b s := rfl
theorem exec_vid (g : Guard) (sel : VidSel) (d : VReg) : exec (.vid g sel d) s = execVid g sel d s := rfl
theorem exec_vadd (m : GuardX) (d : VReg) (a : VReg) (b : BSrc) : exec (.vadd m d a b) s = execVadd m d a b s := rfl
theorem exec_vsub (m : GuardX) (d : VReg) (a : VReg) (b : BSrc) : exec (.vsub m d a b) s = execVsub m d a b s := rfl
theorem exec_vmul (m : GuardX) (d : VReg) (a : VReg) (b : BSrc) : exec (.vmul m d a b) s = execVmul m d a b s := rfl
theorem exec_vmulh (m : GuardX) (d : VReg) (a : VReg) (b : BSrc) : exec (.vmulh m d a b) s = execVmulh m d a b s := rfl
theorem exec_vdiv (m : GuardX) (d : VReg) (a : VReg) (b : BSrc) : exec (.vdiv m d a b) s = execVdiv m d a b s := rfl
theorem exec_vrem (m : GuardX) (d : VReg) (a : VReg) (b : BSrc) : exec (.vrem m d a b) s = execVrem m d a b s := rfl
theorem exec_vmin (m : GuardX) (d : VReg) (a : VReg) (b : BSrc) : exec (.vmin m d a b) s = execVmin m d a b s := rfl
theorem exec_vmax (m : GuardX) (d : VReg) (a : VReg) (b : BSrc) : exec (.vmax m d a b) s = execVmax m d a b s := rfl
theorem exec_vneg (m : GuardX) (d : VReg) (a : VReg) : exec (.vneg m d a) s = execVneg m d a s := rfl
theorem exec_vabs (m : GuardX) (d : VReg) (a : VReg) : exec (.vabs m d a) s = execVabs m d a s := rfl
theorem exec_vand (g : Guard) (d : VReg) (a : VReg) (b : BSrc) : exec (.vand g d a b) s = execVand g d a b s := rfl
theorem exec_vor (g : Guard) (d : VReg) (a : VReg) (b : BSrc) : exec (.vor g d a b) s = execVor g d a b s := rfl
theorem exec_vandn (g : Guard) (d : VReg) (a : VReg) (b : BSrc) : exec (.vandn g d a b) s = execVandn g d a b s := rfl
theorem exec_vxor (g : Guard) (d : VReg) (a : VReg) (b : BSrc) : exec (.vxor g d a b) s = execVxor g d a b s := rfl
theorem exec_vxnor (g : Guard) (d : VReg) (a : VReg) (b : BSrc) : exec (.vxnor g d a b) s = execVxnor g d a b s := rfl
theorem exec_vnot (g : Guard) (d : VReg) (a : VReg) : exec (.vnot g d a) s = execVnot g d a s := rfl
theorem exec_vsll (m : GuardX) (d : VReg) (a : VReg) (n : ShiftSrc) : exec (.vsll m d a n) s = execVsll m d a n s := rfl
theorem exec_vsrl (m : GuardX) (d : VReg) (a : VReg) (n : ShiftSrc) : exec (.vsrl m d a n) s = execVsrl m d a n s := rfl
theorem exec_vsra (m : GuardX) (d : VReg) (a : VReg) (n : ShiftSrc) : exec (.vsra m d a n) s = execVsra m d a n s := rfl
theorem exec_vfsl (g : Guard) (d : VReg) (a : VReg) (b : VReg) (n : BitVec 7) : exec (.vfsl g d a b n) s = execVfsl g d a b n s := rfl
theorem exec_vfsr (g : Guard) (d : VReg) (a : VReg) (b : VReg) (n : BitVec 7) : exec (.vfsr g d a b n) s = execVfsr g d a b n s := rfl
theorem exec_vlut3 (g : Guard) (d : VReg) (a : VReg) (b : VReg) (c : VReg) (t : BitVec 8) : exec (.vlut3 g d a b c t) s = execVlut3 g d a b c t s := rfl
theorem exec_vcmp (g : Guard) (cc : Cond) (d : MReg) (a : VReg) (b : BSrc) : exec (.vcmp g cc d a b) s = execVcmp g cc d a b s := rfl
theorem exec_vsel (g : Guard) (d : VReg) (a : VReg) (b : BSrc) (c : MReg) : exec (.vsel g d a b c) s = execVsel g d a b c s := rfl
theorem exec_vmov (g : Guard) (d : VReg) (b : BSrc) : exec (.vmov g d b) s = execVmov g d b s := rfl
theorem exec_vslideup (g : Guard) (inn : Bool) (rot : Bool) (d : VReg) (a : VReg) (k : SlideSrc) : exec (.vslideup g inn rot d a k) s = execVslideup g inn rot d a k s := rfl
theorem exec_vslidedn (g : Guard) (inn : Bool) (rot : Bool) (d : VReg) (a : VReg) (k : SlideSrc) : exec (.vslidedn g inn rot d a k) s = execVslidedn g inn rot d a k s := rfl
theorem exec_vlscat (g : Guard) (inn : Bool) (d : VReg) (a : VReg) (b : VReg) : exec (.vlscat g inn d a b) s = execVlscat g inn d a b s := rfl
theorem exec_mand (g : Guard) (d : MReg) (a : MReg) (b : MReg) : exec (.mand g d a b) s = execMand g d a b s := rfl
theorem exec_mor (g : Guard) (d : MReg) (a : MReg) (b : MReg) : exec (.mor g d a b) s = execMor g d a b s := rfl
theorem exec_mxor (g : Guard) (d : MReg) (a : MReg) (b : MReg) : exec (.mxor g d a b) s = execMxor g d a b s := rfl
theorem exec_mandn (g : Guard) (d : MReg) (a : MReg) (b : MReg) : exec (.mandn g d a b) s = execMandn g d a b s := rfl
theorem exec_mnot (g : Guard) (d : MReg) (a : MReg) : exec (.mnot g d a) s = execMnot g d a s := rfl
theorem exec_mmov (g : Guard) (d : MReg) (a : MReg) : exec (.mmov g d a) s = execMmov g d a s := rfl
theorem exec_mpush (a : MReg) : exec (.mpush a) s = execMpush a s := rfl
theorem exec_minv : exec (.minv) s = execMinv s := rfl
theorem exec_mpop : exec (.mpop) s = execMpop s := rfl
theorem exec_mpopc (g : Guard) (d : RedDst) (a : MReg) : exec (.mpopc g d a) s = execMpopc g d a s := rfl
theorem exec_vfadd (m : GuardX) (d : VReg) (a : VReg) (b : BSrc) : exec (.vfadd m d a b) s = execVfadd m d a b s := rfl
theorem exec_vfsub (m : GuardX) (d : VReg) (a : VReg) (b : BSrc) : exec (.vfsub m d a b) s = execVfsub m d a b s := rfl
theorem exec_vfmul (m : GuardX) (d : VReg) (a : VReg) (b : BSrc) : exec (.vfmul m d a b) s = execVfmul m d a b s := rfl
theorem exec_vfdiv (m : GuardX) (d : VReg) (a : VReg) (b : BSrc) : exec (.vfdiv m d a b) s = execVfdiv m d a b s := rfl
theorem exec_vfsqrt (m : GuardX) (d : VReg) (a : VReg) : exec (.vfsqrt m d a) s = execVfsqrt m d a s := rfl
theorem exec_vfmin (m : GuardX) (d : VReg) (a : VReg) (b : BSrc) : exec (.vfmin m d a b) s = execVfmin m d a b s := rfl
theorem exec_vfmax (m : GuardX) (d : VReg) (a : VReg) (b : BSrc) : exec (.vfmax m d a b) s = execVfmax m d a b s := rfl
theorem exec_vfcmp (m : GuardX) (cc : Cond) (d : MReg) (a : VReg) (b : BSrc) : exec (.vfcmp m cc d a b) s = execVfcmp m cc d a b s := rfl
theorem exec_vcvt (m : GuardX) (d : VReg) (a : VReg) (t : BitVec 20) : exec (.vcvt m d a t) s = execVcvt m d a t s := rfl
theorem exec_vcvtLg (m : GuardX) (d : VReg) (a : VReg) (t : BitVec 20) : exec (.vcvtLg m d a t) s = execVcvtLg m d a t s := rfl
theorem exec_vtab (g : Guard) (d : VReg) (a : SReg) (b : VReg) (n : Fin 16) : exec (.vtab g d a b n) s = execVtab g d a b n s := rfl
theorem exec_vkth (g : Guard) (d : RedDst) (a : VReg) (b : SQSrc) : exec (.vkth g d a b) s = execVkth g d a b s := rfl
theorem exec_vtopk (g : Guard) (inn : Bool) (d : MReg) (a : VReg) (b : SQSrc) : exec (.vtopk g inn d a b) s = execVtopk g inn d a b s := rfl
theorem exec_vtopp (g : Guard) (inn : Bool) (d : MReg) (a : VReg) (b : SQSrc) : exec (.vtopp g inn d a b) s = execVtopp g inn d a b s := rfl
theorem exec_vrsum (g : Guard) (d : RedDst) (a : VReg) : exec (.vrsum g d a) s = execVrsum g d a s := rfl
theorem exec_vrmin (g : Guard) (d : RedDst) (a : VReg) : exec (.vrmin g d a) s = execVrmin g d a s := rfl
theorem exec_vrmax (g : Guard) (d : RedDst) (a : VReg) : exec (.vrmax g d a) s = execVrmax g d a s := rfl
theorem exec_vscanadd (g : Guard) (inn : Bool) (d : VReg) (a : VReg) : exec (.vscanadd g inn d a) s = execVscanadd g inn d a s := rfl
theorem exec_vscanand (g : Guard) (inn : Bool) (d : MReg) (a : MReg) : exec (.vscanand g inn d a) s = execVscanand g inn d a s := rfl
theorem exec_vfirst0 (g : Guard) (d : RedDst) (a : MReg) : exec (.vfirst0 g d a) s = execVfirst0 g d a s := rfl
theorem exec_vpick (g : Guard) (d : RedDst) (a : VReg) (b : BSrc) : exec (.vpick g d a b) s = execVpick g d a b s := rfl
theorem exec_vrand (g : Guard) (d : VReg) (b : BSrc) : exec (.vrand g d b) s = execVrand g d b s := rfl
theorem exec_vscatl (g : Guard) (d : VReg) (a : SReg) : exec (.vscatl g d a) s = execVscatl g d a s := rfl
theorem exec_vmload (a : SReg) (b : SReg) (c : SReg) : exec (.vmload a b c) s = execVmload a b c s := rfl
theorem exec_vmicro (g : Guard) (n : BitVec 12) (d : VReg) (a : VReg) (b : VReg) : exec (.vmicro g n d a b) s = execVmicro g n d a b s := rfl
theorem exec_vld (g : Guard) (d : VReg) (a : SReg) (sc : Option SReg) (e : BitVec 22) : exec (.vld g d a sc e) s = execVld g d a sc e s := rfl
theorem exec_vst (g : Guard) (a : SReg) (b : VReg) (sc : Option SReg) (e : BitVec 22) : exec (.vst g a b sc e) s = execVst g a b sc e s := rfl
theorem exec_vstFree (g : Guard) (a : SReg) (b : VReg) (sc : Option SReg) (e : BitVec 22) : exec (.vstFree g a b sc e) s = execVstFree g a b sc e s := rfl
theorem exec_vlds (g : Guard) (d : VReg) (a : SReg) (b : SReg) (e : BitVec 22) : exec (.vlds g d a b e) s = execVlds g d a b e s := rfl
theorem exec_vsts (g : Guard) (free : Bool) (a : SReg) (b : SReg) (c : VReg) (e : BitVec 22) : exec (.vsts g free a b c e) s = execVsts g free a b c e s := rfl
theorem exec_tld (g : Guard) (d : VReg) (a : SReg) (k : Fin 32) (e : BitVec 18) : exec (.tld g d a k e) s = execTld g d a k e s := rfl
theorem exec_tst (g : Guard) (a : SReg) (b : VReg) (k : Fin 32) (e : BitVec 18) : exec (.tst g a b k e) s = execTst g a b k e s := rfl
theorem exec_vgather (g : Guard) (mode : Fin 3) (d : VReg) (a : SReg) (i1 : VReg) : exec (.vgather g mode d a i1) s = execVgather g mode d a i1 s := rfl
theorem exec_vscatter (g : Guard) (mode : Fin 3) (a : SReg) (i1 : VReg) (c : VReg) : exec (.vscatter g mode a i1 c) s = execVscatter g mode a i1 c s := rfl
theorem exec_vamo (g : Guard) (op : AmoOp) (mode : Fin 3) (ord : Ordering4) (sc : Scope) (d : VReg) (a : SReg) (i1 : VReg) (c : VReg) : exec (.vamo g op mode ord sc d a i1 c) s = execVamo g op mode ord sc d a i1 c s := rfl
theorem exec_vred (g : Guard) (op : AmoOp) (mode : Fin 3) (rel : Bool) (sc : Scope) (a : SReg) (i1 : VReg) (c : VReg) : exec (.vred g op mode rel sc a i1 c) s = execVred g op mode rel sc a i1 c s := rfl
theorem exec_racc (m : GuardX) (t : AccTy) (v : VReg) (a : SReg) (i1 : VReg) : exec (.racc m t v a i1) s = execRacc m t v a i1 s := rfl
theorem exec_rflush (sc : Scope) : exec (.rflush sc) s = execRflush sc s := rfl
theorem exec_vfence (sc : Scope) : exec (.vfence sc) s = execVfence sc s := rfl
theorem exec_arrive (a : SReg) (b : MReg) (sc : Scope) : exec (.arrive a b sc) s = execArrive a b sc s := rfl
theorem exec_cpy (d : SReg) (a : SReg) : exec (.cpy d a) s = execCpy d a s := rfl
theorem exec_mcfg (a : SReg) : exec (.mcfg a) s = execMcfg a s := rfl
theorem exec_mmul (g : Guard) (t : TReg) (a : VReg) (b : SReg) : exec (.mmul g t a b) s = execMmul g t a b s := rfl
theorem exec_mmulStep : exec (.mmulStep) s = execMmulStep s := rfl
theorem exec_mst (g : Guard) (d : VReg) (t : TReg) (b : SReg) : exec (.mst g d t b) s = execMst g d t b s := rfl
theorem exec_mstm (a : SReg) (t : TReg) (pitch : BitVec 22) (sc : Option SReg) : exec (.mstm a t pitch sc) s = execMstm a t pitch sc s := rfl
theorem exec_mzero (t : TReg) : exec (.mzero t) s = execMzero t s := rfl
theorem exec_mlive (set : BitVec 8) : exec (.mlive set) s = execMlive set s := rfl
theorem exec_zopen (z : ZReg) (a : SReg) (lev : Fin 6) (b : SReg) : exec (.zopen z a lev b) s = execZopen z a lev b s := rfl
theorem exec_zadv (z : ZReg) : exec (.zadv z) s = execZadv z s := rfl
theorem exec_zldC (g : Guard) (d : VReg) (z : ZReg) : exec (.zldC g d z) s = execZldC g d z s := rfl
theorem exec_zldP (g : Guard) (d : VReg) (z : ZReg) : exec (.zldP g d z) s = execZldP g d z s := rfl
theorem exec_zldCK (g : Guard) (d : VReg) (z : ZReg) : exec (.zldCK g d z) s = execZldCK g d z s := rfl
theorem exec_zldPK (g : Guard) (d : VReg) (z : ZReg) : exec (.zldPK g d z) s = execZldPK g d z s := rfl
theorem exec_zldM (g : Guard) (d : MReg) (z : ZReg) : exec (.zldM g d z) s = execZldM g d z s := rfl
theorem exec_zisect (z : ZReg) (m : ZReg) : exec (.zisect z m) s = execZisect z m s := rfl
theorem exec_zunion (z : ZReg) (m : ZReg) : exec (.zunion z m) s = execZunion z m s := rfl
theorem exec_zskip (z : ZReg) (b : SReg) : exec (.zskip z b) s = execZskip z b s := rfl
theorem exec_bzEnd (z : ZReg) (o : BitVec 24) : exec (.bzEnd z o) s = execBzEnd z o s := rfl
theorem exec_zclose (z : ZReg) : exec (.zclose z) s = execZclose z s := rfl
theorem exec_mfsr (d : SReg) (n : Fin 64) : exec (.mfsr d n) s = execMfsr d n s := rfl
theorem exec_mtsr (n : Fin 64) (a : SReg) : exec (.mtsr n a) s = execMtsr n a s := rfl
theorem exec_tfence : exec (.tfence) s = execTfence s := rfl
theorem exec_yieldpt : exec (.yieldpt) s = execYieldpt s := rfl
theorem exec_ifence : exec (.ifence) s = execIfence s := rfl
theorem exec_vdead (mask : Bool) (n : Fin 32) : exec (.vdead mask n) s = execVdead mask n s := rfl
theorem exec_tret : exec (.tret) s = execTret s := rfl
theorem exec_exit : exec (.exit) s = execExit s := rfl
theorem exec_exitComplete : exec (.exitComplete) s = execExitComplete s := rfl
theorem exec_brk (code : BitVec 16) : exec (.brk code) s = execBrk code s := rfl
theorem exec_nop : exec (.nop) s = execNop s := rfl
theorem exec_pair (a : Short) (b : Short) : exec (.pair a b) s = execPair a b s := rfl
theorem exec_laneQueuePush (w : Word) : exec (.laneQueuePush w) s = execLaneQueuePush w s := rfl
theorem exec_awaitedCondition : exec (.awaitedCondition) s = execAwaitedCondition s := rfl
theorem exec_pendingPush : exec (.pendingPush) s = execPendingPush s := rfl
theorem exec_loadDataArrival (r : SReg) : exec (.loadDataArrival r) s = execLoadDataArrival r s := rfl
theorem exec_elementReturn (n : Nat) : exec (.elementReturn n) s = execElementReturn n s := rfl
theorem exec_homeSliceAccess (n : Nat) : exec (.homeSliceAccess n) s = execHomeSliceAccess n s := rfl
theorem exec_streamDeadlock : exec (.streamDeadlock) s = execStreamDeadlock s := rfl
theorem exec_faultRecordWrite : exec (.faultRecordWrite) s = execFaultRecordWrite s := rfl
theorem exec_copyChunkDone (id : Nat) (chunk : Nat) : exec (.copyChunkDone id chunk) s = execCopyChunkDone id chunk s := rfl
theorem exec_copyComplete (id : Nat) : exec (.copyComplete id) s = execCopyComplete id s := rfl
theorem exec_streamFetchAhead (z : ZReg) : exec (.streamFetchAhead z) s = execStreamFetchAhead z s := rfl
theorem exec_accumulateRequest (id : Nat) : exec (.accumulateRequest id) s = execAccumulateRequest id s := rfl
theorem exec_accumulatePerform (id : Nat) : exec (.accumulatePerform id) s = execAccumulatePerform id s := rfl
theorem exec_acceptedReply (id : Nat) : exec (.acceptedReply id) s = execAcceptedReply id s := rfl
theorem exec_refusalReply (id : Nat) : exec (.refusalReply id) s = execRefusalReply id s := rfl
theorem exec_fabricRequestReceive (ch : Nat) (seq : Nat) : exec (.fabricRequestReceive ch seq) s = execFabricRequestReceive ch seq s := rfl
theorem exec_fabricAck (ch : Nat) : exec (.fabricAck ch) s = execFabricAck ch s := rfl
theorem exec_nakBackoffExpire (ch : Nat) : exec (.nakBackoffExpire ch) s = execNakBackoffExpire ch s := rfl
theorem exec_replyTimeoutResend (ch : Nat) : exec (.replyTimeoutResend ch) s = execReplyTimeoutResend ch s := rfl
theorem exec_tcWatch : exec (.tcWatch) s = execTcWatch s := rfl
theorem exec_stepEnd : exec (.stepEnd) s = execStepEnd s := rfl
theorem exec_threadControlWrite (site : Nat) (v : Word) : exec (.threadControlWrite site v) s = execThreadControlWrite site v s := rfl
theorem exec_debugBlockRead (die : Nat) (cluster : Nat) (off : Nat) : exec (.debugBlockRead die cluster off) s = execDebugBlockRead die cluster off s := rfl
theorem exec_registerWrite (off : Nat) (v : Word) (trusted : Bool) : exec (.registerWrite off v trusted) s = execRegisterWrite off v trusted s := rfl
theorem exec_doorbell (q : Nat) (off : Nat) (size : Nat) (v : Word) : exec (.doorbell q off size v) s = execDoorbell q off size v s := rfl
theorem exec_hostRequest (r : HostReq) : exec (.hostRequest r) s = execHostRequest r s := rfl
theorem exec_peerRequest (port : Fin 4) (r : PeerReq) : exec (.peerRequest port r) s = execPeerRequest port r s := rfl
theorem exec_selection : exec (.selection) s = execSelection s := rfl
theorem exec_waitEventReread (src : Nat) : exec (.waitEventReread src) s = execWaitEventReread src s := rfl
theorem exec_groupPlacement (die : Nat) : exec (.groupPlacement die) s = execGroupPlacement die s := rfl
theorem exec_launchCompletion (id : Nat) : exec (.launchCompletion id) s = execLaunchCompletion id s := rfl
theorem exec_save : exec (.save) s = execSave s := rfl
theorem exec_resumePlacement (task : Nat) : exec (.resumePlacement task) s = execResumePlacement task s := rfl
theorem exec_quadRetirement (unit : Nat) (quad : Nat) : exec (.quadRetirement unit quad) s = execQuadRetirement unit quad s := rfl
theorem exec_mailboxCompletion : exec (.mailboxCompletion) s = execMailboxCompletion s := rfl
theorem exec_reservedEncoding (w : Word) : exec (.reservedEncoding w) s = execReservedEncoding w s := rfl
theorem exec_dataError (l : ErrLoc) : exec (.dataError l) s = execDataError l s := rfl
theorem exec_thermalTrip (temp : Nat) : exec (.thermalTrip temp) s = execThermalTrip temp s := rfl
theorem exec_sealRequest (ctx : Nat) : exec (.sealRequest ctx) s = execSealRequest ctx s := rfl
theorem exec_batchClose (ctx : Nat) : exec (.batchClose ctx) s = execBatchClose ctx s := rfl
theorem exec_scrubRead (home : Nat) : exec (.scrubRead home) s = execScrubRead home s := rfl
theorem exec_qcfg : exec (.qcfg) s = execQcfg s := rfl
theorem exec_qenable : exec (.qenable) s = execQenable s := rfl
theorem exec_qdisable : exec (.qdisable) s = execQdisable s := rfl
theorem exec_qprio : exec (.qprio) s = execQprio s := rfl
theorem exec_qreset : exec (.qreset) s = execQreset s := rfl
theorem exec_setage : exec (.setage) s = execSetage s := rfl
theorem exec_ctxset : exec (.ctxset) s = execCtxset s := rfl
theorem exec_ctxmod : exec (.ctxmod) s = execCtxmod s := rfl
theorem exec_ctxfree : exec (.ctxfree) s = execCtxfree s := rfl
theorem exec_tlbinv : exec (.tlbinv) s = execTlbinv s := rfl
theorem exec_fqcfg : exec (.fqcfg) s = execFqcfg s := rfl
theorem exec_replay : exec (.replay) s = execReplay s := rfl
theorem exec_preempt : exec (.preempt) s = execPreempt s := rfl
theorem exec_resume : exec (.resume) s = execResume s := rfl
theorem exec_inventory : exec (.inventory) s = execInventory s := rfl
theorem exec_pset : exec (.pset) s = execPset s := rfl
theorem exec_tripclr : exec (.tripclr) s = execTripclr s := rfl
theorem exec_idinfo : exec (.idinfo) s = execIdinfo s := rfl
theorem exec_attest : exec (.attest) s = execAttest s := rfl
theorem exec_ccmap : exec (.ccmap) s = execCcmap s := rfl
theorem exec_dbgunlock : exec (.dbgunlock) s = execDbgunlock s := rfl
theorem exec_sealcfg : exec (.sealcfg) s = execSealcfg s := rfl
theorem exec_sealflush : exec (.sealflush) s = execSealflush s := rfl
theorem exec_errcnt : exec (.errcnt) s = execErrcnt s := rfl
theorem exec_scrubcfg : exec (.scrubcfg) s = execScrubcfg s := rfl
theorem exec_qretire : exec (.qretire) s = execQretire s := rfl
theorem exec_telem : exec (.telem) s = execTelem s := rfl
theorem exec_partset : exec (.partset) s = execPartset s := rfl
theorem exec_fwstage : exec (.fwstage) s = execFwstage s := rfl
theorem exec_fwfloor : exec (.fwfloor) s = execFwfloor s := rfl
theorem exec_powerOn : exec (.powerOn) s = execPowerOn s := rfl
theorem exec_perst : exec (.perst) s = execPerst s := rfl
theorem exec_tdispStop : exec (.tdispStop) s = execTdispStop s := rfl
theorem exec_ideStreamLoss : exec (.ideStreamLoss) s = execIdeStreamLoss s := rfl
theorem exec_packagePowerRemoved : exec (.packagePowerRemoved) s = execPackagePowerRemoved s := rfl
theorem exec_ideKmKeyProgramming : exec (.ideKmKeyProgramming) s = execIdeKmKeyProgramming s := rfl
theorem exec_tdiEntersRun : exec (.tdiEntersRun) s = execTdiEntersRun s := rfl

end Sys2Proof.Machine
end

