-- ==== Sys2Proof/Laws/Memory.lean ====
section
/-! SUPPORT. The laws of memory: what a byte reads as after each operation that writes, what such an operation leaves
alone, and that each keeps the canonical form. -/

namespace Sys2Proof.Machine

/-! ### One byte -/

theorem State.rd_wr (s : State) (a : Nat) (b : Byte) (x : Nat) : (s.wr a b).rd x = if a = x then b else s.rd x :=
  cellGet_set 0 s.mem a b x

theorem State.wr_eq (s : State) (a : Nat) (b : Byte) : s.wr a b = { s with mem := (s.wr a b).mem } := rfl

/-! ### Bytes of numbers -/

@[simp] theorem length_bytesOf (n v : Nat) : (bytesOf n v).length = n := by
  induction n generalizing v with
  | zero => rfl
  | succ n ih => simp [bytesOf, ih]

theorem getElem_bytesOf (n v i : Nat) (h : i < (bytesOf n v).length) :
    (bytesOf n v)[i] = BitVec.ofNat 8 (v / 256 ^ i) := by
  induction n generalizing v i with
  | zero => simp [bytesOf] at h
  | succ n ih =>
    cases i with
    | zero => simp [bytesOf]
    | succ i =>
      simp only [bytesOf, List.getElem_cons_succ]
      rw [ih, Nat.div_div_eq_div_mul, pow_succ, Nat.mul_comm]

theorem natOfBytes_bytesOf (n v : Nat) : natOfBytes (bytesOf n v) = v % 256 ^ n := by
  induction n generalizing v with
  | zero => simp [bytesOf, natOfBytes, Nat.mod_one]
  | succ n ih =>
    simp only [bytesOf, natOfBytes, ih, BitVec.toNat_ofNat]
    rw [show v % 2 ^ 8 = v % 256 from rfl, Nat.pow_succ', Nat.mod_mul]

theorem rdBytes_eq (rd : Nat → Byte) (n a : Nat) :
    rdBytes rd n a = natOfBytes ((List.range n).map (fun i => rd (a + i))) := by
  induction n generalizing a with
  | zero => rfl
  | succ n ih =>
    rw [rdBytes, ih, List.range_succ_eq_map]
    simp only [List.map_cons, List.map_map, natOfBytes, Nat.add_zero]
    congr 3
    apply List.map_congr_left
    intro i _
    simp only [Function.comp]
    congr 1; omega

/-! ### Bytes in a row -/

theorem State.wrBytes_eq (s : State) (a : Nat) (l : List Byte) :
    s.wrBytes a l = { s with mem := (s.wrBytes a l).mem } := by
  induction l generalizing s a with
  | nil => rfl
  | cons b l ih =>
    rw [State.wrBytes, ih]; rfl

theorem State.rd_wrBytes_out (s : State) (a : Nat) (l : List Byte) (x : Nat) (h : x < a ∨ a + l.length ≤ x) :
    (s.wrBytes a l).rd x = s.rd x := by
  induction l generalizing s a with
  | nil => rfl
  | cons b l ih =>
    simp only [List.length_cons] at h
    rw [State.wrBytes, ih _ _ (by omega), State.rd_wr, if_neg (by omega)]

theorem State.rd_wrBytes_in (s : State) (a : Nat) (l : List Byte) (i : Nat) (h : i < l.length) :
    (s.wrBytes a l).rd (a + i) = l[i] := by
  induction l generalizing s a i with
  | nil => simp at h
  | cons b l ih =>
    rw [State.wrBytes]
    cases i with
    | zero => rw [State.rd_wrBytes_out _ _ _ _ (by omega), State.rd_wr]; simp
    | succ i =>
      have := ih (s.wr a b) (a + 1) i (by simpa using h)
      simpa [Nat.add_assoc, Nat.add_comm 1 i] using this

theorem State.rdN_wrN (s : State) (a n v : Nat) : (s.wrN a n v).rdN a n = v % 256 ^ n := by
  rw [← natOfBytes_bytesOf, State.rdN, rdBytes_eq]
  congr 1
  apply List.ext_getElem
  · simp
  · intro i h1 h2
    simp only [List.getElem_map, List.getElem_range]
    exact State.rd_wrBytes_in s a _ i h2

theorem State.rd_wrN_out (s : State) (a n v x : Nat) (h : x < a ∨ a + n ≤ x) : (s.wrN a n v).rd x = s.rd x :=
  State.rd_wrBytes_out s a _ x (by simpa using h)

/-! ### Pairs of cell and byte -/

theorem State.wrCells_eq (s : State) (l : List Host.Cell) : s.wrCells l = { s with mem := (s.wrCells l).mem } := by
  induction l generalizing s with
  | nil => rfl
  | cons p l ih =>
    have h := ih (s.wr p.1 p.2)
    simp only [State.wrCells, List.foldl_cons] at h ⊢
    rw [h]; rfl

theorem State.rd_wrCells_out (s : State) (l : List Host.Cell) (x : Nat) (h : ∀ p ∈ l, p.1 ≠ x) :
    (s.wrCells l).rd x = s.rd x := by
  induction l generalizing s with
  | nil => rfl
  | cons p l ih =>
    have h' := ih (s.wr p.1 p.2) (fun q hq => h q (List.mem_cons_of_mem _ hq))
    simp only [State.wrCells, List.foldl_cons] at h' ⊢
    rw [h', State.rd_wr, if_neg (h p (List.mem_cons_self ..))]

/-- Where no address stands twice, each pair's byte is there. -/
theorem State.rd_wrCells_in (s : State) (l : List Host.Cell) (hn : (l.map (·.1)).Nodup) (p : Host.Cell) (hp : p ∈ l) :
    (s.wrCells l).rd p.1 = p.2 := by
  induction l generalizing s with
  | nil => cases hp
  | cons q l ih =>
    rw [List.map_cons, List.nodup_cons] at hn
    have e : s.wrCells (q :: l) = (s.wr q.1 q.2).wrCells l := rfl
    rw [e]
    rcases List.mem_cons.1 hp with rfl | hp
    · rw [State.rd_wrCells_out _ _ _ (fun r hr h => hn.1 (List.mem_map.2 ⟨r, hr, h⟩)), State.rd_wr]; simp
    · exact ih _ hn.2 hp

/-- Where no saved or resumed thread has left anything in place, writing moves nothing out of the way. -/
theorem State.evicting_of_unsaved (s : State) (l : List Host.Cell) (h : s.saved = []) (h' : s.away = []) :
    l.foldl (fun s p => (s.evictFor p.1).wr p.1 p.2) s = s.wrCells l := by
  induction l generalizing s with
  | nil => rfl
  | cons p l ih =>
    have e : s.evictFor p.1 = s := by simp [State.evictFor, h, h']
    have := ih (s.wr p.1 p.2) (by simpa [State.wr] using h) (by simpa [State.wr] using h')
    simp only [State.wrCells, List.foldl_cons, e] at this ⊢
    exact this

theorem State.clearErrors_none (s : State) (l : List Nat) (h : s.fleet.errors = []) : s.clearErrors l = s := by
  rw [State.clearErrors, h]; rfl

theorem State.loadsAnew_none (s : State) (l : List Nat)
    (h : s.threads.any Thread.torn = false) : s.loadsAnew l = s := by
  rw [State.loadsAnew, h]; rfl

theorem State.afterStore_none (s : State) (l : List Nat) (h : s.fleet.errors = [])
    (h' : s.threads.any Thread.torn = false) : (s.clearErrors l).loadsAnew l = s := by
  rw [State.clearErrors_none s l h, State.loadsAnew_none s l h']

/-- A state in which a write has no effect but on its bytes: no saved or resumed thread has left anything in place, no
error stands, and no load waits for a part of its bytes. -/
structure PlainStore (s : State) : Prop where
  saved : s.saved = []
  away : s.away = []
  errors : s.fleet.errors = []
  torn : s.threads.any Thread.torn = false

/-- Such a write: the bytes are written, and the words of code arenas that they change are remembered. -/
theorem State.store_plain (s : State) (l : List Host.Cell) (h : PlainStore s) :
    s.store l = { s.wrCells l with stale := s.stale ++ s.oldWords l } := by
  have e : ({ s.wrCells l with stale := s.stale ++ s.oldWords l } : State)
      = { s with mem := (s.wrCells l).mem, stale := s.stale ++ s.oldWords l } := by rw [State.wrCells_eq]
  rw [State.store]
  simp only [State.evicting_of_unsaved s l h.saved h.away, e]
  refine State.afterStore_none _ _ ?_ ?_
  · exact h.errors
  · exact h.torn

/-- The pairs of a write to cells in a row. -/
theorem locWrites_row (a n : Nat) (l : List Byte) (hl : l.length = n) :
    locWrites ((List.range n).map (fun i => Loc.cell (a + i) (a + i))) l
      = ((List.range n).zip l).map (fun p => (a + p.1, p.2)) := by
  induction l generalizing a n with
  | nil => subst hl; rfl
  | cons b l ih =>
    subst hl
    have h := ih (a + 1) l.length rfl
    rw [List.length_cons, List.range_succ_eq_map]
    simp only [List.map_cons, List.map_map, locWrites, List.zip_cons_cons, Nat.add_zero]
    congr 1
    have e1 : ((fun i => Loc.cell (a + i) (a + i)) ∘ Nat.succ) = (fun i => Loc.cell (a + 1 + i) (a + 1 + i)) := by
      funext i; simp only [Function.comp]; congr 1 <;> omega
    rw [e1, h, List.zip_map_left, List.map_map]
    apply List.map_congr_left
    intro p _
    simp only [Function.comp, Prod.map, id]
    congr 1; omega

/-- Bytes written to cells in a row, as bytes in a row. -/
theorem State.wrCells_row (s : State) (a : Nat) (l : List Byte) :
    s.wrCells (((List.range l.length).zip l).map (fun p => (a + p.1, p.2))) = s.wrBytes a l := by
  induction l generalizing s a with
  | nil => rfl
  | cons b l ih =>
    rw [List.length_cons, List.range_succ_eq_map]
    have h := ih (s.wr a b) (a + 1)
    simp only [List.zip_cons_cons, List.map_cons, State.wrCells, List.foldl_cons, Nat.add_zero, State.wrBytes] at h ⊢
    rw [← h, List.zip_map_left, List.map_map]
    congr 1
    apply List.map_congr_left
    intro p _
    simp only [Function.comp, Prod.map, id]
    congr 1; omega

/-! ### Without watchpoints and without errors -/

@[simp] theorem State.watchMem_nil (s : State) (ag : Agent) (k : Access) (h : List Nat) (v : Nat) (hc : s.clusters = []) :
    s.watchMem ag k h v = s := by simp [State.watchMem, hc]

@[simp] theorem State.watchLocs_nil (s : State) (ag : Agent) (k : Access) (ls : List Loc) (v : Nat) (hc : s.clusters = []) :
    s.watchLocs ag k ls v = s := by simp [State.watchLocs, hc]

@[simp] theorem State.watchSlot_nil (s : State) (ag : Agent) (u l n : Nat) (hc : s.clusters = []) :
    s.watchSlot ag u l n = s := by simp [State.watchSlot, hc]

theorem State.errorCheck_nil (s : State) (k : Access) (va : Nat) (ls : List Loc) (h : s.fleet.errors = []) :
    s.errorCheck k va ls = (.ok (), s) := by simp [State.errorCheck, h]

/-- A plain write to cells in a row, with no watchpoint: the bytes of the value are there; every other byte and the rest
of the state, but for the words remembered for fetching, are as before. -/
theorem State.writeLocs_row (s : State) (ag : Agent) (k : Access) (a n v : Nat) (hs : PlainStore s) (hc : s.clusters = []) :
    ∃ old, s.writeLocs ag k ((List.range n).map (fun i => Loc.cell (a + i) (a + i))) v
      = { s.wrN a n v with stale := old } := by
  have e : (locWrites ((List.range n).map (fun i => Loc.cell (a + i) (a + i)))
      (bytesOf ((List.range n).map (fun i => Loc.cell (a + i) (a + i))).length v))
      = ((List.range (bytesOf n v).length).zip (bytesOf n v)).map (fun p => (a + p.1, p.2)) := by
    rw [locWrites_row _ _ _ (by simp)]; simp
  let new := ((List.range (bytesOf n v).length).zip (bytesOf n v)).map (fun p => (a + p.1, p.2))
  have e' : s.writeLocs ag k ((List.range n).map (fun i => Loc.cell (a + i) (a + i))) v
      = { s.wrN a n v with stale := s.stale ++ s.oldWords new } := by
    unfold State.writeLocs
    rw [e, State.store_plain _ _ hs, State.wrCells_row, State.watchLocs_nil]
    · rfl
    · rw [State.wrBytes_eq]; exact hc
  exact ⟨_, e'⟩

/-! ### The canonical form is kept -/

theorem MemWf_wr (s : State) (a : Nat) (b : Byte) (h : MemWf s) : MemWf (s.wr a b) := cellsWf_set 0 s.mem a b h

theorem MemWf_wrBytes (s : State) (a : Nat) (l : List Byte) (h : MemWf s) : MemWf (s.wrBytes a l) := by
  induction l generalizing s a with
  | nil => exact h
  | cons b l ih => exact ih _ _ (MemWf_wr _ _ _ h)

theorem MemWf_wrN (s : State) (a n v : Nat) (h : MemWf s) : MemWf (s.wrN a n v) := MemWf_wrBytes _ _ _ h

theorem MemWf_wrCells (s : State) (l : List Host.Cell) (h : MemWf s) : MemWf (s.wrCells l) := by
  induction l generalizing s with
  | nil => exact h
  | cons p l ih => exact ih _ (MemWf_wr _ _ _ h)

/-- A fold of steps that each keep a property keeps it. -/
theorem foldl_keeps {α : Type} {P : State → Prop} (f : State → α → State) (l : List α) (s : State)
    (hf : ∀ s x, P s → P (f s x)) (h : P s) : P (l.foldl f s) := by
  induction l generalizing s with
  | nil => exact h
  | cons x l ih => exact ih _ (hf _ _ h)

theorem MemWf_filter (s : State) (f : Host.Cell → Bool) (h : MemWf s) : MemWf { s with mem := s.mem.filter f } :=
  cellsWf_filter 0 s.mem f h

theorem MemWf_put (s : State) (lo len : Nat) (new : List Host.Cell) (h : MemWf s) :
    MemWf { s with mem := cellPut 0 s.mem lo len new } := cellsWf_put 0 s.mem lo len new h

theorem MemWf_clear (s : State) (lo len : Nat) (h : MemWf s) : MemWf { s with mem := cellClear s.mem lo len } :=
  cellsWf_clear 0 s.mem lo len h

@[simp] theorem State.wipeErrors_mem (s : State) (lo len : Nat) : (s.wipeErrors lo len).mem = s.mem := by
  unfold State.wipeErrors; split <;> rfl

theorem MemWf_wipeErrors (s : State) (lo len : Nat) (h : MemWf s) : MemWf (s.wipeErrors lo len) := by
  unfold State.wipeErrors; split <;> exact h

theorem MemWf_writeBack (s : State) (ctx slot : Nat) (m : MoveUnit) (h : MemWf s) : MemWf (s.writeBack ctx slot m) := by
  have w : ∀ u : State, MemWf u → ∀ b l, MemWf ((u.clearImage m b).wrCells l) :=
    fun u hu b l => MemWf_wrCells _ _ (MemWf_filter u _ hu)
  unfold State.writeBack
  dsimp only
  split
  · exact w _ h _ _
  · exact w _ (MemWf_wipeErrors _ _ _ h) _ _

theorem MemWf_evictAway (s : State) (kind uid phys num : Nat) (h : MemWf s) : MemWf (s.evictAway kind uid phys num) := by
  unfold State.evictAway
  split
  · exact foldl_keeps (P := MemWf) _ _ _ (fun s m hs => MemWf_writeBack _ _ _ _ hs) h
  · exact h

theorem MemWf_evictUnit (s : State) (kind uid phys num : Nat) (h : MemWf s) : MemWf (s.evictUnit kind uid phys num) := by
  unfold State.evictUnit
  refine MemWf_evictAway _ _ _ _ _ (foldl_keeps (P := MemWf) _ _ _ (fun s x hs => ?_) h)
  dsimp only
  split
  · exact foldl_keeps (P := MemWf) _ _ _ (fun s m hs => MemWf_writeBack _ _ _ _ hs) hs
  · exact hs

theorem MemWf_evictFor (s : State) (a : Nat) (h : MemWf s) : MemWf (s.evictFor a) := by
  unfold State.evictFor
  split
  · exact h
  · split
    · exact MemWf_evictUnit _ _ _ _ _ h
    · exact h

@[simp] theorem State.clearErrors_mem (s : State) (l : List Nat) : (s.clearErrors l).mem = s.mem := by
  unfold State.clearErrors; split <;> rfl

@[simp] theorem State.loadsAnew_mem (s : State) (l : List Nat) : (s.loadsAnew l).mem = s.mem := by
  unfold State.loadsAnew; split <;> rfl

/-- Memory is all that the form depends on. -/
theorem MemWf_of_mem {s t : State} (h : MemWf s) (e : t.mem = s.mem) : MemWf t := by
  unfold MemWf; rw [e]; exact h

theorem MemWf_store (s : State) (l : List Host.Cell) (h : MemWf s) : MemWf (s.store l) := by
  have := foldl_keeps (P := MemWf) (fun s (p : Host.Cell) => (s.evictFor p.1).wr p.1 p.2) l s
    (fun _ p hs => MemWf_wr _ p.1 p.2 (MemWf_evictFor _ _ hs)) h
  exact MemWf_of_mem this (by simp [State.store])

@[simp] theorem State.countBy_mem (s : State) (die k n : Nat) : (s.countBy die k n).mem = s.mem := rfl

@[simp] theorem State.correctedOf_mem (s : State) (cells : List Nat) (es : List ErrLoc) :
    (s.correctedOf cells es).mem = s.mem := by
  induction es generalizing s with
  | nil => rfl
  | cons e es ih => unfold State.correctedOf; repeat' split
                    all_goals simp [ih, State.count]

@[simp] theorem State.meetOf_mem (s : State) (es : List ErrLoc) (cells : List Nat) : (s.meetOf es cells).2.mem = s.mem := by
  unfold State.meetOf
  dsimp only
  split <;> simp [State.count]

theorem MemWf_innerStore (s : State) (l : List Host.Cell) (h : MemWf s) : MemWf (s.innerStore l) := by
  unfold State.innerStore
  dsimp only
  split
  · exact MemWf_store _ _ h
  · exact MemWf_store _ _ (MemWf_of_mem h (by simp))

theorem MemWf_deviceStore (s : State) (trusted : Bool) (l : List Host.Cell) (h : MemWf s) :
    MemWf (s.deviceStore trusted l) := MemWf_innerStore _ _ h

theorem MemWf_setThread (s : State) (x : Thread) (h : MemWf s) : MemWf (s.setThread x) := by
  unfold State.setThread; split <;> exact h

theorem MemWf_focus (s : State) (n : Nat) (h : MemWf s) : MemWf (s.focus n) := by
  unfold State.focus; split <;> exact h

theorem MemWf_setCluster (s : State) (cl : Nat) (c : Cluster) (h : MemWf s) : MemWf (s.setCluster cl c) := h

theorem MemWf_traceRecord (s : State) (cl : Nat) (rec : List Nat) (h : MemWf s) : MemWf (s.traceRecord cl rec) := by
  unfold State.traceRecord
  dsimp only
  split
  · exact h
  · split
    · exact h
    · exact MemWf_setCluster _ _ _ (MemWf_deviceStore s _ _ h)

theorem MemWf_trace (s : State) (th : Thread) (a b c : Nat) (pc : Word) (d x y z : Nat) (h : MemWf s) :
    MemWf (s.trace th a b c pc d x y z) := by
  unfold State.trace State.traceWrite
  split
  · exact MemWf_traceRecord _ _ _ h
  · exact h

theorem MemWf_stopCluster (s : State) (cl : Nat) (h : MemWf s) : MemWf (s.stopCluster cl) := by
  unfold State.stopCluster
  dsimp only
  split
  · exact h
  · exact h

theorem MemWf_stopReaches (s : State) (p : Thread → Bool) (h : MemWf s) : MemWf (s.stopReaches p) :=
  foldl_keeps (P := MemWf) (fun s (t : Thread) => s.trace t t.site 5 noLane t.c.pc t.c.committed 0 0 0) _ _
    (fun s t hs => MemWf_trace s t _ _ _ _ _ _ _ _ hs) h

theorem MemWf_skids (b s : State) (h : MemWf s) : MemWf (b.skids s) := by
  unfold State.skids
  dsimp only
  repeat' split
  all_goals exact h

theorem MemWf_setWatch (s : State) (ag : Agent) (n : Nat) (h : MemWf s) : MemWf (s.setWatch ag n) := by
  unfold State.setWatch
  split
  · exact h
  · split
    · exact h
    · dsimp only
      split
      · exact h
      · exact MemWf_setThread _ _ h

theorem MemWf_wpHit (s : State) (cl n : Nat) (ag : Agent) (k w v lane : Nat) (h : MemWf s) :
    MemWf (s.wpHit cl n ag k w v lane) := by
  unfold State.wpHit
  extract_lets c w' tr w'' s1 s2
  have h2 : MemWf s2 := by
    unfold s2
    split
    · exact MemWf_trace _ _ _ _ _ _ _ _ _ _ h
    · exact h
  split
  · exact MemWf_setWatch _ _ _ h2
  · exact MemWf_stopCluster _ _ h2

theorem MemWf_watchMem (s : State) (ag : Agent) (k : Access) (a : List Nat) (v : Nat) (h : MemWf s) :
    MemWf (s.watchMem ag k a v) := by
  unfold State.watchMem
  split
  · exact h
  · refine foldl_keeps (P := MemWf) _ _ _ (fun s p hs => ?_) h
    refine foldl_keeps (P := MemWf) _ _ _ (fun s n hs => ?_) hs
    dsimp only
    split
    · exact hs
    · split
      · exact MemWf_wpHit _ _ _ _ _ _ _ _ hs
      · exact hs

theorem MemWf_watchSlot (s : State) (ag : Agent) (u l n : Nat) (h : MemWf s) : MemWf (s.watchSlot ag u l n) := by
  unfold State.watchSlot
  split
  · exact h
  · refine foldl_keeps (P := MemWf) _ _ _ (fun s n hs => ?_) h
    dsimp only
    split
    · exact MemWf_wpHit _ _ _ _ _ _ _ _ hs
    · exact hs

theorem MemWf_watchAcc (s : State) (ag : Agent) (u t r c v : Nat) (h : MemWf s) : MemWf (s.watchAcc ag u t r c v) := by
  unfold State.watchAcc
  split
  · exact h
  · refine foldl_keeps (P := MemWf) _ _ _ (fun s n hs => ?_) h
    dsimp only
    split
    · exact MemWf_wpHit _ _ _ _ _ _ _ _ hs
    · exact hs

theorem MemWf_watchLocs (s : State) (ag : Agent) (k : Access) (ls : List Loc) (v : Nat) (h : MemWf s) :
    MemWf (s.watchLocs ag k ls v) := by
  unfold State.watchLocs
  split
  · exact h
  · dsimp only
    split
    · exact foldl_keeps (P := MemWf) _ _ _ (fun s n hs => MemWf_watchSlot _ _ _ _ _ hs) (MemWf_watchMem _ _ _ _ _ h)
    · exact MemWf_watchMem _ _ _ _ _ h

theorem MemWf_writeLocs (s : State) (ag : Agent) (k : Access) (ls : List Loc) (v : Nat) (h : MemWf s) :
    MemWf (s.writeLocs ag k ls v) := MemWf_watchLocs _ _ _ _ _ (MemWf_store _ _ h)

theorem MemWf_readLocs (s : State) (ag : Agent) (ls : List Loc) (h : MemWf s) : MemWf (s.readLocs ag ls).2 :=
  MemWf_watchLocs _ _ _ _ _ h

theorem MemWf_amoLocs (s : State) (ag : Agent) (op : AmoOp) (ls : List Loc) (v k : Nat) (h : MemWf s) :
    MemWf (s.amoLocs ag op ls v k).2 := by
  unfold State.amoLocs
  dsimp only
  split
  · exact MemWf_watchMem s ag (.atomic true) (locHomes ls) (s.rdLocs ls) h
  · exact MemWf_writeLocs _ _ _ _ _ h

end Sys2Proof.Machine
end

