-- ==== Sys2Proof/Laws/Ops.lean ====
section
/-! SUPPORT. What the shared operations of an access can do: a check changes cached and displaced translations, the
locations touched of units that stand elsewhere, the count of free values and the state of errors, and nothing else; and
how many locations it answers. -/

namespace Sys2Proof.Machine

/-- A state that differs in cached and displaced translations, in the touched locations, in the count of free values and
in the state of errors alone. -/
def OnlyChecked (s t : State) : Prop :=
  t = { s with tlb := t.tlb, displaced := t.displaced, touched := t.touched, fresh := t.fresh, fleet := t.fleet }

theorem OnlyChecked.refl (s : State) : OnlyChecked s s := rfl

theorem OnlyChecked.trans {s t u : State} (h : OnlyChecked s t) (k : OnlyChecked t u) : OnlyChecked s u := by
  unfold OnlyChecked at *
  rw [k, h]

theorem OnlyChecked.mem {s t : State} (h : OnlyChecked s t) : t.mem = s.mem := by rw [h]
theorem OnlyChecked.thread {s t : State} (h : OnlyChecked s t) : t.t = s.t := by rw [h]
theorem OnlyChecked.clusters {s t : State} (h : OnlyChecked s t) : t.clusters = s.clusters := by rw [h]
theorem OnlyChecked.saved {s t : State} (h : OnlyChecked s t) : t.saved = s.saved := by rw [h]
theorem OnlyChecked.rd {s t : State} (h : OnlyChecked s t) (a : Nat) : t.rd a = s.rd a := by
  unfold State.rd; rw [h.mem]

theorem State.free_checked (s : State) : OnlyChecked s s.free.2 := rfl

theorem State.count_checked (s : State) (d k : Nat) : OnlyChecked s (s.count d k) := rfl

theorem State.countBy_checked (s : State) (d k n : Nat) : OnlyChecked s (s.countBy d k n) := rfl

theorem State.withTlb_checked (s : State) (l : List Tlb) : OnlyChecked s { s with tlb := l } := rfl

theorem State.displace_checked (s : State) (e : Tlb) : OnlyChecked s (s.displace e) := by
  unfold State.displace; split <;> rfl

theorem displaceAll_checked (l : List Tlb) (s : State) : OnlyChecked s (l.foldl State.displace s) := by
  induction l generalizing s with
  | nil => exact .refl s
  | cons e l ih => exact (s.displace_checked e).trans (ih _)

theorem State.cacheEntry_checked (s : State) (e : Tlb) : OnlyChecked s (s.cacheEntry e) := by
  unfold State.cacheEntry
  dsimp only
  split
  · rfl
  · have h := fun (f : Tlb → Bool) => displaceAll_checked (s.tlb.filter f) s
    split
    · exact (h _).trans (State.withTlb_checked _ _)
    · exact (((h _).trans (State.free_checked _)).trans (State.withTlb_checked _ _)).trans (displaceAll_checked _ _)

theorem State.correctedOf_checked (cells : List Nat) (l : List ErrLoc) (s : State) :
    OnlyChecked s (s.correctedOf cells l) := by
  induction l generalizing s with
  | nil => exact .refl s
  | cons e l ih =>
    refine .trans ?_ (ih _)
    cases e <;> first | exact .refl s | (dsimp only; split <;> rfl)

theorem State.meetOf_checked (s : State) (l : List ErrLoc) (cells : List Nat) : OnlyChecked s (s.meetOf l cells).2 := by
  have h := State.correctedOf_checked cells l s
  unfold State.meetOf
  dsimp only
  split
  · exact h
  · exact h.trans (State.count_checked ..)

theorem State.touch_checked (s : State) (ls : List Loc) : OnlyChecked s (s.touch ls) := by
  unfold State.touch; split <;> rfl

theorem State.ptEntry_checked (s : State) (ag : Agent) (va lev t : Nat) : OnlyChecked s (s.ptEntry ag va lev t).2 := by
  have h := State.correctedOf_checked [t + 8 * ptIndex va lev] s.fleet.errors s
  unfold State.ptEntry State.corrected
  dsimp only
  split
  · exact h
  · split_ifs
    · exact h
    · exact h.trans (State.free_checked _)
    · exact h.trans (State.free_checked _)

theorem State.sixteen_checked (s : State) (ctx va t : Nat) (l : Leaf) : OnlyChecked s (s.sixteen ctx va t l).2 := by
  unfold State.sixteen
  dsimp only
  split
  · rfl
  · split
    · rfl
    · have h := s.free_checked
      split
      · exact h
      · exact h.trans (State.correctedOf_checked ..)
      · exact h.trans (State.correctedOf_checked ..)

theorem State.walkCached_checked (s : State) (ag : Agent) (va lev t : Nat) :
    OnlyChecked s (s.walkCached ag va lev t).2 := by
  induction lev generalizing s t with
  | zero =>
    unfold State.walkCached
    have h := s.ptEntry_checked ag va 0 t
    split
    · rename_i e; rw [e] at h; exact h
    · rename_i e; rw [e] at h
      split
      · exact h
      · exact h.trans (State.sixteen_checked ..)
      · exact h
  | succ n ih =>
    unfold State.walkCached
    have h := s.ptEntry_checked ag va (n + 1) t
    split
    · rename_i e; rw [e] at h; exact h
    · rename_i e; rw [e] at h
      split
      · exact h
      · exact h
      · exact h.trans ((State.cacheEntry_checked _ _).trans (ih _ _))

theorem cacheEntries_checked (l : List (Nat × Nat)) (f : Nat × Nat → Tlb) (s : State) :
    OnlyChecked s (l.foldl (fun s c => s.cacheEntry (f c)) s) := by
  induction l generalizing s with
  | nil => exact .refl s
  | cons c l ih => exact (State.cacheEntry_checked _ _).trans (ih _)

theorem State.translate_checked (s : State) (ag : Agent) (va : Nat) : OnlyChecked s (s.translate ag va).2 := by
  have hw : ∀ (f : Leaf → Nat × Nat → Tlb) (u : State), OnlyChecked s u →
      OnlyChecked s (match u.walkCached ag va 3 (u.ctxD ag.ctx).ptroot with
        | (.error e, s) => ((Except.error e : Except WalkFault Leaf), s)
        | (.ok l, s) => (.ok l, ag.caches.foldl (fun s c => s.cacheEntry (f l c)) s)).2 := by
    intro f u h
    have h' := u.walkCached_checked ag va 3 (u.ctxD ag.ctx).ptroot
    split
    · rename_i e; rw [e] at h'; exact h.trans h'
    · rename_i e; rw [e] at h'; exact (h.trans h').trans (cacheEntries_checked _ _ _)
  have hw' := hw (fun l c => ⟨c.1, c.2, ag.ctx, 0, va / l.size * l.size, l.size, BitVec.ofNat 64 l.entry⟩)
  unfold State.translate
  dsimp only
  split
  · exact hw' s (.refl s)
  · split_ifs
    · rfl
    · split
      · exact s.free_checked
      · exact hw' _ s.free_checked

theorem State.translatePages_checked (s : State) (ag : Agent) (l : List Nat) (acc : List (Nat × Leaf)) :
    OnlyChecked s (s.translatePages ag l acc).2 := by
  induction l generalizing s acc with
  | nil => exact .refl s
  | cons va l ih =>
    unfold State.translatePages
    split
    · exact ih _ _
    · have h := s.translate_checked ag va
      split
      · rename_i e; rw [e] at h; exact h
      · rename_i e; rw [e] at h; exact h.trans (ih _ _)

/-- Each byte of an access gets one location. -/
theorem State.byteLocs_length (s : State) (ag : Agent) (k : Access) (size : Nat) (pages : List (Nat × Leaf))
    (l : List Nat) (ls : List Loc) (h : s.byteLocs ag k size pages l = .ok ls) : ls.length = l.length := by
  induction l generalizing ls with
  | nil => simp only [State.byteLocs, Except.ok.injEq] at h; simp [← h]
  | cons va l ih =>
    unfold State.byteLocs at h
    split at h
    · simp at h
    · split at h
      · rename_i e; simp only [Except.ok.injEq] at h; simp [← h, ih _ e]
      · simp at h

theorem State.resolve_checked (s : State) (ag : Agent) (k : Access) (size va : Nat) :
    OnlyChecked s (s.resolve ag k size va).2 ∧ ∀ ls, (s.resolve ag k size va).1 = .ok ls → ls.length = size := by
  have h := s.translatePages_checked ag ((vaBytes size va).filter (· < windowsBase)) []
  unfold State.resolve
  split
  · rename_i e; rw [e] at h
    refine ⟨?_, fun ls hl => by simp at hl⟩
    dsimp only
    split
    · exact h.trans (State.count_checked ..)
    · exact h
  · rename_i e; rw [e] at h
    exact ⟨h, fun ls hl => by simpa [vaBytes] using State.byteLocs_length _ _ _ _ _ _ _ hl⟩

theorem State.resends_checked (s : State) (ag : Agent) (ls : List Loc) : OnlyChecked s (s.resends ag ls) := by
  unfold State.resends
  split <;> rfl

theorem State.errorCheck_checked (s : State) (k : Access) (va : Nat) (ls : List Loc) :
    OnlyChecked s (s.errorCheck k va ls).2 := by
  unfold State.errorCheck
  split
  · exact .refl s
  · dsimp only
    generalize (if k == .write then s.fleet.errors.filter (fun e => !coversError (locCells ls) e)
      else s.fleet.errors) = es
    have h := s.meetOf_checked es (locCells ls)
    split <;> (rename_i e; rw [e] at h; exact h)

/-- All that the checks of an access do (R184, R435): the machine is as before but for translations, touched locations,
free values and the state of errors, and a passed check names one location for each byte. -/
theorem State.check_spec (s : State) (ag : Agent) (k : Access) (n va : Nat) :
    OnlyChecked s (s.check ag k n va).2 ∧ ∀ ls, (s.check ag k n va).1 = .ok ls → ls.length = n := by
  obtain ⟨h1, h2⟩ := s.resolve_checked ag k n va
  unfold State.check
  split
  · exact ⟨.refl s, fun ls h => by simp at h⟩
  · split
    · exact ⟨.refl s, fun ls h => by simp at h⟩
    · split
      · rename_i e
        rw [e] at h1
        exact ⟨h1, fun ls h => by simp at h⟩
      · rename_i ls s' e
        rw [e] at h1 h2
        have h3 := s'.errorCheck_checked k va ls
        split
        · rename_i e'
          rw [e'] at h3
          exact ⟨h1.trans h3, fun l h => by simp at h⟩
        · rename_i e'
          rw [e'] at h3
          refine ⟨?_, fun l h => by simp only [Except.ok.injEq] at h; rw [← h]; exact h2 ls rfl⟩
          have h4 := (h1.trans h3).trans (State.touch_checked _ ls)
          dsimp only
          split
          · exact h4
          · exact h4.trans (State.resends_checked ..)

/-- All that a control-stream store does where its check passes: it becomes the thread's youngest access on its way
(R200). -/
theorem State.cstore_spec (s s' : State) (n va v : Nat) (h : s.cstore n va v = (.ok (), s')) :
    ∃ ls u, s.check s.ctlAgent .write n va = (.ok ls, u) ∧ OnlyChecked s u
      ∧ s' = u.mapC (·.issue (.store (v % 2 ^ (8 * n))) va ls) := by
  have hk := (s.check_spec s.ctlAgent .write n va).1
  unfold State.cstore State.issue at h
  split at h
  · simp at h
  · rename_i ls u e
    rw [e] at hk
    exact ⟨ls, u, e, hk, by simpa using h.symm⟩

/-- A read noted after what only checks do. -/
theorem OnlyChecked.noted {s t : State} (h : OnlyChecked s t) (ls : List Loc) (whole : Bool) :
    OnlyChecked { s with reads := (t.noteRead ls whole).reads } (t.noteRead ls whole) := by
  unfold OnlyChecked State.noteRead at *
  dsimp only
  rw [h]

/-- All that a control-stream read whose value is awaited does where no access of the thread is on its way and no
watchpoint stands by: the machine is as after its check, and the read is noted (log entry 10). -/
theorem State.cload_checked (s : State) (n va : Nat) (hc : s.clusters = []) (ha : s.t.c.accs = []) :
    OnlyChecked { s with reads := (s.cload n va).2.reads } (s.cload n va).2 := by
  have h := (s.check_spec s.ctlAgent .read n va).1
  unfold State.cload
  split
  · rename_i e
    rw [e] at h
    have hr := congrArg State.reads h
    unfold OnlyChecked at *
    dsimp only at *
    rw [hr]
    exact h
  · rename_i ls u e
    rw [e] at h
    have ha' : u.t.c.accs = [] := by rw [h.thread, ha]
    have hd : u.drainOver ls = u := by
      rw [State.drainOver, State.performSome, ha']
      rfl
    have hm : ∀ (v : State) (f : MemOp → MemOp), v.t.c.accs = [] →
        v.mapC (fun c => { c with accs := c.accs.map f }) = v := by
      intro v f hv
      have e : v.t.c.accs.map f = v.t.c.accs := by simp [hv]
      unfold State.mapC
      dsimp only
      rw [e]
    rw [hd]
    have hr := h.trans (u.resends_checked u.ctlAgent ls)
    have hc' : (u.resends u.ctlAgent ls).clusters = [] := by rw [hr.clusters, hc]
    dsimp only
    rw [hm _ _ (by rw [hr.thread, ha])]
    have hn := hr.noted ls (wholeAccess va ls)
    have hw : ∀ v, ((u.resends u.ctlAgent ls).noteRead ls (wholeAccess va ls)).watchLocs (u.resends u.ctlAgent ls).ctlAgent
        .read ls v = (u.resends u.ctlAgent ls).noteRead ls (wholeAccess va ls) := by
      intro v; simp [State.watchLocs, State.noteRead, hc']
    rw [hw]
    exact hn

/-- A stall changes the thread's status at most (R35). -/
theorem State.block_eq (s : State) (w : Wait) : s.block w = { s with t := { s.t with status := (s.block w).t.status } } := by
  unfold State.block
  split <;> rfl

/-- A thread that runs or is blocked is blocked after a stall. -/
theorem State.block_status (s : State) (w : Wait) (h : s.t.status = .running ∨ ∃ v, s.t.status = .blocked v) :
    (s.block w).t.status = .blocked w := by
  unfold State.block
  rcases h with h | ⟨v, h⟩ <;> simp [h, State.mapT]

/-- A grant is at most the request and the owned lanes (R37). -/
theorem grant_le (lanes : Nat) (vtype : Word) (req : Nat) : grant lanes vtype req ≤ req ∧ grant lanes vtype req ≤ lanes := by
  unfold grant
  dsimp only
  split <;> split <;> omega

/-- Delivery to the driver of a cause that makes the thread faulted (R400, R402). -/
theorem State.trapDriver_eq (s : State) (tr : Trap) (h1 : tr.cause ≠ .stepEnd) (h2 : tr.cause ≠ .featureAbsent) :
    s.trapDriver tr = ((s.newToken (.task s.t.task.id tr.cause.code)).2.addFault
      ((s.newToken (.task s.t.task.id tr.cause.code)).2.trapRecord tr s.sched.nextToken)).mapT
        (fun t => { t with status := .faulted s.sched.nextToken }) := by
  simp [State.trapDriver, h1, h2, State.newToken]

end Sys2Proof.Machine
end

