-- ==== Sys2Proof/Laws/PerInstr.lean ====
section
/-! SUPPORT. For every constructor of Instr: where it has fields of the single form, its opcode is one that R182 lists;
and it is well-formed only where it has a word, of the single form or a pair (R169, R177). -/

namespace Sys2Proof.Laws.HasWord

def Statement (i : Instr) : Prop :=
  (∀ r, encodeRaw i = some r → listedOp r.op.val = true)
    ∧ (i.wf = true → (encodeRaw i).isSome = true ∨ ∃ x y, i = .pair x y)

theorem add (d : SReg) (a : SReg) (b : Src2) : Statement (.add d a b) :=
  ⟨fun _ h => by cases h; rfl, fun _ => .inl rfl⟩
theorem sub (d : SReg) (a : SReg) (b : Src2) : Statement (.sub d a b) :=
  ⟨fun _ h => by cases h; rfl, fun _ => .inl rfl⟩
theorem and (d : SReg) (a : SReg) (b : Src2) : Statement (.and d a b) :=
  ⟨fun _ h => by cases h; rfl, fun _ => .inl rfl⟩
theorem or (d : SReg) (a : SReg) (b : Src2) : Statement (.or d a b) := ⟨fun _ h => by cases h; rfl, fun _ => .inl rfl⟩
theorem xor (d : SReg) (a : SReg) (b : Src2) : Statement (.xor d a b) :=
  ⟨fun _ h => by cases h; rfl, fun _ => .inl rfl⟩
theorem andn (d : SReg) (a : SReg) (b : Src2) : Statement (.andn d a b) :=
  ⟨fun _ h => by cases h; rfl, fun _ => .inl rfl⟩
theorem sll (d : SReg) (a : SReg) (b : Src2) : Statement (.sll d a b) :=
  ⟨fun _ h => by cases h; rfl, fun _ => .inl rfl⟩
theorem srl (d : SReg) (a : SReg) (b : Src2) : Statement (.srl d a b) :=
  ⟨fun _ h => by cases h; rfl, fun _ => .inl rfl⟩
theorem sra (d : SReg) (a : SReg) (b : Src2) : Statement (.sra d a b) :=
  ⟨fun _ h => by cases h; rfl, fun _ => .inl rfl⟩
theorem mul (d : SReg) (a : SReg) (b : Src2) : Statement (.mul d a b) :=
  ⟨fun _ h => by cases h; rfl, fun _ => .inl rfl⟩
theorem mulh (d : SReg) (a : SReg) (b : Src2) : Statement (.mulh d a b) :=
  ⟨fun _ h => by cases h; rfl, fun _ => .inl rfl⟩
theorem mulhn (d : SReg) (a : SReg) (b : Src2) : Statement (.mulhn d a b) :=
  ⟨fun _ h => by cases h; rfl, fun _ => .inl rfl⟩
theorem div (d : SReg) (a : SReg) (b : Src2) : Statement (.div d a b) :=
  ⟨fun _ h => by cases h; rfl, fun _ => .inl rfl⟩
theorem divn (d : SReg) (a : SReg) (b : Src2) : Statement (.divn d a b) :=
  ⟨fun _ h => by cases h; rfl, fun _ => .inl rfl⟩
theorem rem (d : SReg) (a : SReg) (b : Src2) : Statement (.rem d a b) :=
  ⟨fun _ h => by cases h; rfl, fun _ => .inl rfl⟩
theorem remn (d : SReg) (a : SReg) (b : Src2) : Statement (.remn d a b) :=
  ⟨fun _ h => by cases h; rfl, fun _ => .inl rfl⟩
theorem min (d : SReg) (a : SReg) (b : Src2) : Statement (.min d a b) :=
  ⟨fun _ h => by cases h; rfl, fun _ => .inl rfl⟩
theorem max (d : SReg) (a : SReg) (b : Src2) : Statement (.max d a b) :=
  ⟨fun _ h => by cases h; rfl, fun _ => .inl rfl⟩
theorem minn (d : SReg) (a : SReg) (b : Src2) : Statement (.minn d a b) :=
  ⟨fun _ h => by cases h; rfl, fun _ => .inl rfl⟩
theorem maxn (d : SReg) (a : SReg) (b : Src2) : Statement (.maxn d a b) :=
  ⟨fun _ h => by cases h; rfl, fun _ => .inl rfl⟩
theorem slt (d : SReg) (a : SReg) (b : Src2) : Statement (.slt d a b) :=
  ⟨fun _ h => by cases h; rfl, fun _ => .inl rfl⟩
theorem sltn (d : SReg) (a : SReg) (b : Src2) : Statement (.sltn d a b) :=
  ⟨fun _ h => by cases h; rfl, fun _ => .inl rfl⟩
theorem seq (d : SReg) (a : SReg) (b : Src2) : Statement (.seq d a b) :=
  ⟨fun _ h => by cases h; rfl, fun _ => .inl rfl⟩
theorem popc (d : SReg) (a : SReg) : Statement (.popc d a) := ⟨fun _ h => by cases h; rfl, fun _ => .inl rfl⟩
theorem clz (d : SReg) (a : SReg) : Statement (.clz d a) := ⟨fun _ h => by cases h; rfl, fun _ => .inl rfl⟩
theorem li (d : SReg) (i : BitVec 24) : Statement (.li d i) := ⟨fun _ h => by cases h; rfl, fun _ => .inl rfl⟩
theorem lih (d : SReg) (i : BitVec 24) : Statement (.lih d i) := ⟨fun _ h => by cases h; rfl, fun _ => .inl rfl⟩
theorem lix (d : SReg) (i : BitVec 16) : Statement (.lix d i) := ⟨fun _ h => by cases h; rfl, fun _ => .inl rfl⟩
theorem beq (a : SReg) (b : SReg) (o : BitVec 24) : Statement (.beq a b o) :=
  ⟨fun _ h => by cases h; rfl, fun _ => .inl rfl⟩
theorem bne (a : SReg) (b : SReg) (o : BitVec 24) : Statement (.bne a b o) :=
  ⟨fun _ h => by cases h; rfl, fun _ => .inl rfl⟩
theorem blt (a : SReg) (b : SReg) (o : BitVec 24) : Statement (.blt a b o) :=
  ⟨fun _ h => by cases h; rfl, fun _ => .inl rfl⟩
theorem bge (a : SReg) (b : SReg) (o : BitVec 24) : Statement (.bge a b o) :=
  ⟨fun _ h => by cases h; rfl, fun _ => .inl rfl⟩
theorem bltn (a : SReg) (b : SReg) (o : BitVec 24) : Statement (.bltn a b o) :=
  ⟨fun _ h => by cases h; rfl, fun _ => .inl rfl⟩
theorem bgen (a : SReg) (b : SReg) (o : BitVec 24) : Statement (.bgen a b o) :=
  ⟨fun _ h => by cases h; rfl, fun _ => .inl rfl⟩
theorem br (o : BitVec 24) : Statement (.br o) := ⟨fun _ h => by cases h; rfl, fun _ => .inl rfl⟩
theorem call (o : BitVec 24) : Statement (.call o) := ⟨fun _ h => by cases h; rfl, fun _ => .inl rfl⟩
theorem callr (a : SReg) : Statement (.callr a) := ⟨fun _ h => by cases h; rfl, fun _ => .inl rfl⟩
theorem ret : Statement (.ret) := ⟨fun _ h => by cases h; rfl, fun _ => .inl rfl⟩
theorem bq (o : BitVec 24) : Statement (.bq o) := ⟨fun _ h => by cases h; rfl, fun _ => .inl rfl⟩
theorem bqn (o : BitVec 24) : Statement (.bqn o) := ⟨fun _ h => by cases h; rfl, fun _ => .inl rfl⟩
theorem bmz (o : BitVec 24) : Statement (.bmz o) := ⟨fun _ h => by cases h; rfl, fun _ => .inl rfl⟩
theorem bmnz (o : BitVec 24) : Statement (.bmnz o) := ⟨fun _ h => by cases h; rfl, fun _ => .inl rfl⟩
theorem popPhase : Statement (.popPhase) := ⟨fun _ h => (nomatch h), fun h => (nomatch h)⟩
theorem ldB (d : SReg) (a : SReg) (e : BitVec 24) : Statement (.ldB d a e) :=
  ⟨fun _ h => by cases h; rfl, fun _ => .inl rfl⟩
theorem ldH (d : SReg) (a : SReg) (e : BitVec 24) : Statement (.ldH d a e) :=
  ⟨fun _ h => by cases h; rfl, fun _ => .inl rfl⟩
theorem ldW (d : SReg) (a : SReg) (e : BitVec 24) : Statement (.ldW d a e) :=
  ⟨fun _ h => by cases h; rfl, fun _ => .inl rfl⟩
theorem ldD (d : SReg) (a : SReg) (e : BitVec 24) : Statement (.ldD d a e) :=
  ⟨fun _ h => by cases h; rfl, fun _ => .inl rfl⟩
theorem ldBS (d : SReg) (a : SReg) (e : BitVec 24) : Statement (.ldBS d a e) :=
  ⟨fun _ h => by cases h; rfl, fun _ => .inl rfl⟩
theorem ldHS (d : SReg) (a : SReg) (e : BitVec 24) : Statement (.ldHS d a e) :=
  ⟨fun _ h => by cases h; rfl, fun _ => .inl rfl⟩
theorem ldWS (d : SReg) (a : SReg) (e : BitVec 24) : Statement (.ldWS d a e) :=
  ⟨fun _ h => by cases h; rfl, fun _ => .inl rfl⟩
theorem stB (a : SReg) (b : SReg) (e : BitVec 24) : Statement (.stB a b e) :=
  ⟨fun _ h => by cases h; rfl, fun _ => .inl rfl⟩
theorem stH (a : SReg) (b : SReg) (e : BitVec 24) : Statement (.stH a b e) :=
  ⟨fun _ h => by cases h; rfl, fun _ => .inl rfl⟩
theorem stW (a : SReg) (b : SReg) (e : BitVec 24) : Statement (.stW a b e) :=
  ⟨fun _ h => by cases h; rfl, fun _ => .inl rfl⟩
theorem stD (a : SReg) (b : SReg) (e : BitVec 24) : Statement (.stD a b e) :=
  ⟨fun _ h => by cases h; rfl, fun _ => .inl rfl⟩
theorem amo (op : AmoOp) (dbl : Bool) (ord : Ordering4) (sc : Scope) (d : SReg) (a : SReg) (b : SReg) (c : SReg) : Statement (.amo op dbl ord sc d a b c) :=
  ⟨fun _ h => by cases h; rfl, fun _ => .inl rfl⟩
theorem fenceAcq (sc : Scope) : Statement (.fenceAcq sc) := ⟨fun _ h => by cases h; rfl, fun _ => .inl rfl⟩
theorem fenceRel (sc : Scope) : Statement (.fenceRel sc) := ⟨fun _ h => by cases h; rfl, fun _ => .inl rfl⟩
theorem fenceAr (sc : Scope) : Statement (.fenceAr sc) := ⟨fun _ h => by cases h; rfl, fun _ => .inl rfl⟩
theorem vdrain : Statement (.vdrain) := ⟨fun _ h => by cases h; rfl, fun _ => .inl rfl⟩
theorem await (a : SReg) (b : SReg) : Statement (.await a b) := ⟨fun _ h => by cases h; rfl, fun _ => .inl rfl⟩
theorem awaitEv (a : SReg) (b : SReg) : Statement (.awaitEv a b) := ⟨fun _ h => by cases h; rfl, fun _ => .inl rfl⟩
theorem qpush (q : QReg) (a : SReg) : Statement (.qpush q a) := ⟨fun _ h => by cases h; rfl, fun _ => .inl rfl⟩
theorem qpop (d : SReg) (q : QReg) : Statement (.qpop d q) := ⟨fun _ h => by cases h; rfl, fun _ => .inl rfl⟩
theorem setvl (d : SReg) (a : SReg) : Statement (.setvl d a) := ⟨fun _ h => by cases h; rfl, fun _ => .inl rfl⟩
theorem setvlGrow (d : SReg) (a : SReg) (b : SReg) : Statement (.setvlGrow d a b) :=
  ⟨fun _ h => by cases h; rfl, fun _ => .inl rfl⟩
theorem setvlShrink (d : SReg) (a : SReg) : Statement (.setvlShrink d a) :=
  ⟨fun _ h => by cases h; rfl, fun _ => .inl rfl⟩
theorem strip (d : SReg) (a : SReg) (b : SReg) (z0 : StripSz) (z1 : StripSz) (z2 : StripSz) (z3 : StripSz) (o : BitVec 12) : Statement (.strip d a b z0 z1 z2 z3 o) :=
  ⟨fun _ h => by cases h; rfl, fun _ => .inl rfl⟩
theorem nest (k : Fin 16) (dims : Fin 8) (a : SReg) : Statement (.nest k dims a) :=
  ⟨fun _ h => by cases h; rfl, fun _ => .inl rfl⟩
theorem launch (d : SReg) (a : SReg) : Statement (.launch d a) := ⟨fun _ h => by cases h; rfl, fun _ => .inl rfl⟩
theorem launchW (d : SReg) (a : SReg) : Statement (.launchW d a) := ⟨fun _ h => by cases h; rfl, fun _ => .inl rfl⟩
theorem vcfg (a : SReg) : Statement (.vcfg a) := ⟨fun _ h => by cases h; rfl, fun _ => .inl rfl⟩
theorem setvl2 (a : SReg) (b : SReg) : Statement (.setvl2 a b) := ⟨fun _ h => by cases h; rfl, fun _ => .inl rfl⟩
theorem vid (g : Guard) (sel : VidSel) (d : VReg) : Statement (.vid g sel d) :=
  ⟨fun _ h => by cases h; rfl, fun _ => .inl rfl⟩
theorem vadd (m : GuardX) (d : VReg) (a : VReg) (b : BSrc) : Statement (.vadd m d a b) :=
  ⟨fun _ h => by cases h; rfl, fun _ => .inl rfl⟩
theorem vsub (m : GuardX) (d : VReg) (a : VReg) (b : BSrc) : Statement (.vsub m d a b) :=
  ⟨fun _ h => by cases h; rfl, fun _ => .inl rfl⟩
theorem vmul (m : GuardX) (d : VReg) (a : VReg) (b : BSrc) : Statement (.vmul m d a b) :=
  ⟨fun _ h => by cases h; rfl, fun _ => .inl rfl⟩
theorem vmulh (m : GuardX) (d : VReg) (a : VReg) (b : BSrc) : Statement (.vmulh m d a b) :=
  ⟨fun _ h => by cases h; rfl, fun _ => .inl rfl⟩
theorem vdiv (m : GuardX) (d : VReg) (a : VReg) (b : BSrc) : Statement (.vdiv m d a b) :=
  ⟨fun _ h => by cases h; rfl, fun _ => .inl rfl⟩
theorem vrem (m : GuardX) (d : VReg) (a : VReg) (b : BSrc) : Statement (.vrem m d a b) :=
  ⟨fun _ h => by cases h; rfl, fun _ => .inl rfl⟩
theorem vmin (m : GuardX) (d : VReg) (a : VReg) (b : BSrc) : Statement (.vmin m d a b) :=
  ⟨fun _ h => by cases h; rfl, fun _ => .inl rfl⟩
theorem vmax (m : GuardX) (d : VReg) (a : VReg) (b : BSrc) : Statement (.vmax m d a b) :=
  ⟨fun _ h => by cases h; rfl, fun _ => .inl rfl⟩
theorem vneg (m : GuardX) (d : VReg) (a : VReg) : Statement (.vneg m d a) :=
  ⟨fun _ h => by cases h; rfl, fun _ => .inl rfl⟩
theorem vabs (m : GuardX) (d : VReg) (a : VReg) : Statement (.vabs m d a) :=
  ⟨fun _ h => by cases h; rfl, fun _ => .inl rfl⟩
theorem vand (g : Guard) (d : VReg) (a : VReg) (b : BSrc) : Statement (.vand g d a b) :=
  ⟨fun _ h => by cases h; rfl, fun _ => .inl rfl⟩
theorem vor (g : Guard) (d : VReg) (a : VReg) (b : BSrc) : Statement (.vor g d a b) :=
  ⟨fun _ h => by cases h; rfl, fun _ => .inl rfl⟩
theorem vandn (g : Guard) (d : VReg) (a : VReg) (b : BSrc) : Statement (.vandn g d a b) :=
  ⟨fun _ h => by cases h; rfl, fun _ => .inl rfl⟩
theorem vxor (g : Guard) (d : VReg) (a : VReg) (b : BSrc) : Statement (.vxor g d a b) :=
  ⟨fun _ h => by cases h; rfl, fun _ => .inl rfl⟩
theorem vxnor (g : Guard) (d : VReg) (a : VReg) (b : BSrc) : Statement (.vxnor g d a b) :=
  ⟨fun _ h => by cases h; rfl, fun _ => .inl rfl⟩
theorem vnot (g : Guard) (d : VReg) (a : VReg) : Statement (.vnot g d a) :=
  ⟨fun _ h => by cases h; rfl, fun _ => .inl rfl⟩
theorem vsll (m : GuardX) (d : VReg) (a : VReg) (n : ShiftSrc) : Statement (.vsll m d a n) :=
  ⟨fun _ h => by cases h; rfl, fun _ => .inl rfl⟩
theorem vsrl (m : GuardX) (d : VReg) (a : VReg) (n : ShiftSrc) : Statement (.vsrl m d a n) :=
  ⟨fun _ h => by cases h; rfl, fun _ => .inl rfl⟩
theorem vsra (m : GuardX) (d : VReg) (a : VReg) (n : ShiftSrc) : Statement (.vsra m d a n) :=
  ⟨fun _ h => by cases h; rfl, fun _ => .inl rfl⟩
theorem vfsl (g : Guard) (d : VReg) (a : VReg) (b : VReg) (n : BitVec 7) : Statement (.vfsl g d a b n) :=
  ⟨fun _ h => by cases h; rfl, fun _ => .inl rfl⟩
theorem vfsr (g : Guard) (d : VReg) (a : VReg) (b : VReg) (n : BitVec 7) : Statement (.vfsr g d a b n) :=
  ⟨fun _ h => by cases h; rfl, fun _ => .inl rfl⟩
theorem vlut3 (g : Guard) (d : VReg) (a : VReg) (b : VReg) (c : VReg) (t : BitVec 8) : Statement (.vlut3 g d a b c t) :=
  ⟨fun _ h => by cases h; rfl, fun _ => .inl rfl⟩
theorem vcmp (g : Guard) (cc : Cond) (d : MReg) (a : VReg) (b : BSrc) : Statement (.vcmp g cc d a b) :=
  ⟨fun _ h => by cases h; rfl, fun _ => .inl rfl⟩
theorem vsel (g : Guard) (d : VReg) (a : VReg) (b : BSrc) (c : MReg) : Statement (.vsel g d a b c) :=
  ⟨fun _ h => by cases h; rfl, fun _ => .inl rfl⟩
theorem vmov (g : Guard) (d : VReg) (b : BSrc) : Statement (.vmov g d b) := by
  cases b <;> exact ⟨fun _ h => by cases h; rfl, fun _ => .inl rfl⟩
theorem vslideup (g : Guard) (inn : Bool) (rot : Bool) (d : VReg) (a : VReg) (k : SlideSrc) : Statement (.vslideup g inn rot d a k) :=
  ⟨fun _ h => by cases h; rfl, fun _ => .inl rfl⟩
theorem vslidedn (g : Guard) (inn : Bool) (rot : Bool) (d : VReg) (a : VReg) (k : SlideSrc) : Statement (.vslidedn g inn rot d a k) :=
  ⟨fun _ h => by cases h; rfl, fun _ => .inl rfl⟩
theorem vlscat (g : Guard) (inn : Bool) (d : VReg) (a : VReg) (b : VReg) : Statement (.vlscat g inn d a b) :=
  ⟨fun _ h => by cases h; rfl, fun _ => .inl rfl⟩
theorem mand (g : Guard) (d : MReg) (a : MReg) (b : MReg) : Statement (.mand g d a b) :=
  ⟨fun _ h => by cases h; rfl, fun _ => .inl rfl⟩
theorem mor (g : Guard) (d : MReg) (a : MReg) (b : MReg) : Statement (.mor g d a b) :=
  ⟨fun _ h => by cases h; rfl, fun _ => .inl rfl⟩
theorem mxor (g : Guard) (d : MReg) (a : MReg) (b : MReg) : Statement (.mxor g d a b) :=
  ⟨fun _ h => by cases h; rfl, fun _ => .inl rfl⟩
theorem mandn (g : Guard) (d : MReg) (a : MReg) (b : MReg) : Statement (.mandn g d a b) :=
  ⟨fun _ h => by cases h; rfl, fun _ => .inl rfl⟩
theorem mnot (g : Guard) (d : MReg) (a : MReg) : Statement (.mnot g d a) :=
  ⟨fun _ h => by cases h; rfl, fun _ => .inl rfl⟩
theorem mmov (g : Guard) (d : MReg) (a : MReg) : Statement (.mmov g d a) :=
  ⟨fun _ h => by cases h; rfl, fun _ => .inl rfl⟩
theorem mpush (a : MReg) : Statement (.mpush a) := ⟨fun _ h => by cases h; rfl, fun _ => .inl rfl⟩
theorem minv : Statement (.minv) := ⟨fun _ h => by cases h; rfl, fun _ => .inl rfl⟩
theorem mpop : Statement (.mpop) := ⟨fun _ h => by cases h; rfl, fun _ => .inl rfl⟩
theorem mpopc (g : Guard) (d : RedDst) (a : MReg) : Statement (.mpopc g d a) :=
  ⟨fun _ h => by cases h; rfl, fun _ => .inl rfl⟩
theorem vfadd (m : GuardX) (d : VReg) (a : VReg) (b : BSrc) : Statement (.vfadd m d a b) :=
  ⟨fun _ h => by cases h; rfl, fun _ => .inl rfl⟩
theorem vfsub (m : GuardX) (d : VReg) (a : VReg) (b : BSrc) : Statement (.vfsub m d a b) :=
  ⟨fun _ h => by cases h; rfl, fun _ => .inl rfl⟩
theorem vfmul (m : GuardX) (d : VReg) (a : VReg) (b : BSrc) : Statement (.vfmul m d a b) :=
  ⟨fun _ h => by cases h; rfl, fun _ => .inl rfl⟩
theorem vfdiv (m : GuardX) (d : VReg) (a : VReg) (b : BSrc) : Statement (.vfdiv m d a b) :=
  ⟨fun _ h => by cases h; rfl, fun _ => .inl rfl⟩
theorem vfsqrt (m : GuardX) (d : VReg) (a : VReg) : Statement (.vfsqrt m d a) :=
  ⟨fun _ h => by cases h; rfl, fun _ => .inl rfl⟩
theorem vfmin (m : GuardX) (d : VReg) (a : VReg) (b : BSrc) : Statement (.vfmin m d a b) :=
  ⟨fun _ h => by cases h; rfl, fun _ => .inl rfl⟩
theorem vfmax (m : GuardX) (d : VReg) (a : VReg) (b : BSrc) : Statement (.vfmax m d a b) :=
  ⟨fun _ h => by cases h; rfl, fun _ => .inl rfl⟩
theorem vfcmp (m : GuardX) (cc : Cond) (d : MReg) (a : VReg) (b : BSrc) : Statement (.vfcmp m cc d a b) :=
  ⟨fun _ h => by cases h; rfl, fun _ => .inl rfl⟩
theorem vcvt (m : GuardX) (d : VReg) (a : VReg) (t : BitVec 20) : Statement (.vcvt m d a t) :=
  ⟨fun _ h => by cases h; rfl, fun _ => .inl rfl⟩
theorem vcvtLg (m : GuardX) (d : VReg) (a : VReg) (t : BitVec 20) : Statement (.vcvtLg m d a t) :=
  ⟨fun _ h => by cases h; rfl, fun _ => .inl rfl⟩
theorem vtab (g : Guard) (d : VReg) (a : SReg) (b : VReg) (n : Fin 16) : Statement (.vtab g d a b n) :=
  ⟨fun _ h => by cases h; rfl, fun _ => .inl rfl⟩
theorem vkth (g : Guard) (d : RedDst) (a : VReg) (b : SQSrc) : Statement (.vkth g d a b) :=
  ⟨fun _ h => by cases h; rfl, fun _ => .inl rfl⟩
theorem vtopk (g : Guard) (inn : Bool) (d : MReg) (a : VReg) (b : SQSrc) : Statement (.vtopk g inn d a b) :=
  ⟨fun _ h => by cases h; rfl, fun _ => .inl rfl⟩
theorem vtopp (g : Guard) (inn : Bool) (d : MReg) (a : VReg) (b : SQSrc) : Statement (.vtopp g inn d a b) :=
  ⟨fun _ h => by cases h; rfl, fun _ => .inl rfl⟩
theorem vrsum (g : Guard) (d : RedDst) (a : VReg) : Statement (.vrsum g d a) :=
  ⟨fun _ h => by cases h; rfl, fun _ => .inl rfl⟩
theorem vrmin (g : Guard) (d : RedDst) (a : VReg) : Statement (.vrmin g d a) :=
  ⟨fun _ h => by cases h; rfl, fun _ => .inl rfl⟩
theorem vrmax (g : Guard) (d : RedDst) (a : VReg) : Statement (.vrmax g d a) :=
  ⟨fun _ h => by cases h; rfl, fun _ => .inl rfl⟩
theorem vscanadd (g : Guard) (inn : Bool) (d : VReg) (a : VReg) : Statement (.vscanadd g inn d a) :=
  ⟨fun _ h => by cases h; rfl, fun _ => .inl rfl⟩
theorem vscanand (g : Guard) (inn : Bool) (d : MReg) (a : MReg) : Statement (.vscanand g inn d a) :=
  ⟨fun _ h => by cases h; rfl, fun _ => .inl rfl⟩
theorem vfirst0 (g : Guard) (d : RedDst) (a : MReg) : Statement (.vfirst0 g d a) :=
  ⟨fun _ h => by cases h; rfl, fun _ => .inl rfl⟩
theorem vpick (g : Guard) (d : RedDst) (a : VReg) (b : BSrc) : Statement (.vpick g d a b) :=
  ⟨fun _ h => by cases h; rfl, fun _ => .inl rfl⟩
theorem vrand (g : Guard) (d : VReg) (b : BSrc) : Statement (.vrand g d b) :=
  ⟨fun _ h => by cases h; rfl, fun _ => .inl rfl⟩
theorem vscatl (g : Guard) (d : VReg) (a : SReg) : Statement (.vscatl g d a) :=
  ⟨fun _ h => by cases h; rfl, fun _ => .inl rfl⟩
theorem vmload (a : SReg) (b : SReg) (c : SReg) : Statement (.vmload a b c) :=
  ⟨fun _ h => by cases h; rfl, fun _ => .inl rfl⟩
theorem vmicro (g : Guard) (n : BitVec 12) (d : VReg) (a : VReg) (b : VReg) : Statement (.vmicro g n d a b) :=
  ⟨fun _ h => by cases h; rfl, fun _ => .inl rfl⟩
theorem vld (g : Guard) (d : VReg) (a : SReg) (sc : Option SReg) (e : BitVec 22) : Statement (.vld g d a sc e) :=
  ⟨fun _ h => by cases h; rfl, fun _ => .inl rfl⟩
theorem vst (g : Guard) (a : SReg) (b : VReg) (sc : Option SReg) (e : BitVec 22) : Statement (.vst g a b sc e) :=
  ⟨fun _ h => by cases h; rfl, fun _ => .inl rfl⟩
theorem vstFree (g : Guard) (a : SReg) (b : VReg) (sc : Option SReg) (e : BitVec 22) : Statement (.vstFree g a b sc e) :=
  ⟨fun _ h => by cases h; rfl, fun _ => .inl rfl⟩
theorem vlds (g : Guard) (d : VReg) (a : SReg) (b : SReg) (e : BitVec 22) : Statement (.vlds g d a b e) :=
  ⟨fun _ h => by cases h; rfl, fun _ => .inl rfl⟩
theorem vsts (g : Guard) (free : Bool) (a : SReg) (b : SReg) (c : VReg) (e : BitVec 22) : Statement (.vsts g free a b c e) :=
  ⟨fun _ h => by cases h; rfl, fun _ => .inl rfl⟩
theorem tld (g : Guard) (d : VReg) (a : SReg) (k : Fin 32) (e : BitVec 18) : Statement (.tld g d a k e) :=
  ⟨fun _ h => by cases h; rfl, fun _ => .inl rfl⟩
theorem tst (g : Guard) (a : SReg) (b : VReg) (k : Fin 32) (e : BitVec 18) : Statement (.tst g a b k e) :=
  ⟨fun _ h => by cases h; rfl, fun _ => .inl rfl⟩
theorem vgather (g : Guard) (mode : Fin 3) (d : VReg) (a : SReg) (i : VReg) : Statement (.vgather g mode d a i) :=
  ⟨fun _ h => by cases h; rfl, fun _ => .inl rfl⟩
theorem vscatter (g : Guard) (mode : Fin 3) (a : SReg) (i : VReg) (c : VReg) : Statement (.vscatter g mode a i c) :=
  ⟨fun _ h => by cases h; rfl, fun _ => .inl rfl⟩
theorem vamo (g : Guard) (op : AmoOp) (mode : Fin 3) (ord : Ordering4) (sc : Scope) (d : VReg) (a : SReg) (i : VReg) (c : VReg) : Statement (.vamo g op mode ord sc d a i c) :=
  ⟨fun _ h => by cases h; rfl, fun _ => .inl rfl⟩
theorem vred (g : Guard) (op : AmoOp) (mode : Fin 3) (rel : Bool) (sc : Scope) (a : SReg) (i : VReg) (c : VReg) : Statement (.vred g op mode rel sc a i c) :=
  ⟨fun _ h => by cases h; rfl, fun _ => .inl rfl⟩
theorem racc (m : GuardX) (t : AccTy) (v : VReg) (a : SReg) (i : VReg) : Statement (.racc m t v a i) :=
  ⟨fun _ h => by cases h; rfl, fun _ => .inl rfl⟩
theorem rflush (sc : Scope) : Statement (.rflush sc) := ⟨fun _ h => by cases h; rfl, fun _ => .inl rfl⟩
theorem vfence (sc : Scope) : Statement (.vfence sc) := ⟨fun _ h => by cases h; rfl, fun _ => .inl rfl⟩
theorem arrive (a : SReg) (b : MReg) (sc : Scope) : Statement (.arrive a b sc) :=
  ⟨fun _ h => by cases h; rfl, fun _ => .inl rfl⟩
theorem cpy (d : SReg) (a : SReg) : Statement (.cpy d a) := ⟨fun _ h => by cases h; rfl, fun _ => .inl rfl⟩
theorem mcfg (a : SReg) : Statement (.mcfg a) := ⟨fun _ h => by cases h; rfl, fun _ => .inl rfl⟩
theorem mmul (g : Guard) (t : TReg) (a : VReg) (b : SReg) : Statement (.mmul g t a b) :=
  ⟨fun _ h => by cases h; rfl, fun _ => .inl rfl⟩
theorem mmulStep : Statement (.mmulStep) := ⟨fun _ h => (nomatch h), fun h => (nomatch h)⟩
theorem mst (g : Guard) (d : VReg) (t : TReg) (b : SReg) : Statement (.mst g d t b) :=
  ⟨fun _ h => by cases h; rfl, fun _ => .inl rfl⟩
theorem mstm (a : SReg) (t : TReg) (pitch : BitVec 22) (sc : Option SReg) : Statement (.mstm a t pitch sc) :=
  ⟨fun _ h => by cases h; rfl, fun _ => .inl rfl⟩
theorem mzero (t : TReg) : Statement (.mzero t) := ⟨fun _ h => by cases h; rfl, fun _ => .inl rfl⟩
theorem mlive (set : BitVec 8) : Statement (.mlive set) := ⟨fun _ h => by cases h; rfl, fun _ => .inl rfl⟩
theorem zopen (z : ZReg) (a : SReg) (lev : Fin 6) (b : SReg) : Statement (.zopen z a lev b) :=
  ⟨fun _ h => by cases h; rfl, fun _ => .inl rfl⟩
theorem zadv (z : ZReg) : Statement (.zadv z) := ⟨fun _ h => by cases h; rfl, fun _ => .inl rfl⟩
theorem zldC (g : Guard) (d : VReg) (z : ZReg) : Statement (.zldC g d z) :=
  ⟨fun _ h => by cases h; rfl, fun _ => .inl rfl⟩
theorem zldP (g : Guard) (d : VReg) (z : ZReg) : Statement (.zldP g d z) :=
  ⟨fun _ h => by cases h; rfl, fun _ => .inl rfl⟩
theorem zldCK (g : Guard) (d : VReg) (z : ZReg) : Statement (.zldCK g d z) :=
  ⟨fun _ h => by cases h; rfl, fun _ => .inl rfl⟩
theorem zldPK (g : Guard) (d : VReg) (z : ZReg) : Statement (.zldPK g d z) :=
  ⟨fun _ h => by cases h; rfl, fun _ => .inl rfl⟩
theorem zldM (g : Guard) (d : MReg) (z : ZReg) : Statement (.zldM g d z) :=
  ⟨fun _ h => by cases h; rfl, fun _ => .inl rfl⟩
theorem zisect (z : ZReg) (m : ZReg) : Statement (.zisect z m) := ⟨fun _ h => by cases h; rfl, fun _ => .inl rfl⟩
theorem zunion (z : ZReg) (m : ZReg) : Statement (.zunion z m) := ⟨fun _ h => by cases h; rfl, fun _ => .inl rfl⟩
theorem zskip (z : ZReg) (b : SReg) : Statement (.zskip z b) := ⟨fun _ h => by cases h; rfl, fun _ => .inl rfl⟩
theorem bzEnd (z : ZReg) (o : BitVec 24) : Statement (.bzEnd z o) := ⟨fun _ h => by cases h; rfl, fun _ => .inl rfl⟩
theorem zclose (z : ZReg) : Statement (.zclose z) := ⟨fun _ h => by cases h; rfl, fun _ => .inl rfl⟩
theorem mfsr (d : SReg) (n : Fin 64) : Statement (.mfsr d n) := ⟨fun _ h => by cases h; rfl, fun _ => .inl rfl⟩
theorem mtsr (n : Fin 64) (a : SReg) : Statement (.mtsr n a) := ⟨fun _ h => by cases h; rfl, fun _ => .inl rfl⟩
theorem tfence : Statement (.tfence) := ⟨fun _ h => by cases h; rfl, fun _ => .inl rfl⟩
theorem yieldpt : Statement (.yieldpt) := ⟨fun _ h => by cases h; rfl, fun _ => .inl rfl⟩
theorem ifence : Statement (.ifence) := ⟨fun _ h => by cases h; rfl, fun _ => .inl rfl⟩
theorem vdead (mask : Bool) (n : Fin 32) : Statement (.vdead mask n) :=
  ⟨fun _ h => by cases h; rfl, fun _ => .inl rfl⟩
theorem tret : Statement (.tret) := ⟨fun _ h => by cases h; rfl, fun _ => .inl rfl⟩
theorem exit : Statement (.exit) := ⟨fun _ h => by cases h; rfl, fun _ => .inl rfl⟩
theorem exitComplete : Statement (.exitComplete) := ⟨fun _ h => (nomatch h), fun h => (nomatch h)⟩
theorem brk (code : BitVec 16) : Statement (.brk code) := ⟨fun _ h => by cases h; rfl, fun _ => .inl rfl⟩
theorem nop : Statement (.nop) := ⟨fun _ h => by cases h; rfl, fun _ => .inl rfl⟩
theorem pair (a : Short) (b : Short) : Statement (.pair a b) := ⟨fun _ h => (nomatch h), fun _ => .inr ⟨a, b, rfl⟩⟩
theorem laneQueuePush (w : Word) : Statement (.laneQueuePush w) := ⟨fun _ h => (nomatch h), fun h => (nomatch h)⟩
theorem awaitedCondition : Statement (.awaitedCondition) := ⟨fun _ h => (nomatch h), fun h => (nomatch h)⟩
theorem pendingPush : Statement (.pendingPush) := ⟨fun _ h => (nomatch h), fun h => (nomatch h)⟩
theorem loadDataArrival (r : SReg) : Statement (.loadDataArrival r) := ⟨fun _ h => (nomatch h), fun h => (nomatch h)⟩
theorem elementReturn (n : Nat) : Statement (.elementReturn n) := ⟨fun _ h => (nomatch h), fun h => (nomatch h)⟩
theorem homeSliceAccess (n : Nat) : Statement (.homeSliceAccess n) := ⟨fun _ h => (nomatch h), fun h => (nomatch h)⟩
theorem streamDeadlock : Statement (.streamDeadlock) := ⟨fun _ h => (nomatch h), fun h => (nomatch h)⟩
theorem faultRecordWrite : Statement (.faultRecordWrite) := ⟨fun _ h => (nomatch h), fun h => (nomatch h)⟩
theorem copyChunkDone (id : Nat) (chunk : Nat) : Statement (.copyChunkDone id chunk) :=
  ⟨fun _ h => (nomatch h), fun h => (nomatch h)⟩
theorem copyComplete (id : Nat) : Statement (.copyComplete id) := ⟨fun _ h => (nomatch h), fun h => (nomatch h)⟩
theorem streamFetchAhead (z : ZReg) : Statement (.streamFetchAhead z) :=
  ⟨fun _ h => (nomatch h), fun h => (nomatch h)⟩
theorem accumulateRequest (id : Nat) : Statement (.accumulateRequest id) :=
  ⟨fun _ h => (nomatch h), fun h => (nomatch h)⟩
theorem accumulatePerform (id : Nat) : Statement (.accumulatePerform id) :=
  ⟨fun _ h => (nomatch h), fun h => (nomatch h)⟩
theorem acceptedReply (id : Nat) : Statement (.acceptedReply id) := ⟨fun _ h => (nomatch h), fun h => (nomatch h)⟩
theorem refusalReply (id : Nat) : Statement (.refusalReply id) := ⟨fun _ h => (nomatch h), fun h => (nomatch h)⟩
theorem fabricRequestReceive (ch : Nat) (seq : Nat) : Statement (.fabricRequestReceive ch seq) :=
  ⟨fun _ h => (nomatch h), fun h => (nomatch h)⟩
theorem fabricAck (ch : Nat) : Statement (.fabricAck ch) := ⟨fun _ h => (nomatch h), fun h => (nomatch h)⟩
theorem nakBackoffExpire (ch : Nat) : Statement (.nakBackoffExpire ch) :=
  ⟨fun _ h => (nomatch h), fun h => (nomatch h)⟩
theorem replyTimeoutResend (ch : Nat) : Statement (.replyTimeoutResend ch) :=
  ⟨fun _ h => (nomatch h), fun h => (nomatch h)⟩
theorem tcWatch : Statement (.tcWatch) := ⟨fun _ h => (nomatch h), fun h => (nomatch h)⟩
theorem stepEnd : Statement (.stepEnd) := ⟨fun _ h => (nomatch h), fun h => (nomatch h)⟩
theorem threadControlWrite (site : Nat) (v : Word) : Statement (.threadControlWrite site v) :=
  ⟨fun _ h => (nomatch h), fun h => (nomatch h)⟩
theorem debugBlockRead (die : Nat) (cluster : Nat) (off : Nat) : Statement (.debugBlockRead die cluster off) :=
  ⟨fun _ h => (nomatch h), fun h => (nomatch h)⟩
theorem registerWrite (off : Nat) (v : Word) (trusted : Bool) : Statement (.registerWrite off v trusted) :=
  ⟨fun _ h => (nomatch h), fun h => (nomatch h)⟩
theorem doorbell (q : Nat) (off : Nat) (size : Nat) (v : Word) : Statement (.doorbell q off size v) :=
  ⟨fun _ h => (nomatch h), fun h => (nomatch h)⟩
theorem hostRequest (r : HostReq) : Statement (.hostRequest r) := ⟨fun _ h => (nomatch h), fun h => (nomatch h)⟩
theorem peerRequest (port : Fin 4) (r : PeerReq) : Statement (.peerRequest port r) :=
  ⟨fun _ h => (nomatch h), fun h => (nomatch h)⟩
theorem selection : Statement (.selection) := ⟨fun _ h => (nomatch h), fun h => (nomatch h)⟩
theorem waitEventReread (src : Nat) : Statement (.waitEventReread src) :=
  ⟨fun _ h => (nomatch h), fun h => (nomatch h)⟩
theorem groupPlacement (die : Nat) : Statement (.groupPlacement die) := ⟨fun _ h => (nomatch h), fun h => (nomatch h)⟩
theorem launchCompletion (id : Nat) : Statement (.launchCompletion id) :=
  ⟨fun _ h => (nomatch h), fun h => (nomatch h)⟩
theorem save : Statement (.save) := ⟨fun _ h => (nomatch h), fun h => (nomatch h)⟩
theorem resumePlacement (task : Nat) : Statement (.resumePlacement task) :=
  ⟨fun _ h => (nomatch h), fun h => (nomatch h)⟩
theorem quadRetirement (unit : Nat) (quad : Nat) : Statement (.quadRetirement unit quad) :=
  ⟨fun _ h => (nomatch h), fun h => (nomatch h)⟩
theorem mailboxCompletion : Statement (.mailboxCompletion) := ⟨fun _ h => (nomatch h), fun h => (nomatch h)⟩
theorem reservedEncoding (w : Word) : Statement (.reservedEncoding w) :=
  ⟨fun _ h => (nomatch h), fun h => (nomatch h)⟩
theorem dataError (l : ErrLoc) : Statement (.dataError l) := ⟨fun _ h => (nomatch h), fun h => (nomatch h)⟩
theorem thermalTrip (temp : Nat) : Statement (.thermalTrip temp) := ⟨fun _ h => (nomatch h), fun h => (nomatch h)⟩
theorem sealRequest (ctx : Nat) : Statement (.sealRequest ctx) := ⟨fun _ h => (nomatch h), fun h => (nomatch h)⟩
theorem batchClose (ctx : Nat) : Statement (.batchClose ctx) := ⟨fun _ h => (nomatch h), fun h => (nomatch h)⟩
theorem scrubRead (home : Nat) : Statement (.scrubRead home) := ⟨fun _ h => (nomatch h), fun h => (nomatch h)⟩
theorem qcfg : Statement (.qcfg) := ⟨fun _ h => (nomatch h), fun h => (nomatch h)⟩
theorem qenable : Statement (.qenable) := ⟨fun _ h => (nomatch h), fun h => (nomatch h)⟩
theorem qdisable : Statement (.qdisable) := ⟨fun _ h => (nomatch h), fun h => (nomatch h)⟩
theorem qprio : Statement (.qprio) := ⟨fun _ h => (nomatch h), fun h => (nomatch h)⟩
theorem qreset : Statement (.qreset) := ⟨fun _ h => (nomatch h), fun h => (nomatch h)⟩
theorem setage : Statement (.setage) := ⟨fun _ h => (nomatch h), fun h => (nomatch h)⟩
theorem ctxset : Statement (.ctxset) := ⟨fun _ h => (nomatch h), fun h => (nomatch h)⟩
theorem ctxmod : Statement (.ctxmod) := ⟨fun _ h => (nomatch h), fun h => (nomatch h)⟩
theorem ctxfree : Statement (.ctxfree) := ⟨fun _ h => (nomatch h), fun h => (nomatch h)⟩
theorem tlbinv : Statement (.tlbinv) := ⟨fun _ h => (nomatch h), fun h => (nomatch h)⟩
theorem fqcfg : Statement (.fqcfg) := ⟨fun _ h => (nomatch h), fun h => (nomatch h)⟩
theorem replay : Statement (.replay) := ⟨fun _ h => (nomatch h), fun h => (nomatch h)⟩
theorem preempt : Statement (.preempt) := ⟨fun _ h => (nomatch h), fun h => (nomatch h)⟩
theorem resume : Statement (.resume) := ⟨fun _ h => (nomatch h), fun h => (nomatch h)⟩
theorem inventory : Statement (.inventory) := ⟨fun _ h => (nomatch h), fun h => (nomatch h)⟩
theorem pset : Statement (.pset) := ⟨fun _ h => (nomatch h), fun h => (nomatch h)⟩
theorem tripclr : Statement (.tripclr) := ⟨fun _ h => (nomatch h), fun h => (nomatch h)⟩
theorem idinfo : Statement (.idinfo) := ⟨fun _ h => (nomatch h), fun h => (nomatch h)⟩
theorem attest : Statement (.attest) := ⟨fun _ h => (nomatch h), fun h => (nomatch h)⟩
theorem ccmap : Statement (.ccmap) := ⟨fun _ h => (nomatch h), fun h => (nomatch h)⟩
theorem dbgunlock : Statement (.dbgunlock) := ⟨fun _ h => (nomatch h), fun h => (nomatch h)⟩
theorem sealcfg : Statement (.sealcfg) := ⟨fun _ h => (nomatch h), fun h => (nomatch h)⟩
theorem sealflush : Statement (.sealflush) := ⟨fun _ h => (nomatch h), fun h => (nomatch h)⟩
theorem errcnt : Statement (.errcnt) := ⟨fun _ h => (nomatch h), fun h => (nomatch h)⟩
theorem scrubcfg : Statement (.scrubcfg) := ⟨fun _ h => (nomatch h), fun h => (nomatch h)⟩
theorem qretire : Statement (.qretire) := ⟨fun _ h => (nomatch h), fun h => (nomatch h)⟩
theorem telem : Statement (.telem) := ⟨fun _ h => (nomatch h), fun h => (nomatch h)⟩
theorem partset : Statement (.partset) := ⟨fun _ h => (nomatch h), fun h => (nomatch h)⟩
theorem fwstage : Statement (.fwstage) := ⟨fun _ h => (nomatch h), fun h => (nomatch h)⟩
theorem fwfloor : Statement (.fwfloor) := ⟨fun _ h => (nomatch h), fun h => (nomatch h)⟩
theorem powerOn : Statement (.powerOn) := ⟨fun _ h => (nomatch h), fun h => (nomatch h)⟩
theorem perst : Statement (.perst) := ⟨fun _ h => (nomatch h), fun h => (nomatch h)⟩
theorem tdispStop : Statement (.tdispStop) := ⟨fun _ h => (nomatch h), fun h => (nomatch h)⟩
theorem ideStreamLoss : Statement (.ideStreamLoss) := ⟨fun _ h => (nomatch h), fun h => (nomatch h)⟩
theorem packagePowerRemoved : Statement (.packagePowerRemoved) := ⟨fun _ h => (nomatch h), fun h => (nomatch h)⟩
theorem ideKmKeyProgramming : Statement (.ideKmKeyProgramming) := ⟨fun _ h => (nomatch h), fun h => (nomatch h)⟩
theorem tdiEntersRun : Statement (.tdiEntersRun) := ⟨fun _ h => (nomatch h), fun h => (nomatch h)⟩

end Sys2Proof.Laws.HasWord
end

