-- ==== Sys2Proof/Laws/State.lean ====
section
/-! SUPPORT. One lemma for each field and each update of the state (rfl), so that no later proof unfolds a record
update: the parts of the thread in focus, scalar registers, program counter, blocking. -/

namespace Sys2Proof.Machine

variable (s : State)

/-! mapT -/

@[simp] theorem State.mapT_others (f : Thread → Thread) : (s.mapT f).others = s.others := rfl
@[simp] theorem State.mapT_saved (f : Thread → Thread) : (s.mapT f).saved = s.saved := rfl
@[simp] theorem State.mapT_mem (f : Thread → Thread) : (s.mapT f).mem = s.mem := rfl
@[simp] theorem State.mapT_cols (f : Thread → Thread) : (s.mapT f).cols = s.cols := rfl
@[simp] theorem State.mapT_accs (f : Thread → Thread) : (s.mapT f).accs = s.accs := rfl
@[simp] theorem State.mapT_micro (f : Thread → Thread) : (s.mapT f).micro = s.micro := rfl
@[simp] theorem State.mapT_units (f : Thread → Thread) : (s.mapT f).units = s.units := rfl
@[simp] theorem State.mapT_clusters (f : Thread → Thread) : (s.mapT f).clusters = s.clusters := rfl
@[simp] theorem State.mapT_tlb (f : Thread → Thread) : (s.mapT f).tlb = s.tlb := rfl
@[simp] theorem State.mapT_away (f : Thread → Thread) : (s.mapT f).away = s.away := rfl
@[simp] theorem State.mapT_touched (f : Thread → Thread) : (s.mapT f).touched = s.touched := rfl
@[simp] theorem State.mapT_reads (f : Thread → Thread) : (s.mapT f).reads = s.reads := rfl
@[simp] theorem State.mapT_displaced (f : Thread → Thread) : (s.mapT f).displaced = s.displaced := rfl
@[simp] theorem State.mapT_stale (f : Thread → Thread) : (s.mapT f).stale = s.stale := rfl
@[simp] theorem State.mapT_waits (f : Thread → Thread) : (s.mapT f).waits = s.waits := rfl
@[simp] theorem State.mapT_copies (f : Thread → Thread) : (s.mapT f).copies = s.copies := rfl
@[simp] theorem State.mapT_reqs (f : Thread → Thread) : (s.mapT f).reqs = s.reqs := rfl
@[simp] theorem State.mapT_chans (f : Thread → Thread) : (s.mapT f).chans = s.chans := rfl
@[simp] theorem State.mapT_ctxs (f : Thread → Thread) : (s.mapT f).ctxs = s.ctxs := rfl
@[simp] theorem State.mapT_sched (f : Thread → Thread) : (s.mapT f).sched = s.sched := rfl
@[simp] theorem State.mapT_host (f : Thread → Thread) : (s.mapT f).host = s.host := rfl
@[simp] theorem State.mapT_power (f : Thread → Thread) : (s.mapT f).power = s.power := rfl
@[simp] theorem State.mapT_sec (f : Thread → Thread) : (s.mapT f).sec = s.sec := rfl
@[simp] theorem State.mapT_fleet (f : Thread → Thread) : (s.mapT f).fleet = s.fleet := rfl
@[simp] theorem State.mapT_gts (f : Thread → Thread) : (s.mapT f).gts = s.gts := rfl
@[simp] theorem State.mapT_fresh (f : Thread → Thread) : (s.mapT f).fresh = s.fresh := rfl
@[simp] theorem State.mapT_inputs (f : Thread → Thread) : (s.mapT f).inputs = s.inputs := rfl
@[simp] theorem State.mapT_t (f : Thread → Thread) : (s.mapT f).t = f s.t := rfl

/-! mapC -/

@[simp] theorem State.mapC_others (f : Ctrl → Ctrl) : (s.mapC f).others = s.others := rfl
@[simp] theorem State.mapC_saved (f : Ctrl → Ctrl) : (s.mapC f).saved = s.saved := rfl
@[simp] theorem State.mapC_mem (f : Ctrl → Ctrl) : (s.mapC f).mem = s.mem := rfl
@[simp] theorem State.mapC_cols (f : Ctrl → Ctrl) : (s.mapC f).cols = s.cols := rfl
@[simp] theorem State.mapC_accs (f : Ctrl → Ctrl) : (s.mapC f).accs = s.accs := rfl
@[simp] theorem State.mapC_micro (f : Ctrl → Ctrl) : (s.mapC f).micro = s.micro := rfl
@[simp] theorem State.mapC_units (f : Ctrl → Ctrl) : (s.mapC f).units = s.units := rfl
@[simp] theorem State.mapC_clusters (f : Ctrl → Ctrl) : (s.mapC f).clusters = s.clusters := rfl
@[simp] theorem State.mapC_tlb (f : Ctrl → Ctrl) : (s.mapC f).tlb = s.tlb := rfl
@[simp] theorem State.mapC_away (f : Ctrl → Ctrl) : (s.mapC f).away = s.away := rfl
@[simp] theorem State.mapC_touched (f : Ctrl → Ctrl) : (s.mapC f).touched = s.touched := rfl
@[simp] theorem State.mapC_reads (f : Ctrl → Ctrl) : (s.mapC f).reads = s.reads := rfl
@[simp] theorem State.mapC_displaced (f : Ctrl → Ctrl) : (s.mapC f).displaced = s.displaced := rfl
@[simp] theorem State.mapC_stale (f : Ctrl → Ctrl) : (s.mapC f).stale = s.stale := rfl
@[simp] theorem State.mapC_waits (f : Ctrl → Ctrl) : (s.mapC f).waits = s.waits := rfl
@[simp] theorem State.mapC_copies (f : Ctrl → Ctrl) : (s.mapC f).copies = s.copies := rfl
@[simp] theorem State.mapC_reqs (f : Ctrl → Ctrl) : (s.mapC f).reqs = s.reqs := rfl
@[simp] theorem State.mapC_chans (f : Ctrl → Ctrl) : (s.mapC f).chans = s.chans := rfl
@[simp] theorem State.mapC_ctxs (f : Ctrl → Ctrl) : (s.mapC f).ctxs = s.ctxs := rfl
@[simp] theorem State.mapC_sched (f : Ctrl → Ctrl) : (s.mapC f).sched = s.sched := rfl
@[simp] theorem State.mapC_host (f : Ctrl → Ctrl) : (s.mapC f).host = s.host := rfl
@[simp] theorem State.mapC_power (f : Ctrl → Ctrl) : (s.mapC f).power = s.power := rfl
@[simp] theorem State.mapC_sec (f : Ctrl → Ctrl) : (s.mapC f).sec = s.sec := rfl
@[simp] theorem State.mapC_fleet (f : Ctrl → Ctrl) : (s.mapC f).fleet = s.fleet := rfl
@[simp] theorem State.mapC_gts (f : Ctrl → Ctrl) : (s.mapC f).gts = s.gts := rfl
@[simp] theorem State.mapC_fresh (f : Ctrl → Ctrl) : (s.mapC f).fresh = s.fresh := rfl
@[simp] theorem State.mapC_inputs (f : Ctrl → Ctrl) : (s.mapC f).inputs = s.inputs := rfl
@[simp] theorem State.mapC_site (f : Ctrl → Ctrl) : (s.mapC f).t.site = s.t.site := rfl
@[simp] theorem State.mapC_status (f : Ctrl → Ctrl) : (s.mapC f).t.status = s.t.status := rfl
@[simp] theorem State.mapC_preempt (f : Ctrl → Ctrl) : (s.mapC f).t.preempt = s.t.preempt := rfl
@[simp] theorem State.mapC_task (f : Ctrl → Ctrl) : (s.mapC f).t.task = s.t.task := rfl
@[simp] theorem State.mapC_alloc (f : Ctrl → Ctrl) : (s.mapC f).t.alloc = s.t.alloc := rfl
@[simp] theorem State.mapC_c (f : Ctrl → Ctrl) : (s.mapC f).t.c = f s.t.c := rfl
@[simp] theorem State.mapC_q (f : Ctrl → Ctrl) : (s.mapC f).t.q = s.t.q := rfl
@[simp] theorem State.mapC_l (f : Ctrl → Ctrl) : (s.mapC f).t.l = s.t.l := rfl
@[simp] theorem State.mapC_r (f : Ctrl → Ctrl) : (s.mapC f).t.r = s.t.r := rfl
@[simp] theorem State.mapC_dbg (f : Ctrl → Ctrl) : (s.mapC f).t.dbg = s.t.dbg := rfl

/-! mapQ -/

@[simp] theorem State.mapQ_others (f : Queues → Queues) : (s.mapQ f).others = s.others := rfl
@[simp] theorem State.mapQ_saved (f : Queues → Queues) : (s.mapQ f).saved = s.saved := rfl
@[simp] theorem State.mapQ_mem (f : Queues → Queues) : (s.mapQ f).mem = s.mem := rfl
@[simp] theorem State.mapQ_cols (f : Queues → Queues) : (s.mapQ f).cols = s.cols := rfl
@[simp] theorem State.mapQ_accs (f : Queues → Queues) : (s.mapQ f).accs = s.accs := rfl
@[simp] theorem State.mapQ_micro (f : Queues → Queues) : (s.mapQ f).micro = s.micro := rfl
@[simp] theorem State.mapQ_units (f : Queues → Queues) : (s.mapQ f).units = s.units := rfl
@[simp] theorem State.mapQ_clusters (f : Queues → Queues) : (s.mapQ f).clusters = s.clusters := rfl
@[simp] theorem State.mapQ_tlb (f : Queues → Queues) : (s.mapQ f).tlb = s.tlb := rfl
@[simp] theorem State.mapQ_away (f : Queues → Queues) : (s.mapQ f).away = s.away := rfl
@[simp] theorem State.mapQ_touched (f : Queues → Queues) : (s.mapQ f).touched = s.touched := rfl
@[simp] theorem State.mapQ_reads (f : Queues → Queues) : (s.mapQ f).reads = s.reads := rfl
@[simp] theorem State.mapQ_displaced (f : Queues → Queues) : (s.mapQ f).displaced = s.displaced := rfl
@[simp] theorem State.mapQ_stale (f : Queues → Queues) : (s.mapQ f).stale = s.stale := rfl
@[simp] theorem State.mapQ_waits (f : Queues → Queues) : (s.mapQ f).waits = s.waits := rfl
@[simp] theorem State.mapQ_copies (f : Queues → Queues) : (s.mapQ f).copies = s.copies := rfl
@[simp] theorem State.mapQ_reqs (f : Queues → Queues) : (s.mapQ f).reqs = s.reqs := rfl
@[simp] theorem State.mapQ_chans (f : Queues → Queues) : (s.mapQ f).chans = s.chans := rfl
@[simp] theorem State.mapQ_ctxs (f : Queues → Queues) : (s.mapQ f).ctxs = s.ctxs := rfl
@[simp] theorem State.mapQ_sched (f : Queues → Queues) : (s.mapQ f).sched = s.sched := rfl
@[simp] theorem State.mapQ_host (f : Queues → Queues) : (s.mapQ f).host = s.host := rfl
@[simp] theorem State.mapQ_power (f : Queues → Queues) : (s.mapQ f).power = s.power := rfl
@[simp] theorem State.mapQ_sec (f : Queues → Queues) : (s.mapQ f).sec = s.sec := rfl
@[simp] theorem State.mapQ_fleet (f : Queues → Queues) : (s.mapQ f).fleet = s.fleet := rfl
@[simp] theorem State.mapQ_gts (f : Queues → Queues) : (s.mapQ f).gts = s.gts := rfl
@[simp] theorem State.mapQ_fresh (f : Queues → Queues) : (s.mapQ f).fresh = s.fresh := rfl
@[simp] theorem State.mapQ_inputs (f : Queues → Queues) : (s.mapQ f).inputs = s.inputs := rfl
@[simp] theorem State.mapQ_site (f : Queues → Queues) : (s.mapQ f).t.site = s.t.site := rfl
@[simp] theorem State.mapQ_status (f : Queues → Queues) : (s.mapQ f).t.status = s.t.status := rfl
@[simp] theorem State.mapQ_preempt (f : Queues → Queues) : (s.mapQ f).t.preempt = s.t.preempt := rfl
@[simp] theorem State.mapQ_task (f : Queues → Queues) : (s.mapQ f).t.task = s.t.task := rfl
@[simp] theorem State.mapQ_alloc (f : Queues → Queues) : (s.mapQ f).t.alloc = s.t.alloc := rfl
@[simp] theorem State.mapQ_c (f : Queues → Queues) : (s.mapQ f).t.c = s.t.c := rfl
@[simp] theorem State.mapQ_q (f : Queues → Queues) : (s.mapQ f).t.q = f s.t.q := rfl
@[simp] theorem State.mapQ_l (f : Queues → Queues) : (s.mapQ f).t.l = s.t.l := rfl
@[simp] theorem State.mapQ_r (f : Queues → Queues) : (s.mapQ f).t.r = s.t.r := rfl
@[simp] theorem State.mapQ_dbg (f : Queues → Queues) : (s.mapQ f).t.dbg = s.t.dbg := rfl

/-! mapL -/

@[simp] theorem State.mapL_others (f : Lane → Lane) : (s.mapL f).others = s.others := rfl
@[simp] theorem State.mapL_saved (f : Lane → Lane) : (s.mapL f).saved = s.saved := rfl
@[simp] theorem State.mapL_mem (f : Lane → Lane) : (s.mapL f).mem = s.mem := rfl
@[simp] theorem State.mapL_cols (f : Lane → Lane) : (s.mapL f).cols = s.cols := rfl
@[simp] theorem State.mapL_accs (f : Lane → Lane) : (s.mapL f).accs = s.accs := rfl
@[simp] theorem State.mapL_micro (f : Lane → Lane) : (s.mapL f).micro = s.micro := rfl
@[simp] theorem State.mapL_units (f : Lane → Lane) : (s.mapL f).units = s.units := rfl
@[simp] theorem State.mapL_clusters (f : Lane → Lane) : (s.mapL f).clusters = s.clusters := rfl
@[simp] theorem State.mapL_tlb (f : Lane → Lane) : (s.mapL f).tlb = s.tlb := rfl
@[simp] theorem State.mapL_away (f : Lane → Lane) : (s.mapL f).away = s.away := rfl
@[simp] theorem State.mapL_touched (f : Lane → Lane) : (s.mapL f).touched = s.touched := rfl
@[simp] theorem State.mapL_reads (f : Lane → Lane) : (s.mapL f).reads = s.reads := rfl
@[simp] theorem State.mapL_displaced (f : Lane → Lane) : (s.mapL f).displaced = s.displaced := rfl
@[simp] theorem State.mapL_stale (f : Lane → Lane) : (s.mapL f).stale = s.stale := rfl
@[simp] theorem State.mapL_waits (f : Lane → Lane) : (s.mapL f).waits = s.waits := rfl
@[simp] theorem State.mapL_copies (f : Lane → Lane) : (s.mapL f).copies = s.copies := rfl
@[simp] theorem State.mapL_reqs (f : Lane → Lane) : (s.mapL f).reqs = s.reqs := rfl
@[simp] theorem State.mapL_chans (f : Lane → Lane) : (s.mapL f).chans = s.chans := rfl
@[simp] theorem State.mapL_ctxs (f : Lane → Lane) : (s.mapL f).ctxs = s.ctxs := rfl
@[simp] theorem State.mapL_sched (f : Lane → Lane) : (s.mapL f).sched = s.sched := rfl
@[simp] theorem State.mapL_host (f : Lane → Lane) : (s.mapL f).host = s.host := rfl
@[simp] theorem State.mapL_power (f : Lane → Lane) : (s.mapL f).power = s.power := rfl
@[simp] theorem State.mapL_sec (f : Lane → Lane) : (s.mapL f).sec = s.sec := rfl
@[simp] theorem State.mapL_fleet (f : Lane → Lane) : (s.mapL f).fleet = s.fleet := rfl
@[simp] theorem State.mapL_gts (f : Lane → Lane) : (s.mapL f).gts = s.gts := rfl
@[simp] theorem State.mapL_fresh (f : Lane → Lane) : (s.mapL f).fresh = s.fresh := rfl
@[simp] theorem State.mapL_inputs (f : Lane → Lane) : (s.mapL f).inputs = s.inputs := rfl
@[simp] theorem State.mapL_site (f : Lane → Lane) : (s.mapL f).t.site = s.t.site := rfl
@[simp] theorem State.mapL_status (f : Lane → Lane) : (s.mapL f).t.status = s.t.status := rfl
@[simp] theorem State.mapL_preempt (f : Lane → Lane) : (s.mapL f).t.preempt = s.t.preempt := rfl
@[simp] theorem State.mapL_task (f : Lane → Lane) : (s.mapL f).t.task = s.t.task := rfl
@[simp] theorem State.mapL_alloc (f : Lane → Lane) : (s.mapL f).t.alloc = s.t.alloc := rfl
@[simp] theorem State.mapL_c (f : Lane → Lane) : (s.mapL f).t.c = s.t.c := rfl
@[simp] theorem State.mapL_q (f : Lane → Lane) : (s.mapL f).t.q = s.t.q := rfl
@[simp] theorem State.mapL_l (f : Lane → Lane) : (s.mapL f).t.l = f s.t.l := rfl
@[simp] theorem State.mapL_r (f : Lane → Lane) : (s.mapL f).t.r = s.t.r := rfl
@[simp] theorem State.mapL_dbg (f : Lane → Lane) : (s.mapL f).t.dbg = s.t.dbg := rfl

/-! mapR -/

@[simp] theorem State.mapR_others (f : Resid → Resid) : (s.mapR f).others = s.others := rfl
@[simp] theorem State.mapR_saved (f : Resid → Resid) : (s.mapR f).saved = s.saved := rfl
@[simp] theorem State.mapR_mem (f : Resid → Resid) : (s.mapR f).mem = s.mem := rfl
@[simp] theorem State.mapR_cols (f : Resid → Resid) : (s.mapR f).cols = s.cols := rfl
@[simp] theorem State.mapR_accs (f : Resid → Resid) : (s.mapR f).accs = s.accs := rfl
@[simp] theorem State.mapR_micro (f : Resid → Resid) : (s.mapR f).micro = s.micro := rfl
@[simp] theorem State.mapR_units (f : Resid → Resid) : (s.mapR f).units = s.units := rfl
@[simp] theorem State.mapR_clusters (f : Resid → Resid) : (s.mapR f).clusters = s.clusters := rfl
@[simp] theorem State.mapR_tlb (f : Resid → Resid) : (s.mapR f).tlb = s.tlb := rfl
@[simp] theorem State.mapR_away (f : Resid → Resid) : (s.mapR f).away = s.away := rfl
@[simp] theorem State.mapR_touched (f : Resid → Resid) : (s.mapR f).touched = s.touched := rfl
@[simp] theorem State.mapR_reads (f : Resid → Resid) : (s.mapR f).reads = s.reads := rfl
@[simp] theorem State.mapR_displaced (f : Resid → Resid) : (s.mapR f).displaced = s.displaced := rfl
@[simp] theorem State.mapR_stale (f : Resid → Resid) : (s.mapR f).stale = s.stale := rfl
@[simp] theorem State.mapR_waits (f : Resid → Resid) : (s.mapR f).waits = s.waits := rfl
@[simp] theorem State.mapR_copies (f : Resid → Resid) : (s.mapR f).copies = s.copies := rfl
@[simp] theorem State.mapR_reqs (f : Resid → Resid) : (s.mapR f).reqs = s.reqs := rfl
@[simp] theorem State.mapR_chans (f : Resid → Resid) : (s.mapR f).chans = s.chans := rfl
@[simp] theorem State.mapR_ctxs (f : Resid → Resid) : (s.mapR f).ctxs = s.ctxs := rfl
@[simp] theorem State.mapR_sched (f : Resid → Resid) : (s.mapR f).sched = s.sched := rfl
@[simp] theorem State.mapR_host (f : Resid → Resid) : (s.mapR f).host = s.host := rfl
@[simp] theorem State.mapR_power (f : Resid → Resid) : (s.mapR f).power = s.power := rfl
@[simp] theorem State.mapR_sec (f : Resid → Resid) : (s.mapR f).sec = s.sec := rfl
@[simp] theorem State.mapR_fleet (f : Resid → Resid) : (s.mapR f).fleet = s.fleet := rfl
@[simp] theorem State.mapR_gts (f : Resid → Resid) : (s.mapR f).gts = s.gts := rfl
@[simp] theorem State.mapR_fresh (f : Resid → Resid) : (s.mapR f).fresh = s.fresh := rfl
@[simp] theorem State.mapR_inputs (f : Resid → Resid) : (s.mapR f).inputs = s.inputs := rfl
@[simp] theorem State.mapR_site (f : Resid → Resid) : (s.mapR f).t.site = s.t.site := rfl
@[simp] theorem State.mapR_status (f : Resid → Resid) : (s.mapR f).t.status = s.t.status := rfl
@[simp] theorem State.mapR_preempt (f : Resid → Resid) : (s.mapR f).t.preempt = s.t.preempt := rfl
@[simp] theorem State.mapR_task (f : Resid → Resid) : (s.mapR f).t.task = s.t.task := rfl
@[simp] theorem State.mapR_alloc (f : Resid → Resid) : (s.mapR f).t.alloc = s.t.alloc := rfl
@[simp] theorem State.mapR_c (f : Resid → Resid) : (s.mapR f).t.c = s.t.c := rfl
@[simp] theorem State.mapR_q (f : Resid → Resid) : (s.mapR f).t.q = s.t.q := rfl
@[simp] theorem State.mapR_l (f : Resid → Resid) : (s.mapR f).t.l = s.t.l := rfl
@[simp] theorem State.mapR_r (f : Resid → Resid) : (s.mapR f).t.r = f s.t.r := rfl
@[simp] theorem State.mapR_dbg (f : Resid → Resid) : (s.mapR f).t.dbg = s.t.dbg := rfl

/-! mapD -/

@[simp] theorem State.mapD_others (f : Dbg → Dbg) : (s.mapD f).others = s.others := rfl
@[simp] theorem State.mapD_saved (f : Dbg → Dbg) : (s.mapD f).saved = s.saved := rfl
@[simp] theorem State.mapD_mem (f : Dbg → Dbg) : (s.mapD f).mem = s.mem := rfl
@[simp] theorem State.mapD_cols (f : Dbg → Dbg) : (s.mapD f).cols = s.cols := rfl
@[simp] theorem State.mapD_accs (f : Dbg → Dbg) : (s.mapD f).accs = s.accs := rfl
@[simp] theorem State.mapD_micro (f : Dbg → Dbg) : (s.mapD f).micro = s.micro := rfl
@[simp] theorem State.mapD_units (f : Dbg → Dbg) : (s.mapD f).units = s.units := rfl
@[simp] theorem State.mapD_clusters (f : Dbg → Dbg) : (s.mapD f).clusters = s.clusters := rfl
@[simp] theorem State.mapD_tlb (f : Dbg → Dbg) : (s.mapD f).tlb = s.tlb := rfl
@[simp] theorem State.mapD_away (f : Dbg → Dbg) : (s.mapD f).away = s.away := rfl
@[simp] theorem State.mapD_touched (f : Dbg → Dbg) : (s.mapD f).touched = s.touched := rfl
@[simp] theorem State.mapD_reads (f : Dbg → Dbg) : (s.mapD f).reads = s.reads := rfl
@[simp] theorem State.mapD_displaced (f : Dbg → Dbg) : (s.mapD f).displaced = s.displaced := rfl
@[simp] theorem State.mapD_stale (f : Dbg → Dbg) : (s.mapD f).stale = s.stale := rfl
@[simp] theorem State.mapD_waits (f : Dbg → Dbg) : (s.mapD f).waits = s.waits := rfl
@[simp] theorem State.mapD_copies (f : Dbg → Dbg) : (s.mapD f).copies = s.copies := rfl
@[simp] theorem State.mapD_reqs (f : Dbg → Dbg) : (s.mapD f).reqs = s.reqs := rfl
@[simp] theorem State.mapD_chans (f : Dbg → Dbg) : (s.mapD f).chans = s.chans := rfl
@[simp] theorem State.mapD_ctxs (f : Dbg → Dbg) : (s.mapD f).ctxs = s.ctxs := rfl
@[simp] theorem State.mapD_sched (f : Dbg → Dbg) : (s.mapD f).sched = s.sched := rfl
@[simp] theorem State.mapD_host (f : Dbg → Dbg) : (s.mapD f).host = s.host := rfl
@[simp] theorem State.mapD_power (f : Dbg → Dbg) : (s.mapD f).power = s.power := rfl
@[simp] theorem State.mapD_sec (f : Dbg → Dbg) : (s.mapD f).sec = s.sec := rfl
@[simp] theorem State.mapD_fleet (f : Dbg → Dbg) : (s.mapD f).fleet = s.fleet := rfl
@[simp] theorem State.mapD_gts (f : Dbg → Dbg) : (s.mapD f).gts = s.gts := rfl
@[simp] theorem State.mapD_fresh (f : Dbg → Dbg) : (s.mapD f).fresh = s.fresh := rfl
@[simp] theorem State.mapD_inputs (f : Dbg → Dbg) : (s.mapD f).inputs = s.inputs := rfl
@[simp] theorem State.mapD_site (f : Dbg → Dbg) : (s.mapD f).t.site = s.t.site := rfl
@[simp] theorem State.mapD_status (f : Dbg → Dbg) : (s.mapD f).t.status = s.t.status := rfl
@[simp] theorem State.mapD_preempt (f : Dbg → Dbg) : (s.mapD f).t.preempt = s.t.preempt := rfl
@[simp] theorem State.mapD_task (f : Dbg → Dbg) : (s.mapD f).t.task = s.t.task := rfl
@[simp] theorem State.mapD_alloc (f : Dbg → Dbg) : (s.mapD f).t.alloc = s.t.alloc := rfl
@[simp] theorem State.mapD_c (f : Dbg → Dbg) : (s.mapD f).t.c = s.t.c := rfl
@[simp] theorem State.mapD_q (f : Dbg → Dbg) : (s.mapD f).t.q = s.t.q := rfl
@[simp] theorem State.mapD_l (f : Dbg → Dbg) : (s.mapD f).t.l = s.t.l := rfl
@[simp] theorem State.mapD_r (f : Dbg → Dbg) : (s.mapD f).t.r = s.t.r := rfl
@[simp] theorem State.mapD_dbg (f : Dbg → Dbg) : (s.mapD f).t.dbg = f s.t.dbg := rfl

/-! ### Time: tick changes the time, the lane-cycle records and the free values used, and nothing else -/

theorem State.tick_ind (P : State → Prop) (s : State)
    (h : ∀ (g n : Nat) (x : Thread) (l : List Thread), (x = s.t ∨ ∃ k, x = s.t.waitCycles k) →
      (l = s.others ∨ ∃ k, l = waitAll s.others k) → P { s with gts := g, fresh := n, t := x, others := l }) : P s.tick := by
  unfold State.tick State.free
  dsimp only
  split
  · exact h _ _ _ _ (.inl rfl) (.inl rfl)
  · exact h _ _ _ _ (.inr ⟨_, rfl⟩) (.inr ⟨_, rfl⟩)

@[simp] theorem State.tick_saved (s : State) : s.tick.saved = s.saved := s.tick_ind (·.saved = s.saved) (fun _ _ _ _ _ _ => rfl)
@[simp] theorem State.tick_mem (s : State) : s.tick.mem = s.mem := s.tick_ind (·.mem = s.mem) (fun _ _ _ _ _ _ => rfl)
@[simp] theorem State.tick_cols (s : State) : s.tick.cols = s.cols := s.tick_ind (·.cols = s.cols) (fun _ _ _ _ _ _ => rfl)
@[simp] theorem State.tick_accs (s : State) : s.tick.accs = s.accs := s.tick_ind (·.accs = s.accs) (fun _ _ _ _ _ _ => rfl)
@[simp] theorem State.tick_micro (s : State) : s.tick.micro = s.micro := s.tick_ind (·.micro = s.micro) (fun _ _ _ _ _ _ => rfl)
@[simp] theorem State.tick_units (s : State) : s.tick.units = s.units := s.tick_ind (·.units = s.units) (fun _ _ _ _ _ _ => rfl)
@[simp] theorem State.tick_clusters (s : State) : s.tick.clusters = s.clusters := s.tick_ind (·.clusters = s.clusters) (fun _ _ _ _ _ _ => rfl)
@[simp] theorem State.tick_tlb (s : State) : s.tick.tlb = s.tlb := s.tick_ind (·.tlb = s.tlb) (fun _ _ _ _ _ _ => rfl)
@[simp] theorem State.tick_away (s : State) : s.tick.away = s.away := s.tick_ind (·.away = s.away) (fun _ _ _ _ _ _ => rfl)
@[simp] theorem State.tick_touched (s : State) : s.tick.touched = s.touched := s.tick_ind (·.touched = s.touched) (fun _ _ _ _ _ _ => rfl)
@[simp] theorem State.tick_reads (s : State) : s.tick.reads = s.reads := s.tick_ind (·.reads = s.reads) (fun _ _ _ _ _ _ => rfl)
@[simp] theorem State.tick_displaced (s : State) : s.tick.displaced = s.displaced := s.tick_ind (·.displaced = s.displaced) (fun _ _ _ _ _ _ => rfl)
@[simp] theorem State.tick_stale (s : State) : s.tick.stale = s.stale := s.tick_ind (·.stale = s.stale) (fun _ _ _ _ _ _ => rfl)
@[simp] theorem State.tick_waits (s : State) : s.tick.waits = s.waits := s.tick_ind (·.waits = s.waits) (fun _ _ _ _ _ _ => rfl)
@[simp] theorem State.tick_copies (s : State) : s.tick.copies = s.copies := s.tick_ind (·.copies = s.copies) (fun _ _ _ _ _ _ => rfl)
@[simp] theorem State.tick_reqs (s : State) : s.tick.reqs = s.reqs := s.tick_ind (·.reqs = s.reqs) (fun _ _ _ _ _ _ => rfl)
@[simp] theorem State.tick_chans (s : State) : s.tick.chans = s.chans := s.tick_ind (·.chans = s.chans) (fun _ _ _ _ _ _ => rfl)
@[simp] theorem State.tick_ctxs (s : State) : s.tick.ctxs = s.ctxs := s.tick_ind (·.ctxs = s.ctxs) (fun _ _ _ _ _ _ => rfl)
@[simp] theorem State.tick_sched (s : State) : s.tick.sched = s.sched := s.tick_ind (·.sched = s.sched) (fun _ _ _ _ _ _ => rfl)
@[simp] theorem State.tick_host (s : State) : s.tick.host = s.host := s.tick_ind (·.host = s.host) (fun _ _ _ _ _ _ => rfl)
@[simp] theorem State.tick_power (s : State) : s.tick.power = s.power := s.tick_ind (·.power = s.power) (fun _ _ _ _ _ _ => rfl)
@[simp] theorem State.tick_sec (s : State) : s.tick.sec = s.sec := s.tick_ind (·.sec = s.sec) (fun _ _ _ _ _ _ => rfl)
@[simp] theorem State.tick_fleet (s : State) : s.tick.fleet = s.fleet := s.tick_ind (·.fleet = s.fleet) (fun _ _ _ _ _ _ => rfl)
@[simp] theorem State.tick_inputs (s : State) : s.tick.inputs = s.inputs := s.tick_ind (·.inputs = s.inputs) (fun _ _ _ _ _ _ => rfl)

@[simp] theorem Thread.waitCycles_site (t : Thread) (n : Nat) : (t.waitCycles n).site = t.site := by
  unfold Thread.waitCycles; split <;> rfl
@[simp] theorem Thread.waitCycles_status (t : Thread) (n : Nat) : (t.waitCycles n).status = t.status := by
  unfold Thread.waitCycles; split <;> rfl
@[simp] theorem Thread.waitCycles_preempt (t : Thread) (n : Nat) : (t.waitCycles n).preempt = t.preempt := by
  unfold Thread.waitCycles; split <;> rfl
@[simp] theorem Thread.waitCycles_task (t : Thread) (n : Nat) : (t.waitCycles n).task = t.task := by
  unfold Thread.waitCycles; split <;> rfl
@[simp] theorem Thread.waitCycles_alloc (t : Thread) (n : Nat) : (t.waitCycles n).alloc = t.alloc := by
  unfold Thread.waitCycles; split <;> rfl
@[simp] theorem Thread.waitCycles_c (t : Thread) (n : Nat) : (t.waitCycles n).c = t.c := by
  unfold Thread.waitCycles; split <;> rfl
@[simp] theorem Thread.waitCycles_q (t : Thread) (n : Nat) : (t.waitCycles n).q = t.q := by
  unfold Thread.waitCycles; split <;> rfl
@[simp] theorem Thread.waitCycles_r (t : Thread) (n : Nat) : (t.waitCycles n).r = t.r := by
  unfold Thread.waitCycles; split <;> rfl
@[simp] theorem Thread.waitCycles_dbg (t : Thread) (n : Nat) : (t.waitCycles n).dbg = t.dbg := by
  unfold Thread.waitCycles; split <;> rfl

/-- Only the lane-cycle record of a thread changes. -/
theorem Thread.waitCycles_spec (t : Thread) (n : Nat) :
    ∃ v, t.waitCycles n = { t with l := { t.l with lcr := v } } := by
  unfold Thread.waitCycles; split <;> exact ⟨_, rfl⟩

end Sys2Proof.Machine
end

