-- ==== Sys2Proof/Laws/Scalar.lean ====
section
/-! SUPPORT. What the scalar operations do: registers, tokens, results, branches. -/

namespace Sys2Proof.Machine

variable (s : State)

/-- The token check passes where no register of the list awaits a token. -/
theorem waiting_none {s : State} {rs : List SReg} (h : NoToken s rs) : s.waiting rs = none := by
  simp only [State.waiting, List.find?_eq_none, Bool.and_eq_true, bne_iff_ne, ne_eq, not_and, Bool.not_eq_true]
  exact fun r hr hn => h r hr hn

theorem withRegs_of {s : State} {rs : List SReg} (h : NoToken s rs) (k : State → Res) : s.withRegs rs k = k s := by
  simp [State.withRegs, waiting_none h]

/-- A register read after a write. -/
theorem Ctrl.reg_setReg (c : Ctrl) (d q : SReg) (v : Word) :
    (c.setReg d v).reg q = if q = d then (if d = 0 then 0 else v) else c.reg q := by
  unfold Ctrl.setReg
  by_cases hd : d = 0
  · subst hd
    by_cases hq : q = 0 <;> simp [hq, Ctrl.reg]
  · simp only [hd, if_false]
    by_cases hq : q = d
    · subst hq
      have : (c.loads.filter (fun p => p.1 != q.val)).find? (fun p => p.1 == q.val) = none := by
        simp [List.find?_eq_none]
      simp [Ctrl.reg, hd, this]
    · have hv : q.val ≠ d.val := fun h => hq (Fin.ext h)
      have : (c.loads.filter (fun p => p.1 != d.val)).find? (fun p => p.1 == q.val)
          = c.loads.find? (fun p => p.1 == q.val) := by
        rw [List.find?_filter]
        congr 1; funext p
        by_cases h : p.1 = q.val <;> simp [h, hv]
      simp only [Ctrl.reg, this, hq, if_false]
      by_cases h0 : q = 0
      · simp [h0]
      · simp only [h0, if_false]
        split
        · rfl
        · simp only [Fin.getElem_fin]
          rw [Vector.getElem_set_ne]
          exact fun h => hv h.symm

theorem Ctrl.reg_with_pc (c : Ctrl) (pc : Word) (n : Nat) (q : SReg) :
    ({ c with pc := pc, committed := n } : Ctrl).reg q = c.reg q := rfl

/-- What a result does. -/
theorem writes_result (d : SReg) (v : Word) : Writes s (.next (s.result d v)) d v := by
  refine ⟨_, rfl, fun q => ?_, ?_, rfl, fun a => rfl⟩
  · exact Ctrl.reg_setReg s.t.c d q v
  · by_cases hd : d = 0 <;>
      simp [AtWord, State.result, State.advance, State.setReg, State.mapC, Ctrl.setReg, State.wordAddr, hd]

theorem writes_alu {s : State} {d a : SReg} {b : Src2} (h : NoToken s (d :: a :: src2Regs b)) (f : Word → Word → Word) :
    Writes s (s.alu d a b f) d (f (s.reg a) (s.src2 b)) := by
  rw [State.alu, withRegs_of h]
  exact writes_result ..

/-- What a branch does. -/
theorem branches_branchIf {w : Nat} (c : Bool) (o : BitVec w) :
    Branches s (.next (s.branchIf c o)) c (s.target o) := by
  cases c
  · exact ⟨_, rfl, fun q => rfl, rfl, rfl, fun a => rfl⟩
  · exact ⟨_, rfl, fun q => rfl, rfl, rfl, fun a => rfl⟩

theorem branches_condBranch {s : State} {a b : SReg} (h : NoToken s [a, b]) (o : BitVec 24) (f : Word → Word → Bool) :
    Branches s (s.condBranch a b o f) (f (s.reg a) (s.reg b)) (s.target o) := by
  rw [State.condBranch, withRegs_of h]
  exact branches_branchIf ..

end Sys2Proof.Machine
end

