-- ==== Sys2Proof/Tests/Slice0.lean ====
section
/-! SUPPORT. Tests: ill-formed instructions that WellFormed refuses, words written out from the encoding tables of the
spec, small steps whose results the spec states, and for every obligation with hypotheses a state and operands that
meet them. -/

namespace Sys2Proof.Tests

open Sys2Proof.Machine

/-! ### Ill-formed instructions (R14, R54, R170 to R183, R201, R209, R234, R243, R256, R264, R300, R305) -/

theorem test_wf_guard_of_m0_inverted : (Instr.vnot ⟨0, true⟩ 1 2).wf = false := by decide
theorem test_wf_guardX_inverted : (Instr.vadd ⟨⟨0, true⟩, 0⟩ 1 2 .q0).wf = false := by decide
theorem test_wf_amo_scope_without_order : (Instr.amo .add false .none .die 1 2 3 0).wf = false := by decide
theorem test_wf_amo_c_field : (Instr.amo .add false .none .thread 1 2 3 4).wf = false := by decide
theorem test_wf_cas_needs_c : (Instr.amo .cas false .none .thread 1 2 3 0).wf = false := by decide
theorem test_wf_qpush_out_queue : (Instr.qpush 2 1).wf = false := by decide
theorem test_wf_qpop_in_queue : (Instr.qpop 1 1).wf = false := by decide
theorem test_wf_strip_first_size : (Instr.strip 1 2 8 .none .none .none .none 0).wf = false := by decide
theorem test_wf_strip_gap : (Instr.strip 1 2 8 .b1 .none .b1 .none 0).wf = false := by decide
theorem test_wf_strip_same_registers : (Instr.strip 1 1 8 .b1 .none .none .none 0).wf = false := by decide
theorem test_wf_strip_pointer_is_count : (Instr.strip 8 1 8 .b1 .none .none .none 0).wf = false := by decide
theorem test_wf_strip_pointer_above_s55 : (Instr.strip 1 2 55 .b1 .b1 .none .none 0).wf = false := by decide
theorem test_wf_nest_dims : (Instr.nest 0 6 1).wf = false := by decide
theorem test_wf_nest_registers : (Instr.nest 0 1 55).wf = false := by decide
theorem test_wf_vfcmp_m0 : (Instr.vfcmp ⟨⟨0, false⟩, 0⟩ .eq 0 1 .q0).wf = false := by decide
theorem test_wf_vcmp_m0 : (Instr.vcmp ⟨0, false⟩ .eq 0 1 .q0).wf = false := by decide
theorem test_wf_vcmp_unordered : (Instr.vcmp ⟨0, false⟩ .un 1 1 .q0).wf = false := by decide
theorem test_wf_mand_m0 : (Instr.mand ⟨0, false⟩ 0 1 2).wf = false := by decide
theorem test_wf_reduction_to_q1 : (Instr.vrsum ⟨0, false⟩ (.queue 1) 1).wf = false := by decide
theorem test_wf_vpick_lanes_to_queue : (Instr.vpick ⟨0, false⟩ (.queue 2) 1 (.vec 3)).wf = false := by decide
theorem test_wf_vtab_log : (Instr.vtab ⟨0, false⟩ 1 2 3 11).wf = false ∧ (Instr.vtab ⟨0, false⟩ 1 2 3 0).wf = false := by
  decide
theorem test_wf_vtopk_m0 : (Instr.vtopk ⟨0, false⟩ false 0 1 .q0).wf = false := by decide
theorem test_wf_vmicro_entry : (Instr.vmicro ⟨0, false⟩ 3071 1 2 3).wf = false := by decide
theorem test_wf_tld_past_v31 : (Instr.tld ⟨0, false⟩ 31 1 1 0).wf = false := by decide
theorem test_wf_tst_past_v31 : (Instr.tst ⟨0, false⟩ 1 31 1 0).wf = false := by decide
theorem test_wf_vamo_scope : (Instr.vamo ⟨0, false⟩ .add 0 .none .die 1 2 3 4).wf = false := by decide
theorem test_wf_vred_swap : (Instr.vred ⟨0, false⟩ .swap 0 false .thread 2 3 4).wf = false := by decide
theorem test_wf_zldm_m31 : (Instr.zldM ⟨0, false⟩ 31 1).wf = false := by decide
theorem test_wf_mfsr_number : (Instr.mfsr 1 0x1D).wf = false := by decide
theorem test_wf_mtsr_read_only : (Instr.mtsr 0x0B 1).wf = false := by decide
theorem test_wf_vdead_m0 : (Instr.vdead true 0).wf = false := by decide
theorem test_wf_pair_transfer_in_slot_a : (Instr.pair (.br 1) .nop).wf = false := by decide
theorem test_wf_pair_same_queue : (Instr.pair (.qpush 0 1) (.qpush 0 2)).wf = false := by decide
theorem test_wf_row_without_word : Instr.selection.wf = false := by decide

/-! ### Words written out from the encoding tables -/

/-- The single form (R169): op, d, a, b, c, g, gi, x, f. -/
def word (op d a b c g gi x f : Nat) : Word :=
  BitVec.ofNat 64 (op * 2 ^ 55 + d * 2 ^ 49 + a * 2 ^ 43 + b * 2 ^ 37 + c * 2 ^ 31 + g * 2 ^ 26 + gi * 2 ^ 25 + x * 2 ^ 24 + f)

/-- The pair form (R177, R178): op, d, a and the immediate of slot A, then of slot B. -/
def pairWord (o1 d1 a1 i1 o2 d2 a2 i2 : Nat) : Word :=
  BitVec.ofNat 64 (2 ^ 63 + (o1 * 2 ^ 24 + d1 * 2 ^ 19 + a1 * 2 ^ 14 + i1) * 2 ^ 32
    + (o2 * 2 ^ 24 + d2 * 2 ^ 19 + a2 * 2 ^ 14 + i2) * 2)

/-- R175: the words of the worked example. -/
theorem test_decode_constants : decode 0x0D08000000000000 = .ok (.li 4 0) ∧ decode 0x0D88000000FF0000 = .ok (.lih 4 0xFF0000)
    ∧ decode 0x0E080000000000FF = .ok (.lix 4 0x00FF) := by decide
/-- R174: the immediate form has f[23] set. -/
theorem test_decode_immediate : decode (word 0x02 3 4 0 0 0 0 0 (2 ^ 23 + 5)) = .ok (.sub 3 4 (.imm 5)) := by decide
theorem test_decode_branch : decode (word 0x22 0 1 2 0 0 0 0 0xFFFFFE) = .ok (.bgen 1 2 0xFFFFFE) := by decide
theorem test_decode_bqn : decode (word 0x27 0 1 0 0 0 0 0 7) = .ok (.bqn 7) := by decide
/-- R198: loads 0x29 to 0x2F, stores 0x30 to 0x33. -/
theorem test_decode_scalar_memory : decode (word 0x2E 9 62 0 0 0 0 0 0xFFFFF8) = .ok (.ldHS 9 62 0xFFFFF8)
    ∧ decode (word 0x33 0 62 5 0 0 0 0 16) = .ok (.stD 62 5 16) := by decide
/-- R201: op in f[9:6], width in f[5], ordering in f[4:3], scope in f[2:0]. -/
theorem test_decode_amo : decode (word 0x34 1 2 3 4 0 0 0 (9 * 64 + 32 + 3 * 8 + 5)) = .ok (.amo .cas true .ar .system 1 2 3 4) := by
  decide
theorem test_decode_fence : decode (word 0x35 0 0 0 0 0 0 0 (2 * 8 + 4)) = .ok (.fenceRel .package) := by decide
/-- R209: size codes in f[23:12], the first in f[14:12]. -/
theorem test_decode_strip : decode (word 0x3B 3 4 8 0 0 0 0 (1 * 2 ^ 15 + 3 * 2 ^ 12 + 0xFFF))
    = .ok (.strip 3 4 8 .b4 .b1 .none .none 0xFFF) := by decide
theorem test_decode_nest : decode (word 0x3C 0 8 0 0 0 0 0 (1 * 16 + 3)) = .ok (.nest 3 1 8) := by decide
/-- R171, R172: guard, exception mask and the source of operand b. -/
theorem test_decode_vadd : decode (word 0x43 1 2 7 3 4 1 1 (1 * 2 ^ 22)) = .ok (.vadd ⟨⟨4, true⟩, 3⟩ 1 2 (.scalar 7)) := by
  decide
theorem test_decode_vcmp : decode (word 0x59 1 2 3 0 0 0 0 4) = .ok (.vcmp ⟨0, false⟩ .gt 1 2 (.vec 3)) := by decide
theorem test_decode_vslideup : decode (word 0x5C 1 2 0 0 0 0 0 (2 ^ 20 + 2 ^ 19 + 5))
    = .ok (.vslideup ⟨0, false⟩ false true 1 2 (.imm 5)) := by decide
theorem test_decode_vfmul : decode (word 0x82 1 2 0 0 0 0 0 (2 * 2 ^ 22)) = .ok (.vfmul ⟨⟨0, false⟩, 0⟩ 1 2 .q0) := by decide
theorem test_decode_vrsum : decode (word 0x8D 2 5 0 0 0 0 0 0) = .ok (.vrsum ⟨0, false⟩ (.queue 2) 5)
    ∧ decode (word 0x8D 2 5 0 0 0 0 0 (2 ^ 21)) = .ok (.vrsum ⟨0, false⟩ (.vec 2) 5) := by decide
theorem test_decode_vld : decode (word 0xA0 1 2 0 0 3 0 0 64) = .ok (.vld ⟨3, false⟩ 1 2 none 64) := by decide
theorem test_decode_racc : decode (word 0xAA 1 2 3 0 0 0 0 2) = .ok (.racc ⟨⟨0, false⟩, 0⟩ .fx64 1 2 3) := by decide
theorem test_decode_cpy : decode (word 0xAE 1 2 0 0 0 0 0 0) = .ok (.cpy 1 2) := by decide
theorem test_decode_mmul : decode (word 0xC1 2 9 10 0 0 0 0 0) = .ok (.mmul ⟨0, false⟩ 2 9 10) := by decide
theorem test_decode_zld : decode (word 0xD2 4 5 0 0 0 0 0 3) = .ok (.zldPK ⟨0, false⟩ 4 5) := by decide
theorem test_decode_mfsr : decode (word 0xE0 1 0x0E 0 0 0 0 0 0) = .ok (.mfsr 1 0x0E) := by decide
theorem test_decode_brk : decode (word 0xE8 0 0 0 0 0 0 0 0x1234) = .ok (.brk 0x1234) := by decide
theorem test_decode_pair : decode (pairWord 0x01 1 2 (3 * 2 ^ 9) 0x12 0 4 0x3FFF)
    = .ok (.pair (.alu .add 1 2 3) (.bnez 4 0x3FFF)) := by decide
/-- R181, R182, R183: opcodes not listed, and a non-zero field that the instruction does not use. -/
theorem test_decode_refuses : decode 0 = .error .unlistedOpcode ∧ decode (word 0x5F 0 0 0 0 0 0 0 0) = .error .unlistedOpcode
    ∧ decode (pairWord 0x0F 0 0 0 0 0 0 0) = .error .unlistedOpcode ∧ decode (word 0x18 1 2 3 0 0 0 0 0) = .error .unusedField
    ∧ decode (word 0x43 32 0 0 0 0 0 0 0) = .error .reservedValue ∧ decode (word 0x43 1 2 3 0 0 1 0 0) = .error .illFormed := by
  decide
/-- The words of the worked examples of R209, R202, R229, R197, R221 and of the pairs of R181. -/
theorem test_decode_worked_words : decode 0x1D8A408000003FFD = .ok (.strip 5 8 4 .b4 .none .none .none 0xFFD)
    ∧ decode 0x1A0620A30000027C = .ok (.amo .cas true .ar .package 3 4 5 6)
    ∧ decode 0x2184106381000000 = .ok (.vadd ⟨⟨0, false⟩, 7⟩ 2 2 (.vec 3)) ∧ decode 0x1200000000000004 = .ok (.call 4)
    ∧ decode 0x1300000000000000 = .ok .ret ∧ decode 0x7380000000000000 = .ok .exit
    ∧ decode 0x81190A0040110000 = .ok (.pair (.alu .add 3 4 5) (.lane .vadd 1 2 0)) := by decide
theorem test_decode_table_word : decodeTableWord 64 (0xE9 * 2 ^ 55) = some .nop := by decide

/-! ### States for steps and witnesses -/

set_option maxRecDepth 20000
set_option exponentiation.threshold 600

/-- A check or a load has passed. -/
def passes {ε α β : Type} (x : Except ε α × β) : Bool := match x.1 with | .ok _ => true | .error _ => false

theorem of_passes {ε α β : Type} {x : Except ε α × β} (h : passes x = true) : ∃ v s, x = (.ok v, s) := by
  obtain ⟨_ | v, s⟩ := x
  · simp [passes] at h
  · exact ⟨v, s, rfl⟩

theorem of_refused {ε α β : Type} {x : Except ε α × β} (h : passes x = false) : ∃ f s, x = (.error f, s) := by
  obtain ⟨f | v, s⟩ := x
  · exact ⟨f, s, rfl⟩
  · simp [passes] at h

theorem pair_of {α β : Type} {x : α × β} {v : α} (h : x.1 = v) : x = (v, x.2) := Prod.ext h rfl

theorem of_value {α β : Type} {x : Except AccFault α × β} {v : α} (h : x.1 = .ok v) : ∃ s, x = (.ok v, s) :=
  ⟨x.2, Prod.ext h rfl⟩

/-- Context 1: code arena from 0x1000 to 0x2000. -/
def ctx1 : Ctx := { Ctx.zero with num := 1, codebase := 0x1000, codebound := 0x2000, rquota := 4, imgcount := 4 }

/-- A thread that runs task 1 of context 1 at 0x1000 with four lanes of n16; s62, s4 and s5 point into the scratchpad of
its cluster. -/
def thread1 : Thread :=
  let t := Thread.fresh 0
  let v : VState := ⟨4, 0, 0, 0x90, false⟩
  { t with
    status := .running
    task := ⟨1, 1, 0, 0, 0, 0, 0, 1, false⟩
    alloc := ⟨1, 1, 1⟩
    c := { t.c with
      pc := 0x1000, v := v
      s := ((t.c.s.set 62 0x00FFFE0000001000).set 4 0x00FFFE0000002000).set 5 0x00FFFE0000003000 }
    l := { t.l with v := v } }

/-- The machine whose boot is done. -/
def booted : State := { State.reset with power := .booted }
def base : State := { booted with t := thread1, ctxs := [ctx1] }

/-- base with a word at its program counter. -/
def coded (i : Instr) : State := base.wrN 0x1000 8 (encode i).toNat

/-- base with an instruction at the head of the lane queue, whose operands were a, b and c. -/
def headed (i : Instr) (a b c : Word) : State :=
  base.mapQ (fun q => { q with lane := [⟨0, .instr, encode i, 0x1000, a, b, c, false, 16384⟩], pushed := 1 })

/-- A value in the scratchpad at s4 or s62 (offset), as a performed store leaves it. -/
def poke (s : State) (va v : Nat) : State := (s.put s.ctlAgent 8 va v).2

/-! ### Witnesses: scalar instructions -/

theorem witness_registers : NoToken base [1, 4, 5] ∧ NoToken base [1, 62] ∧ NoToken base [0, 0] := by
  unfold NoToken; decide
theorem witness_features : HasFeatures base 1 := by unfold HasFeatures; decide

theorem witness_ScalarArithmeticResults : NoToken base (1 :: 4 :: src2Regs (.reg 5)) ∧ NoToken base (1 :: 4 :: src2Regs (.imm 5)) := by
  unfold NoToken; decide
theorem witness_BitCountsAndConstants : NoToken base [1, 4] ∧ NoToken base [1] := by unfold NoToken; decide
theorem witness_ConditionalBranches : NoToken base [1, 4] := by unfold NoToken; decide

theorem witness_BitsSteerBranches :
    (let s := base.mapQ (fun q => { q with bo := [true] })
     HasFeatures s 1 ∧ s.t.q.bo = [true] ∧ s.t.q.lane.length < laneDepth)
    ∧ (∀ i ∈ [Instr.bmz 2, .bmnz 2, .bzEnd 1 2], decode (coded i).popPhaseWord.1 = .ok i) := by
  unfold HasFeatures; decide

/-- The probe of a branch. -/
def probeOf (i : Instr) : LaneEntry := ⟨0, .probe, encode i, 0x1000, 0, 0, 0, false, 16384⟩
/-- base with the probe of a branch at the head of the lane queue; the lanes' mask stack empty or not, bo full or not. -/
def probing (i : Instr) (depth : Nat) (bo : List Bool) : State := (base.mapQ (fun q => { q with
  lane := [probeOf i], pushed := 1, bo := bo })).mapL (fun l => { l with depth := depth })

theorem witness_BitsSteerBranches_probe : ∀ i ∈ [Instr.bmz 2, .bmnz 2], ∀ d ∈ [0, 1], ∀ bo ∈ [[], List.replicate 16 true],
    Heads (probing i d bo) (probeOf i) [] ∧ (probeOf i).kind = .probe ∧ NoTrace (probing i d bo)
      ∧ (probeOf i).instr = some i := by
  unfold Heads NoTrace; decide

theorem witness_CallsPushTheirRecord : ∃ s1 s2, NoToken base [spReg, lrReg] ∧ NoToken base [6]
    ∧ targetOk (base.reg 6) = true
    ∧ (let sp := base.reg spReg - 16
       let v := (vstateWord base.t.c.depth base.t.c.v).toNat
       base.alignFault base.ctlAgent .write 16 sp.toNat 16 = none
       ∧ base.cstore 8 sp.toNat (base.wordAddr + 8).toNat = (.ok (), s1) ∧ s1.cstore 8 (sp + 8).toNat v = (.ok (), s2)) := by
  have h1 : (base.cstore 8 (base.reg spReg - 16).toNat (base.wordAddr + 8).toNat).1 = .ok () := by decide
  have h2 : ((base.cstore 8 (base.reg spReg - 16).toNat (base.wordAddr + 8).toNat).2.cstore 8
    (base.reg spReg - 16 + 8).toNat (vstateWord base.t.c.depth base.t.c.v).toNat).1 = .ok () := by decide
  exact ⟨_, _, by unfold NoToken; decide, by unfold NoToken; decide, by decide, by decide, pair_of h1, pair_of h2⟩

/-- A call record at s62: return address 0x1010, depth 0, type 0x90, length 4. -/
def called : State := poke (poke base 0x00FFFE0000001000 0x1010) 0x00FFFE0000001008 (vstateWord 0 ⟨4, 0, 0, 0x90, false⟩).toNat

def calledRa : Except AccFault Nat × State := called.cload 8 (called.reg spReg).toNat
def calledV : Except AccFault Nat × State := calledRa.2.cload 8 (called.reg spReg + 8).toNat

theorem witness_ReturnRestoresItsRecord : ∃ s1 s2 ra w, NoToken called [spReg] ∧ called.t.q.lane.length < laneDepth
    ∧ called.alignFault called.ctlAgent .read 16 (called.reg spReg).toNat 16 = none
    ∧ called.cload 8 (called.reg spReg).toNat = (.ok ra, s1) ∧ s1.cload 8 (called.reg spReg + 8).toNat = (.ok w, s2)
    ∧ targetOk (BitVec.ofNat 64 ra) = true ∧ vstateDepth (BitVec.ofNat 64 w) ≤ s2.t.c.depth := by
  have h1 : calledRa.1 = .ok 0x1010 := by decide
  have h2 : calledV.1 = .ok (vstateWord 0 ⟨4, 0, 0, 0x90, false⟩).toNat := by decide
  have h3 : vstateDepth (BitVec.ofNat 64 (vstateWord 0 ⟨4, 0, 0, 0x90, false⟩).toNat) ≤ calledV.2.t.c.depth := by decide
  have e1 : calledRa = (.ok 0x1010, calledRa.2) := pair_of h1
  have e2 : calledV = (.ok _, calledV.2) := pair_of h2
  exact ⟨calledRa.2, calledV.2, _, _, by unfold NoToken; decide, by decide, by decide, e1, e2, by decide, h3⟩

/-- A call record with a misaligned return address; one of a depth above the current one; a full lane queue. -/
def calledWith (ra depth n : Nat) : State :=
  (poke (poke base 0x00FFFE0000001000 ra) 0x00FFFE0000001008 (vstateWord depth ⟨4, 0, 0, 0x90, false⟩).toNat).mapQ
    (fun q => { q with lane := List.replicate n ⟨0, .instr, encode (.vnot ⟨0, false⟩ 1 2), 0x1000, 0, 0, 0, false, 16384⟩ })

theorem witness_ReturnRestoresItsRecord_traps :
    ∀ p ∈ [(0x1012, 0, 0), (0x1010, 1, 0), (0x1010, 0, laneDepth)], let s := calledWith p.1 p.2.1 p.2.2
      NoToken s [spReg] ∧ s.alignFault s.ctlAgent .read 16 (s.reg spReg).toNat 16 = none
      ∧ (s.cload 8 (s.reg spReg).toNat).1 = .ok p.1
      ∧ ((s.cload 8 (s.reg spReg).toNat).2.cload 8 (s.reg spReg + 8).toNat).1
        = .ok (vstateWord p.2.1 ⟨4, 0, 0, 0x90, false⟩).toNat
      ∧ (targetOk (BitVec.ofNat 64 p.1) = false ∨ s.t.c.depth < vstateDepth (vstateWord p.2.1 ⟨4, 0, 0, 0x90, false⟩)
        ∨ laneDepth ≤ s.t.q.lane.length) := by
  unfold NoToken; decide

theorem witness_ScalarLoadsAndStores :
    NoToken base [1, 4] ∧ (∀ n ∈ [1, 2, 4, 8],
      (∃ ls s1, base.check base.ctlAgent .read n (base.reg 4 + BitVec.ofInt 64 (8 : BitVec 24).toInt).toNat = (.ok ls, s1))
      ∧ ∃ ls s1, base.check base.ctlAgent .write n (base.reg 4 + BitVec.ofInt 64 (8 : BitVec 24).toInt).toNat = (.ok ls, s1)) := by
  refine ⟨by unfold NoToken; decide, fun n hn => ?_⟩
  have h : ∀ n ∈ [1, 2, 4, 8],
    passes (base.check base.ctlAgent .read n (base.reg 4 + BitVec.ofInt 64 (8 : BitVec 24).toInt).toNat) = true
    ∧ passes (base.check base.ctlAgent .write n (base.reg 4 + BitVec.ofInt 64 (8 : BitVec 24).toInt).toNat) = true := by decide
  exact ⟨of_passes (h n hn).1, of_passes (h n hn).2⟩

/-- base without the quads of its unit, and with a frame of another context. -/
def harvested : State := base.setUnit 0 { UnitSt.fresh with usable := 0 }
def framedAway : State := { base with sec := { base.sec with owned := [(0, 0, 2), (1, 0, 2)] } }

theorem witness_ScalarLoadsAndStores_windows :
    uidOf base.ctlAgent.site = 0
    ∧ ((base.unitSt 0).usable.getLsbD (0 / 2 ^ 20) = true ∧ (base.ownedQuads 0).getLsbD (0 / 2 ^ 20) = true)
    ∧ ((base.unitSt 0).usable.getLsbD ((2 ^ 24 - 1) / 2 ^ 20) = true ∧ (base.ownedQuads 0).getLsbD ((2 ^ 24 - 1) / 2 ^ 20) = false)
    ∧ (harvested.unitSt 0).usable.getLsbD (0 / 2 ^ 20) = false
    ∧ (base.scratchAllowed base.ctlAgent.ctx 7 11 (12 * 2 ^ 20 - 1) = true ∧ base.scratchAllowed base.ctlAgent.ctx 7 15 (44 * 2 ^ 20 - 1) = true)
    ∧ framedAway.scratchAllowed base.ctlAgent.ctx 0 0 0 = false ∧ siteCluster base.ctlAgent.site ≤ 11
    ∧ (base.windowOk base.ctlAgent .read 0 = true ∧ base.windowOk base.ctlAgent .read (2 ^ 56) = false) := by decide

/-- base whose context has a table that maps the first GiB to itself, for every access. -/
def tabled1 : State :=
  let s : State := { base with ctxs := [{ ctx1 with ptroot := 0x100000 }] }
  (s.wrN 0x100000 8 0x80001).wrN 0x80000 8 0x3D

theorem witness_ScalarLoadsAndStores_walk :
    (∀ p ∈ [(0, 0), (3, 2), (3, 0x21), (0, 0x21), (2, 0x61), (1, 0x81), (2, 2 ^ 48 + 1), (3, 0x1001), (0, 0x1001), (2, 0x21),
        (2, 0x1021), (1, 0x200021), (0, 0x41), (0, 0x10041)], p.1 ≤ 3)
    ∧ (∃ f, base.ptRead 1 (2 ^ 39) = .error f) ∧ (∃ e, tabled1.ptRead 1 0x100000 = .ok e ∧ ∃ t, ptStep 3 e = .ok (.table t))
    ∧ (∃ e, tabled1.ptRead 1 0x80000 = .ok e ∧ ∃ l, ptStep 2 e = .ok (.leaf l)) ∧ (∃ f, ptStep 2 0 = .error f)
    ∧ (base.hbmAllowed 1 false 0 = true ∧ (base.ctxD 1).conf = false ∧ base.fleet.errors = [] ∧ framedAway.hbmAllowed 1 false 0 = false)
    ∧ base.tlb = []
    ∧ (let l : Leaf := ⟨0x2D, 4096⟩; l.entry / 4 % 2 = 1 ∧ l.entry / 8 % 2 = 1 ∧ ¬ l.entry / 4 % 8 = 7 ∧ (0x3D : Nat) / 4 % 8 = 7
       ∧ bits l.entry 47 12 * 4096 + 4095 % l.size < 2 ^ 39)
    ∧ (let pa := bits (2 ^ 39 + 0x3D) 47 12 * 4096; 2 ^ 39 ≤ pa ∧ pa < 2 ^ 47) ∧ 2 ^ 47 ≤ bits (2 ^ 47 + 0x3D) 47 12 * 4096 := by
  refine ⟨by decide, ⟨_, rfl⟩, ⟨_, rfl, _, rfl⟩, ⟨_, rfl, _, rfl⟩, ⟨_, rfl⟩, by decide, rfl, by decide, by decide, by decide⟩

theorem witness_ScalarLoadsAndStores_checks :
    (¬ ∀ i < 8, base.windowOk base.ctlAgent .read ((0x00FFFD0000000000 + 44 * 2 ^ 20 - 4 + i) % 2 ^ 64) = true)
    ∧ (∀ i < 8, base.windowOk base.ctlAgent (.atomic true) ((0x00FFFE0000000004 + i) % 2 ^ 64) = true)
    ∧ (∀ i < 8, base.windowOk base.ctlAgent .read ((windowsBase - 8 + i) % 2 ^ 64) = true)
    ∧ base.fleet.errors = [] ∧ windowsBase ≤ 0x00FFFE0000000004 ∧ 0x00FFFE0000000004 + 8 ≤ 2 ^ 56
    ∧ (∃ f s1, base.translate base.ctlAgent (windowsBase - 8) = (.error f, s1))
    ∧ (∃ l s1, tabled1.translate tabled1.ctlAgent 0x5000 = (.ok l, s1) ∧ 0x5000 % l.size + 8 ≤ l.size
      ∧ (∀ i < 8, ∃ x, s1.leafLoc tabled1.ctlAgent .read 8 (0x5000 + i) l = .ok x)
      ∧ ∃ c, framedAway.leafLoc tabled1.ctlAgent .read 8 0x5000 l = .error c) := by
  refine ⟨by decide, by decide, by decide, rfl, by decide, by decide, of_refused (by decide), ?_⟩
  have h : (tabled1.translate tabled1.ctlAgent 0x5000).1 = .ok ⟨0x3D, 2 ^ 30⟩ := by decide
  refine ⟨_, _, pair_of h, by decide, fun i hi => ?_, _, rfl⟩
  have a : ∀ i < 8, (match (tabled1.translate tabled1.ctlAgent 0x5000).2.leafLoc tabled1.ctlAgent .read 8 (0x5000 + i)
    ⟨0x3D, 2 ^ 30⟩ with | .ok _ => true | .error _ => false) = true := by decide
  have b := a i hi
  revert b
  generalize (tabled1.translate tabled1.ctlAgent 0x5000).2.leafLoc tabled1.ctlAgent .read 8 (0x5000 + i) ⟨0x3D, 2 ^ 30⟩ = y
  cases y <;> simp

/-- Four cells of the HBM of a die. -/
def cells4 (a : Nat) : List Loc := (List.range 4).map (fun i => .cell (a + i) (a + i))
/-- An access of a control stream to them, of which nothing has been performed. -/
def onItsWay (k : MemKind) (a : Nat) : MemOp := ⟨0, k, cells4 a, true, List.range 4, [], [], 0, 0x1000, noLane, false, 0, false⟩
def sending (ops : List MemOp) : State := base.mapC (fun c => { c with accs := ops })

theorem witness_PerformedStoreWritesItsBytes : base.saved = [] ∧ base.clusters = []
    ∧ (∀ k ∈ [MemKind.store 5, .load 4 true, .amo 4 .add 1 0],
       let op := onItsWay k 8
       let s := sending [op]
       s.t.c.accs[0]? = some op ∧ s.accFree 0 op = true ∧ op.whole = true ∧ op.sent = [] ∧ op.got = [] ∧ op.locs ≠ []
        ∧ op.left = List.range op.locs.length ∧ homeDie (siteDie s.t.site) op.locs = siteDie s.t.site)
    ∧ base.away = []
    ∧ (∀ l ∈ [[3], [2, 3]], let op : MemOp := { onItsWay (.load 4 true) 8 with left := l, got := [(0, 1), (1, 2)] }
       let s := sending [op]
       s.t.c.accs[0]? = some op ∧ s.accFree 0 op = true ∧ op.left.filter (fun i => !op.sent.contains i) = l)
    ∧ (4 : SReg) ≠ 0 ∧ NoneAway base
    ∧ (∀ l ∈ cells4 8, base.homeTakes base.t.task.ctx l = true ∧ framedAway.homeTakes framedAway.t.task.ctx l = false) := by
  unfold NoneAway; decide

/-- A free choice among enough bytes leaves one of them. -/
theorem someOf_leaves (s : State) (n : Nat) (h : s.free.2.free.1 + 2 ≤ n) : (s.someOf (List.range n)).1.length < n := by
  have r : ∀ j ≥ s.free.2.free.1, s.free.2.free.1.testBit j = false := fun j hj =>
    Nat.testBit_lt_two_pow (Nat.lt_of_lt_of_le Nat.lt_two_pow_self (Nat.pow_le_pow_right (by decide) hj))
  have k : ∃ j ∈ List.range n, ¬ (j == (List.range n).getD (s.free.1 % (List.range n).length) 0
      || s.free.2.free.1.testBit j) = true := by
    by_cases c : (List.range n).getD (s.free.1 % (List.range n).length) 0 = s.free.2.free.1
    · exact ⟨s.free.2.free.1 + 1, List.mem_range.2 (by omega), by rw [r _ (by omega)]; simp only [c]; simp⟩
    · exact ⟨s.free.2.free.1, List.mem_range.2 (by omega), by rw [r _ (by omega)]; simpa using fun e => c (by simpa using e.symm)⟩
  simpa [State.someOf] using List.length_filter_lt_length_iff_exists.2 k

/-- A load of so many bytes that the free choice leaves one of them. -/
def manyBytes : MemOp := { onItsWay (.load 4 true) 8 with
  locs := List.replicate (base.free.2.free.1 + 2) (.cell 8 8), left := List.range (base.free.2.free.1 + 2), whole := false }

theorem witness_PerformedStoreWritesItsBytes_partly :
    (sending [manyBytes]).t.c.accs[0]? = some manyBytes ∧ (sending [manyBytes]).accFree 0 manyBytes = true
    ∧ (sending [manyBytes]).clusters = []
    ∧ manyBytes.left.filter (fun i => !((sending [manyBytes]).portion manyBytes).1.contains i) ≠ [] := by
  refine ⟨rfl, rfl, rfl, fun e => ?_⟩
  have l := someOf_leaves (sending [manyBytes]) (base.free.2.free.1 + 2) (Nat.le_refl _)
  have p : ((sending [manyBytes]).portion manyBytes).1.Sublist
      ((sending [manyBytes]).someOf (List.range (base.free.2.free.1 + 2))).1 := by
    simp only [State.portion, manyBytes, onItsWay]
    simp
  have q : ∀ i ∈ List.range (base.free.2.free.1 + 2), i ∈ ((sending [manyBytes]).portion manyBytes).1 := fun i hi => by
    by_contra c
    have := List.filter_eq_nil_iff.1 e i hi
    simp [c] at this
  have := (List.nodup_range.subperm (fun i hi => p.subset (q i hi))).length_le
  simp only [List.length_range] at this
  omega

/-- A load of which one byte has not been performed. -/
def lastByte : MemOp := { onItsWay (.load 4 true) 8 with left := [3], got := [(0, 1), (1, 2), (2, 3)] }

theorem witness_PerformedStoreWritesItsBytes_load : (sending [lastByte]).portion lastByte = ([3], sending [lastByte])
    ∧ homeDie (siteDie (sending [lastByte]).t.site) (lastByte.part [3]) = siteDie (sending [lastByte]).t.site
    ∧ (sending [lastByte]).t.c.accs[0]? = some lastByte ∧ (sending [lastByte]).accFree 0 lastByte = true :=
  ⟨rfl, by decide, by decide, by decide⟩

theorem witness_AtomicResultAndOperations : NoToken base [1, 4, 5, 6]
    ∧ base.drainAccs.t.c.flush = false ∧ base.drainAccs.nothingHeld = true
    ∧ (∀ n ∈ [4, 8], ∀ op ∈ [AmoOp.add, .cas], ∃ ls s1,
        base.drainAccs.check base.drainAccs.ctlAgent (.atomic (AmoOp.hostOk op)) n (base.drainAccs.reg 4).toNat = (.ok ls, s1))
    ∧ (∃ ls s1, base.check base.ctlAgent (.atomic true) 8 (base.reg 4).toNat = (.ok ls, s1)) ∧ (0 : Nat) < 32 ∧ 2 ^ 32 - 1 < 2 ^ 32 := by
  have h : ∀ n ∈ [4, 8], ∀ op ∈ [AmoOp.add, .cas],
    passes (base.drainAccs.check base.drainAccs.ctlAgent (.atomic (AmoOp.hostOk op)) n (base.drainAccs.reg 4).toNat) = true := by
    decide
  exact ⟨by unfold NoToken; decide, by decide, by decide, fun n hn op ho => of_passes (h n hn op ho), of_passes (by decide),
    by decide, by decide⟩

theorem witness_AtomicResultAndOperations_memory : NoneAway base ∧ base.clusters = [] ∧ 0 < 4 ∧ 2 ^ 32 - 1 < 2 ^ (8 * 4)
    ∧ (AmoOp.cas = .cas ∧ base.rdN 8 4 ≠ 1 ∧ base.rdN 8 4 = 0) := by unfold NoneAway; decide

theorem witness_FencesAndWaits : base.drainAccs.t.c.flush = false ∧ base.drainAccs.nothingHeld = true ∧ HasFeatures base 1
    ∧ base.laneIdle = true ∧ NoToken base [4, 5] ∧ NoToken base [4, 0]
    ∧ base.alignFault base.ctlAgent .read 16 (base.reg 4).toNat 16 = none ∧ base.alignFault base.ctlAgent .read 8 (base.reg 4).toNat 8 = none
    ∧ (∃ s1, base.cload 4 (base.reg 4 + 8).toNat = (.ok 0, s1) ∧ 0 ≠ (s1.reg 5).toNat % 2 ^ 32 ∧ 0 = (s1.reg 0).toNat % 2 ^ 32)
    ∧ (∃ s1, base.cload 8 (base.reg 4).toNat = (.ok 0, s1) ∧ (s1.reg 0).toNat ≤ 0 ∧ 0 < (s1.reg 5).toNat) := by
  have h1 : (base.cload 4 (base.reg 4 + 8).toNat).1 = .ok 0 := by decide
  have h2 : (base.cload 8 (base.reg 4).toNat).1 = .ok 0 := by decide
  exact ⟨by decide, by decide, by unfold HasFeatures; decide, by decide, by unfold NoToken; decide, by unfold NoToken; decide,
    by decide, by decide, ⟨_, pair_of h1, by decide, by decide⟩, ⟨_, pair_of h2, by decide, by decide⟩⟩

theorem witness_QueueMoves : HasFeatures base 1 ∧ NoToken base [4] ∧ (base.t.q.get 0).length < 16
    ∧ (base.mapQ (fun q => { q with q2 := [7] })).t.q.get 2 = [7] := by
  unfold HasFeatures NoToken; decide

theorem witness_SetvlGrantsWholeBlocks : HasFeatures base 1 ∧ base.t.c.v.illegal = false ∧ NoToken base [1, 4]
    ∧ base.t.q.lane.length < laneDepth
    ∧ (let e : LaneEntry := ⟨0, .part, encode (.setvl 1 4), 0x1000, 4, 0, 0, false, 16384⟩
       (base.mapQ (fun q => { q with lane := [e] })).t.q.lane = [e] ∧ e.kind = .part ∧ decode e.word = .ok (.setvl 1 4)) := by
  unfold HasFeatures NoToken; decide

theorem witness_GrowAndShrink : HasFeatures base 1 ∧ base.t.c.v.illegal = false ∧ NoToken base [1, 4, 5]
    ∧ base.t.q.lane.length < laneDepth := by unfold HasFeatures NoToken; decide

theorem witness_StripStep : HasFeatures base 1 ∧ base.t.c.v.illegal = false
    ∧ (∀ d ∈ [(4 : SReg), 0],
      let rem := (base.reg d).toNat - base.t.c.v.vl
      rem = 0 ∨ grant base.lanes base.t.c.v.vtype rem ≠ 0)
    ∧ base.t.q.lane.length < laneDepth ∧ StripSz.blk ∉ [StripSz.b4, .none, .none, .none]
    ∧ NoToken base ([4, 1] ++ (List.range (stripCount .none .none .none)).map (fun j => sreg (8 + j))) := by
  unfold HasFeatures NoToken; decide

/-- base with a nop after its nest, and a descriptor of one dimension in s8. -/
def nested : State := base.wrN 0x1008 8 (encode .nop).toNat

theorem witness_NestCapture : nestSus nested.t.c.nestcfg = false ∧ NoToken nested [sreg 8]
    ∧ nested.ctxT.fetchable 0x1008 = true ∧ nested.fetchBody (nested.wordAddr + 8) 0 1 = (.ok [(0, encode .nop)], (nested.fetchBody (nested.wordAddr + 8) 0 1).2)
    ∧ nested.fleet.errors = [] ∧ nested.sec.owned = [] ∧ nested.oldFetches 0x1008 = []
    ∧ bodyOk (encode .nop) = true ∧ wbits (nested.reg (sreg 8)) 63 62 = 0
    ∧ (nested.wordAddr + 8).toNat = 0x1008 := by
  have h : (match (nested.fetchBody (nested.wordAddr + 8) 0 1).1 with
    | .ok l => l == [(0, encode .nop)] | .error _ => false) = true := by decide
  refine ⟨by decide, by unfold NoToken; decide, by decide, ?_, by decide, by decide, by decide, by decide, by decide, by decide⟩
  revert h
  generalize nested.fetchBody (nested.wordAddr + 8) 0 1 = x
  obtain ⟨_ | l, s⟩ := x
  · simp
  · exact fun h => by simpa using h

/-- base at the end of the body of a nest of one word and of two dimensions, whose descriptors give counts. -/
def looped (inner outer : Nat) : State := base.mapC (fun c => { c with
  pc := 0x1008
  nestcfg := BitVec.ofNat 64 (2 ^ 63 + 1 * 2 ^ 56 + 8 * 2 ^ 50 + 0x1000 / 8)
  s := (c.s.set 8 (BitVec.ofNat 64 (inner * 2 ^ 52 + 4))).set 9 (BitVec.ofNat 64 (outer * 2 ^ 52 + 2 ^ 13)) })

theorem witness_NestCapture_step :
    (∀ p ∈ [(0, 0), (1, 0), (0, 1)], let s := looped p.1 p.2
      nestAct s.t.c.nestcfg = true ∧ s.t.c.pc.toNat = nestBody s.t.c.nestcfg + 8 * nestLen s.t.c.nestcfg
      ∧ nestDims s.t.c.nestcfg = 2 ∧ NoToken s (nestRegs s.t.c.nestcfg)
      ∧ ∀ j < 2, wbits (s.reg (sreg (nestDesc s.t.c.nestcfg + j))) 61 52 = if j = 0 then p.1 else p.2)
    ∧ nestAct base.t.c.nestcfg = false
    ∧ (let s := (looped 1 1).mapC (fun c => { c with pc := 0x1000 })
       nestAct s.t.c.nestcfg = true ∧ s.t.c.pc.toNat ≠ nestBody s.t.c.nestcfg + 8 * nestLen s.t.c.nestcfg) := by
  unfold NoToken; decide

/-- base with a launch record at s4: entry 0x1000, context 1, one quad, one task. -/
def recorded : State := poke (poke base 0x00FFFE0000002000 0x1000) 0x00FFFE0000002008 (1 + 2 ^ 32)
def recordRead : Except AccFault (List Word) × State := recorded.drainAccs.loadWords (recorded.reg 4) 16
def recordWords : List Word := [0x1000, BitVec.ofNat 64 (1 + 2 ^ 32)] ++ List.replicate 14 0
def recordTaken : Except Nat Launch × State :=
  recordRead.2.takeRecord (launchOf 1 8192 recordWords (recorded.reg 4) 1 0 (some 1)) 1 false false

theorem witness_LaunchFromTheDevice : NoToken recorded [1, 4] ∧ recorded.t.c.launchRec = none
    ∧ recorded.drainAccs.t.c.flush = false ∧ recorded.drainAccs.nothingHeld = true ∧ recorded.alignFault recorded.ctlAgent .read 128 (recorded.reg 4).toNat 128 = none
    ∧ recordRead = (.ok recordWords, recordRead.2) ∧ (∃ l, recordTaken = (.ok l, recordTaken.2)
      ∧ recordTaken.2.poolAdmits 0 l.depth = true) ∧ recordTaken.2.t.task.depth < 8 := by
  have h1 : recordRead.1 = .ok recordWords := by decide
  have h2 : (match recordTaken.1 with | .ok l => recordTaken.2.poolAdmits 0 l.depth | .error _ => false) = true := by decide
  refine ⟨by unfold NoToken; decide, rfl, by decide, by decide, by decide, pair_of h1, ?_, by decide⟩
  revert h2
  generalize recordTaken = x
  obtain ⟨_ | l, s⟩ := x
  · simp
  · exact fun h => ⟨l, rfl, h⟩

/-! ### Witnesses: system instructions and traps -/

/-- base with one block of 32 lanes of L8. -/
def scaledState : State := base.mapL (fun l => { l with v := { l.v with vl := 32, vtype := 0x1000188 } })

/-- The die of the thread in focus without the feature of bit 0. -/
def featureless : State := { base with fleet := { base.fleet with feat := base.fleet.feat.set 0 0x7E } }

theorem witness_LaneQueuePushes : (∀ i ∈ [Instr.vadd ⟨⟨0, false⟩, 0⟩ 1 2 (.scalar 4), .bzEnd 1 2],
      decode (encode i) = .ok i ∧ isLane i = true ∧ base.t.q.lane.length < laneDepth)
    ∧ base.laneTrap (.vadd ⟨⟨0, false⟩, 0⟩ 1 2 (.scalar 4)) = none ∧ base.laneTrap (.bzEnd 1 2) = none
    ∧ NoToken base [0, 4, 0] ∧ (featureless.lacks 1).isSome = true
    ∧ decode (encode (.vadd ⟨⟨0, false⟩, 0⟩ 1 2 (.vec 3))) = .ok (.vadd ⟨⟨0, false⟩, 0⟩ 1 2 (.vec 3)) := by
  unfold NoToken; decide

/-- headed, its operand popped before or to be popped, with a queue that holds a value or none. -/
def popping (popped : Bool) (l : List Word) : State := base.mapQ (fun q => { q with
  q0 := l, q1 := l, lane := [⟨0, .instr, encode (.vadd ⟨⟨0, false⟩, 0⟩ 1 2 .q0), 0x1000, 0, 7, 0, popped, 16384⟩] })

theorem witness_LaneQueuePushes_operands :
    (∀ b ∈ [true, false], ∀ l ∈ [[], [3, 4]], (∃ e, Heads (popping b l) e [] ∧ e.bPopped = b)
      ∧ (popping b l).t.q.get 0 = l ∧ (popping b l).t.q.get 1 = l)
    ∧ (intType true 16).ew ≤ 64 ∧ (64 < (intType true 128).ew ∧ (intType true 128).kind = 0)
    ∧ (64 < (intType false 128).ew ∧ (intType false 128).kind ≠ 0)
    ∧ (scaledState.vt.kind = 3 ∧ scaledState.vt.scaled = true) ∧ (intType true 16).kind ≠ 3 :=
  ⟨fun _ _ _ _ => ⟨⟨_, rfl, rfl⟩, rfl, rfl⟩, by decide⟩

theorem witness_SystemRegisterReadResults : NoToken base [1] ∧ base.laneIdle = true
    ∧ (headed (.vnot ⟨0, false⟩ 1 2) 0 0 0).laneIdle = false ∧ sysWaits 7 = true ∧ NoToken (headed (.vnot ⟨0, false⟩ 1 2) 0 0 0) [1] := by
  unfold NoToken; decide

theorem witness_SystemRegisterWrites : NoToken base [4] ∧ NoToken base [0] ∧ base.t.q.lane.length < laneDepth
    ∧ wbits (base.reg 4) 63 8 ≠ 0 ∧ wbits (base.reg 0) 63 8 = 0 := by unfold NoToken; decide

theorem witness_ThreadControlWords : base.laneIdle = true ∧ base.t.l.xflags &&& base.t.l.xen = 0
    ∧ (let s := base.mapL (fun l => { l with xflags := 4, xen := 4 })
       s.laneIdle = true ∧ s.t.l.xflags &&& s.t.l.xen ≠ 0)
    ∧ base.t.q.lane.length < laneDepth ∧ base.t.laneBusy = false ∧ NoTrace base := by unfold NoTrace; decide

theorem witness_ThreadControlWords_yieldpt :
    let e : LaneEntry := ⟨0, .part, encode .yieldpt, 0x1000, 0, 0, 0, false, 16384⟩
    let s := (base.mapQ (fun q => { q with lane := [e] })).mapL (fun l => { l with live := 2 })
    s.t.q.lane = e :: [] ∧ e.kind = .part ∧ decode e.word = .ok .yieldpt ∧ s.clusters = []
      ∧ s.t.alloc.tiles.getLsbD 0 = true ∧ s.t.l.live.getLsbD 0 = false ∧ s.t.alloc.tiles.getLsbD 7 = false := by decide

theorem witness_VdeadClears : HasFeatures base 1 ∧ NoneAway base ∧ base.laneIdle = true
    ∧ (let s := headed (.vnot ⟨0, false⟩ 1 2) 0 0 0; HasFeatures s 1 ∧ NoneAway s ∧ s.laneIdle = false) := by
  unfold HasFeatures NoneAway; decide

/-- The state after slot A of a pair: an addition has been committed, a stalled pop has not. -/
theorem witness_PairsRunTheirSlots : base.t.c.pc.getLsbD 2 = false
    ∧ (∃ t, base.runShort false (encode (.pair (.alu .add 1 2 3) .nop)) (.alu .add 1 2 3) = .next t
      ∧ t.t.c.committed ≠ base.t.c.committed
      ∧ ∃ u, (t.mapC (fun c => { c with pc := base.wordAddr ||| 4, committed := base.t.c.committed })).runShort true
        (encode (.pair (.alu .add 1 2 3) .nop)) .nop = .next u)
    ∧ (∃ t, base.runShort false (encode (.pair (.qpop 1 0) .nop)) (.qpop 1 0) = .next t ∧ t.t.c.committed = base.t.c.committed)
    ∧ NoToken base [bankS false 1, bankS false 2, bankS false 3, bankS true 1, bankS true 2, bankS true 3] := by
  refine ⟨by decide, ⟨_, rfl, by decide, _, rfl⟩, ⟨_, rfl, by decide⟩, by unfold NoToken; decide⟩

/-- base with a user vector. -/
def vectored : State := base.mapC (fun c => { c with tvec := 0x1100 })
def frameChecked : Except AccFault (List (List Loc)) × State :=
  vectored.checkWords .write (vectored.reg spReg - 32).toNat 4

theorem witness_TrapEntry_user : vectored.t.status = .running ∧ vectored.t.laneBusy = false ∧ vectored.t.l.returns = []
    ∧ (vectored.accBusy = false ∧ vectored.t.l.stores = [] ∧ ∀ op ∈ vectored.t.c.accs, op.dest ≠ some spReg.val) ∧ NoTrace vectored ∧ (Trap.of .brk).cause.user = true ∧ (Trap.of .brk).dataErr = 0
    ∧ vectored.t.c.tvec ≠ 0 ∧ (vectored.reg spReg).toNat % 16 = 0 ∧ vectored.t.q.held = [] ∧ nestSus vectored.t.c.nestcfg = false
    ∧ vectored.ctxT.fetchable vectored.t.c.tvec = true ∧ vectored.t.task.ended = false
    ∧ ∃ l0 l1 l2 l3, frameChecked = (.ok [l0, l1, l2, l3], frameChecked.2) := by
  have h : (match frameChecked.1 with | .ok [_, _, _, _] => true | _ => false) = true := by decide
  refine ⟨by decide, by decide, by decide, by decide, by unfold NoTrace; decide, by decide, by decide, by decide, by decide,
    by decide, by decide, by decide, by decide, ?_⟩
  revert h
  generalize frameChecked = x
  obtain ⟨y, s⟩ := x
  rcases y with _ | (_ | ⟨a, _ | ⟨b, _ | ⟨c, _ | ⟨d, _ | ⟨e, l⟩⟩⟩⟩⟩)
  all_goals first | exact fun _ => ⟨_, _, _, _, rfl⟩ | simp

theorem witness_TrapEntry_driver : base.t.status = .running ∧ base.t.laneBusy = false ∧ base.accBusy = false
    ∧ base.t.l.returns = [] ∧ base.t.l.stores = [] ∧ NoTrace base
    ∧ (Trap.of .illegalWord).cause.user = false ∧ (Trap.of .illegalWord).cause ≠ .featureAbsent
    ∧ (Trap.of .stepEnd).cause = .stepEnd ∧ (Trap.of .featureAbsent).cause = .featureAbsent
    ∧ (Trap.of .featureAbsent).cause.user = false ∧ base.t.c.tvec = 0 ∧ base.t.status ≠ .preempting
    ∧ (∀ op ∈ base.t.c.accs, op.dest ≠ some spReg.val)
    ∧ (let l := launchOf 0 8192 [] 0 1 0 none
       ({ base with sched := { base.sched with launches := [l] } } : State).launch? base.t.task.launch = some l)
    ∧ (Trap.of .illegalWord).detail < 2 ^ 48 ∧ (Trap.of .illegalWord).stream < 8 ∧ (Trap.of .illegalWord).reason < 32 := by
  unfold NoTrace; decide

/-- A frame at s62: resume at 0x1008, a break, one length, the vector-state word of type 0x90 and length 4. -/
def framed : State := poke (poke (poke base 0x00FFFE0000001000 0x1008) 0x00FFFE0000001008 8) 0x00FFFE0000001018
  (vstateWord 0 ⟨4, 0, 0, 0x90, false⟩).toNat
def frameRead : Except AccFault (List Word) × State := framed.loadWords (framed.reg spReg) 4

theorem witness_TrapReturn : NoToken framed [spReg] ∧ framed.alignFault framed.ctlAgent .read 32 (framed.reg spReg).toNat 16 = none
    ∧ frameRead = (.ok [0x1008, 8, 0, vstateWord 0 ⟨4, 0, 0, 0x90, false⟩], frameRead.2) ∧ resumeOk 0x1008 = true
    ∧ vstateDepth (vstateWord 0 ⟨4, 0, 0, 0x90, false⟩) ≤ frameRead.2.t.c.depth ∧ frameRead.2.tretRoom = true := by
  have h : frameRead.1 = .ok [0x1008, 8, 0, vstateWord 0 ⟨4, 0, 0, 0x90, false⟩] := by decide
  exact ⟨by unfold NoToken; decide, by decide, pair_of h, by decide, by decide, by decide⟩

theorem witness_TrapReturn_held : ∀ i ∈ [Instr.mpush 1, .mpop, .mcfg 4, .vnot ⟨0, false⟩ 1 2],
    let e : LaneEntry := ⟨0, .instr, encode i, 0x1000, 0, 0, 0, false, 16384⟩
    e.kind = .instr ∧ decode e.word = .ok i := by decide

/-! ### Witnesses: lane instructions -/

theorem heads_headed (i : Instr) (a b c : Word) : ∃ e, Heads (headed i a b c) e [] := ⟨_, rfl⟩

theorem witness_LaneTypeAndConfiguration : (∃ e, Heads (headed (.vcfg 4) 0x90 0 0) e []) ∧ base.clusters = []
    ∧ vtypeLegal (0x8000010 : Word).toNat = false ∧ vtypeLegal (0x90 : Word).toNat = true ∧ base.t.l.v.vlo = 0 :=
  ⟨heads_headed .., by decide⟩

theorem witness_IntegerLaneResults : (∃ e, Heads (headed (.vadd ⟨⟨0, false⟩, 0⟩ 1 2 (.vec 3)) 0 0 0) e [])
    ∧ NoTrace base ∧ (∃ v s1, (headed (.vadd ⟨⟨0, false⟩, 0⟩ 1 2 (.scalar 4)) 0 7 0).operandB (.scalar 4) = some (v, s1))
    ∧ (∃ v s1, (base.mapQ (fun q => { q with
        q0 := [3], lane := [⟨0, .instr, encode (.vadd ⟨⟨0, false⟩, 0⟩ 1 2 .q0), 0x1000, 0, 0, 0, false, 16384⟩] })).operandB .q0
        = some (v, s1)) ∧ 0 < 8 :=
  ⟨heads_headed .., by unfold NoTrace; decide, ⟨_, _, rfl⟩, ⟨_, _, rfl⟩, by decide⟩

theorem witness_LaneShiftResults : (∃ e, Heads (headed (.vsll ⟨⟨0, false⟩, 0⟩ 1 2 (.b (.vec 3))) 0 0 0) e [])
    ∧ ∃ v s1, (headed (.vsll ⟨⟨0, false⟩, 0⟩ 1 2 (.b (.vec 3))) 0 0 0).operandB (.vec 3) = some (v, s1) :=
  ⟨heads_headed .., _, _, rfl⟩

theorem witness_LogicLaneResults : (∃ e, Heads (headed (.vsel ⟨0, false⟩ 1 2 (.vec 3) 4) 0 0 0) e []) ∧ NoTrace base
    ∧ (∃ v s1, (headed (.vsel ⟨0, false⟩ 1 2 (.vec 3) 4) 0 0 0).operandB (.vec 3) = some (v, s1) ∧ s1.vt.scaled = false)
    ∧ (∃ v s1, scaledState.operandB (.vec 3) = some (v, s1) ∧ s1.vt.scaled = true) ∧ 31 < 32 :=
  ⟨heads_headed .., by unfold NoTrace; decide, ⟨_, _, rfl, by decide⟩, ⟨_, _, rfl, by decide⟩, by decide⟩

/-- A block-scaled float type and a block-scaled log type. -/
def scaledFloat : VType := ⟨16, 2, 5, 10, false, 0, 2, false⟩
def scaledLog : VType := ⟨8, 3, 0, 0, false, 0, 2, false⟩

theorem witness_GivenValuesAreWritten_scaled : (scaledFloat.scaled = true ∧ scaledFloat.kind = 2 ∧ (2 : VReg).val + groupOf scaledFloat.ew < 32)
    ∧ (scaledLog.scaled = true ∧ scaledLog.kind = 3 ∧ scaledLog.ew = 8) ∧ 2 * (31 : VReg).val + (16 + 7) / 8 ≤ 64
    ∧ (∀ p ∈ base.openInstrs, p.1 ≠ base.laneSeq) := by decide

theorem witness_GivenValuesAreWritten : NoneAway base ∧ base.clusters = [] ∧ NoTrace base ∧ (intType true 16).scaled = false
    ∧ 0 < (intType true 16).ew ∧ 2 * (31 : VReg).val + ((intType true 16).ew + 7) / 8 ≤ 64 ∧ (31 : MReg) ≠ 0
    ∧ (∀ n, (⟨n, 5, 0, 0⟩ : LaneVal).lane = n) := by
  refine ⟨⟨rfl, rfl⟩, rfl, by unfold NoTrace; decide, by decide, by decide, by decide, by decide, fun _ => rfl⟩

theorem witness_MaskResultsAndStack_values : IsExt (.fin false 1 0) 1 ∧ IsExt (.fin true 1 1) ((-2 : ℝ) : EReal)
    ∧ IsExt (.inf false) ⊤ ∧ IsExt (.inf true) ⊥ ∧ Val.nan.isNan = true ∧ Val.nar.isNan = true := by
  refine ⟨.inl ⟨1, ⟨_, _, _, rfl, by norm_num⟩, rfl⟩, .inl ⟨-2, ⟨_, _, _, rfl, by norm_num⟩, rfl⟩, .inr (.inl ⟨rfl, rfl⟩),
    .inr (.inr ⟨rfl, rfl⟩), rfl, rfl⟩

theorem witness_MaskResultsAndStack : (∃ e, Heads (headed (.mpush 1) 0 0 0) e []) ∧ base.saved = [] ∧ NoTrace base
    ∧ (∃ v s1, (headed (.vcmp ⟨0, false⟩ .lt 1 2 (.vec 3)) 0 0 0).operandB (.vec 3) = some (v, s1))
    ∧ (base.mapL (fun l => { l with depth := 15 })).t.l.depth < 16 ∧ 0 < (base.mapL (fun l => { l with depth := 1 })).t.l.depth :=
  ⟨heads_headed .., rfl, by unfold NoTrace; decide, ⟨_, _, rfl⟩, by decide⟩

theorem witness_LaneFloatResults : (∃ e, Heads (headed (.vfadd ⟨⟨0, false⟩, 0⟩ 1 2 (.vec 3)) 0 0 0) e [])
    ∧ (∃ v s1, (headed (.vfadd ⟨⟨0, false⟩, 0⟩ 1 2 (.vec 3)) 0 0 0).operandB (.vec 3) = some (v, s1))
    ∧ base.vt.scaled = false ∧ scaledState.vt.scaled = true := ⟨heads_headed .., ⟨_, _, rfl⟩, by decide⟩

/-- base whose first data row holds a bit in error. -/
def badRow : State := { base with fleet := { base.fleet with errors := [.arrayParity (arrayBase 0) 3] } }

theorem witness_LaneFloatResults_numbers : FmtOk scaledFloat.fmt ∧ FiniteCode scaledFloat.fmt 0x3C00 1
    ∧ FiniteCode scaledFloat.fmt 0 0 ∧ (1 : ℝ) + 1 ≠ 0 ∧ (1 : ℝ) ≠ 0 ∧ RoundsInt 0 1 1 ∧ RoundsInt 4 1 1
    ∧ (∃ c, c = 1 * 2 ^ (scaledFloat.fmt.fe + scaledFloat.fmt.fm) + 31 * 2 ^ scaledFloat.fmt.fm + 0)
    ∧ 1 < 2 ∧ 31 < 2 ^ scaledFloat.fmt.fe ∧ 0 < 2 ^ scaledFloat.fmt.fm
    ∧ (0x3C00 < 2 ^ scaledFloat.fmt.width ∧ (scaledFloat.fmt.val 0x3C00).isNan = false ∧ (scaledFloat.fmt.val 0x7C01).isNan = true)
    ∧ (scaledLog.ew = 8 ∧ 0 < 64 ∧ 64 < 2 ^ (scaledLog.ew - 1)) ∧ IsReal (logVal 8 64 0) 1 := by
  have h1 : scaledFloat.fmt.val 0x3C00 = .fin false 1024 (-10) := by decide
  have h2 : scaledFloat.fmt.val 0 = .fin false 0 (-24) := by decide
  have h3 : logVal 8 64 0 = .fin false 1024 (-10) := by decide
  refine ⟨by unfold FmtOk; decide, ⟨by decide, _, _, _, h1, by norm_num⟩, ⟨by decide, _, _, _, h2, by norm_num⟩, by norm_num,
    by norm_num, ?_, ?_, ⟨_, rfl⟩, by decide, by decide, by decide, by decide, by decide, _, _, _, h3, by norm_num⟩
  · simp [RoundsInt]
  · simp [RoundsInt]

theorem witness_LaneMovesBetweenLanes_rows : base.fleet.errors = [] ∧ badRow.fleet.errors ≠ []
    ∧ (∃ f u, badRow.readRow 0 = (.error f, u)) ∧ (∃ u, badRow.readRow 32 = (.ok (), u))
    ∧ (∃ p u, badRow.readRows [32, 0] = (some p, u)) ∧ ∃ u, badRow.readRows [32] = (none, u) := by
  have h1 : (badRow.readRow 32).1 = .ok () := by decide
  have h2 : (badRow.readRows [32]).1 = none := by decide
  have h3 : (badRow.readRows [32, 0]).1.isSome = true := by decide
  obtain ⟨p, h3⟩ := Option.isSome_iff_exists.1 h3
  exact ⟨rfl, by decide, of_refused (by decide), ⟨_, pair_of h1⟩, ⟨p, _, Prod.ext h3 rfl⟩, ⟨_, Prod.ext h2 rfl⟩⟩

theorem witness_LaneMovesBetweenLanes : (∃ e, Heads (headed (.vslideup ⟨0, false⟩ false true 1 2 (.imm 5)) 0 0 0) e [])
    ∧ (∃ n s1, (headed (.vslideup ⟨0, false⟩ false true 1 2 (.imm 5)) 0 0 0).operandK (.imm 5) = some (n, s1) ∧ s1.vt.scaled = false)
    ∧ ∃ n s1, scaledState.operandK (.imm 5) = some (n, s1) ∧ s1.vt.scaled = true ∧ n % s1.vt.blen ≠ 0 :=
  ⟨heads_headed .., ⟨_, _, rfl, by decide⟩, _, _, rfl, by decide⟩

theorem witness_Reductions : (∃ e, Heads (headed (.vkth ⟨0, false⟩ (.queue 2) 1 (.scalar 4)) 0 2 0) e []) ∧ base.vt.kind ≤ 1
    ∧ (∃ k s1, (headed (.vkth ⟨0, false⟩ (.queue 2) 1 (.scalar 4)) 0 2 0).operandS (.scalar 4) = some (k, s1))
    ∧ (∃ v s2, (headed (.vpick ⟨0, false⟩ (.queue 2) 1 (.scalar 4)) 0 2 0).operandB (.scalar 4) = some (v, s2)) ∧ NoTrace base
    ∧ 2 ≤ (2 : QReg).val ∧ (base.t.q.get 2).length < 16
    ∧ 16 ≤ ((base.mapQ (fun q => { q with q3 := List.replicate 16 0 })).t.q.get 3).length
    ∧ (∃ n, base.kth 1 [0, 1, 2] 3 = some n) ∧ 2 ^ 64 - 1 < 2 ^ 64 :=
  ⟨heads_headed .., by decide, ⟨_, _, rfl⟩, ⟨_, _, rfl⟩, by unfold NoTrace; decide, by decide, by decide, by decide,
    Option.isSome_iff_exists.1 (by decide), by decide⟩

/-- Two lanes of masses 1 and 3; a lane of +∞; no mass. -/
def massed (l : List Nat) : State :=
  let s := base.mapL (fun x => { x with v := { x.v with vtype := 0x08 } })
  s.store ((List.range l.length).flatMap (fun n => s.elemCells 8 1 n (l.getD n 0)))

theorem witness_Reductions_pick :
    (let s := massed [1, 3]
     let pe := s.permitted 1 ⟨0, 2, [0, 1]⟩
     pe.1 = [0, 1] ∧ pe.1.find? (fun j => (s.value 1 j).isPosInf) = none ∧ 0 < ((s.masses 1 pe.1).map (·.2)).sum)
    ∧ (let s := massed [0, 0]; ((s.masses 1 (s.permitted 1 ⟨0, 2, [0, 1]⟩).1).map (·.2)).sum ≤ 0)
    ∧ (let s := (massed []).mapL (fun l => { l with v := { l.v with vtype := 0x29510 } })
       let s := s.store (s.elemCells 16 1 0 0x7C00)
       ((s.permitted 1 ⟨0, 1, [0]⟩).1.find? (fun j => (s.value 1 j).isPosInf)) = some 0) := by decide

theorem witness_SelectionAndScanResults : (∃ e, Heads (headed (.vtopk ⟨0, false⟩ false 1 2 .q0) 0 0 0) e [])
    ∧ (∃ k s1, (base.mapQ (fun q => { q with
        q0 := [3], lane := [⟨0, .instr, encode (.vtopk ⟨0, false⟩ false 1 2 .q0), 0x1000, 0, 0, 0, false, 16384⟩] })).operandS .q0
        = some (k, s1)) ∧ nucleus [(0, 1), (1, 3)] (2 ^ 31) = some 3 ∧ nucleus [] 1 = none
    ∧ (∃ x : ℝ, IsReal ((massed [1, 3]).value 1 1) x) := by
  refine ⟨heads_headed .., ⟨_, _, rfl⟩, by decide, by decide, ?_⟩
  have h : (massed [1, 3]).value 1 1 = .fin false 3 0 := by decide
  exact ⟨_, _, _, _, h, rfl⟩

def tabled : State := headed (.vtab ⟨0, false⟩ 1 4 2 2) 0x00FFFE0000002000 0 0
def microLoad : State := headed (.vmload 4 5 6) 0x00FFFE0000002000 4095 1
/-- A control word that ends a routine (R121). -/
def routined : State := { base with micro := [(4095, BitVec.ofNat 64 (2 * 2 ^ 62 + 2 * 2 ^ 60))] }

theorem witness_LookupDrawAndMicrocode :
    (∃ e, Heads tabled e [] ∧ e.a.toNat = 0x00FFFE0000002000) ∧ (∃ n r, tabled.actives ⟨0, false⟩ = n :: r)
    ∧ tabled.alignFault tabled.laneAgent .read (containerOf tabled.vt.ew) 0x00FFFE0000002000 (containerOf tabled.vt.ew) = none
    ∧ (∃ t s2, tabled.laneReads (containerOf tabled.vt.ew) 0x00FFFE0000002000 4 = (.ok t, s2))
    ∧ (∃ v s1, (headed (.vrand ⟨0, false⟩ 1 (.scalar 4)) 0 2 0).operandB (.scalar 4) = some (v, s1))
    ∧ (∃ ws s1, microLoad.laneReads 8 0x00FFFE0000002000 1 = (.ok ws, s1) ∧ (ws.map (BitVec.ofNat 64)).all microWordOk = true)
    ∧ 3072 ≤ (4095 : Word).toNat ∧ (4095 : Word).toNat + (1 : Word).toNat ≤ 4096 ∧ 0 < (1 : Word).toNat
    ∧ (0x00FFFE0000002000 : Word).toNat % 8 = 0
    ∧ microCheck (routined.microWord routined.uid) routined.vt ⟨1, 2, 3⟩ 1025 4095 [] = (true, true) ∧ routined.clusters = [] := by
  have h1 : tabled.actives ⟨0, false⟩ = [0, 1, 2, 3] := by decide
  have h2 : (microLoad.laneReads 8 0x00FFFE0000002000 1).1 = .ok [0] := by decide
  refine ⟨⟨_, rfl, by decide⟩, ⟨_, _, h1⟩, by decide, of_passes (by decide), ⟨_, _, rfl⟩, ⟨_, _, pair_of h2, by decide⟩, by decide,
    by decide, by decide, by decide, by decide, rfl⟩

/-- The words of the rounds of a draw (R257), from a counter, a lane, an identifier and a key. -/
def rounds (c n id key : Nat) (r : Nat) : BitVec 32 × BitVec 32 × BitVec 32 × BitVec 32 :=
  Nat.rec (BitVec.ofNat 32 c, BitVec.ofNat 32 (c / 2 ^ 32), BitVec.ofNat 32 n, BitVec.ofNat 32 id) (fun r x =>
    let k := fun i => BitVec.ofNat 32 (key / 2 ^ (32 * i))
    let x0 := x.1 + x.2.1
    let x3 := (x.2.2.2 ^^^ x0).rotateLeft ([16, 12, 8, 7].getD (r % 4) 0)
    let x2 := x.2.2.1 + x3
    let x1 := (x.2.1 ^^^ x2).rotateLeft ([13, 9, 17, 11].getD (r % 4) 0)
    (x0 ^^^ k (r % 4), x1, x2 ^^^ (k ((r + 2) % 4) + BitVec.ofNat 32 r), x3)) r

theorem witness_LookupDrawAndMicrocode_rounds :
    let k := fun i => BitVec.ofNat 32 (5 / 2 ^ (32 * i))
    let X := rounds 1 2 3 5
    2 < 2 ^ 32 ∧ 3 < 2 ^ 32 ∧ X 0 = (BitVec.ofNat 32 1, BitVec.ofNat 32 (1 / 2 ^ 32), BitVec.ofNat 32 2, BitVec.ofNat 32 3)
    ∧ ∀ r < 10, let x := X r
      let x0 := x.1 + x.2.1
      let x3 := (x.2.2.2 ^^^ x0).rotateLeft ([16, 12, 8, 7].getD (r % 4) 0)
      let x2 := x.2.2.1 + x3
      let x1 := (x.2.1 ^^^ x2).rotateLeft ([13, 9, 17, 11].getD (r % 4) 0)
      X (r + 1) = (x0 ^^^ k (r % 4), x1, x2 ^^^ (k ((r + 2) % 4) + BitVec.ofNat 32 r), x3) :=
  ⟨by decide, by decide, rfl, fun _ _ => rfl⟩

/-- An entry that names lane 1 of its segment and one that names none; factors and penalties that are numbers or none. -/
def entry1 : CountEnt := ⟨1, 2⟩
def table1 (f : Val) : CountTab := ⟨0, 0, .fin false 1 0, .fin false 1 0, f, .fin false 1 (-1)⟩

theorem witness_LookupDrawAndMicrocode_penalties :
    (entry1.id ≠ 0xFFFFFFFF ∧ 0 < entry1.count ∧ entry1.id = 1 - 0) ∧ entry1.id ≠ 0 - 0
    ∧ ((table1 .nan).pres.plus ((table1 .nan).freq.timesNat 2)).isNan = true
    ∧ ((table1 (.fin false 1 0)).pres.plus ((table1 (.fin false 1 0)).freq.timesNat 2)).isNan = false
    ∧ IsExt ((scaledFloat.fmt).val 0x3C00) 1 ∧ IsExt ((scaledFloat.fmt).val 0) 0 ∧ ((scaledFloat.fmt).val 0x7E00).isNan = true := by
  have h1 : (scaledFloat.fmt).val 0x3C00 = .fin false 1024 (-10) := by decide
  have h2 : (scaledFloat.fmt).val 0 = .fin false 0 (-24) := by decide
  refine ⟨by decide, by decide, by decide, by decide, .inl ⟨1, ⟨_, _, _, h1, by norm_num⟩, rfl⟩,
    .inl ⟨0, ⟨_, _, _, h2, by norm_num⟩, rfl⟩, by decide⟩

/-- A control word of each kind (R121), a pass and a compare-popcount pass; a loop of two that runs up or down. -/
theorem witness_LookupDrawAndMicrocode_routines :
    (∀ p ∈ [(0, 0), (2 ^ 62, 1), (2 ^ 63, 2)], wbits (BitVec.ofNat 64 p.1) 63 62 = p.2)
    ∧ (∀ k < 3, wbits (BitVec.ofNat 64 (2 ^ 63 + k * 2 ^ 60)) 63 62 = 2 ∧ wbits (BitVec.ofNat 64 (2 ^ 63 + k * 2 ^ 60)) 61 60 = k)
    ∧ (let m : Micro := ⟨base, [(0, 0)], 0, 0, [], []⟩
       let r : Roles := ⟨1, 2, 3⟩
       let x : Sel := ⟨true, true, true, true, 0, 15, false⟩
       let y : Sel := ⟨true, true, true, true, 3, 15, false⟩
       NoneAway m.s ∧ 0 < m.s.lanes ∧ (selColumn r x (selOffset x [])) = (true, 31) ∧ selColumn r y (selOffset y []) = (false, 15)
         ∧ (0, 0) ∈ m.scr) := by
  unfold NoneAway; decide

/-- A count table of one entry at 0x00FFFE0000002100, its descriptor at 0x00FFFE0000002000; one segment of four lanes. -/
def counted : State :=
  let s := (headed (.vscatl ⟨0, false⟩ 1 4) 0x00FFFE0000002000 0 0).mapL (fun l => { l with v := ⟨4, 1, 4, 0x90, false⟩ })
  poke s 0x00FFFE0000002000 0x00FFFE0000002100

/-- The descriptor of counted, read; and its entry, read after it. -/
def countedHead : Except AccFault (List Nat) × State := counted.laneReads 8 0x00FFFE0000002000 4
def countedEntry : Except AccFault (List Nat) × State := countedHead.2.laneReads 8 0x00FFFE0000002100 2

theorem countEnts_one (s t : State) (ln : Option Nat) (k a : Nat) (ws : List Nat)
    (h1 : s.alignFault s.laneAgent .read 16 a 16 = none) (h2 : s.laneReads 8 a 2 = (.ok ws, t)) (h3 : ws.getD 1 0 = 0) :
    s.countEnts ln (k + 1) 0 a 1 = (.ok ([⟨ws.getD 0 0 % 2 ^ 32, ws.getD 0 0 / 2 ^ 32⟩], k), t) := by
  have h4 : ∀ b, t.countEnts ln k 0 b 0 = (.ok ([], k), t) := fun b => by unfold State.countEnts; simp
  rw [State.countEnts]
  simp only [bne_self_eq_false, Bool.false_eq_true, ↓reduceIte, h1, h2, h3, h4, Nat.sub_self]
  simp

theorem countTab_of (s u v : State) (ln : Option Nat) (n a T : Nat) (r : List CountEnt × Nat)
    (h1 : s.alignFault s.laneAgent .read 32 a 32 = none) (h2 : s.laneReads 8 a 4 = (.ok [T, 0, 0, 0], u)) (h3 : u.alignFault u.laneAgent .read 16 T 16 = none)
    (h4 : u.countEnts ln n 0 T 1 = (.ok r, v)) (ha : a < 2 ^ 64) :
    ∃ t, s.countTab a 0 ln n = (.ok (t, r), v) := by
  have h0 : (a + 32 * 0) % 2 ^ 64 = a := by omega
  unfold State.countTab
  simp only [h0, h1, h2]
  simp [h3, h4]

theorem witness_LookupDrawAndMicrocode_counts :
    (∃ e, Heads counted e [] ∧ e.a.toNat = 0x00FFFE0000002000)
    ∧ ∃ t s3, counted.countTabs 0x00FFFE0000002000 (2 ^ 20) (counted.segs true ⟨0, false⟩) = (.ok t, s3) := by
  refine ⟨⟨_, rfl, by decide⟩, ?_⟩
  have g : counted.segs true ⟨0, false⟩ = [⟨0, 4, [0, 1, 2, 3]⟩] := by decide
  have h1 : countedHead.1 = .ok [0x00FFFE0000002100, 0, 0, 0] := by decide
  have h2 : countedEntry.1 = .ok [0, 0] := by decide
  have h3 : countedHead.2.alignFault countedHead.2.laneAgent .read 16 0x00FFFE0000002100 16 = none := by decide
  have h4 : counted.alignFault counted.laneAgent .read 32 0x00FFFE0000002000 32 = none := by decide
  have h5 : counted.t.l.v.outer 0 = 0 := by decide
  have e1 := countEnts_one countedHead.2 countedEntry.2 (some 0) (2 ^ 20 - 1) _ _ h3 (pair_of h2) rfl
  have e0 : counted.laneReads 8 0x00FFFE0000002000 4 = (.ok [0x00FFFE0000002100, 0, 0, 0], countedHead.2) := pair_of h1
  obtain ⟨t, e2⟩ := countTab_of counted _ _ (some 0) (2 ^ 20) 0x00FFFE0000002000 _ _ h4 e0 h3 e1 (by decide)
  rw [g]
  simp only [State.countTabs, h5, e2]
  exact ⟨_, _, rfl⟩


/-! ### Witnesses: vector memory -/

/-- base with one lane of n32. -/
def narrow : State := base.mapL (fun l => { l with v := ⟨1, 0, 0, 0xA0, false⟩ })

theorem witness_VectorMemoryAccesses : (∃ e, Heads (headed (.vld ⟨0, false⟩ 1 4 none 0) 0x00FFFF0000000000 0 0) e [])
    ∧ base.clusters = [] ∧ base.saved = []
    ∧ (∃ ls s1, base.check (base.elemAgent 3) .read (containerOf (intType true 16).ew) 0x00FFFF0000000000 = (.ok ls, s1))
    ∧ (∃ ls s1, base.check (base.elemAgent 3) .write (containerOf (intType true 16).ew) 0x00FFFF0000000001 = (.ok ls, s1))
    ∧ (∀ inOrder ∈ [true, false],
       let op : MemOp := ⟨0, .store 5, cells4 8, true, List.range 4, [], [], 0, 0x1000, 0, inOrder, 0, false⟩
       let s := base.mapL (fun l => { l with stores := [op] })
       s.t.l.stores[0]? = some op ∧ s.laneStoreFree 0 op = true
        ∧ op.locs = (List.range 4).map (fun i => Loc.cell (8 + i) (8 + i))) :=
  ⟨heads_headed .., rfl, rfl, of_passes (by decide), of_passes (by decide), by decide⟩

theorem witness_VectorMemoryAccesses_rows : (∃ s0, base.readRow 3 = (.ok (), s0)
      ∧ (∃ ls s1, s0.check (base.elemAgent 3) .write 2 0x00FFFF0000000001 = (.ok ls, s1))
      ∧ (∃ f s1, s0.check (base.elemAgent 3) .write 2 0x5000 = (.error f, s1)))
    ∧ (∃ f s1, base.check (base.elemAgent 3) .read 2 0x5000 = (.error f, s1)) ∧ (∃ f s0, badRow.readRow 0 = (.error f, s0))
    ∧ (∀ l ∈ cells4 8, base.homeTakes base.t.task.ctx l = true ∧ framedAway.homeTakes framedAway.t.task.ctx l = false)
    ∧ (∃ ls s1, base.check (base.elemAgent 0) .read 64 0x00FFFF0000000040 = (.ok ls, s1)) := by
  have h : (base.readRow 3).1 = .ok () := by decide
  exact ⟨⟨_, pair_of h, of_passes (by decide), of_refused (by decide)⟩, of_refused (by decide), of_refused (by decide), by decide,
    of_passes (by decide)⟩

/-- Loads of an instruction, one lane after the other: two that pass, one that faults; and in blocks of one lane. -/
theorem witness_VectorMemoryAccesses_each :
    (∃ s1, loadOne base.vt 1 (fun n => 0x00FFFE0000002000 + 2 * n) base 0 = (.ok (), s1))
    ∧ (∃ f s1, loadOne base.vt 1 (fun _ => 0x5000) base 0 = (.error f, s1))
    ∧ (∃ ls s1, loadScale scaledState.t.l.v scaledState.vt 0x00FFFE0000003000 scaledState 0 = (.ok ls, s1)
      ∧ ∃ s2, s1.eachLane (loadScaledOne scaledState.t.l.v scaledState.vt 1 0x00FFFE0000002000 0 ls 0) [0] = (none, s2))
    ∧ (∃ f s1, loadScale scaledState.t.l.v scaledState.vt 0x5000 scaledState 0 = (.error f, s1))
    ∧ blocksOf scaledState.t.l.v scaledState.vt.blen [0, 1, 31, 32] = [[0, 1, 31], [32]] := by
  obtain ⟨_, s1, h1⟩ := of_passes (x := loadOne base.vt 1 (fun n => 0x00FFFE0000002000 + 2 * n) base 0) (by decide)
  obtain ⟨ls, s2, h2⟩ := of_passes (x := loadScale scaledState.t.l.v scaledState.vt 0x00FFFE0000003000 scaledState 0) (by decide)
  have e2 : s2 = (loadScale scaledState.t.l.v scaledState.vt 0x00FFFE0000003000 scaledState 0).2 := by rw [h2]
  have h3 : ((loadScale scaledState.t.l.v scaledState.vt 0x00FFFE0000003000 scaledState 0).2.eachLane
    (loadScaledOne scaledState.t.l.v scaledState.vt 1 0x00FFFE0000002000 0 [] 0) [0]).1 = none := by decide
  have h4 : ∀ (u : State) (l : List Loc), (u.eachLane (loadScaledOne scaledState.t.l.v scaledState.vt 1 0x00FFFE0000002000 0 l 0) [0]).1
      = (u.eachLane (loadScaledOne scaledState.t.l.v scaledState.vt 1 0x00FFFE0000002000 0 [] 0) [0]).1 := by
    intro u l
    simp only [State.eachLane, loadScaledOne]
    generalize loadOne _ _ _ u 0 = x
    obtain ⟨_ | _, t⟩ := x <;> rfl
  refine ⟨⟨s1, h1⟩, of_refused (by decide), ⟨ls, s2, h2, _, Prod.ext ?_ rfl⟩, of_refused (by decide), by decide⟩
  rw [h4, e2]
  exact h3

theorem witness_IndexedForms_lanes : (∃ s0, base.readRow 3 = (.ok (), s0)
      ∧ (∃ ls s1, s0.check (base.elemAgent 3) .read 2 0x00FFFE0000002000 = (.ok ls, s1))
      ∧ (∃ f s1, s0.check (base.elemAgent 3) .read 2 0x5000 = (.error f, s1))
      ∧ (∃ ls s1, s0.check (base.elemAgent 3) .write 2 0x00FFFE0000002001 = (.ok ls, s1))
      ∧ (∃ f s1, s0.check (base.elemAgent 3) .write 2 0x5000 = (.error f, s1))
      ∧ (∃ ls s1, s0.check (base.elemAgent 3) (.atomic (AmoOp.hostOk .add)) (32 / 8) 0x00FFFE0000002000 = (.ok ls, s1))
      ∧ ∃ f s1, s0.check (base.elemAgent 3) (.atomic (AmoOp.hostOk .add)) (32 / 8) 0x00FFFE0000002002 = (.error f, s1))
    ∧ (∃ f s0, badRow.readRow 0 = (.error f, s0)) ∧ NoneAway base ∧ 3 < base.lanes := by
  have h : (base.readRow 3).1 = .ok () := by decide
  exact ⟨⟨_, pair_of h, of_passes (by decide), of_refused (by decide), of_passes (by decide), of_refused (by decide),
    of_passes (by decide), of_refused (by decide)⟩, of_refused (by decide), by unfold NoneAway; decide, by decide⟩

theorem witness_IndexedForms : (∃ e, Heads (headed (.vgather ⟨0, false⟩ 0 1 4 2) 0x00FFFE0000002000 0 0) e [])
    ∧ ∃ r s1, base.eachMarked (gatherOne base.vt (base.opA 4) 0 1 2) (base.pendingLanes ⟨0, false⟩) = (r, s1) :=
  ⟨heads_headed .., _, _, rfl⟩

/-- An arrive of the lanes of m0 at the barrier at s4, at the head of the lane queue; the same of the lanes of m1. -/
def arriving (m : MReg) : State := narrow.mapQ (fun q => { q with
  lane := [⟨0, .instr, encode (.arrive 4 m .unit), 0x1000, 0x00FFFE0000002000, 0, 0, false, 16384⟩] })

theorem witness_LaneSynchronisationAndBarriers : (∃ e, Heads (arriving 0) e [])
    ∧ ((arriving 0).drainLane.t.l.flush = false ∧ (arriving 0).drainLane.t.r.entries = [] ∧ (arriving 0).drainLane.accOpen = false)
    ∧ (∃ s1, (arriving 0).drainLane.vredLanes .add 0 4 2 3 ((arriving 0).drainLane.pendingLanes ⟨0, false⟩) = (none, s1))
    ∧ (∃ s1, (arriving 0).vamoLanes .add 0 1 4 2 3 ((arriving 0).pendingLanes ⟨0, false⟩) = (none, s1)
      ∧ s1.drainLane.t.l.flush = false ∧ s1.drainLane.t.r.entries = [] ∧ s1.drainLane.accOpen = false)
    ∧ ((arriving 1).drainLane.actives noGuard).filter ((arriving 1).drainLane.mask 1) = []
    ∧ (((arriving 0).drainLane.actives noGuard).filter ((arriving 0).drainLane.mask 0)).length = 1
    ∧ (∃ ls s1, (arriving 0).drainLane.check (arriving 0).drainLane.laneAgent (.atomic false) 16
        ((arriving 0).drainLane.opA 4).toNat = (.ok ls, s1))
    ∧ 0 < 3 ∧ barrierStep 3 2 7 1 = some (0, 8) := by
  have h1 : ((arriving 0).drainLane.vredLanes .add 0 4 2 3 ((arriving 0).drainLane.pendingLanes ⟨0, false⟩)).1 = none := by decide
  have h2 : ((arriving 0).vamoLanes .add 0 1 4 2 3 ((arriving 0).pendingLanes ⟨0, false⟩)).1 = none := by decide
  exact ⟨⟨_, rfl⟩, by decide, ⟨_, pair_of h1⟩, ⟨_, pair_of h2, by decide⟩, by decide, by decide, of_passes (by decide), by decide,
    by decide⟩

/-- An racc of one lane at the head of the lane queue. -/
def accumulating : State := narrow.mapQ (fun q => { q with
  lane := [⟨0, .instr, encode (.racc ⟨⟨0, false⟩, 0⟩ .i32 1 4 2), 0x1000, 0x00FFFE0000002000, 0, 0, false, 16384⟩] })

def accTargets : List Target × List (Nat × AccFault) × State :=
  accumulating.targets 0 (accumulating.indexAddr (accumulating.opA 4) 0 2 4) (accumulating.pendingLanes ⟨0, false⟩) [] []

theorem witness_ResidualAccumulation : (∃ e, Heads accumulating e [])
    ∧ ∃ ts s1, accumulating.targets 0 (accumulating.indexAddr (accumulating.opA 4) 0 2 4) (accumulating.pendingLanes ⟨0, false⟩) [] []
      = (ts, [], s1) ∧ ts ≠ [] ∧ s1.accWaits = false := by
  have h1 : accTargets.2.1 = [] := by decide
  have h2 : accTargets.1.length ≠ 0 := by decide
  have h3 : accTargets.2.2.accWaits = false := by decide
  have e : accTargets = (accTargets.1, [], accTargets.2.2) := Prod.ext rfl (pair_of h1)
  exact ⟨⟨_, rfl⟩, _, _, e, fun h => h2 (by rw [h]; rfl), h3⟩

/-- Two addends of one line and instruction; an entry of their line in the residual tile, idle, or with a request of the line
outstanding. -/
def addends : List Addend := [⟨1, 64, 0, 0, 5, 0, 0x1000⟩, ⟨1, 64, 0, 1, 7, 0, 0x1000⟩]
def placing (entries : List REntry) (reqs : List AccReq) : State :=
  ({ base with reqs := reqs } : State).mapR (fun r => { r with place := addends, entries := entries })

/-- The entry of another type keeps them waiting. -/
def placingNot : State := placing [{ REntry.new 0 64 1 with valid := 1, fl := true }] []

theorem witness_ResidualAccumulation_placement :
    (placing [] []).t.r.place = addends.headD ⟨0, 0, 0, 0, 0, 0, 0⟩ :: addends.tail ∧ base.t.r.place = []
    ∧ (∃ s1, (placing [] []).placeLine 64 0 [(0, 5), (1, 7)] (0, 0x1000) = (true, s1))
    ∧ (∃ s1, placingNot.placeLine 64 0 [(0, 5), (1, 7)] (0, 0x1000) = (false, s1))
    ∧ (let s := placing [REntry.new 0 64 0] []
       s.fleet.errors = [] ∧ s.t.r.find 64 0 = some (REntry.new 0 64 0) ∧ s.t.r.otherType 64 0 = none
        ∧ s.lineBusy 64 = false ∧ s.t.r.lineHeld 64 = false)
    ∧ (let s := placing [REntry.new 0 64 0] [⟨9, 1, 0, 1, 64, 0, [(0, 1)], some 0, false, .sent, false, false, none, false⟩]
       s.fleet.errors = [] ∧ s.t.r.find 64 0 = some (REntry.new 0 64 0) ∧ s.t.r.otherType 64 0 = none ∧ s.lineBusy 64 = true)
    ∧ (let xs : List (Target × Nat) := [(⟨0, 64, cells4 64⟩, 1), (⟨1, 68, cells4 68⟩, 2), (⟨2, 72, cells4 72⟩, 3)]
       let new := lineAddends 0 0 0x1000 xs
       new.length = 3 ∧ (new.map (·.vline)) = [1, 1, 1]) := by
  have h1 : ((placing [] []).placeLine 64 0 [(0, 5), (1, 7)] (0, 0x1000)).1 = true := by decide
  have h2 : (placingNot.placeLine 64 0 [(0, 5), (1, 7)] (0, 0x1000)).1 = false := by decide
  exact ⟨by decide, rfl, ⟨_, Prod.ext h1 rfl⟩, ⟨_, Prod.ext h2 rfl⟩, by decide, by decide, by decide⟩

/-! ### Witnesses: copies, matrices, streams -/

/-- Copy 5 of task 1, of one byte in the scratchpad, to token register s1; nothing done yet, or ended. -/
def copy5 (todo : List Nat) : Copy :=
  { (copyOf 5 0 1 1 1 0 (0x00FFFE0000002000 + 0x00FFFE0000003000 * 2 ^ 64) 0x1000) with todo := todo, cleared := todo.isEmpty }
def copying (todo : List Nat) : State := { base with copies := [copy5 todo] }
def blockRead : Except AccFault (List Word) × State := base.drainAccs.loadWords (base.reg 4) 8

theorem witness_CopiesRunToTheirEnd : NoToken base [1, 4] ∧ base.alignFault base.ctlAgent .read 64 (base.reg 4).toNat 64 = none
    ∧ (base.copiesOf base.t.task.id).length < 16 ∧ blockRead = (.ok (List.replicate 8 0), blockRead.2)
    ∧ (copying [0]).copy? 5 = some (copy5 [0]) ∧ (copy5 [0]).fault = none ∧ (copy5 [0]).todo.contains 0 = true
    ∧ (∃ l s1 c' s2, (copying [0]).shuffle ((copy5 [0]).rest 0).length ((copy5 [0]).rest 0) = (l, s1)
      ∧ s1.copyMove (copy5 [0]) l = (.ok (), c', s2))
    ∧ (∃ src dst s1, (copying [0]).copyCheck (copy5 [0]) 0 = (.ok (src, dst), s1)) ∧ (copying [0]).clusters = [] ∧ (copy5 [0]).olds = []
    ∧ (copying []).copy? 5 = some (copy5 []) ∧ (copy5 []).ended = true ∧ (copying []).t.task.id = (copy5 []).taskId
    ∧ (copying []).t.status ≠ .free ∧ (copy5 []).token < 64 ∧ (copy5 []).token ≠ 0 := by
  have h : blockRead.1 = .ok (List.replicate 8 0) := by decide
  have r : (copy5 [0]).rest 0 = [0] := by decide
  have h2 : ((copying [0]).copyMove (copy5 [0]) [0]).1 = .ok () := by decide
  obtain ⟨⟨src, dst⟩, s1, h3⟩ := of_passes (x := (copying [0]).copyCheck (copy5 [0]) 0) (by decide)
  refine ⟨by unfold NoToken; decide, by decide, by decide, pair_of h, by decide, by decide, by decide,
    ⟨[0], copying [0], _, _, by rw [r]; rfl, Prod.ext h2 rfl⟩, ⟨src, dst, s1, h3⟩, by decide, by decide, by decide, by decide,
    by decide, by decide, by decide, by decide⟩

theorem witness_CopiesRunToTheirEnd_units :
    (copy5 [0]).unit 0 = 1 ∧ (∀ o, o ∈ (copy5 [0]).unitsLeft 0 ↔ o = 0)
    ∧ (copying [0]).copy? (copy5 [0]).id = some (copy5 [0]) ∧ (copy5 [0]).rest 0 ≠ []
    ∧ (∃ src dst s1, (copying [0]).free.2.copyCheck (copy5 [0]) (((copy5 [0]).rest 0).getD
        ((copying [0]).free.1 % ((copy5 [0]).rest 0).length) 0) = (.ok (src, dst), s1))
    ∧ (copy5 [0]).unitsLeft 0 ≠ [] ∧ (copying [0]).clusters = [] ∧ (copy5 [0]).olds = [] := by
  have r : (copy5 [0]).rest 0 = [0] := by decide
  have u : (copy5 [0]).unitsLeft 0 = [0] := by decide
  have k : (([0] : List Nat)).getD ((copying [0]).free.1 % ([0] : List Nat).length) 0 = 0 := by simp [Nat.mod_one]
  obtain ⟨⟨src, dst⟩, s1, h⟩ := of_passes (x := (copying [0]).free.2.copyCheck (copy5 [0]) 0) (by decide)
  exact ⟨by decide, fun o => by simp [u], by decide, by simp [r], ⟨src, dst, s1, by rw [r, k]; exact h⟩, by simp [u], rfl, rfl⟩

/-- An mmul of two lanes of i8 with one row and one column at the head of the lane queue; and in progress. -/
def multiplying (mm : List MmState) : State :=
  (headed (.mmul ⟨0, false⟩ 0 1 4) 0 0 0).mapL (fun l => { l with
    v := ⟨2, 0, 0, 8, false⟩, mcfg := 0, mm := mm })

theorem witness_MatrixSteps : (∃ e, Heads (multiplying []) e []) ∧ (multiplying []).clusters = []
    ∧ (let s := multiplying []
       s.away = [] ∧ s.t.l.kept = [] ∧ s.t.l.early = [] ∧ s.fleet.errors = []
        ∧ ((multiplying []).mapL (fun l => { l with v := { l.v with vl := 0 } })).actives ⟨0, false⟩ = []
        ∧ s.regionOwned 0 (0 + s.mc.presenceBytes 2) = true ∧ s.regionOwned 0 (regionEnd s.mc (s.presence s.mc 0 2) 0 2) = true)
    ∧ (let m : MmState := ⟨⟨0, .instr, encode (.mmul ⟨0, false⟩ 0 1 4), 0x1000, 0, 0, 0, false, 16384⟩, 0, 0, [], ⟨2, 0, 0, 8, false⟩, 0,
         [0, 1], []⟩
       let s := multiplying [m]
       let s1 := s.setUnit s.uid { s.unitSt s.uid with served := siteThread s.t.site }
       s.t.l.mm = [m] ∧ m.entry.instr = some (.mmul ⟨0, false⟩ 0 1 4)
       ∧ s1.fleet.errors = [] ∧ s.clusters = []
       ∧ m.act.filter (fun l => (stepLanes m.v.vl m.next).contains l && decide (l < m.entry.lanes)
         && m.hasBlock (MCfg.of m.mcfg) l) ≠ [] ∧ m.early = []
       ∧ m.v.vl ≤ m.next + (stepLanes m.v.vl m.next).length
       ∧ (let u := (multiplying []).mapL (fun l => { l with kept := [m], keptStart := 1 })
          u.t.l.kept = m :: [] ∧ u.t.q.lane = [m.entry]))
    ∧ 0 + (stepLanes 1025 0).length < 1025 :=
  ⟨heads_headed .., by decide⟩

/-- Where no stored bit is in error, an mmul meets none. -/
theorem meet_none (s : State) (h : s.fleet.errors = []) (cells : List Nat) (c : MCfg) (tile : Nat) (l : List (Nat × Nat))
    (act : List Nat) : s.meet cells = (none, s) ∧ s.stepMeets c tile l act = (none, s) := by
  simp [State.meet, State.stepMeets, h]

/-- An mstm of one row and one column at the head of the lane queue. -/
def storing : State := (headed (.mstm 4 0 4 none) 0x00FFFE0000002000 0 0).mapL (fun l => { l with mcfg := 0 })

theorem witness_MatrixSteps_stores : (∃ e, Heads storing e []) ∧ storing.fleet.errors = []
    ∧ ∃ s1, storing.putAll (storing.mstmStores storing.mc 0 0x00FFFE0000002000 0 4) = (.ok (), s1) := by
  have h : (storing.putAll (storing.mstmStores storing.mc 0 0x00FFFE0000002000 0 4)).1 = .ok () := by decide
  exact ⟨⟨_, rfl⟩, rfl, _, pair_of h⟩

/-- A stream descriptor at s4: type 0x90, one level, dense, of size 5. -/
def described : State :=
  let s := headed (.zopen 1 4 0 0) 0x00FFFE0000002000 0 0
  poke (poke (poke s 0x00FFFE0000002008 0x90) 0x00FFFE0000002010 1) 0x00FFFE0000002048 5
def headerRead : Except AccFault (List Word) × State := described.laneWords 0x00FFFE0000002000 8
def levelRead : Except AccFault (List Word) × State := headerRead.2.laneWords (0x00FFFE0000002000 + 64) 4

/-- A dense stream of five items, single or in a pair, at its first item. -/
def dense (mode partner : Nat) : Stream :=
  { Stream.closed with
    isOpen := true, endPos := 5, mode := mode, partner := partner, bounds := true, lrec := ⟨0, 5, 0, 0⟩ }

/-- base with a zadv at the head of the lane queue, z1 a dense stream; z1 and z2 in intersection. -/
def streaming : State := (headed (.zadv 1) 0 3 0).mapL (fun l => { l with z := l.z.set 1 (dense 0 0) })
def merging : State := (headed (.zldM ⟨0, false⟩ 1 1) 0 0 0).mapL (fun l => { l with
  z := (l.z.set 1 (dense 1 2)).set 2 (dense 1 1) })

theorem witness_StreamOpenMergeClose : (∃ e, Heads described e []) ∧ (described.zreg 1).isOpen = false
    ∧ (∃ h s1, headerRead = (.ok h, s1) ∧ headerOk h 0 = true ∧ s1 = headerRead.2)
    ∧ (∃ w s2, levelRead = (.ok w, s2) ∧ (⟨w.getD 0 0, w.getD 1 0, w.getD 2 0, w.getD 3 0⟩ : LevelRec).bad = false
      ∧ (⟨w.getD 0 0, w.getD 1 0, w.getD 2 0, w.getD 3 0⟩ : LevelRec).misaligned = none)
    ∧ (let s := streaming.mapL (fun l => { l with z := l.z.set 2 (dense 0 0) })
       (s.zreg 1).isOpen = true ∧ (s.zreg 2).isOpen = true ∧ (s.zreg 1).mode = 0 ∧ (s.zreg 2).mode = 0)
    ∧ (merging.zreg 1).isOpen = true
    ∧ described.alignFault described.laneAgent .read 64 0x00FFFE0000002000 64 = none := by
  have h1 : headerRead.1 = .ok [0, 0x90, 1, 0, 0, 0, 0, 0] := by decide
  have h2 : levelRead.1 = .ok [0, 5, 0, 0] := by decide
  exact ⟨⟨_, rfl⟩, by decide, ⟨_, _, pair_of h1, by decide, rfl⟩, ⟨_, _, pair_of h2, by decide, by decide⟩, by decide, by decide, by decide⟩

theorem witness_StreamItemsAndReadAhead : (∃ e, Heads streaming e [] ∧ e.b = 3) ∧ (streaming.zreg 1).isOpen = true
    ∧ (∃ p s1, streaming.pull 1 1 = (p, s1) ∧ p.trap = none) ∧ streaming.actives ⟨0, false⟩ ≠ []
    ∧ (∃ q s2, streaming.pull 1 (streaming.t.l.v.vl - streaming.t.l.vstart) = (q, s2) ∧ q.trap = none)
    ∧ (∃ e, Heads merging e []) ∧ (merging.zreg 1).isOpen = true ∧ (merging.zreg 1).mode ≠ 0
    ∧ (∃ q s2, merging.pull 1 (merging.t.l.v.vl - merging.t.l.vstart) = (q, s2) ∧ q.trap = none)
    ∧ (∃ s1, streaming.skipTo 1 3 = (.ok (), s1) ∧ (s1.zreg 1).mode = 0) ∧ (∃ s1, streaming.testEnd 1 = (.ok false, s1)) := by
  have h1 : (streaming.skipTo 1 3).1 = .ok () := by decide
  have h2 : (streaming.testEnd 1).1 = .ok false := by decide
  exact ⟨⟨_, rfl, rfl⟩, by decide, ⟨_, _, rfl, by decide⟩, by decide, ⟨_, _, rfl, by decide⟩, ⟨_, rfl⟩, by decide, by decide,
    ⟨_, _, rfl, by decide⟩, ⟨_, pair_of h1, by decide⟩, ⟨_, pair_of h2⟩⟩

theorem witness_StreamItemsAndReadAhead_none :
    let none' := fun (s : State) => s.mapL (fun l => { l with v := { l.v with vl := 0 } })
    (none' streaming).actives ⟨0, false⟩ = [] ∧ ((none' streaming).zreg 1).isOpen = true
    ∧ (none' merging).actives ⟨0, false⟩ = [] ∧ ((none' merging).zreg 1).isOpen = true ∧ ((none' merging).zreg 1).mode ≠ 0 := by
  decide

theorem witness_StreamItemsAndReadAhead_dense : NoTrace streaming
    ∧ (let r := streaming.zreg 1
       r.isOpen = true ∧ r.mode = 0 ∧ r.bounds = true ∧ r.lrec.kind = 0 ∧ r.pos < r.endPos ∧ r.endPos ≤ 2 ^ 48
       ∧ r.parent * r.lrec.size.toNat ≤ r.pos ∧ r.lv = false) := by
  unfold NoTrace; decide

/-- base with a stream of kind C whose pos array lies at an address: its first bound has been read ahead, its second not. -/
def ahead (a : Word) : State := base.mapL (fun l => { l with
  z := l.z.set 1 { Stream.closed with isOpen := true, lrec := ⟨1, 5, a, a⟩, ahead := [⟨a, 8, 0, none⟩] } })

theorem nextAhead_one {z : Stream} {x : Word × Nat} (h : z.unread = [x]) (n : Nat) : z.nextAhead n = some x := by
  simp [Stream.nextAhead, h, Nat.mod_one]

theorem witness_StreamItemsAndReadAhead_ahead :
    (∃ va n, ((ahead 0x00FFFE0000002000).zreg 1).nextAhead (ahead 0x00FFFE0000002000).free.1 = some (va, n)
      ∧ ∃ v s1, (ahead 0x00FFFE0000002000).free.2.load (ahead 0x00FFFE0000002000).free.2.laneAgent n va.toNat = (.ok v, s1))
    ∧ ∃ va n, ((ahead 0x5000).zreg 1).nextAhead (ahead 0x5000).free.1 = some (va, n)
      ∧ ∃ f s1, (ahead 0x5000).free.2.load (ahead 0x5000).free.2.laneAgent n va.toNat = (.error f, s1) ∧ f.detail = 0 := by
  have h1 : ((ahead 0x00FFFE0000002000).zreg 1).unread = [(0x00FFFE0000002008, 8)] := by decide
  have h2 : ((ahead 0x5000).zreg 1).unread = [(0x5008, 8)] := by decide
  have h3 : ((ahead 0x5000).free.2.load (ahead 0x5000).free.2.laneAgent 8 0x5008).1 = .error ⟨.memTranslation, 0, 0x5008, 1⟩ := by decide
  exact ⟨⟨_, _, nextAhead_one h1 _, of_passes (by decide)⟩, ⟨_, _, nextAhead_one h2 _, _, _, pair_of h3, rfl⟩⟩

/-! ### Witnesses: what happens beside the instructions -/

/-- An element of four bytes in flight to slot 1 of lane 0. -/
def element (amo : Option (AmoOp × Nat × Nat)) (got : List (Nat × Byte)) (scale : Option Bool) : Element :=
  ⟨0, 0x1000, 0, 128, 4, cells4 8, amo, got, scale, []⟩
/-- base with an element in flight. -/
def landing (e : Element) : State := base.mapL (fun l => { l with returns := [e] })

theorem witness_DataAndStoresInFlight_elements :
    (∀ e ∈ [element none [] none, element none [(0, 1), (1, 2)] none, element none [(0, 1), (1, 2), (2, 3)] (some true),
        element (some (.add, 1, 0)) [] none],
      let s := landing e
      s.t.l.returns[0]? = some e ∧ s.elementFree 0 e = true ∧ s.clusters = []
      ∧ (∀ l ∈ e.src, (s.elementPortion e).2.homeTakes s.t.task.ctx l = true)
      ∧ ((List.range e.src.length).filter (fun i => !e.got.any (fun p => p.1 == i)) ≠ [])
      ∧ (∀ l ∈ e.src, s.foreign s.t.task.ctx l = false) ∧ ∀ op ∈ s.t.l.stores, e.seq ≤ op.seq)
    ∧ (let e : Element := ⟨0, 0x1000, 0, 128, 16, [.cell 8 8, .cell 9 9], none, [(0, 1), (1, 2)], none, []⟩
       (landing e).elementPortion e = ([], landing e) ∧ e.src.length ≤ e.got.length)
    ∧ (let e := element none [(0, 1), (1, 2), (2, 3)] none
       (landing e).elementPortion e = ([3], landing e) ∧ e.src.length ≤ e.got.length + 1)
    ∧ (let e : Element := ⟨0, 0x1000, 0, 128, 4, [.rtile 0 0, .rtile 0 1], none, [], none, []⟩
       ∃ l ∈ e.src, l.inTile = true) := by
  exact ⟨by decide, ⟨rfl, by decide⟩, ⟨rfl, by decide⟩, by decide⟩

/-- An element of so many bytes that the free choice leaves one of them. -/
def wide : Element :=
  ⟨0, 0x1000, 0, 128, 4, List.replicate (base.free.2.free.1 + 2) (.cell 8 8), none, [], none, []⟩

theorem witness_DataAndStoresInFlight_partly : (landing wide).t.l.returns[0]? = some wide
    ∧ (landing wide).elementFree 0 wide = true ∧ (landing wide).clusters = []
    ∧ wide.got.length + ((landing wide).elementPortion wide).1.length < wide.src.length := by
  have h : (landing wide).elementPortion wide = (landing wide).someOf (List.range (base.free.2.free.1 + 2)) := by
    simp [State.elementPortion, wide, Loc.inTile]
  have l := someOf_leaves (landing wide) (base.free.2.free.1 + 2) (Nat.le_refl _)
  exact ⟨rfl, rfl, rfl, by rw [h]; simpa [wide] using l⟩

theorem witness_DataAndStoresInFlight :
    (∃ w, (base.mapT (fun t => { t with status := .blocked .bo })).t.status = .blocked w
      ∧ ((base.mapT (fun t => { t with status := .blocked .bo })).mapQ (fun q => { q with bo := [true] })).awaitOver w = true)
    ∧ (∀ p ∈ [(⟨1, 7, 0x1000⟩ : PendPush), ⟨2, 7, 0x1000⟩], let s := base.mapQ (fun q => { q with pend := some p })
        s.t.q.pend = some p ∧ p.queue ∈ [1, 2] ∧ (s.t.q.get (p.queue + 1)).length < 16)
    ∧ (let s := base.mapQ (fun q => { q with pend := some ⟨3, 1, 0x1000⟩ }); s.t.q.pend = some ⟨3, 1, 0x1000⟩ ∧ s.t.q.bo.length < 16)
    ∧ (let s := base.mapC (fun c => { c with loads := [(4, 9)] })
       (4 : SReg) ≠ 0 ∧ s.t.c.loads.find? (fun x => x.1 == (4 : SReg).val) = some ((4 : SReg).val, 9))
    ∧ (let op := onItsWay (.store 5) (2 ^ 36)
       let s := sending [onItsWay (.store 5) 8, op]
       s.t.c.accs[1]? = some op ∧ s.accFree 1 op = true ∧ op.whole = true ∧ op.sent = [] ∧ op.locs ≠ []
       ∧ op.left = List.range op.locs.length ∧ homeDie (siteDie s.t.site) op.locs ≠ siteDie s.t.site
       ∧ (s.chanFor s.t.site (homeDie (siteDie s.t.site) op.locs)).window.length < 64) := by
  exact ⟨⟨_, rfl, by decide⟩, by decide, by decide, by decide, by decide⟩

theorem witness_DataAndStoresInFlight_portion : let op := onItsWay (.store 5) (2 ^ 36)
    let s := sending [onItsWay (.store 5) 8, op]
    s.portion op = (op.left, s) ∧ op.left ≠ [] := ⟨rfl, by decide⟩

/-- A request of a channel, and a channel that holds it. -/
def chanReq (seq : Nat) (applied : Bool) : ChanReq := ⟨seq, 0, [0, 1, 2, 3], true, applied⟩
def channel (r : ChanReq) (expected : Nat) (refused : Option Nat) : Chan := ⟨0, 0, 1, 8, [r], expected, 0, refused, 0⟩

theorem witness_FabricDeliversOnce :
    (∀ p ∈ [(chanReq 3 true, 4), (chanReq 4 false, 3), (chanReq 3 false, 3)],
      let c := channel p.1 p.2 (some 3)
      let s : State := { base with chans := [c] }
      s.chan? c.id = some c ∧ c.window.find? (fun x => x.seq == p.1.seq && x.inFlight) = some p.1 ∧ c.refused = some 3
        ∧ c.window = p.1 :: [])
    ∧ (chanReq 3 true).applied = true ∧ (chanReq 4 false).applied = false ∧ (chanReq 4 false).seq ≠ 3
    ∧ (chanReq 3 false).seq = 3 := by decide

/-- An accumulate request, and base with it outstanding for entry 0 of the residual tile. -/
def request (phase : ReqPhase) : AccReq := ⟨9, 1, 0, 1, 64, 0, [(0, 1)], some 0, false, phase, false, false, none, false⟩
def requesting (r : AccReq) : State :=
  ({ base with reqs := [r] } : State).mapR (fun x => { x with entries := [{ REntry.new 0 64 0 with fl := true }] })

theorem witness_AccumulateRequests :
    (∀ p ∈ [ReqPhase.sent, .accepted, .refused], (requesting (request p)).req? (request p).id = some (request p))
    ∧ (requesting (request .sent)).pendingCount 64 < ((requesting (request .sent)).ctxD 1).rquota
    ∧ (let full := List.replicate 4 { request .accepted with id := 10 }
       ((requesting (request .sent)).ctxD 1).rquota
        ≤ ({ requesting (request .sent) with reqs := request .sent :: full } : State).pendingCount 64)
    ∧ ((requesting (request .accepted)).reqs.find?
        (fun x => x.line == 64 && x.phase == .accepted && !x.performed)).map (·.id) = some 9
    ∧ (∃ s1 e, (((requesting (request .accepted)).setReq { request .accepted with closed := true }).dropReq).focusTask 1 = some s1
      ∧ (some 0).bind (fun i => s1.t.r.entries.find? (fun e => e.idx == i)) = some e)
    ∧ (∃ s1 e, (({ requesting (request .refused) with
          reqs := (requesting (request .refused)).reqs.filter (fun x => x.id != 9) } : State).focusTask 1) = some s1
      ∧ (some 0).bind (fun i => s1.t.r.entries.find? (fun e => e.idx == i)) = some e) := by
  exact ⟨by decide, by decide, by decide, by decide, ⟨_, _, rfl, rfl⟩, ⟨_, _, rfl, rfl⟩⟩

theorem witness_ThreadEndEvents :
    (let s := base.mapT (fun t => { t with status := .blocked (.popQueue 2) })
     s.deadlocked (.popQueue 2) = true ∧ s.awaitOver (.popQueue 2) = false ∧ s.nothingDue = true)
    ∧ (let s := base.mapD (fun d => { d with watch := some 15 })
       s.t.dbg.watch = some 15 ∧ s.t.status = .running ∧ s.t.laneBusy = false ∧ s.accBusy = false)
    ∧ (let s := base.mapD (fun d => { d with stepping := true, ctl := 3 })
       s.t.dbg.stepping = true ∧ s.t.dbg.ctl.getLsbD 0 = true ∧ s.t.dbg.ctl.getLsbD 4 = false ∧ s.t.dbg.ctl.getLsbD 5 = false
       ∧ s.t.status = .running ∧ s.laneIdle = true)
    ∧ (let s := (requesting (request .sent)).mapT (fun t => { t with status := .exiting })
       s.t.status = .exiting ∧ s.laneIdle = true ∧ s.t.c.flush = false ∧ s.nothingHeld = false)
    ∧ (∀ f ∈ [true, false], let s := (base.mapT (fun t => { t with status := .exiting })).mapC (fun c => { c with flush := f })
       s.t.status = .exiting ∧ s.laneIdle = true ∧ (if s.t.c.flush then s.ctlFlushed else s.nothingHeld) = true ∧ s.exitLeft = false)
    ∧ (let r : FaultRec := ⟨Vector.replicate 8 1⟩
       let s : State := { base with host := { base.host with fqWait := [r], fqLsize := 6 } }
       (firstOfDies s.host.fqWait).getD (if (firstOfDies s.host.fqWait).length ≤ 1 then 0 else s.free.1 % (firstOfDies s.host.fqWait).length) 0 = 0
       ∧ s.host.fqWait[0]? = some r ∧ s.host.ringRoom = true ∧ NoneAway s ∧ s.fleet.errors = [] ∧ s.sec.owned = [] ∧ s.sec.seals = []
       ∧ ∀ c ∈ s.ctxs, c.conf = false) := by
  unfold NoneAway; decide

/-! ### Witnesses: outside, scheduling, commands, device events -/

theorem witness_AccessesFromOutside : base.power.on = true ∧ base.t.status = .running ∧ base.locked base.t.task.ctx = false
    ∧ (∀ x ∈ base.threads, x.dbg.stop = false) ∧ base.host.posted = [] ∧ PlainMemory base ∧ base.power.phase = 6 ∧ base.power.state < 4 ∧ 0 + 2 ^ 39 ≤ 2 ^ base.host.bar4
    ∧ base.host.hbmwin + 0 + 2 ^ 39 ≤ 2 ^ 39
    ∧ (let q : Queue := { Queue.reset 8191 with state := 1, lsize := 4, configured := true }
       let s := base.setQueue q
       (s.queue 8191).state = 1 ∧ wbits (16 : Word) 63 32 = 0 ∧ wbits (17 : Word) 63 32 = 0
        ∧ (wbits (16 : Word) 31 0 + 2 ^ 32 - (s.queue 8191).head) % 2 ^ 32 ≤ 2 ^ (s.queue 8191).lsize
        ∧ ¬ (wbits (17 : Word) 31 0 + 2 ^ 32 - (s.queue 8191).head) % 2 ^ 32 ≤ 2 ^ (s.queue 8191).lsize
        ∧ wbits (17 : Word) 31 0 ≠ (s.queue 8191).tail) := by unfold PlainMemory NoneAway; decide

/-- A queue of context 1 with a record at its head: entry 0x1000, one quad, one task, an event to wait for. -/
def queue0 : Queue := { Queue.reset 0 with
  base := 0x100000, tail := 1, ctx := 1, lsize := 4, maxprio := 15, weight := 1, state := 1, configured := true }
def queued (wev : Nat) : State :=
  let s := ((base.wrN 0x100000 8 0x1000).wrN 0x100008 8 (1 + 2 ^ 32)).wrN 0x100058 8 wev
  s.setQueue queue0
/-- Its head has been found eligible. -/
def eligible : State := (queued 0).setQueue { queue0 with probe := some (0, 0, 0), since := some 0 }

/-- A launch of context 1, of one task. -/
def launch1 : Launch := { launchOf 5 8192 recordWords 0 1 0 none with since := some 0 }
/-- base with a launch. -/
def launched (l : Launch) : State := { base with sched := { base.sched with launches := [l] } }

def recordFrom (s : State) : Except Nat Launch × State :=
  s.takeRecord { launchOf 1 0 recordWords 0x100000 0 15 none with prio := 0, selected := 0 } 1 true true
/-- eligible with its head taken, the next launch number used. -/
def headTaken : State :=
  let s : State := { eligible with sched := { eligible.sched with visit := 0 } }
  let s := s.setQueue { queue0 with head := 1 }
  { s with sched := { s.sched with nextId := 2 } }

theorem witness_SchedulingAndSaving_selection :
    base.power.running = true
    ∧ eligible.choose = some (0, 0, { eligible.sched with visit := 0 })
    ∧ (eligible.queue 0).headwb = 0 ∧ eligible.fleet.errors = []
    ∧ (eligible.ringMet ((eligible.queue 0).slot (eligible.queue 0).head) 128).ringWords
        ((eligible.queue 0).slot (eligible.queue 0).head) = some recordWords
    ∧ ((eligible.queue 0).since.isSome && ((eligible.queue 0).probe.map (·.2)) == some (0, 0)) = true
    ∧ (∃ l s2, recordFrom headTaken = (.ok l, s2))
    ∧ (let s := launched { launch1 with pooled := true }
       s.choose = some (8192, 0, { s.sched with visit := 8192, deficits := [(8192, 254)] })
        ∧ s.poolHead 8192 = some { launch1 with pooled := true } ∧ s.lateReasons { launch1 with pooled := true } = []) := by
  refine ⟨by decide, by decide, by decide, by decide, by decide, by decide, ?_, by decide⟩
  have h : (match (recordFrom headTaken).1 with | .ok _ => true | .error _ => false) = true := by decide
  revert h
  generalize recordFrom headTaken = x
  obtain ⟨_ | l, s⟩ := x
  · simp
  · exact fun _ => ⟨_, _, rfl⟩

def eventRead : Except AccFault Nat × State := (queued 0xFF800000000000).distLoad 1 0xFF800000000000

theorem witness_SchedulingAndSaving_reread :
    (∀ l ∈ (queued 0).sched.launches, l.source ≠ 0) ∧ ((queued 0).queue 0).present = true ∧ ((queued 0).queue 0).since = none
    ∧ (queued 0).ringRead (((queued 0).queue 0).slot ((queued 0).queue 0).head + 8) = some (1 + 2 ^ 32)
    ∧ (queued 0).ringRead (((queued 0).queue 0).slot ((queued 0).queue 0).head + 88) = some 0
    ∧ (queued 0).ringRead (((queued 0).queue 0).slot ((queued 0).queue 0).head + 96) = some 0
    ∧ (let s := queued 0xFF800000000000
       s.ringRead ((s.queue 0).slot (s.queue 0).head + 88) = some 0xFF800000000000
        ∧ ∃ s1, s.distLoad (s.queue 0).ctx 0xFF800000000000 = (.ok 0, s1) ∧ s1.sched.launches = s.sched.launches) := by
  have h : eventRead.1 = .ok 0 := by decide
  exact ⟨by decide, by decide, by decide, by decide, by decide, by decide, by decide, ⟨_, pair_of h, by decide⟩⟩

/-- base with a launch whose one task waits, all its pages on die 0. -/
def waiting : State := launched { launch1 with todo := [0], pages := [(0, 0, 1)] }
/-- base with a launch of which nothing is left. -/
def finished : State := launched launch1

theorem witness_SchedulingAndSaving_placement :
    (∃ l g t, firstTurn (fun p => p.1.turn p.2) ((waiting.sendNext.sendPackage (waiting.partOf 0)).waiters.filter
        (fun p => p.1.targetOf p.2 == some 0)) = some (l, g)
      ∧ (waiting.sendNext.sendPackage (waiting.partOf 0)).heldBack 0 (l.turn g) = false
      ∧ (waiting.sendNext.sendPackage (waiting.partOf 0)).placeGroup l g 0 = some t)
    ∧ finished.launch? 5 = some launch1 ∧ launch1.over = true ∧ launch1.steps = 0 ∧ launch1.stat = 0 ∧ launch1.sev = 0
    ∧ launch1.interrupt = false := by
  have h1 : firstTurn (fun p => p.1.turn p.2) ((waiting.sendNext.sendPackage (waiting.partOf 0)).waiters.filter
      (fun p => p.1.targetOf p.2 == some 0)) = some ({ launch1 with todo := [0], pages := [(0, 0, 1)], targets := [(0, 0)] }, 0) := by
    decide
  have h2 : ((waiting.sendNext.sendPackage (waiting.partOf 0)).placeGroup
      { launch1 with todo := [0], pages := [(0, 0, 1)], targets := [(0, 0)] } 0 0).isSome = true := by decide
  exact ⟨⟨_, _, _, h1, by decide, (Option.eq_some_of_isSome h2)⟩, by decide⟩

theorem witness_SchedulingAndSaving_bound :
    base.fleet.errors = [] ∧ (∃ t, State.bindOne launch1 base 0 (dieUnits 0) = some t) ∧ launch1.placeLevel = none
    ∧ (∃ t, (launch1.groupTasks 0).foldl (fun o k => o.bind (fun s => State.bindOne launch1 s k (dieUnits 0)))
        (some finished) = some t ∧ t.launch? launch1.id = some launch1)
    ∧ 1 ∈ (base.freeQuads 0).take launch1.quads := by
  have h1 : (State.bindOne launch1 base 0 (dieUnits 0)).isSome = true := by decide
  have h2 : (match (launch1.groupTasks 0).foldl (fun o k => o.bind (fun s => State.bindOne launch1 s k (dieUnits 0)))
    (some finished) with | some t => t.launch? launch1.id == some launch1 | none => false) = true := by decide
  refine ⟨rfl, ⟨_, Option.eq_some_of_isSome h1⟩, by decide, ?_, by decide⟩
  revert h2
  generalize (launch1.groupTasks 0).foldl _ _ = x
  cases x with
  | none => simp
  | some t => exact fun h => ⟨t, rfl, by simpa using h⟩

/-- A launch with a status word and a signal event in a scratchpad, done but for them. -/
def signalling : Launch := { launch1 with words := (recordWords.set 13 0xFF800000000040).set 14 0xFF800000000000 }
def statusPut : Except AccFault Unit × State :=
  (launched signalling).distPut signalling.ctx signalling.stat (signalling.status.1 + signalling.status.2 * 256)
def eventAdded : Except AccFault Unit × State :=
  (statusPut.2.setLaunch { signalling with steps := 1 }).distAdd signalling.ctx signalling.sev

theorem witness_SchedulingAndSaving_completion : signalling.over = true ∧ signalling.steps = 0 ∧ signalling.stat ≠ 0
    ∧ signalling.sev ≠ 0 ∧ (launched signalling).launch? 5 = some signalling
    ∧ statusPut = (.ok (), statusPut.2) ∧ statusPut.2.launch? 5 = some signalling
    ∧ eventAdded = (.ok (), eventAdded.2)
    ∧ (let l := { signalling with steps := 2 }
       ((((eventAdded.2.wakeParent { signalling with steps := 1 }).setLaunch l).rereadPart
          (eventAdded.2.ctxPart signalling.ctx)).launch? 5) = some l ∧ l.over = true ∧ l.steps = 2) := by
  have h1 : statusPut.1 = .ok () := by decide
  have h2 : eventAdded.1 = .ok () := by decide
  exact ⟨by decide, by decide, by decide, by decide, by decide, pair_of h1, by decide, pair_of h2, by decide⟩

/-- A thread of base saved, its launch still there. -/
def saved1 : Saved := ⟨{ thread1 with task := ⟨1, 1, 5, 0, 0, 0, 0, 1, false⟩ }, false, [], true, none⟩
def resting : State := { booted with
  ctxs := [ctx1], saved := [saved1], sched := { Sched.empty with launches := [launch1] } }

theorem witness_SchedulingAndSaving_saved :
    (let s := base.mapT (fun t => { t with status := .preempting, preempt := .soft })
     s.t.laneBusy = false ∧ s.t.q.lane = [] ∧ s.t.r.entries = [] ∧ s.accOpen = false ∧ s.t.c.loads = [] ∧ s.t.c.accs = [] ∧ s.t.l.returns = []
      ∧ s.t.l.stores = [] ∧ s.t.l.going = [] ∧ s.copies = [] ∧ slotBaseOf s.ctxT s.t.task.slot + 21 * 2 ^ 20 ≤ 2 ^ 39
      ∧ ∀ c ∈ s.ctxs, c.ucode + 8192 ≤ 2 ^ 39)
    ∧ resting.saved.find? (fun y => y.th.task.id == saved1.th.task.id) = some saved1 ∧ resting.groupReady saved1 = true
    ∧ resting.savedGroup saved1 = [saved1]
    ∧ resting.launch? saved1.th.task.launch = some launch1 ∧ launch1.boundLevel = none
    ∧ ∃ t, State.resumeOne launch1 resting saved1.th.task.ordinal (((resting.partDies (resting.ctxPart launch1.ctx)).filter
        (fun d => !resting.heldBack d (resting.savedTurn saved1))).flatMap dieUnits) = some t := by
  have h : (State.resumeOne launch1 resting saved1.th.task.ordinal (((resting.partDies (resting.ctxPart launch1.ctx)).filter
    (fun d => !resting.heldBack d (resting.savedTurn saved1))).flatMap dieUnits)).isSome = true := by decide
  exact ⟨by decide, by decide, by decide, by decide, by decide, by decide, _, Option.eq_some_of_isSome h⟩

theorem witness_SchedulingAndSaving_resumed :
    (let m : MoveUnit := ⟨0, 0, 1, 0, 0, [], false⟩; m.stays 0 [0] = false)
    ∧ (let m : MoveUnit := ⟨0, 0, 1, 0, 0, [], true⟩; m.stays 1 [0] = false ∧ m.stays 0 [0] = true) := by decide

/-- A state with a mailbox command in progress. -/
def cmd (s : State) (args : Vector Word 7) (trusted : Bool) : State :=
  { s with host := { s.host with mbox := { Mailbox.zero with stat := BitVec.ofNat 64 (2 ^ 62), args := args, trusted := trusted } } }

theorem cmd_inProgress (s : State) (args : Vector Word 7) (trusted : Bool) : InProgress (cmd s args trusted) :=
  ⟨by simp only [cmd, Mailbox.busy]; decide, rfl⟩

theorem witness_QueueCommands : InProgress (cmd base #v[8192, 0, 0, 0, 0, 0, 0] false) ∧ 8191 < (cmd base #v[8192, 0, 0, 0, 0, 0, 0] false).arg 0
    ∧ (let s := cmd base #v[0, 0x100000, 0, BitVec.ofNat 64 (1 + 2 ^ 20 + 12 * 2 ^ 28), 2047, 0, 0] false
       InProgress s ∧ s.arg 0 ≤ 8191 ∧ s.arg 1 % 4096 = 0 ∧ s.arg 2 % 8 = 0 ∧ bits (s.arg 3) 31 28 ≤ 12 ∧ bits (s.arg 3) 27 20 ≠ 0
        ∧ s.arg 4 ≤ 2047 ∧ s.arg 4 ≠ 1 ∧ s.arg 4 ≠ 2 ∧ (s.ctx? (bits (s.arg 3) 15 0)).isSome = true ∧ inHbmOrHost (s.arg 1) = true
        ∧ s.arg 2 = 0 ∧ s.inPartition (s.arg 0 / 1024) (s.ctxPart (bits (s.arg 3) 15 0)) = true
        ∧ (let u : State := { s with power := { s.power with dies := 0xFE } }
           u.inPartition (u.arg 0 / 1024) (u.ctxPart (bits (u.arg 3) 15 0)) = false) ∧ (s.queue 0).state = 0
        ∧ ((s.setQueue queue0).queue 0).state = 1 ∧ ((s.setQueue queue0).queue 0).configured = true)
    ∧ (let s := cmd base #v[8191, 0xFFF, 0, 0, 0, 0, 0] false
       bits (s.arg 1) 11 4 ≠ 0 ∧ s.arg 1 < 2 ^ 12 ∧ (s.queue (s.arg 0)).state ≠ 1) := by unfold InProgress; decide

/-- A context record at 0x300000, as R394 has it. -/
def withRecord : State :=
  let s := (cmd base #v[1, 0x300000, 0, 0, 0, 0, 0] false).wrN 0x300000 8 0x100000
  let s := (s.wrN 0x300008 8 0x1000).wrN 0x300010 8 0x2000
  let s := (s.wrN 0x300018 8 0x400000).wrN 0x300020 4 1
  (s.wrN 0x300025 1 4).wrN 0x300040 8 0x2000

/-- Its context as it stands before CTXMOD. -/
def recordCtx : Ctx := withRecord.readCtx 1 0x300000

theorem witness_ContextCommands_record :
    (let s : State := { withRecord with ctxs := [] }
     InProgress s ∧ 0 < s.arg 0 ∧ s.arg 0 < 65536 ∧ s.badRecord (s.readCtx (s.arg 0) (s.arg 1)) (s.arg 1) = false
      ∧ s.fleet.errors = [] ∧ s.ctx? (s.arg 0) = none ∧ (s.readCtx (s.arg 0) (s.arg 1)).conf = false)
    ∧ (let s : State := { withRecord with ctxs := [recordCtx], t := Thread.fresh 0 }
       (s.ctx? (s.arg 0)).isSome = true ∧ s.fleet.errors = [] ∧ s.badRecord (s.readCtx (s.arg 0) (s.arg 1)) (s.arg 1) = false
        ∧ s.readCtx (s.arg 0) (s.arg 1) = s.ctxD (s.arg 0) ∧ s.boundThreads (s.arg 0) = [] ∧ (∀ l ∈ s.sched.launches, l.ctx ≠ s.arg 0)
        ∧ (∀ x ∈ s.saved, x.th.task.ctx ≠ s.arg 0) ∧ (∀ q ∈ s.sched.queues, q.configured = true → q.ctx ≠ s.arg 0)
        ∧ s.sec.owned = [] ∧ s.arg 1 % 4096 = 0) := by unfold InProgress; decide +kernel

theorem witness_ContextCommands_tasks :
    (let s := cmd base #v[0x1000, 16, 0, 0, 0, 0, 0] false
     s.arg 0 % 4096 = 0 ∧ inHbmOrHost (s.arg 0) = true ∧ 6 ≤ s.arg 1 ∧ s.arg 1 ≤ 16 ∧ s.host.fqTail = s.host.fqHead
      ∧ s.sched.tokens.find? (fun p => p.1 == s.arg 0) = none)
    ∧ (let s := cmd { base.mapT (fun t => { t with status := .faulted 7 }) with
          sched := { base.sched with tokens := [(7, .task 1 5)] } } #v[7, 0, 0, 0, 0, 0, 0] false
       InProgress s ∧ s.sched.tokens.find? (fun p => p.1 == s.arg 0) = some (s.arg 0, .task s.t.task.id 5)
        ∧ s.t.status = .faulted (s.arg 0) ∧ s.t.task.ended = false ∧ s.t.dbg.ctl.getLsbD 2 = false ∧ s.arg 1 = 0)
    ∧ (let s := cmd resting #v[1, 0, 2, 0, 0, 0, 0] false
       InProgress s ∧ bits (s.arg 2) 2 1 = 1 ∧ ∃ x ∈ s.saved, x.th.task.ctx = s.arg 0 ∧ x.evicted = none) := by
  unfold InProgress; decide

/-- PREEMPT of the thread of base. -/
def preempting (hard : Word) : State := cmd base #v[1, 0, hard, 0, 0, 0, 0] false

theorem witness_ContextCommands_preempt :
    (preempting 0).t.task.ended = false ∧ ((preempting 0).arg 1 = (preempting 0).t.site ∧ (preempting 0).t.task.ctx = (preempting 0).arg 0
      ∧ (preempting 0).t.status = .running ∧ bits ((preempting 0).arg 2) 2 1 = 0)
    ∧ ((preempting 1).arg 1 = (preempting 1).t.site ∧ (preempting 1).t.task.ctx = (preempting 1).arg 0
      ∧ (preempting 1).t.status = .running ∧ bits ((preempting 1).arg 2) 2 1 = 0) := by decide

theorem witness_ContextCommands_range :
    ((preempting 0).inRange ((preempting 0).arg 0) (preempting 0).t.site 0).all (fun t => t.status != .preempting) = true := by
  decide

/-- Context 1 confidential, with frame 0; a table maps the first GiB to itself. -/
def confidential : State :=
  let s : State := { base with
    ctxs := [{ ctx1 with conf := true, ptroot := 0x100000 }]
    sec := { base.sec with owned := [(0, 0, 1)] } }
  ((s.wrN 0x100000 8 0x80001).wrN 0x80000 8 0x2D)

/-- PSET while nothing runs. -/
def pset (a : Word) : State := cmd booted #v[a, 0, 0, 0, 0, 0, 0] false

theorem witness_PowerAndTrustCommands_power :
    (let s := cmd base #v[0x7FFFFFF000, 0, 0, 0, 0, 0, 0] false; s.arg 0 % 4096 = 0 ∧ s.arg 0 + 4096 ≤ 2 ^ 39)
    ∧ (pset 0).psetDenied 0 = false ∧ (pset 5).arg 0 ≤ 5 ∧ (pset 5).psetDenied 5 = false
    ∧ 5 < (pset 6).arg 0 ∧ (cmd base #v[5, 0, 0, 0, 0, 0, 0] false).psetDenied 5 = true
    ∧ (let s := cmd { base with power := { base.power with trip := true, temp := 95 } } #v[0, 0, 0, 0, 0, 0, 0] false
       s.power.trip = true ∧ s.power.temp ≤ 95) := by decide

theorem witness_PowerAndTrustCommands_trust :
    (let s := cmd confidential #v[1, 0x200000, 0, 0, 0, 0, 0] true
     InProgress s ∧ s.arg 1 + 6144 ≤ 2 ^ 39 ∧ s.touchesFrames (s.arg 1) 6144 = false ∧ (s.ctxD (s.arg 0)).conf = true
      ∧ s.sec.next < 2 ^ 40 ∧ s.host.mbox.trusted = true)
    ∧ (cmd base #v[0, 0, 0, 0, 0, 0, 0] false).host.mbox.trusted = false := by unfold InProgress; decide

/-- CCMAP of one frame, one cluster stripe, one die stripe. -/
def mapping (kind addr : Word) : State := cmd booted #v[1, kind, addr, 1, 0, 0, 0] true

theorem witness_PowerAndTrustCommands_ccmap :
    ∀ p ∈ [((0 : Word), (0 : Word), (0, 0)), (1, 0xFF800000000000, (0, 0)), (2, 0xFF800F00000000, (15 * 2 ^ 20, 0))],
      InProgress (mapping p.1 p.2.1) ∧ (mapping p.1 p.2.1).arg 1 ≤ 2
        ∧ ccUnits ((mapping p.1 p.2.1).arg 1) ((mapping p.1 p.2.1).arg 2) ((mapping p.1 p.2.1).arg 3) = some [p.2.2]
        ∧ 0 < (mapping p.1 p.2.1).arg 0 ∧ (mapping p.1 p.2.1).arg 0 < 65536
        ∧ (mapping p.1 p.2.1).ownerOf ((mapping p.1 p.2.1).arg 1) p.2.2.1 = none
        ∧ (mapping p.1 p.2.1).partOf p.2.2.2 = (mapping p.1 p.2.1).unitPart ((mapping p.1 p.2.1).arg 0) [p.2.2]
        ∧ (mapping p.1 p.2.1).power.dies.getLsbD p.2.2.2 = true
        ∧ (mapping p.1 p.2.1).host.mbox.trusted = true ∧ (mapping p.1 p.2.1).boundThreads ((mapping p.1 p.2.1).arg 0) = [] := by
  unfold InProgress; decide

/-- SEALCFG of context 1. -/
def sealSetup (lsize bl : Word) : State := cmd confidential #v[1, 0x10000, lsize, 0x9000, 0x200000, bl, 0] true

theorem witness_PowerAndTrustCommands_seal :
    (((sealSetup 4 1).ctxD 1).conf = true ∧ (sealSetup 4 1).host.mbox.trusted = true ∧ 4 ≤ (sealSetup 4 1).arg 2
      ∧ (sealSetup 4 1).arg 2 ≤ 12 ∧ 1 ≤ (sealSetup 4 1).arg 5 ∧ (sealSetup 4 1).arg 5 ≤ 10)
    ∧ (((sealSetup 12 10).ctxD 1).conf = true ∧ (sealSetup 12 10).host.mbox.trusted = true ∧ 4 ≤ (sealSetup 12 10).arg 2
      ∧ (sealSetup 12 10).arg 2 ≤ 12 ∧ 1 ≤ (sealSetup 12 10).arg 5 ∧ (sealSetup 12 10).arg 5 ≤ 10) := by decide

theorem witness_PowerAndTrustCommands_tail : ((sealSetup 4 1).framePages 1 0x9000 8).isSome = true
    ∧ inHbmOrHost ((sealSetup 4 1).arg 4) = true ∧ (sealSetup 4 1).touchesFrames 0x200000 (batchSlot * 2 ^ 1) = false := by decide

theorem witness_PowerAndTrustCommands_ring : ((sealSetup 4 1).framePages 1 0x10000 512).isSome = true := by decide

/-- QRETIRE of a quad. -/
def retiring (a : Word) : State := cmd base #v[a, 0, 0, 0, 0, 0, 0] false

theorem witness_MaintenanceCommands :
    (let s := cmd base #v[7, 0, 1, 0, 0, 0, 0] false
     InProgress s ∧ s.arg 0 ≤ 7 ∧ s.arg 1 % 64 = 0 ∧ s.arg 1 + 64 ≤ 2 ^ 39)
    ∧ (let s := cmd base #v[255, 65535, 0, 0, 0, 0, 0] false; InProgress s ∧ s.arg 0 ≤ 255 ∧ s.arg 1 ≤ 65535)
    ∧ (let s := cmd base #v[0x7FFFFFF000, 0, 0, 0, 0, 0, 0] false
       InProgress s ∧ s.arg 0 % 4096 = 0 ∧ s.arg 0 + 256 ≤ 2 ^ 39 ∧ NoneAway s ∧ s.fleet.errors = [] ∧ s.sec.owned = [] ∧ s.sec.seals = []
        ∧ ∀ c ∈ s.ctxs, c.conf = false)
    ∧ (let s := cmd booted #v[0x77777777, 0, 0, 0, 0, 0, 0] false
       InProgress s ∧ s.arg 0 < 2 ^ 32 ∧ (∀ d < 8, (s.arg 0).testBit (4 * d + 3) = false) ∧ s.ctxs = [] ∧ (∀ q ∈ s.sched.queues, q.state ≠ 1) ∧ s.power.dies.getLsbD 7 = true)
    ∧ (let s := cmd base #v[0x1000, 0x2000, 0, 0, 0, 0, 0] false
       InProgress s ∧ s.arg 0 % 4096 = 0 ∧ s.arg 0 + s.arg 1 ≤ 2 ^ 39 ∧ s.fleet.errors = [])
    ∧ (let s := cmd { base with sec := { base.sec with fwver := 64 } } #v[64, 0, 0, 0, 0, 0, 0] false
       InProgress s ∧ s.sec.fwfloor ≤ s.arg 0 ∧ s.arg 0 ≤ 64 ∧ s.arg 0 ≤ s.sec.fwver % 256)
    := by unfold InProgress NoneAway; decide

theorem witness_MaintenanceCommands_unknown : commandOf 0 = none ∧ commandOf 7 = none ∧ commandOf 0xFFFF = none
    ∧ ({ Mailbox.zero with cmd := 7 } : Mailbox).number = 7 := ⟨rfl, rfl, rfl, by decide⟩

/-- A command of a number that has been carried out and waits. -/
def awaiting (s : State) (number : Word) : State :=
  { s with host := { s.host with mbox := { s.host.mbox with cmd := number, waiting := true } } }

theorem witness_MaintenanceCommands_waiting :
    ∀ p ∈ [((0x23 : Word), Instr.tlbinv), (0x65, .sealflush), (0x41, .pset), (0x42, .tripclr)],
      let s := awaiting (cmd base #v[1, 0, 0, 0, 0, 0, 0] true) p.1
      commandOf s.host.mbox.number = some p.2 ∧ s.host.mbox.busy = true ∧ s.host.mbox.waiting = true ∧ s.duePerformed = true
        ∧ ∀ x ∈ s.sec.seals, x.ctx = s.arg 0 → x.leaves = [] := by decide

theorem witness_MaintenanceCommands_quads :
    ((retiring 0).arg 0 < 32768 ∧ siteCluster ((retiring 0).arg 0) < 12 ∧ siteUnit ((retiring 0).arg 0) < 8
      ∧ (retiring 0).power.dies.getLsbD (siteDie ((retiring 0).arg 0)) = true
      ∧ ((retiring 0).unitSt (uidOf ((retiring 0).arg 0))).usable.getLsbD ((retiring 0).arg 0 % 16) = true
      ∧ (retiring 0).quadOwned (uidOf ((retiring 0).arg 0)) ((retiring 0).arg 0 % 16) = true)
    ∧ ((retiring 0x7B7F).arg 0 < 32768 ∧ siteCluster ((retiring 0x7B7F).arg 0) < 12 ∧ siteUnit ((retiring 0x7B7F).arg 0) < 8
      ∧ (retiring 0x7B7F).power.dies.getLsbD (siteDie ((retiring 0x7B7F).arg 0)) = true
      ∧ ((retiring 0x7B7F).unitSt (uidOf ((retiring 0x7B7F).arg 0))).usable.getLsbD ((retiring 0x7B7F).arg 0 % 16) = true
      ∧ (retiring 0x7B7F).quadOwned (uidOf ((retiring 0x7B7F).arg 0)) ((retiring 0x7B7F).arg 0 % 16) = false) := by decide

/-- The package with power, in a boot phase. -/
def atPhase (p : Nat) : State := { State.reset with power := { Power.start with phase := p } }

theorem witness_PowerAndLinkEvents : base.power.on = true ∧ base.power.phase = 6
    ∧ (let s : State := { base with power := { base.power with on := false } }; s.power.on = false ∧ s.power.state ≠ 5)
    ∧ (let s : State := { base with power := { base.power with on := false, state := 5 } }; s.power.state = 5)
    ∧ (∀ p < 6, (atPhase p).power.on = true ∧ (atPhase p).power.phase = p)
    ∧ (∀ p ∈ [6, 15], 6 ≤ (atPhase p).power.phase)
    ∧ (let s : State := { atPhase 1 with sec := { (atPhase 1).sec with active := [] } }; s.sec.chooseFirmware = none)
    ∧ ((atPhase 1).sec.pendingBank = false) := by decide

theorem witness_PowerAndLinkEvents_boot : ∃ d0 boundary dies failing,
    Config.bootFindings State.reset.sec.boots = (d0, boundary, dies, failing) := ⟨_, _, _, _, rfl⟩

/-- confidential with a seal of context 1, whose first request names the page at 0x20000. -/
def seal1 : Seal := ⟨1, 0x10000, 4, 0x11000, 0x200000, 1, 0, 0, 0, [], 0, []⟩
def sealing : State :=
  let s : State := { confidential with sec := { confidential.sec with seals := [seal1] } }
  ((s.wrN 0x11000 8 1).wrN 0x10000 8 0x20000).wrN 0x10008 8 4096

theorem witness_FleetAndSealEvents_fleet : base.power.on = true ∧ base.fleet.errors = [] ∧ NoneAway base
    ∧ (∀ l ∈ [ErrLoc.hbmCorrectable 64, .hbmBad (2 ^ 39 - 1), .arrayParity (arrayBase 0) 511, .arrayParity (arrayBase 0) 512,
      .sramCorrectable (2 ^ 40) 71, .sramBad (2 ^ 40)], errExists l = true ∧ base.accessAt l = false)
    ∧ errExists (.hbmCorrectable 8) = true ∧ (sending [onItsWay (.store 5) 8]).accessAt (.hbmCorrectable 8) = true
    ∧ (∀ p ∈ [(ErrLoc.hbmCorrectable 64, ErrLoc.hbmCorrectable 65), (.arrayParity (arrayBase 0) 1, .arrayParity (arrayBase 0) 2),
      (.sramCorrectable (2 ^ 40) 3, .sramCorrectable (2 ^ 40) 3)], errSite p.1 = errSite p.2)
    ∧ (∀ e ∈ [ErrLoc.hbmCorrectable 64, .hbmBad 64],
       let s : State := { base with fleet := { base.fleet with errors := [e], scrubMask := 255, scrubMs := 1 } }
       s.fleet.errors = [e] ∧ s.scrubs (64 / 32 * 32) = true)
    ∧ (let h := arrayBase 0 + 64
       let s : State := { base with fleet := { base.fleet with errors := [.arrayParity h 3], scrubMask := 1, scrubMs := 1 } }
       s.fleet.errors = [.arrayParity h 3] ∧ s.scrubs (h / 64 * 64) = true)
    ∧ (let s := base.setUnit 3 { UnitSt.fresh with pending := 0x8000 }
       (s.unitSt 3).pending.getLsbD 15 = true ∧ s.quadOwned 3 15 = false) := by unfold NoneAway; decide

theorem witness_FleetAndSealEvents_seal : sealing.seal? 1 = some seal1 ∧ sealing.sealDue seal1 = true ∧ sealing.fleet.errors = []
    ∧ sealing.frameAddr 1 (seal1.ringVa.toNat + 32 * (seal1.taken % 2 ^ seal1.lsize)) = some 0x10000
    ∧ sealing.rdN 0x10008 8 = 4096 ∧ sealing.rdN 0x10000 8 = 0x20000
    ∧ sealing.framePages 1 0x20000 4096 = some [0x20000]
    ∧ (∀ i < 8, sealing.readOnly (0x10000 + 24 + i) = false ∧ 0x20000 / 4096 ≠ (0x10000 + 24 + i) / 4096)
    ∧ (let x := { seal1 with leaves := [[0]], firstTs := 0 }
       let s : State := { confidential with gts := 10000000, sec := { confidential.sec with seals := [x] } }
       s.seal? 1 = some x ∧ s.batchDue x = true) := by decide

/-! ### Witnesses: steps, encodings, invariants, reset -/

theorem pick_one {s : State} {m : Move} (h : s.moves = [m]) : s.pick = some (m, { s with waits := [] }) := by simp [State.pick, h]
theorem pick_none {s : State} (h : s.moves = []) : s.pick = none := by simp [State.pick, h]

/-- base with its lane queue's head to be executed, the control stream waiting. -/
def draining : State := (headed (.vnot ⟨0, false⟩ 1 2) 0 0 0).mapT (fun t => { t with status := .blocked .vdrain })

theorem witness_StepRunsTheDecodedInstruction_control :
    ∀ i ∈ [Instr.add 1 4 (.reg 5), .vnot ⟨0, false⟩ 1 2],
      decode (encode i) = .ok i ∧ (coded i).tick.moves = [.control 0]
        ∧ nestAct (({ (coded i).tick with waits := [] } : State).focus 0).takeTurn.t.c.nestcfg = false
        ∧ ((({ (coded i).tick with waits := [] } : State).focus 0).takeTurn).ctxT.fetchable 0x1000 = true
        ∧ (({ (coded i).tick with waits := [] } : State).focus 0).takeTurn.wordAddr = 0x1000
        ∧ (({ (coded i).tick with waits := [] } : State).focus 0).takeTurn.fleet.errors = []
        ∧ (({ (coded i).tick with waits := [] } : State).focus 0).takeTurn.t.c.pc.toNat % 8 = 0
        ∧ (({ (coded i).tick with waits := [] } : State).focus 0).takeTurn.oldFetches 0x1000 = []
        ∧ (({ (coded i).tick with waits := [] } : State).focus 0).takeTurn.rdN 0x1000 8 = (encode i).toNat := by decide

/-- base at a program counter: the second slot of a pair, or a word whose probe has been pushed. -/
def atSlot (p : Word) : State := base.mapC (fun c => { c with pc := p })
/-- What has the turn when the control stream moves. -/
def turned (s : State) : State := (({ s.tick with waits := [] } : State).focus 0).takeTurn

theorem witness_StepRunsTheDecodedInstruction_slots :
    ((atSlot 0x1004).tick.moves = [.control 0] ∧ (turned (atSlot 0x1004)).wordAddr = 0x1000
      ∧ (turned (atSlot 0x1004)).t.c.pc = 0x1004)
    ∧ (atSlot 0x1002).tick.moves = [.control 0] ∧ (turned (atSlot 0x1002)).wordAddr = 0x1000
      ∧ (turned (atSlot 0x1002)).t.c.pc = 0x1002 :=
  ⟨⟨by decide, by decide, by decide⟩, by decide, by decide, by decide⟩

theorem witness_StepRunsTheDecodedInstruction_pair :
    (encode (.pair (.alu .add 1 2 3) (.bnez 4 0x3FFF))).getLsbD 63 = true
    ∧ decode (encode (.pair (.alu .add 1 2 3) (.bnez 4 0x3FFF))) = .ok (.pair (.alu .add 1 2 3) (.bnez 4 0x3FFF)) := by decide

theorem witness_StepRunsTheDecodedInstruction :
    (let s := draining
     let e : LaneEntry := ⟨0, .instr, encode (.vnot ⟨0, false⟩ 1 2), 0x1000, 0, 0, 0, false, 16384⟩
     let s1 : State := { s.tick with waits := [] }
     s.tick.pick = some (.lane 0, s1) ∧ (s1.focus 0).t.q.lane = e :: [] ∧ e.kind = .instr
      ∧ e.instr = some (.vnot ⟨0, false⟩ 1 2) ∧ (s1.focus 0).t.l.returns = [] ∧ (s1.focus 0).t.l.stores = []
      ∧ (s1.focus 0).accBusy = false)
    ∧ (let s := base.mapT (fun t => { t with status := .blocked .laneRoom })
       s.tick.pick = some (.event 0 .awaitedCondition, { s.tick with waits := [] }))
    ∧ (let s := cmd booted #v[0, 0, 0, 0, 0, 0, 0] false
       let s : State := { s with host := { s.host with mbox := { s.host.mbox with cmd := 6 } } }
       s.tick.pick = some (.device .setage, { s.tick with waits := [] }))
    ∧ (let s := base.mapT (fun t => { t with status := .frozen none, dbg := { t.dbg with stop := true } })
       s.tick.pick = some (.stop 0, { s.tick with waits := [] })) := by
  exact ⟨⟨pick_one (by decide), by decide, by decide, by decide, by decide, by decide, by decide⟩, pick_one (by decide),
    pick_one (by decide), pick_one (by decide)⟩

/-- base in a nest of one word at 0x1000, at an address; registers await a copy's token or do not. -/
def looping (p : Word) (tokens : Word) (body : List (Nat × Word)) : State := base.mapC (fun c => { c with
  pc := p, tokens := tokens, body := body, nestcfg := BitVec.ofNat 64 (2 ^ 63 + 8 * 2 ^ 50 + 0x1000 / 8) })

theorem witness_StepRunsTheDecodedInstruction_nest :
    (turned (looping 0x1008 (1#64 <<< 56) [])).nestWaits = some (sreg 56)
    ∧ (turned (looping 0x1008 0 [])).nestWaits = none
    ∧ (let u := (turned (looping 0x1000 0 [(0, encode .nop)])).nestStep
       u.t.c.bodyNo u.wordAddr = some 0 ∧ u.keptWord = some (encode .nop))
    ∧ (let u := (turned (looping 0x1000 0 [])).nestStep; u.t.c.bodyNo u.wordAddr = some 0 ∧ u.keptWord = none)
    ∧ (turned base).keptWord = none ∧ (turned base).t.c.bodyNo 0x1000 = none
    ∧ (turned base).fleet.errors = [] ∧ (turned base).ownerOf 0 ((turned base).wordAddr.toNat / 2 ^ 21) = none
    ∧ confidential.ownerOf 0 (confidential.wordAddr.toNat / 2 ^ 21) = some confidential.t.task.ctx := by decide

/-- coded with a load of its row view next, slot 0 of the thread's first quad away. -/
def touching : State :=
  let s := (coded (.ldD 1 4 0)).mapC (fun c => { c with s := c.s.set 4 0x00FFFF0000000000 })
  { s with away := [⟨1, 1, 0, ⟨0, 0, 0, 5, 0, [], false⟩⟩] }
def touchingNext : State := { touching.tick with waits := [] }

theorem witness_StepRunsTheDecodedInstruction_away : touching.tick.pick = some (.control 0, touchingNext)
    ∧ touchingNext.away.length = 0 + 1
    ∧ ∃ t, touchingNext.made (.control 0) = .next t ∧ touchingNext.touched.length < t.touched.length := by
  have h : (match touchingNext.made (.control 0) with
    | .next t => decide (touchingNext.touched.length < t.touched.length) | _ => false) = true := by decide
  refine ⟨pick_one (by decide), by decide, ?_⟩
  revert h
  generalize touchingNext.made (.control 0) = r
  cases r with
  | next t => exact fun h => ⟨t, rfl, by simpa using h⟩
  | _ => simp

theorem witness_DecodeInvertsEncode : (Instr.add 1 4 (.reg 5)).wf = true := by decide

theorem reset_memWf : MemWf State.reset := by unfold MemWf; decide

theorem reset_regInv : RegInv State.reset := by unfold RegInv RegsWf; decide

theorem witness_StepsKeepMemoryCanonical : RegInv (coded (.add 1 4 (.reg 5))) ∧ MemWf (coded (.add 1 4 (.reg 5))) ∧ ∃ t, step (coded (.add 1 4 (.reg 5))) = .next t := by
  have h : (coded (.add 1 4 (.reg 5))).tick.moves = [.control 0] := by decide
  refine ⟨by unfold RegInv RegsWf; decide, by unfold MemWf; decide, ?_⟩
  unfold step
  rw [pick_one h]
  exact ⟨_, rfl⟩

/-! ### Tests of single steps; expected results from the spec's worked examples or by hand from its rules -/

/-- Something of the next state. -/
def after {α : Type} (r : Host.Outcome State Fault Refusal) (f : State → α) : Option α :=
  match r with | .next t => some (f t) | _ => none

/-- base with s4 and s5 at two values. -/
def operands (a b : Word) : State := base.mapC (fun c => { c with s := (c.s.set 4 a).set 5 b })

/-- What an instruction writes to s1. -/
def inS1 (i : Instr) (a b : Word) : Option Word := after (exec i (operands a b)) (fun t => t.reg 1)

/-- R192: wrap, signs, the corners of division. -/
theorem test_add_wraps : inS1 (.add 1 4 (.reg 5)) 0xFFFFFFFFFFFFFFFF 2 = some 1 := by decide
theorem test_sub_borrows : inS1 (.sub 1 4 (.reg 5)) 3 5 = some 0xFFFFFFFFFFFFFFFE := by decide
theorem test_andn : inS1 (.andn 1 4 (.reg 5)) 0xFF 0x0F = some 0xF0 := by decide
theorem test_sll_uses_six_bits : inS1 (.sll 1 4 (.reg 5)) 3 65 = some 6 := by decide
theorem test_sra_keeps_sign : inS1 (.sra 1 4 (.reg 5)) 0x8000000000000000 63 = some 0xFFFFFFFFFFFFFFFF := by decide
theorem test_mulh_signed : inS1 (.mulh 1 4 (.reg 5)) 0xFFFFFFFFFFFFFFFF 2 = some 0xFFFFFFFFFFFFFFFF := by decide
theorem test_mulhn_natural : inS1 (.mulhn 1 4 (.reg 5)) 0xFFFFFFFFFFFFFFFF 2 = some 1 := by decide
theorem test_div_by_zero : inS1 (.div 1 4 (.reg 5)) 7 0 = some 0xFFFFFFFFFFFFFFFF := by decide
theorem test_div_truncates : inS1 (.div 1 4 (.reg 5)) (-7) 2 = some (-3) := by decide
theorem test_div_overflow : inS1 (.div 1 4 (.reg 5)) 0x8000000000000000 (-1) = some 0x8000000000000000 := by decide
theorem test_rem_sign : inS1 (.rem 1 4 (.reg 5)) (-7) 2 = some (-1) := by decide
theorem test_remn_by_zero : inS1 (.remn 1 4 (.reg 5)) 7 0 = some 7 := by decide
theorem test_slt_signed : inS1 (.slt 1 4 (.reg 5)) (-1) 1 = some 1 ∧ inS1 (.sltn 1 4 (.reg 5)) (-1) 1 = some 0 := by decide
theorem test_popc_clz : inS1 (.popc 1 4) 0xF0F 0 = some 8 ∧ inS1 (.clz 1 4) 0 0 = some 64 := by decide
/-- R9. -/
theorem test_s0_stays_zero : after (exec (.add 0 4 (.reg 5)) (operands 1 2)) (fun t => t.reg 0) = some 0 := by decide

/-- R175: the row-view base. -/
theorem test_constants : inS1 (.li 1 0xFFFFFF) 0 0 = some 0xFFFFFFFFFFFFFFFF
    ∧ after (exec (.lih 1 0xFF0000) (base.setReg 1 0)) (fun t => t.reg 1) = some 0x0000FF0000000000
    ∧ after (exec (.lix 1 0x00FF) (base.setReg 1 0x0000FF0000000000)) (fun t => t.reg 1) = some 0x00FFFF0000000000 := by decide

/-- R176: a branch target counts words from the branch. -/
theorem test_branch_targets : after (exec (.beq 4 5 0xFFFFFF) (operands 1 1)) (fun t => t.t.c.pc) = some 0xFF8
    ∧ after (exec (.beq 4 5 0xFFFFFF) (operands 1 2)) (fun t => t.t.c.pc) = some 0x1008 := by decide

/-- A lane instruction at the head, of i8 with sat or without, on the lanes of R229's table in v2 and v3. -/
def lanes8 (i : Instr) (vt : Word) (l : List (Nat × Nat)) : State :=
  let s := (headed i 0 0 0).mapL (fun x => { x with v := { x.v with vl := l.length, vtype := vt } })
  let cells := fun (v : Nat) (l : List Nat) => (List.range l.length).flatMap (fun n => s.elemCells 8 v n (l.getD n 0))
  s.store (cells 2 (l.map (·.1)) ++ cells 3 (l.map (·.2)))

/-- Its result in v1, and the flags of the task. -/
def lanesAfter (i : Instr) (vt : Word) (l : List (Nat × Nat)) : Option (List Nat × Nat) :=
  after (exec i (lanes8 i vt l)) (fun t => ((List.range l.length).map (fun n => t.elem 8 1 n), t.t.l.xflags.toNat))

def divisions : List (Nat × Nat) := [(0xF9, 2), (7, 0), (0x80, 0xFF)]

/-- R229's table of i8 cases: quotients, remainders, ZD 0x10 and SV 0x20. -/
theorem test_vdiv : lanesAfter (.vdiv ⟨⟨0, false⟩, 0⟩ 1 2 (.vec 3)) 0x08 divisions = some ([0xFD, 0xFF, 0x80], flZD)
    ∧ lanesAfter (.vdiv ⟨⟨0, false⟩, 0⟩ 1 2 (.vec 3)) 0x04000008 divisions = some ([0xFD, 0xFF, 0x7F], flZD + flSV) := by decide
theorem test_vrem : lanesAfter (.vrem ⟨⟨0, false⟩, 0⟩ 1 2 (.vec 3)) 0x08 divisions = some ([0xFF, 7, 0], flZD) := by decide
/-- R229: saturating additions. -/
theorem test_vadd_saturates : lanesAfter (.vadd ⟨⟨0, false⟩, 0⟩ 1 2 (.vec 3)) 0x04000008 [(100, 50), (0x9C, 0xCE), (20, 20), (127, 1)]
    = some ([127, 0x80, 40, 127], flSV) := by decide
theorem test_vadd_wraps : lanesAfter (.vadd ⟨⟨0, false⟩, 0⟩ 1 2 (.vec 3)) 0x08 [(127, 1)] = some ([0x80], 0) := by decide
/-- R227: at i4 lane 9 reads −7. -/
theorem test_vid : (intVal true 4 9 : Int) = -7 := by decide

/-- R196: the record of a call at the stack pointer less 16. -/
theorem test_call : after (exec (.call 4) base) (fun t => (t.t.c.pc, t.reg lrReg)) = some (0x1020, 0x1008) := by decide
/-- R98, R200: a store is seen by a load of the same thread before it is performed. -/
theorem test_store_then_load : after (exec (.stH 4 1 2) ((base.setReg 1 0x12345))) (fun t => t.rdN (t.reg 4 + 2).toNat 1)
    = some 0 := by decide

/-- Log entry 13: the word given is the next to run. -/
theorem test_withFetchWord : (State.reset.withFetchWord 64 (encode (.li 3 7)).toNat).moves = [.control 0] := by decide

/-- R313: a stop reaches a thread with en = 1: it is frozen, fz is set, and TRCTL.stop stands. -/
theorem test_stop : (let s := (base.mapD (fun d => { d with ctl := 1 })).stopCluster 0
    let u := s.stopReaches (fun _ => true)
    s.t.status = .running ∧ u.t.status = .frozen none ∧ u.t.dbg.ctl = 5 ∧ (u.cluster 0).trctl = 4) := by decide

end Sys2Proof.Tests
end

section
/-! PROOFS of 00_scope.md: an access of the control stream performed at the home slices of its own die (R3, R95, R96,
R111, R198, R200, R202). First what a write can change beside its bytes, then the bytes that it leaves, then one equation
for each kind of access performed, and at the end the statement. -/

namespace Sys2Proof.Machine

/-! ### Units of movement put out of the way of a write (R406) -/

/-- Memory, saved and moved units, and the state of errors are all that differs. -/
def OnlyEvicted (s t : State) : Prop :=
  t = { s with mem := t.mem, saved := t.saved, away := t.away, fleet := t.fleet }

theorem OnlyEvicted.refl (s : State) : OnlyEvicted s s := rfl

theorem OnlyEvicted.trans {s t u : State} (h : OnlyEvicted s t) (k : OnlyEvicted t u) : OnlyEvicted s u := by
  unfold OnlyEvicted at *
  rw [k, h]

theorem OnlyEvicted.withMem {s t : State} (h : OnlyEvicted s t) (m : List Host.Cell) :
    OnlyEvicted s { t with mem := m } := by
  unfold OnlyEvicted at *
  rw [h]

theorem OnlyEvicted.wr {s t : State} (h : OnlyEvicted s t) (a : Nat) (b : Byte) : OnlyEvicted s (t.wr a b) := h.withMem _

theorem OnlyEvicted.withSaved {s t : State} (h : OnlyEvicted s t) (l : List Saved) :
    OnlyEvicted s { t with saved := l } := by
  unfold OnlyEvicted at *
  rw [h]

theorem OnlyEvicted.withAway {s t : State} (h : OnlyEvicted s t) (l : List Away) : OnlyEvicted s { t with away := l } := by
  unfold OnlyEvicted at *
  rw [h]

theorem OnlyEvicted.foldl {α : Type} (f : State → α → State) (hf : ∀ u x, OnlyEvicted u (f u x)) (l : List α)
    (s : State) :
    OnlyEvicted s (l.foldl f s) :=
  foldl_keeps (P := OnlyEvicted s) f l s (fun u x h => h.trans (hf u x)) (.refl s)

theorem State.wrCells_onlyEvicted (s : State) (l : List Host.Cell) : OnlyEvicted s (s.wrCells l) :=
  OnlyEvicted.foldl _ (fun u _ => (OnlyEvicted.refl u).wr _ _) l s

theorem State.wipeErrors_onlyEvicted (s : State) (lo len : Nat) : OnlyEvicted s (s.wipeErrors lo len) := by
  unfold State.wipeErrors; split <;> rfl

theorem State.writeBack_onlyEvicted (s : State) (ctx slot : Nat) (m : MoveUnit) :
    OnlyEvicted s (s.writeBack ctx slot m) := by
  have h : ∀ (u : State) b l, OnlyEvicted u ((u.clearImage m b).wrCells l) :=
    fun u b l => ((OnlyEvicted.refl u).withMem _).trans (State.wrCells_onlyEvicted (u.clearImage m b) l)
  unfold State.writeBack
  dsimp only
  split
  · exact h ..
  · exact (s.wipeErrors_onlyEvicted ..).trans (h ..)

theorem State.evictAway_onlyEvicted (s : State) (kind uid phys num : Nat) :
    OnlyEvicted s (s.evictAway kind uid phys num) := by
  unfold State.evictAway
  split
  · refine OnlyEvicted.withAway (OnlyEvicted.foldl _ (fun u x => ?_) _ s) _
    exact State.writeBack_onlyEvicted ..
  · exact .refl s

theorem State.evictUnit_onlyEvicted (s : State) (kind uid phys num : Nat) :
    OnlyEvicted s (s.evictUnit kind uid phys num) := by
  unfold State.evictUnit
  refine (OnlyEvicted.foldl _ (fun u x => ?_) _ s).trans (State.evictAway_onlyEvicted ..)
  dsimp only
  split
  · refine OnlyEvicted.withSaved (OnlyEvicted.foldl _ (fun u m => ?_) _ u) _
    exact State.writeBack_onlyEvicted ..
  · exact .refl u

theorem State.evictFor_onlyEvicted (s : State) (a : Nat) : OnlyEvicted s (s.evictFor a) := by
  unfold State.evictFor
  split
  · exact .refl s
  · split
    · exact State.evictUnit_onlyEvicted ..
    · exact .refl s

/-! ### Loads that a write makes start anew (R95) -/

/-- A thread after some writes. -/
def Thread.anewAll (ws : List (List Nat)) (x : Thread) : Thread := ws.foldl (fun x w => x.anew w) x

/-- Of the control stream only the accesses on their way and the reads ahead can differ. -/
theorem Thread.anewAll_c (ws : List (List Nat)) (x : Thread) :
    (x.anewAll ws).c = { x.c with accs := (x.anewAll ws).c.accs, early := (x.anewAll ws).c.early } := by
  induction ws generalizing x with
  | nil => rfl
  | cons w ws ih => exact ih (x.anew w)

theorem State.loadsAnew_spec (s : State) (cells : List Nat) : LoadsAnew s (s.loadsAnew cells) id := by
  unfold State.loadsAnew
  split
  · exact ⟨[cells], rfl, rfl⟩
  · exact ⟨[], rfl, by simp⟩

/-- The threads of a state are all that the relation depends on. -/
theorem loadsAnew_of_threads {s u t : State} {f : Thread → Thread} (h : LoadsAnew u t f) (ht : u.t = s.t)
    (ho : u.others = s.others) : LoadsAnew s t f := by
  obtain ⟨ws, h1, h2⟩ := h
  exact ⟨ws, by rw [h1, ht], by rw [h2, ho]⟩

theorem loadsAnew_mapC {s t : State} (h : LoadsAnew s t id) (g : Ctrl → Ctrl) :
    LoadsAnew s (t.mapC g) (fun x => { x with c := g x.c }) := by
  obtain ⟨ws, h1, h2⟩ := h
  exact ⟨ws, by rw [State.mapC, h1]; rfl, h2⟩

/-- Writes change no register and no program counter. -/
theorem loadsAnew_reg_pc {s t : State} (h : LoadsAnew s t id) : (∀ q, t.reg q = s.reg q) ∧ t.t.c.pc = s.t.c.pc := by
  obtain ⟨ws, h1, -⟩ := h
  have e : t.t.c = (s.t.anewAll ws).c := congrArg Thread.c h1
  rw [Thread.anewAll_c] at e
  exact ⟨fun q => by rw [State.reg, e]; rfl, by rw [e]⟩

@[simp] theorem State.loadsAnew_clusters (s : State) (cells : List Nat) : (s.loadsAnew cells).clusters = s.clusters := by
  unfold State.loadsAnew; split <;> rfl

theorem State.clearErrors_eq (s : State) (cells : List Nat) :
    s.clearErrors cells = { s with fleet := (s.clearErrors cells).fleet } := by
  unfold State.clearErrors; split <;> rfl

/-- All that a store to cells does beside them: units of movement may be put out of the way, and loads start anew. -/
theorem State.store_spec (s : State) (l : List Host.Cell) :
    LoadsAnew s (s.store l) id ∧ (s.store l).clusters = s.clusters := by
  have h : OnlyEvicted s (l.foldl (fun s p => (s.evictFor p.1).wr p.1 p.2) s) :=
    OnlyEvicted.foldl _ (fun u p => (u.evictFor_onlyEvicted p.1).wr p.1 p.2) l s
  unfold State.store
  dsimp only
  rw [State.clearErrors_eq, h]
  exact ⟨loadsAnew_of_threads (State.loadsAnew_spec _ _) rfl rfl, State.loadsAnew_clusters _ _⟩

/-- Without watchpoints a write of bytes is the store to its cells. -/
theorem State.writeLocs_eq (s : State) (ag : Agent) (k : Access) (ls : List Loc) (v : Nat) (hc : s.clusters = []) :
    s.writeLocs ag k ls v = s.store (locWrites ls (bytesOf ls.length v)) :=
  State.watchLocs_nil _ _ _ _ _ ((State.store_spec ..).2.trans hc)

theorem State.writeLocs_loadsAnew (s : State) (ag : Agent) (k : Access) (ls : List Loc) (v : Nat) (hc : s.clusters = []) :
    LoadsAnew s (s.writeLocs ag k ls v) id := by
  rw [State.writeLocs_eq _ _ _ _ _ hc]
  exact (State.store_spec ..).1

/-- Without watchpoints the agent of an atomic plays no part. -/
theorem State.amoLocs_agent (s : State) (ag ag' : Agent) (o : AmoOp) (ls : List Loc) (v k : Nat) (hc : s.clusters = []) :
    s.amoLocs ag o ls v k = s.amoLocs ag' o ls v k := by
  simp only [State.amoLocs, State.watchMem_nil _ _ _ _ _ hc, State.writeLocs_eq _ _ _ _ _ hc]

theorem State.amoLocs_loadsAnew (s : State) (ag : Agent) (o : AmoOp) (ls : List Loc) (v k : Nat) (hc : s.clusters = []) :
    (s.amoLocs ag o ls v k).1 = s.rdLocs ls ∧ LoadsAnew s (s.amoLocs ag o ls v k).2 id := by
  unfold State.amoLocs
  dsimp only
  split
  · rw [State.watchMem_nil _ _ _ _ _ hc]
    exact ⟨rfl, [], rfl, by simp⟩
  · exact ⟨rfl, State.writeLocs_loadsAnew _ _ _ _ _ hc⟩

/-! ### The bytes that a write leaves (R3) -/

theorem bytesOf_natOfBytes (l : List Byte) : bytesOf l.length (natOfBytes l) = l := by
  induction l with
  | nil => rfl
  | cons b l ih =>
    have hb : b.toNat < 256 := b.isLt
    have hd : (b.toNat + 256 * natOfBytes l) / 256 = natOfBytes l := by omega
    have hm : BitVec.ofNat 8 (b.toNat + 256 * natOfBytes l) = b :=
      BitVec.eq_of_toNat_eq (by simp only [BitVec.toNat_ofNat]; omega)
    simp only [List.length_cons, natOfBytes, bytesOf, hd, hm, ih]

/-- The bytes of a store are those of its value. -/
theorem MemOp.bytes_store {op : MemOp} {v : Nat} (hk : op.kind = .store v) (k : Nat) :
    (List.range k).map op.byte = bytesOf k v := by
  apply List.ext_getElem
  · simp
  · intro i h1 h2
    rw [getElem_bytesOf, List.getElem_map, List.getElem_range, MemOp.byte, hk]

theorem mem_locWrites {ls : List Loc} {bs : List Byte} {p : Host.Cell} (h : p ∈ locWrites ls bs) :
    ∃ x, Loc.cell p.1 x ∈ ls := by
  induction ls generalizing bs with
  | nil => simp [locWrites] at h
  | cons l ls ih =>
    cases bs with
    | nil => cases l <;> simp [locWrites] at h
    | cons b bs =>
      have later : p ∈ locWrites ls bs → ∃ x, Loc.cell p.1 x ∈ l :: ls := fun h =>
        (ih h).imp fun _ => List.mem_cons_of_mem l
      cases l with
      | cell a x =>
        rcases List.mem_cons.1 h with rfl | h
        · exact ⟨x, List.mem_cons_self ..⟩
        · exact later h
      | rtile site off => exact later h
      | void => exact later h

/-- Where no thread has given up cells, a store writes its pairs and no other byte. -/
theorem State.store_mem (s : State) (l : List Host.Cell) (ha : NoneAway s) : (s.store l).mem = (s.wrCells l).mem := by
  simp [State.store, State.evicting_of_unsaved s l ha.1 ha.2]

/-- A byte of memory is as before a write that has no location there. -/
theorem State.rd_writeLocs_out (s : State) (ag : Agent) (k : Access) (ls : List Loc) (v x : Nat) (ha : NoneAway s)
    (hc : s.clusters = []) (hx : ∀ h, Loc.cell x h ∉ ls) : (s.writeLocs ag k ls v).rd x = s.rd x := by
  rw [State.writeLocs_eq _ _ _ _ _ hc, State.rd, State.store_mem _ _ ha]
  refine State.rd_wrCells_out s _ x (fun p hp e => ?_)
  obtain ⟨h, hm⟩ := mem_locWrites hp
  exact hx h (e ▸ hm)

/-- A write to cells in a row leaves its value there. -/
theorem State.writeLocs_row_mem (s : State) (ag : Agent) (k : Access) (a n v : Nat) (ha : NoneAway s)
    (hc : s.clusters = []) :
    (s.writeLocs ag k ((List.range n).map (fun i => Loc.cell (a + i) (a + i))) v).mem = (s.wrN a n v).mem := by
  have hw := State.wrCells_row s a (bytesOf n v)
  rw [length_bytesOf] at hw
  rw [State.writeLocs_eq _ _ _ _ _ hc, State.store_mem _ _ ha, List.length_map, List.length_range,
    locWrites_row _ _ _ (length_bytesOf n v), hw, State.wrN]

theorem State.rd_wrN_in (s : State) (a n v i : Nat) (h : i < n) :
    ((s.wrN a n v).rd (a + i)).toNat = v / 256 ^ i % 256 := by
  rw [State.wrN, State.rd_wrBytes_in _ _ _ _ (by simpa using h), getElem_bytesOf, BitVec.toNat_ofNat]

/-! ### Locations that still take a write (R428, R432, log entry 60) -/

theorem State.homeLocs_of_taken {s : State} {ctx : Nat} {ls : List Loc} (h : ∀ l ∈ ls, s.homeTakes ctx l = true) :
    ls.map (s.homeLoc ctx) = ls :=
  (List.map_congr_left (fun l hl => if_pos (h l hl))).trans (List.map_id ls)

theorem State.homeAmo_taken {s : State} {ag : Agent} {o : AmoOp} {ls : List Loc} {v k : Nat}
    (h : ∀ l ∈ ls, s.homeTakes ag.ctx l = true) : s.homeAmo ag o ls v k = s.amoLocs ag o ls v k :=
  if_pos (List.all_eq_true.2 h)

/-- A cell among the locations written is one of the access, and still takes the write. -/
theorem State.mem_homeLocs {s : State} {ctx x h : Nat} {ls : List Loc} (hm : Loc.cell x h ∈ ls.map (s.homeLoc ctx)) :
    Loc.cell x h ∈ ls ∧ s.homeTakes ctx (.cell x h) = true := by
  obtain ⟨l, hl, e⟩ := List.mem_map.1 hm
  unfold State.homeLoc at e
  split at e
  · rename_i ht
    subst e
    exact ⟨hl, ht⟩
  · cases e

/-! ### The portion of an access performed next (R95, R96) -/

theorem MemOp.part_all (op : MemOp) : op.part (List.range op.locs.length) = op.locs := by
  apply List.ext_getElem
  · simp [MemOp.part]
  · intro i h1 h2
    simp [MemOp.part, h2]

/-- The bytes of an access that have not left. -/
def MemOp.waiting (op : MemOp) : List Nat := op.left.filter (fun i => !op.sent.contains i)

theorem MemOp.mem_waiting {op : MemOp} {i : Nat} : i ∈ op.waiting ↔ i ∈ op.left ∧ i ∉ op.sent := by
  simp [MemOp.waiting]

theorem MemOp.waiting_of_unsent {op : MemOp} (h : op.sent = []) : op.waiting = op.left := by
  simp [MemOp.waiting, h]

/-- A single-copy-atomic store or atomic is performed whole (R95). -/
theorem State.portion_whole (s : State) {op : MemOp} (hw : op.whole = true) (hk : ∀ r g, op.kind ≠ .load r g) :
    s.portion op = (op.waiting, s) := by
  unfold State.portion MemOp.waiting
  cases hkind : op.kind with
  | load r g => exact absurd hkind (hk r g)
  | store v => simp [hw]
  | amo r o v k => simp [hw]

/-- A free choice takes some of a list, and one at least. -/
theorem State.someOf_spec (s : State) (l : List Nat) :
    (∀ i ∈ (s.someOf l).1, i ∈ l) ∧ (l ≠ [] → (s.someOf l).1 ≠ []) := by
  refine ⟨fun i hi => List.mem_of_mem_filter hi, fun hl => ?_⟩
  have hlt : s.free.1 % l.length < l.length := Nat.mod_lt _ (List.length_pos_iff.2 hl)
  have hm : l.getD (s.free.1 % l.length) 0 ∈ l := by
    rw [List.getD_eq_getElem _ _ hlt]
    exact List.getElem_mem hlt
  exact List.ne_nil_of_mem (List.mem_filter.2 ⟨hm, by rw [Bool.or_eq_true]; exact .inl (beq_self_eq_true _)⟩)

/-- The bytes at the die of the first one: one at least. -/
theorem filter_headD_ne_nil {l : List Nat} (f : Nat → Nat) (h : l ≠ []) :
    l.filter (fun j => f j == f (l.headD 0)) ≠ [] := by
  cases l with
  | nil => exact absurd rfl h
  | cons i l => simp

/-- A portion is all that has not left, or a free choice of it, of which the bytes at one die. -/
theorem State.portion_cases (s : State) (op : MemOp) :
    s.portion op = (op.waiting, s) ∨ ∃ f : Nat → Nat, s.portion op = ((s.someOf op.waiting).1.filter
      (fun j => f j == f ((s.someOf op.waiting).1.headD 0)), (s.someOf op.waiting).2) := by
  unfold State.portion
  dsimp only
  split_ifs
  · exact .inl rfl
  · exact .inr ⟨fun j => homeDie (siteDie s.t.site) (op.part [j]), rfl⟩

/-- The bytes of a portion have not left, and there is one at least where there can be. -/
theorem State.portion_spec (s : State) (op : MemOp) :
    (∀ i ∈ (s.portion op).1, i ∈ op.waiting) ∧ (op.waiting ≠ [] → (s.portion op).1 ≠ []) := by
  obtain ⟨hsub, hne⟩ := s.someOf_spec op.waiting
  rcases s.portion_cases op with e | ⟨f, e⟩ <;> rw [e]
  · exact ⟨fun _ hi => hi, id⟩
  · exact ⟨fun i hi => hsub i (List.mem_of_mem_filter hi), fun h => filter_headD_ne_nil f (hne h)⟩

/-- The choice of a portion uses free values and changes nothing else. -/
theorem State.portion_state (s : State) (op : MemOp) : ∃ k, (s.portion op).2 = { s with fresh := k } := by
  rcases s.portion_cases op with e | ⟨f, e⟩ <;> rw [e]
  · exact ⟨s.fresh, rfl⟩
  · exact ⟨s.fresh + 1 + 1, rfl⟩

/-! ### An access performed: one equation for each kind (R198, R200, R202) -/

theorem exec_homeSliceAccess_home {s s1 : State} {n : Nat} {op : MemOp} {is : List Nat}
    (ha : s.t.c.accs[n]? = some op) (hf : s.accFree n op = true) (hp : s.portion op = (is, s1)) (hne : is ≠ [])
    (hd : homeDie (siteDie s.t.site) (op.part is) = siteDie s.t.site) :
    exec (.homeSliceAccess n) s = .next (s1.performAcc n is) := by
  simp [exec_homeSliceAccess, execHomeSliceAccess, ha, hf, State.accessOut, hp, hne, hd]

/-- The same of a single-copy-atomic store or atomic of which nothing has left: all its bytes. -/
theorem exec_homeSliceAccess_whole {s : State} {n : Nat} {op : MemOp} (ha : s.t.c.accs[n]? = some op)
    (hf : s.accFree n op = true) (hk : ∀ r g, op.kind ≠ .load r g) (hw : op.whole = true) (hs : op.sent = [])
    (hl : op.left = List.range op.locs.length) (hne : op.locs ≠ [])
    (hd : homeDie (siteDie s.t.site) op.locs = siteDie s.t.site) :
    exec (.homeSliceAccess n) s = .next (s.performAcc n (List.range op.locs.length)) := by
  refine exec_homeSliceAccess_home ha hf ?_ (by simpa using hne) (by rwa [op.part_all])
  rw [s.portion_whole hw hk, MemOp.waiting_of_unsent hs, hl]

theorem MemOp.see_of_not_load (x : MemOp) {op : MemOp} (hk : ∀ r g, op.kind ≠ .load r g) : x.see op = x := by
  unfold MemOp.see
  split
  · rename_i h _
    exact absurd h (hk _ _)
  · rfl

/-- A store or atomic performed is off the list of the accesses on their way. -/
def Ctrl.dropAcc (n : Nat) (c : Ctrl) : Ctrl := { c with accs := c.accs.eraseIdx n }

/-- A store or atomic performed marks none of the older accesses. -/
theorem map_see_take_drop {op : MemOp} (hk : ∀ r g, op.kind ≠ .load r g) (n : Nat) (l : List MemOp) :
    (l.take n).map (fun x => x.see op) ++ l.drop n = l := by
  simp [MemOp.see_of_not_load _ hk]

theorem State.performAcc_store {s : State} {n v : Nat} {op : MemOp} {is : List Nat} (ha : s.t.c.accs[n]? = some op)
    (hk : op.kind = .store v) (hl : op.left.filter (fun i => !is.contains i) = []) :
    s.performAcc n is = (s.writeLocs { s.ctlAgent with pc := op.addr } .write
      ((op.part is).map (s.homeLoc s.t.task.ctx)) (natOfBytes (is.map op.byte))).mapC (Ctrl.dropAcc n) := by
  have hsee := map_see_take_drop (op := op) (by simp [hk]) n
  simp only [State.performAcc, ha, State.perform, hk, hl, List.isEmpty_nil, if_true, State.mapC, hsee]
  rfl

theorem State.performAcc_amo {s : State} {n r v k : Nat} {o : AmoOp} {op : MemOp} {is : List Nat}
    (ha : s.t.c.accs[n]? = some op) (hk : op.kind = .amo r o v k) (hc : s.clusters = [])
    (ht : ∀ l ∈ op.locs, s.homeTakes s.t.task.ctx l = true) :
    s.performAcc n is = (((s.amoLocs s.ctlAgent o op.locs v k).2).mapC (Ctrl.dropAcc n)).setLoad (sreg r)
      (BitVec.ofNat 64 (s.rdLocs op.locs)) := by
  have hsee := map_see_take_drop (op := op) (by simp [hk]) n
  have hamo : s.homeAmo { s.ctlAgent with pc := op.addr } o op.locs v k = s.amoLocs s.ctlAgent o op.locs v k := by
    rw [State.homeAmo_taken (ag := { s.ctlAgent with pc := op.addr }) ht,
      State.amoLocs_agent s _ s.ctlAgent o op.locs v k hc]
  simp only [State.performAcc, ha, State.perform, hk, hamo, List.isEmpty_nil, if_true, State.mapC, hsee,
    (State.amoLocs_loadsAnew s s.ctlAgent o op.locs v k hc).1]
  rfl

/-- A load with some bytes more, of which they are the values. -/
def MemOp.withBytes (op : MemOp) (is : List Nat) (bs : List Byte) : MemOp :=
  { op with
    left := op.left.filter (fun i => !is.contains i)
    sent := op.sent.filter (fun i => !is.contains i)
    got := op.got ++ is.zip bs }

/-- The value of the bytes that a load has, sign-extended or not. -/
def MemOp.loaded (op : MemOp) (signed : Bool) : Word :=
  let v := natOfBytes ((List.range op.locs.length).map (fun i => ((op.got.find? (fun p => p.1 == i)).map (·.2)).getD 0))
  if signed then BitVec.ofInt 64 (sextNat (8 * op.locs.length) v) else BitVec.ofNat 64 v

/-- The accesses on their way with others in the place of the nth one, a load: the older ones whose bytes it has taken are
marked (R99). -/
def Ctrl.seeAcc (n : Nat) (op : MemOp) (x : List MemOp) (c : Ctrl) : Ctrl :=
  { c with accs := (c.accs.take n).map (fun y => y.see op) ++ x ++ c.accs.drop (n + 1) }

theorem State.perform_load_left (s : State) (ag : Agent) (older : List MemOp) {r : Nat} {signed : Bool} {op : MemOp}
    {is : List Nat} (hk : op.kind = .load r signed) (hl : op.left.filter (fun i => !is.contains i) ≠ []) :
    s.perform ag older op is = ((op.withBytes is ((op.part is).map (s.fwdByte older)), none), s) := by
  have he : ¬ (op.left.filter (fun i => !is.contains i)).isEmpty = true := by simpa using hl
  unfold State.perform MemOp.withBytes
  rw [hk]
  exact if_neg he

theorem State.perform_load_done (s : State) (ag : Agent) (older : List MemOp) {r : Nat} {signed : Bool} {op : MemOp}
    {is : List Nat} (hk : op.kind = .load r signed) (hc : s.clusters = [])
    (hl : op.left.filter (fun i => !is.contains i) = []) :
    s.perform ag older op is = ((op.withBytes is ((op.part is).map (s.fwdByte older)),
      some (r, (op.withBytes is ((op.part is).map (s.fwdByte older))).loaded signed)), s) := by
  have he : (op.left.filter (fun i => !is.contains i)).isEmpty = true := by simpa using hl
  unfold State.perform MemOp.withBytes MemOp.loaded
  rw [hk]
  refine (if_pos he).trans ?_
  rw [State.watchLocs_nil _ _ _ _ _ hc]

theorem State.performAcc_load_left {s : State} {n r : Nat} {signed : Bool} {op : MemOp} {is : List Nat}
    (ha : s.t.c.accs[n]? = some op) (hk : op.kind = .load r signed)
    (hl : op.left.filter (fun i => !is.contains i) ≠ []) :
    s.performAcc n is
      = s.mapC (Ctrl.seeAcc n op [op.withBytes is ((op.part is).map (s.fwdByte (s.t.c.accs.take n)))]) := by
  obtain ⟨hn, -⟩ := List.getElem?_eq_some_iff.1 ha
  have he : ¬ (op.withBytes is ((op.part is).map (s.fwdByte (s.t.c.accs.take n)))).left.isEmpty = true := by
    simpa [MemOp.withBytes] using hl
  have hset : ∀ x, ((s.t.c.accs.set n x).take n).map (fun y => y.see op) ++ (s.t.c.accs.set n x).drop n
      = (s.t.c.accs.take n).map (fun y => y.see op) ++ [x] ++ s.t.c.accs.drop (n + 1) := by
    intro x
    simp [List.take_set_of_le, List.drop_set, List.drop_eq_getElem_cons, hn]
  simp only [State.performAcc, ha, State.perform_load_left s _ _ hk hl, if_neg he, State.mapC, hset]
  rfl

theorem State.performAcc_load_done {s : State} {n r : Nat} {signed : Bool} {op : MemOp} {is : List Nat}
    (ha : s.t.c.accs[n]? = some op) (hk : op.kind = .load r signed) (hc : s.clusters = [])
    (hl : op.left.filter (fun i => !is.contains i) = []) :
    s.performAcc n is = (s.mapC (Ctrl.seeAcc n op [])).setLoad (sreg r)
      ((op.withBytes is ((op.part is).map (s.fwdByte (s.t.c.accs.take n)))).loaded signed) := by
  obtain ⟨hn, -⟩ := List.getElem?_eq_some_iff.1 ha
  have he : (op.withBytes is ((op.part is).map (s.fwdByte (s.t.c.accs.take n)))).left.isEmpty = true := by
    simpa [MemOp.withBytes] using hl
  have herase : (((s.t.c.accs.eraseIdx n).take n).map (fun y => y.see op)) ++ (s.t.c.accs.eraseIdx n).drop n
      = (s.t.c.accs.take n).map (fun y => y.see op) ++ [] ++ s.t.c.accs.drop (n + 1) := by
    simp [List.eraseIdx_eq_take_drop_succ, hn.le]
  simp only [State.performAcc, ha, State.perform_load_done s _ _ hk hc hl, if_pos he, State.mapC, herase]
  rfl

/-! ### The register of a load or atomic (R200, R202) -/

theorem Ctrl.reg_setLoad (c : Ctrl) (d q : SReg) (v : Word) :
    (c.setLoad d v).reg q = if q = d then (if d = 0 then 0 else v) else c.reg q := by
  unfold Ctrl.setLoad
  by_cases hd : d = 0
  · subst hd
    by_cases hq : q = 0 <;> simp [hq, Ctrl.reg]
  · by_cases hq : q = d
    · subst hq
      simp [Ctrl.reg, hd]
    · have hv : ¬ d.val = q.val := fun h => hq (Fin.ext h.symm)
      have hf : (c.loads.filter (fun p => p.1 != d.val)).find? (fun p => p.1 == q.val)
          = c.loads.find? (fun p => p.1 == q.val) := by
        rw [List.find?_filter]
        congr 1
        funext p
        by_cases h : p.1 = q.val <;> simp [h, Ne.symm hv]
      simp [Ctrl.reg, hd, hq, hv, hf]

/-- A load or atomic that hands over its value, where nothing before that has changed a register. -/
theorem regsAfter_setLoad {s t : State} (h : ∀ q, t.reg q = s.reg q) (d : SReg) (v : Word) :
    RegsAfter s (t.setLoad d v) d v := fun q => by
  rw [← h q]
  exact Ctrl.reg_setLoad t.t.c d q v

theorem State.setLoad_mem (s : State) (d : SReg) (v : Word) : (s.setLoad d v).mem = s.mem := rfl

theorem State.setLoad_accs_pc (s : State) (d : SReg) (v : Word) :
    (s.setLoad d v).t.c.accs = s.t.c.accs ∧ (s.setLoad d v).t.c.pc = s.t.c.pc := by
  by_cases hd : d = 0 <;> simp [State.setLoad, Ctrl.setLoad, hd]

theorem sreg_val (r : SReg) : sreg r.val = r := Fin.ofNat_val_eq_self r

/-! ### The statement -/

/-- A store to cells in a row: the first clause. -/
theorem State.performAcc_store_row {s : State} {n a k v : Nat} {op : MemOp} (hs : NoneAway s) (hc : s.clusters = [])
    (ha : s.t.c.accs[n]? = some op) (hk : op.kind = .store v) (hl : op.left = List.range k)
    (hlocs : op.locs = (List.range k).map (fun i => Loc.cell (a + i) (a + i))) :
    let t := s.performAcc n (List.range k)
    ((∀ l ∈ op.locs, s.homeTakes s.t.task.ctx l = true) → t.mem = (s.wrN a k v).mem)
      ∧ (∀ x, (∀ h, Loc.cell x h ∈ op.locs → s.homeTakes s.t.task.ctx (.cell x h) = false) → t.rd x = s.rd x)
      ∧ LoadsAnew s t (fun x => { x with c := { x.c with accs := x.c.accs.eraseIdx n } }) := by
  have hpart : op.part (List.range k) = op.locs := by
    have h := op.part_all
    rwa [show op.locs.length = k by simp [hlocs]] at h
  dsimp only
  rw [State.performAcc_store ha hk (by simp [hl]), hpart, MemOp.bytes_store hk]
  refine ⟨fun ht => ?_, fun x hx => ?_, loadsAnew_mapC (State.writeLocs_loadsAnew _ _ _ _ _ hc) _⟩
  · rw [State.homeLocs_of_taken ht, hlocs, State.mapC_mem, State.writeLocs_row_mem _ _ _ _ _ _ hs hc]
    have hv := bytesOf_natOfBytes (bytesOf k v)
    rw [length_bytesOf] at hv
    rw [State.wrN, hv, State.wrN]
  · refine State.rd_writeLocs_out s _ _ _ _ x hs hc (fun h hm => ?_)
    obtain ⟨hm, ht⟩ := State.mem_homeLocs hm
    simp [hx h hm] at ht

/-- Settles O8: each access performed at home is `performAcc` of its portion, which has an equation for each kind. -/
theorem performedStoreWritesItsBytes : Obligations.PerformedStoreWritesItsBytes := by
  unfold Obligations.PerformedStoreWritesItsBytes
  refine ⟨?store, ?load, ?atomic, ?portion⟩
  case store =>
    intro s n a k v op hs hc ha hf hk hw hsent hpos hl hlocs hd
    have hlen : op.locs.length = k := by simp [hlocs]
    obtain ⟨hin, hout, hanew⟩ := State.performAcc_store_row hs hc ha hk hl hlocs
    refine ⟨s.performAcc n (List.range k), ?_, fun ht => ?_, fun hf x => ?_, fun x hx => ?_, hanew⟩
    · have hne : op.locs ≠ [] := List.ne_nil_of_length_pos (hlen ▸ hpos)
      rw [exec_homeSliceAccess_whole ha hf (by simp [hk]) hw hsent (hlen ▸ hl) hne hd, hlen]
    · have hrd : ∀ x, (s.performAcc n (List.range k)).rd x = (s.wrN a k v).rd x := fun x => by rw [State.rd, hin ht]; rfl
      refine ⟨fun i hi => by rw [hrd, State.rd_wrN_in s a k v i hi], ?_⟩
      rw [← State.rdN_wrN s, State.rdN, State.rdN, funext hrd]
    · exact hout x (fun h hm => hf _ hm)
    · refine hout x (fun h hm => ?_)
      obtain ⟨i, hi, e⟩ := List.mem_map.1 (hlocs ▸ hm)
      have := List.mem_range.1 hi
      injection e
      omega
  case load =>
    intro s s1 n r op signed is hc ha hf hk hp hne hd older got left v rest
    obtain ⟨f, hs1⟩ := s.portion_state op
    rw [hp] at hs1
    dsimp only at hs1
    refine ⟨_, exec_homeSliceAccess_home ha hf hp hne hd, ?_⟩
    subst hs1
    by_cases hl : left = []
    · rw [State.performAcc_load_done (s := { s with fresh := f }) ha hk hc hl, sreg_val]
      obtain ⟨haccs, hpc⟩ := State.setLoad_accs_pc _ _ _
      exact ⟨State.setLoad_mem _ _ _, hpc, fun _ => ⟨haccs, regsAfter_setLoad (fun q => rfl) r _⟩, fun h => absurd hl h⟩
    · rw [State.performAcc_load_left (s := { s with fresh := f }) ha hk hl]
      exact ⟨rfl, rfl, fun h => absurd h hl, fun _ => ⟨fun q => rfl, rfl⟩⟩
  case atomic =>
    intro s n r op o v k hc ha hf hk hw hsent hne hl hd ht u
    obtain ⟨hreg, hpc⟩ := loadsAnew_reg_pc (State.amoLocs_loadsAnew s s.ctlAgent o op.locs v k hc).2
    refine ⟨_, exec_homeSliceAccess_whole ha hf (by simp [hk]) hw hsent hl hne hd, ?_⟩
    rw [State.performAcc_amo ha hk hc ht, sreg_val]
    obtain ⟨haccs, hpc'⟩ := State.setLoad_accs_pc (u.mapC (Ctrl.dropAcc n)) r (BitVec.ofNat 64 (s.rdLocs op.locs))
    exact ⟨regsAfter_setLoad (t := u.mapC (Ctrl.dropAcc n)) hreg r _, haccs, rfl, hpc'.trans hpc⟩
  case portion =>
    intro s s1 op is hp
    obtain ⟨hsub, hne⟩ := s.portion_spec op
    rw [hp] at hsub hne
    refine ⟨fun i hi => MemOp.mem_waiting.1 (hsub i hi), fun ⟨i, hi⟩ => hne ?_, fun hw hk => ?_⟩
    · exact List.ne_nil_of_mem (MemOp.mem_waiting.2 hi)
    · rw [s.portion_whole hw hk] at hp
      exact (congrArg Prod.fst hp).symm

end Sys2Proof.Machine
end

section
/-! PROOFS of 01_machine.md: queue moves and system-register reads (R18, R19, R21, R207, R212). -/

namespace Sys2Proof.Machine

/-! ### Conditions that let an instruction through -/

theorem withFeat_of {s : State} {need : Nat} (h : HasFeatures s need) (k : State → Res) : s.withFeat need k = k s := by
  unfold State.withFeat
  rw [show s.lacks need = none from h]

theorem withRoom_of {s : State} (h : s.t.q.lane.length < laneDepth) (k : State → Res) : s.withRoom k = k s := if_pos h

theorem drained_of {s : State} (h : s.laneIdle = true) (w : Wait) (k : State → Res) : s.drained w k = k s := if_pos h

theorem withLegal_of {s : State} (h : s.t.c.v.illegal = false) (k : State → Res) : s.withLegal k = k s := by
  simp [State.withLegal, h]

/-! ### Queues (R18, R207) -/

theorem HasFeatures.mapQ {s : State} {need : Nat} (h : HasFeatures s need) (f : Queues → Queues) :
    HasFeatures (s.mapQ f) need := h

/-- Settles O11. -/
theorem queueMoves : Obligations.QueueMoves := by
  intro s q r v l hf hr
  refine ⟨fun hroom => ?_, fun hq => ?_⟩
  · rw [exec_qpush, execQpush, withFeat_of hf, withRegs_of hr, if_pos (by simpa [queueDepth] using hroom)]
    exact ⟨_, rfl, fun q => rfl, rfl, rfl, fun a => rfl⟩
  · rw [exec_qpop, execQpop, withFeat_of hf, withRegs_of hr, hq]
    exact writes_result _ r v

theorem writes_mfsr {s : State} {d : SReg} (h : NoToken s [d]) (n : Fin 64)
    (hw : sysWaits n.val = true → s.laneIdle = true) : Writes s (exec (.mfsr d n) s) d (s.sysRead n.val) := by
  rw [exec_mfsr, execMfsr, withRegs_of h]
  split
  next hn => rw [drained_of (hw hn)]; exact writes_result _ d _
  next => exact writes_result _ d _

/-- The registers whose reads wait (R21). -/
theorem sysWaits_iff (n : Fin 64) : sysWaits n.val = true ↔ n ∈ [(0x04 : Fin 64), 0x06, 0x07, 0x08, 0x09, 0x0A] := by
  revert n; decide

theorem low_half_eq_setWidth (k : BitVec 128) : k.setWidth 64 = k.extractLsb' 0 64 := by
  apply BitVec.eq_of_toNat_eq
  simp [BitVec.extractLsb'_toNat]

theorem high_half_eq_div (k : BitVec 128) : BitVec.ofNat 64 (k.toNat / 2 ^ 64) = k.extractLsb' 64 64 := by
  apply BitVec.eq_of_toNat_eq
  simp [BitVec.extractLsb'_toNat, Nat.shiftRight_eq_div_pow]

/-- Settles O18. -/
theorem systemRegisterReadResults : Obligations.SystemRegisterReadResults := by
  refine ⟨fun s d hd => ⟨fun p hp hw => ?_, fun n hn => ?_⟩, fun s d n hd hl hn => ?_⟩
  · have hread : s.sysRead p.1.val = p.2 := by
      simp only [List.mem_cons, List.not_mem_nil, or_false] at hp
      rcases hp with rfl | rfl | rfl | rfl | rfl | rfl | rfl | rfl | rfl | rfl | rfl | rfl | rfl | rfl | rfl | rfl | rfl
        | rfl | rfl | rfl | rfl | rfl | rfl | rfl | rfl | rfl | rfl | rfl | rfl
      case inr.inr.inr.inr.inr.inr.inr.inr.inr.inr.inr.inr.inr.inr.inr.inr.inr.inr.inl => exact low_half_eq_setWidth _
      case inr.inr.inr.inr.inr.inr.inr.inr.inr.inr.inr.inr.inr.inr.inr.inr.inr.inr.inr.inl => exact high_half_eq_div _
      all_goals rfl
    rw [← hread]
    exact writes_mfsr hd p.1 (fun h => hw ((sysWaits_iff _).1 h))
  · exact writes_mfsr hd n (fun h => hn ((sysWaits_iff n).1 h))
  · rw [exec_mfsr, execMfsr, withRegs_of hd, if_pos ((sysWaits_iff n).2 hn), State.drained, hl]
    rfl

end Sys2Proof.Machine
end

section
/-! PROOFS of 01_machine.md: the lane parts of control words, and system-register writes (R21, R24, R212, R213). -/

namespace Sys2Proof.Machine

/-! ### The head of the lane queue (R21, R30, R43) -/

theorem State.laneHead_part {s : State} {e : LaneEntry} {l : List LaneEntry} (h : Heads s e l) (hk : e.kind = .part) :
    s.laneHead = .inl (s.runPart e) := by
  unfold State.laneHead
  rw [show s.t.q.lane = e :: l from h]
  simp [hk]

/-- A control word whose lane part changes the lane stream alone. -/
theorem partDoes_of {i : Instr} {f : LaneEntry → Lane → Lane}
    (h : ∀ (s : State) (e : LaneEntry), decode e.word = .ok i → s.partEffect e = s.mapL (f e)) : PartDoes i f := by
  intro s e l hl hk hd
  rw [State.laneHead_part hl hk, State.runPart, h s e hd]
  simp only [State.mapQ, State.mapL, hl, List.tail_cons]

theorem State.laneHead_probe {s : State} {e : LaneEntry} {l : List LaneEntry} {o : BitVec 24} (h : Heads s e l)
    (hk : e.kind = .probe) (hi : e.instr = some (.bmz o) ∨ e.instr = some (.bmnz o)) : s.laneHead = .inl s.probeTop := by
  unfold State.laneHead
  rw [show s.t.q.lane = e :: l from h]
  rcases hi with hi | hi <;> simp [hk, hi]

/-! ### System registers written (R212, R213) -/

theorem drawkey_low (k : BitVec 128) (v : Word) :
    BitVec.ofNat 128 (k.toNat / 2 ^ 64 * 2 ^ 64 + v.toNat) = k.extractLsb' 64 64 ++ v := by
  apply BitVec.eq_of_toNat_eq
  have := k.isLt
  have := v.isLt
  rw [BitVec.toNat_append, BitVec.extractLsb'_toNat, BitVec.toNat_ofNat, ← Nat.shiftLeft_add_eq_or_of_lt v.isLt,
    Nat.shiftRight_eq_div_pow, Nat.shiftLeft_eq]
  omega

theorem drawkey_high (k : BitVec 128) (v : Word) :
    BitVec.ofNat 128 (v.toNat * 2 ^ 64 + k.toNat % 2 ^ 64) = v ++ k.extractLsb' 0 64 := by
  apply BitVec.eq_of_toNat_eq
  have := v.isLt
  have h : (k.extractLsb' 0 64).toNat = k.toNat % 2 ^ 64 := by simp [BitVec.extractLsb'_toNat]
  rw [BitVec.toNat_append, h, BitVec.toNat_ofNat, ← Nat.shiftLeft_add_eq_or_of_lt (Nat.mod_lt _ (by decide)),
    Nat.shiftLeft_eq]
  omega

/-- Which registers a write sets in the lane stream, by their numbers (R212). -/
theorem Lane.writeSys_eq (l : Lane) (n : Fin 64) (v : Word) : l.writeSys n.val v =
    if n = 0x04 then { l with vstart := v.toNat % 2 ^ 19 }
    else if n = 0x07 then { l with xclass := v.setWidth 8 }
    else if n = 0x08 then { l with xflags := v.setWidth 8 }
    else if n = 0x09 then { l with xen := v.setWidth 8 }
    else if n = 0x12 then { l with drawkey := l.drawkey.extractLsb' 64 64 ++ v }
    else if n = 0x13 then { l with drawkey := v ++ l.drawkey.extractLsb' 0 64 }
    else if n = 0x14 then { l with drawid := v.setWidth 32 }
    else l := by
  rw [← drawkey_low, ← drawkey_high]
  fin_cases n <;> rfl

/-- Which registers a write sets in the control stream at once, by their numbers (R213). -/
theorem Ctrl.writeDraw_eq (c : Ctrl) (n : Fin 64) (v : Word) : c.writeDraw n.val v =
    if n = 0x12 then { c with drawkey := c.drawkey.extractLsb' 64 64 ++ v }
    else if n = 0x13 then { c with drawkey := v ++ c.drawkey.extractLsb' 0 64 }
    else if n = 0x14 then { c with drawid := v.setWidth 32 }
    else c := by
  rw [← drawkey_low, ← drawkey_high]
  fin_cases n <;> rfl

/-- A write changes the draw registers alone, and only those it names (R213). -/
theorem Ctrl.writeDraw_spec (c : Ctrl) (n : Fin 64) (v : Word) : ∃ k d,
    c.writeDraw n.val v = { c with drawkey := k, drawid := d }
    ∧ (n = 0x12 → k = c.drawkey.extractLsb' 64 64 ++ v) ∧ (n = 0x13 → k = v ++ c.drawkey.extractLsb' 0 64)
    ∧ (n = 0x14 → d = v.setWidth 32) ∧ (n ∉ [(0x12 : Fin 64), 0x13, 0x14] → k = c.drawkey ∧ d = c.drawid) := by
  rw [Ctrl.writeDraw_eq]
  by_cases h12 : n = 0x12
  · subst h12
    exact ⟨_, _, rfl, fun _ => rfl, by simp, by simp, by simp⟩
  by_cases h13 : n = 0x13
  · subst h13
    exact ⟨_, _, rfl, by simp, fun _ => rfl, by simp, by simp⟩
  by_cases h14 : n = 0x14
  · subst h14
    exact ⟨_, _, rfl, by simp, by simp, fun _ => rfl, by simp⟩
  rw [if_neg h12, if_neg h13, if_neg h14]
  exact ⟨_, _, rfl, fun h => absurd h h12, fun h => absurd h h13, fun h => absurd h h14, fun _ => ⟨rfl, rfl⟩⟩

theorem mtsr_part (n : Fin 64) (a : SReg) : PartDoes (.mtsr n a) (fun e l => l.writeSys n.val e.a) :=
  partDoes_of fun s e hd => by simp [State.partEffect, hd]

/-- Settles O19. -/
theorem systemRegisterWrites : Obligations.SystemRegisterWrites := by
  refine ⟨fun n a => ?part, fun s n a hr => ⟨fun hn => ?tvec, fun hn hroom hfl => ?queue, fun hn hfl => ?reserved⟩⟩
  case part => simpa only [Lane.writeSys_eq] using mtsr_part n a
  case tvec =>
    subst hn
    rw [exec_mtsr, execMtsr, withRegs_of hr]
    rfl
  case queue =>
    have hcond : ((n == 7 || n == 8 || n == 9) && wbits (s.reg a) 63 8 != 0) = false := by
      by_cases h : n ∈ [(0x07 : Fin 64), 0x08, 0x09]
      · simp [hfl h]
      · simp only [List.mem_cons, List.not_mem_nil, or_false, not_or] at h
        simp [h]
    rw [exec_mtsr, execMtsr, withRegs_of hr]
    simp only [beq_iff_eq, hn, if_false, hcond, Bool.false_eq_true, withRoom_of hroom]
    obtain ⟨k, d, hw, hlow, hhigh, hid, hother⟩ := Ctrl.writeDraw_spec s.t.c n (s.reg a)
    have hstate : ((s.pushPart (.mtsr n a) (s.reg a) 0 0).mapC (·.writeDraw n.val (s.reg a)))
        = (s.pushPart (.mtsr n a) (s.reg a) 0 0).mapC (fun c => { c with drawkey := k, drawid := d }) :=
      congrArg (fun c => (s.pushPart (.mtsr n a) (s.reg a) 0 0).mapC (fun _ => c)) hw
    rw [hstate]
    exact ⟨_, rfl, rfl, rfl, fun q => rfl, rfl, rfl, hlow, hhigh, hid, hother, fun x => rfl⟩
  case reserved =>
    have hcond : ((n == 7 || n == 8 || n == 9) && wbits (s.reg a) 63 8 != 0) = true := by
      simp only [List.mem_cons, List.not_mem_nil, or_false] at hn
      rcases hn with rfl | rfl | rfl <;> simp [hfl]
    have hne : n ≠ 0x16 := by rintro rfl; exact absurd hn (by decide)
    rw [exec_mtsr, execMtsr, withRegs_of hr]
    simp only [beq_iff_eq, hne, if_false, hcond, if_true]
    rfl

end Sys2Proof.Machine
end

section
/-! PROOFS of 01_machine.md: the state at reset, the end of a lane instruction, and the branches on bo (R19, R43, R195, R196,
R443). -/

namespace Sys2Proof.Machine

theorem State.reset_reg (q : SReg) : State.reset.reg q = 0 := by
  show (if q = 0 then 0 else (Vector.replicate 64 (0 : Word))[q]) = 0
  simp

/-- Settles O60. -/
theorem resetState : Obligations.ResetState :=
  ⟨by unfold MemWf; decide, by unfold RegInv RegsWf; decide, rfl, rfl, by decide, rfl, rfl, rfl, rfl, rfl, fun _ => rfl,
    State.reset_reg, rfl, rfl, rfl, rfl, rfl, rfl, rfl⟩

/-! ### The end of a lane instruction (R19, R267, R317, R322) -/

/-- The time counted for a lane instruction changes the record of lane cycles and the free values used, nothing else. -/
theorem State.laneCycles_spec (s : State) (act : List Nat) : ∃ v n,
    s.laneCycles act = { s.mapL (fun l => { l with started := s.t.alloc.quads, lcr := v }) with fresh := n } :=
  ⟨_, _, rfl⟩

/-- Where nothing is traced, no pass count is drawn for the head (R317). -/
theorem State.countPasses_noTrace {s : State} (h : NoTrace s) : s.countPasses = (none, s) := by
  refine if_neg ?_
  rw [show s.t.dbg.ctl.getLsbD 0 = false from h, Bool.false_and]
  exact Bool.false_ne_true

/-- The head of the lane queue leaves, where nothing is traced: its instruction is complete, or goes on where accesses of it
are on their way. -/
theorem State.lanePop_noTrace {s : State} (h : NoTrace s) : ∃ d g,
    s.lanePop = (s.mapQ (fun q => { q with lane := q.lane.tail })).mapL
      (fun l => { l with vstart := 0, started := s.t.alloc.quads, done := d, going := g })
    ∧ ((∀ p ∈ s.openInstrs, p.1 ≠ s.laneSeq) → d = s.t.l.done + 1 ∧ g = s.t.l.going) := by
  unfold State.lanePop
  rw [State.countPasses_noTrace h]
  dsimp only
  split
  next hopen =>
    refine ⟨s.t.l.done, s.t.l.going ++ [⟨s.laneSeq, s.laneAddr, none⟩], rfl, fun hno => ?_⟩
    obtain ⟨p, hp, heq⟩ := List.any_eq_true.1 hopen
    exact absurd (beq_iff_eq.1 heq) (hno p hp)
  next => exact ⟨s.t.l.done + 1, s.t.l.going, rfl, fun _ => ⟨rfl, rfl⟩⟩

/-- A lane instruction complete, where nothing is traced: only its thread's lane stream and lane queue change. -/
theorem State.laneEnd_noTrace {s : State} (h : NoTrace s) (act : List Nat) (fl : Nat) : ∃ v n d g,
    s.laneEnd act fl = { s with
      fresh := n
      t := { s.t with
        q := { s.t.q with lane := s.t.q.lane.tail }
        l := { s.t.l with
          vstart := 0, done := d, going := g, started := s.t.alloc.quads, lcr := v
          xflags := s.t.l.xflags ||| BitVec.ofNat 8 fl } } }
    ∧ ((∀ p ∈ s.openInstrs, p.1 ≠ s.laneSeq) → d = s.t.l.done + 1 ∧ g = s.t.l.going) := by
  obtain ⟨v, n, hc⟩ := State.laneCycles_spec (s.addFlags fl) act
  have hno : NoTrace ((s.addFlags fl).laneCycles act) := by rw [hc]; exact h
  obtain ⟨d, g, hp, hd⟩ := State.lanePop_noTrace hno
  rw [hc] at hd
  refine ⟨v, n, d, g, ?_, hd⟩
  rw [State.laneEnd, hp, hc]
  rfl

/-! ### Probes and the pop phase (R43, R195, R196, R443) -/

theorem State.popBo_cons {s : State} {x : Bool} {l : List Bool} (h : s.t.q.bo = x :: l) (k : Bool → State → Res) :
    s.popBo k = k x (s.mapQ (fun q => { q with bo := l })) := by
  rw [State.popBo, h]

theorem target_words (s : State) (o : BitVec 24) : s.target o = s.wordAddr + 8 * BitVec.ofInt 64 o.toInt := by
  rw [State.target, BitVec.signExtend]

/-- The word of the pop phase pops the bit and branches on it (R443). -/
theorem branches_endPop (s : State) (b : Bool) (l : List Bool) (o : BitVec 24) :
    let s1 := (s.mapQ (fun q => { q with bo := l })).mapC (fun c => { c with popWord := none })
    Branches s1 (.next ((s.mapQ (fun q => { q with bo := l })).endPop b o)) b (s1.target o) :=
  branches_branchIf _ b o

/-- A fetch changes the free values used, nothing else (R168). -/
theorem State.fetchWord_state (s : State) (a : Word) : ∃ n, (s.fetchWord a).2 = { s with fresh := n } := by
  unfold State.fetchWord
  split <;> exact ⟨_, rfl⟩

theorem State.popPhaseWord_frame {s s2 : State} {w : Word} (h : s.popPhaseWord = (w, s2)) :
    s2.t.q = s.t.q ∧ s2.wordAddr = s.wordAddr := by
  unfold State.popPhaseWord at h
  split at h
  · obtain ⟨-, rfl⟩ := Prod.mk.inj h
    exact ⟨rfl, rfl⟩
  · obtain ⟨n, hn⟩ := s.fetchWord_state s.wordAddr
    rcases hr : s.fetchWord s.wordAddr with ⟨w', s'⟩
    rw [hr] at h hn
    dsimp only at hn
    subst hn
    obtain ⟨-, rfl⟩ := Prod.mk.inj h
    exact ⟨rfl, rfl⟩

/-- A bit pushed to bo: at its tail, or, where it is full, as the pending push of the head (R43, R444). -/
theorem Queues.pushBo_room {q : Queues} {b : Bool} (h : q.bo.length < 16) : q.pushBo b = { q with bo := q.bo ++ [b] } :=
  if_pos h

theorem Queues.pushBo_full {q : Queues} {b : Bool} (h : 16 ≤ q.bo.length) :
    q.pushBo b = { q with pend := some ⟨3, if b then 1 else 0, q.headAddr⟩ } :=
  if_neg (Nat.not_lt.2 h)

/-- The bit of a probe: no lane below VL has its mask-stack top set (R43). -/
theorem State.probe_bit_iff (s : State) :
    s.belowLanes.all (fun n => !s.top n) = true ↔ ∀ n < s.t.l.v.vl, s.below n = true → s.top n = false := by
  simp only [State.belowLanes, List.all_eq_true, List.mem_filter, List.mem_range, Bool.not_eq_true', and_imp]

theorem State.probeTop_spec {s : State} (ht : NoTrace s) :
    let b := s.belowLanes.all (fun n => !s.top n)
    s.probeTop.mem = s.mem ∧ s.probeTop.cols = s.cols
      ∧ s.probeTop.t.q = { s.t.q.pushBo b with lane := (s.t.q.pushBo b).lane.tail } := by
  obtain ⟨v, n, d, g, he, -⟩ := State.laneEnd_noTrace (s := s.mapQ (·.pushBo (s.belowLanes.all (fun n => !s.top n)))) ht
    (s.actives noGuard) 0
  intro b
  rw [State.probeTop, he]
  exact ⟨rfl, rfl, rfl⟩

/-- A probe enters the lane queue, and the pop phase of its word follows (R196, R443). -/
theorem State.pushProbe_of {s : State} {i : Instr} (hf : HasFeatures s 1) (hroom : s.t.q.lane.length < laneDepth) :
    s.pushProbe i = .next ((s.pushEntry .probe (encode i) 0 0 0).toPop (encode i)) := by
  rw [State.pushProbe, withFeat_of hf, withRoom_of hroom]

/-- Settles O4. -/
theorem bitsSteerBranches : Obligations.BitsSteerBranches := by
  refine ⟨fun s o x l hf hbo => ?taken, fun s e l o hl hk ht hi => ?probe, fun s n => ?top, fun s o => ⟨?push, ?pop⟩⟩
  case taken =>
    intro s1 to'
    rw [exec_bq, exec_bqn, execBq, execBqn, withFeat_of hf, withFeat_of hf, State.popBo_cons hbo, State.popBo_cons hbo]
    exact ⟨branches_branchIf s1 x o, branches_branchIf s1 (!x) o⟩
  case probe =>
    have hlane : s.t.q.lane = e :: l := hl
    obtain ⟨hmem, hcols, hq⟩ := State.probeTop_spec ht
    refine ⟨s.probeTop, _, State.laneHead_probe hl hk hi, hmem, hcols, s.probe_bit_iff, fun h => ?_, fun h => ?_⟩
    · rw [hq, Queues.pushBo_room h, hlane]
      rfl
    · rw [hq, Queues.pushBo_full h, Queues.headAddr, hlane]
      rfl
  case top =>
    refine ⟨fun h => by simp [State.top, h], fun h => ?_⟩
    have hd : 32 + (s.t.l.depth - 1) = 31 + s.t.l.depth := by omega
    simp [State.top, State.stackBit, hd, Nat.pos_iff_ne_zero.1 h]
  case push =>
    intro i hi hf hroom
    simp only [List.mem_cons, List.not_mem_nil, or_false] at hi
    rcases hi with rfl | rfl
    · exact State.pushProbe_of hf hroom
    · exact State.pushProbe_of hf hroom
  case pop =>
    intro x l w s2 hp hbo
    obtain ⟨hq, ha⟩ := State.popPhaseWord_frame hp
    have hbo2 : s2.t.q.bo = x :: l := by rw [hq, hbo]
    have hto : s2.target o = s.wordAddr + 8 * BitVec.ofInt 64 o.toInt := by rw [← ha]; rfl
    intro s1 to'
    have hb : ∀ b, Branches s1 (.next ((s2.mapQ (fun q => { q with bo := l })).endPop b o)) b to' := fun b => by
      rw [show to' = s1.target o from hto.symm]
      exact branches_endPop s2 b l o
    refine ⟨fun hd => ?_, fun hd => ?_, fun z hd => ?_⟩
    · simpa only [exec_popPhase, execPopPhase, hp, hd, State.popBo_cons hbo2] using hb x
    · simpa only [exec_popPhase, execPopPhase, hp, hd, State.popBo_cons hbo2] using hb (!x)
    · simpa only [exec_popPhase, execPopPhase, hp, hd, State.popBo_cons hbo2] using hb x

end Sys2Proof.Machine
end

section
/-! PROOFS of 01_machine.md: the return from a trap (R21, R52, R54, R218). -/

namespace Sys2Proof.Machine

/-! ### The return from a trap (R218) -/

theorem tret_part : PartDoes .tret (fun e l => { l with v := l.v.restore2 e.c.toNat e.a e.b, depth := vstateDepth e.a }) :=
  partDoes_of fun s e hd => by simp [State.partEffect, hd]

theorem restore2_eq (v : VState) (n : Nat) (w two : Word) :
    v.restore2 n w two = if wbits two 18 0 = 0 then v.restore n w
      else (v.restore n w).two (twoOuter n (wbits two 18 0) (wbits two 50 32)) (wbits two 50 32) := by
  simp [VState.restore2]

/-- What a held lane instruction does to the control copies as it is pushed again (R53, R218, R290). -/
theorem reissue_instr (c : Ctrl) (e : LaneEntry) (m : MReg) (a : SReg) (i : Instr) (hk : e.kind = .instr)
    (hd : decode e.word = .ok i) :
    (i = .mpush m → c.reissue e = { c with depth := c.depth + 1 })
      ∧ (i = .mpop → c.reissue e = { c with depth := c.depth - 1 })
      ∧ (i = .mcfg a → c.reissue e = { c with mcfg := e.a })
      ∧ ((∀ m, i ≠ .mpush m) → i ≠ .mpop → (∀ a, i ≠ .mcfg a) → c.reissue e = c) := by
  unfold Ctrl.reissue
  rw [hk, hd]
  refine ⟨fun h => by rw [h], fun h => by rw [h], fun h => by rw [h], fun hpush hpop hcfg => ?_⟩
  split
  next h => exact absurd (Except.ok.inj h) (hpush _)
  next h => exact absurd (Except.ok.inj h) hpop
  next h => exact absurd (Except.ok.inj h) (hcfg _)
  next h _ => exact absurd h (by decide)
  next h _ => exact absurd h (by decide)
  next h _ => exact absurd h (by decide)
  next => rfl

/-- A re-issue changes the control copies of the depth, of the matrix configuration and of the draw registers alone. -/
theorem reissue_spec (c : Ctrl) (e : LaneEntry) : ∃ d m k n,
    c.reissue e = { c with depth := d, mcfg := m, drawkey := k, drawid := n } := by
  unfold Ctrl.reissue
  split
  case h_4 => split_ifs <;> exact ⟨_, _, _, _, rfl⟩
  all_goals exact ⟨_, _, _, _, rfl⟩

theorem reissues_spec (l : List LaneEntry) (c : Ctrl) : ∃ d m k n,
    l.foldl Ctrl.reissue c = { c with depth := d, mcfg := m, drawkey := k, drawid := n } := by
  induction l generalizing c with
  | nil => exact ⟨_, _, _, _, rfl⟩
  | cons e l ih =>
    obtain ⟨d, m, k, n, h⟩ := reissue_spec c e
    obtain ⟨d', m', k', n', h'⟩ := ih (c.reissue e)
    exact ⟨d', m', k', n', by rw [List.foldl_cons, h', h]⟩

/-- The re-issue reads of a control stream only what it changes. -/
theorem reissues_depth_mcfg (l : List LaneEntry) {c c' : Ctrl} (hd : c.depth = c'.depth) (hm : c.mcfg = c'.mcfg) :
    (l.foldl Ctrl.reissue c).depth = (l.foldl Ctrl.reissue c').depth
      ∧ (l.foldl Ctrl.reissue c).mcfg = (l.foldl Ctrl.reissue c').mcfg := by
  induction l generalizing c c' with
  | nil => exact ⟨hd, hm⟩
  | cons e l ih =>
    refine ih ?_ ?_
    all_goals
      unfold Ctrl.reissue
      split
      case h_4 => split_ifs <;> simp [hd, hm]
      all_goals simp [hd, hm]

/-- The copies kept for a frame that stands where it was put (R218). -/
theorem trapCopies_found {c : Ctrl} {f : Word} {l r : List (Word × VState)} {v : VState} (h : c.trapV = l ++ (f, v) :: r)
    (hl : ∀ p ∈ l, p.1 ≠ f) : c.trapCopies f = (v, r) := by
  have : c.trapV.dropWhile (fun p => p.1 != f) = (f, v) :: r := by
    rw [h, List.dropWhile_append_of_pos (by simpa using hl)]
    simp
  simp [Ctrl.trapCopies, this]

/-- The copies of the last trap, where no kept frame stands there (log entry 59). -/
theorem trapCopies_last {c : Ctrl} {f : Word} {p : Word × VState} {r : List (Word × VState)} (h : c.trapV = p :: r)
    (hne : ∀ x ∈ c.trapV, x.1 ≠ f) : c.trapCopies f = (p.2, r) := by
  have : c.trapV.dropWhile (fun p => p.1 != f) = [] := by
    simpa [List.dropWhile_eq_nil_iff] using hne
  rw [Ctrl.trapCopies, this, h]

theorem trapCopies_none {c : Ctrl} (f : Word) (h : c.trapV = []) : c.trapCopies f = (.start, []) := by
  simp [Ctrl.trapCopies, h]

theorem getLsbD_one_shiftLeft (w k i : Nat) : (1#w <<< k).getLsbD i = (decide (i < w) && decide (i = k)) := by
  rw [BitVec.getLsbD_shiftLeft, BitVec.getLsbD_one]
  by_cases h : i < w <;> by_cases hk : i = k <;> simp [h, hk] <;> omega

/-- A nest suspended by a trap is in progress again; the other bits of %nestcfg stay (R54, R218). -/
theorem nest_resumed (w : Word) :
    let r := if nestSus w then (w &&& ~~~(1#64 <<< 49)) ||| (1#64 <<< 63) else w
    nestAct r = (nestAct w || nestSus w) ∧ nestSus r = false ∧ ∀ i, i ≠ 63 → i ≠ 49 → r.getLsbD i = w.getLsbD i := by
  by_cases h : nestSus w = true
  · simp only [h, if_true, Bool.or_true]
    refine ⟨by simp [nestAct], by simp [nestSus], fun i h63 h49 => ?_⟩
    by_cases hi : i < 64
    · simp only [BitVec.getLsbD_or, BitVec.getLsbD_and, BitVec.getLsbD_not, getLsbD_one_shiftLeft, h63, h49, hi, decide_true,
        decide_false, Bool.and_false, Bool.not_false, Bool.and_true, Bool.or_false]
    · rw [BitVec.getLsbD_of_ge _ _ (Nat.not_lt.1 hi), BitVec.getLsbD_of_ge _ _ (Nat.not_lt.1 hi)]
  · simp [h]

/-- What a return from a trap sets, and that it leaves the lane stream and memory (R218). -/
theorem trapReturn_spec (s : State) (resume two vst : Word) :
    let t := s.trapReturn resume two vst
    let sp := s.reg spReg
    let c := s.t.q.held.foldl Ctrl.reissue { s.t.c with depth := vstateDepth vst }
    t.t.c.pc = resume ∧ RegsAfter s t spReg (sp + 32)
      ∧ (t.t.c.v, t.t.c.trapV) = s.t.c.trapCopies sp ∧ t.t.q.held = []
      ∧ t.t.c.nestcfg = (if nestSus s.t.c.nestcfg then (s.t.c.nestcfg &&& ~~~(1#64 <<< 49)) ||| (1#64 <<< 63)
          else s.t.c.nestcfg)
      ∧ t.t.c.nestctr = s.t.c.nestctr ∧ t.t.c.depth = c.depth ∧ t.t.c.mcfg = c.mcfg
      ∧ t.t.q.lane = s.t.q.lane ++ [⟨s.t.q.pushed, .part, encode .tret, s.t.c.pc, vst, two,
          BitVec.ofNat 64 s.t.alloc.lanes, false, s.t.alloc.lanes⟩] ++ s.t.q.held
      ∧ t.t.l = s.t.l ∧ ∀ a, t.rd a = s.rd a := by
  let c1 : Ctrl := { s.t.c.setReg spReg (s.reg spReg + 32) with depth := vstateDepth vst }
  obtain ⟨d, m, k, n, hre⟩ := reissues_spec s.t.q.held c1
  obtain ⟨hd, hm⟩ := reissues_depth_mcfg s.t.q.held (c := c1) (c' := { s.t.c with depth := vstateDepth vst }) rfl rfl
  have hregs : ∀ q, (s.t.q.held.foldl Ctrl.reissue c1).reg q = (s.t.c.setReg spReg (s.reg spReg + 32)).reg q := fun q => by
    rw [hre]
    rfl
  have hkept : ∃ r l, s.t.q.held.foldl Ctrl.reissue c1
      = { s.t.c with s := r, loads := l, depth := d, mcfg := m, drawkey := k, drawid := n } := ⟨_, _, hre⟩
  obtain ⟨r, ld, hkept⟩ := hkept
  have hnest : (s.t.q.held.foldl Ctrl.reissue c1).nestcfg = s.t.c.nestcfg := by rw [hkept]
  refine ⟨rfl, fun q => (hregs q).trans (Ctrl.reg_setReg ..), ?_, rfl, ?_, ?_, hd, hm, rfl, rfl, fun a => rfl⟩
  · show (s.t.q.held.foldl Ctrl.reissue c1).trapCopies (s.reg spReg) = s.t.c.trapCopies (s.reg spReg)
    rw [hkept]
    rfl
  · rw [← hnest]
    rfl
  · show (s.t.q.held.foldl Ctrl.reissue c1).nestctr = s.t.c.nestctr
    rw [hkept]

/-- Settles O24: the frame is read, the checks pass and there is room, so that `trapReturn` is what remains. -/
theorem trapReturn : Obligations.TrapReturn := by
  refine ⟨tret_part, restore2_eq, reissue_instr, fun s s1 resume cause two vst hr ha hw hok hd hroom => ?_⟩
  have hexec : exec .tret s = .next (s1.trapReturn resume two vst) := by
    rw [exec_tret, execTret, withRegs_of hr]
    simp only [ha, hw, hok, hroom, Bool.not_true, Bool.false_eq_true, if_false, Nat.not_lt.2 hd]
  obtain ⟨hpc, hregs, hv, hheld, hcfg, hctr, hdep, hmcfg, hlane, hl, hrd⟩ := trapReturn_spec s1 resume two vst
  obtain ⟨hact, hsus, hbits⟩ := nest_resumed s1.t.c.nestcfg
  rw [← hcfg] at hact hsus hbits
  have copies : ∀ {v r}, s1.t.c.trapCopies (s1.reg spReg) = (v, r) →
      (s1.trapReturn resume two vst).t.c.v = v ∧ (s1.trapReturn resume two vst).t.c.trapV = r := fun h =>
    Prod.mk.inj (hv.trans h)
  exact ⟨_, hexec, hpc, hregs, fun l r v h hne => copies (trapCopies_found h hne),
    fun p r h hne => copies (trapCopies_last h hne), fun h => copies (trapCopies_none _ h), hheld, hact, hsus, hbits, hctr,
    ⟨hdep, hmcfg⟩, hlane, hl, hrd⟩

end Sys2Proof.Machine
end

section
/-! PROOFS of 01_machine.md: type, lengths and configuration of the lane stream (R22, R23, R41, R225, R226, R290, R300). -/

namespace Sys2Proof.Machine

/-! ### Configuration of the lane stream (R22, R23, R41, R225, R226, R290, R300) -/

theorem laneRun_of {s : State} {e : LaneEntry} {l : List LaneEntry} (h : Heads s e l) (i : Instr) (k : State → Res) :
    s.laneRun i k = k s := by
  rw [State.laneRun, show s.t.q.lane = e :: l from h]

theorem opA_of {s : State} {e : LaneEntry} {l : List LaneEntry} (h : Heads s e l) (r : SReg) : s.opA r = e.a := by
  rw [State.opA, show s.t.q.lane = e :: l from h]

theorem opB_of {s : State} {e : LaneEntry} {l : List LaneEntry} (h : Heads s e l) (r : SReg) : s.opB r = e.b := by
  rw [State.opB, show s.t.q.lane = e :: l from h]

/-- Without a watchpoint a tile is zeroed and nothing else happens (R59, R300). -/
theorem State.zeroTile_of {s : State} (h : s.clusters = []) (n : Nat) : s.zeroTile n = s.clearTile s.uid n := by
  have hc : (s.clearTile s.uid n).clusters = [] := by
    unfold State.clearTile State.wipeErrors
    split <;> exact h
  simp [State.zeroTile, hc]

/-- A tile cleared: its counts, and no thread, memory or mask. -/
theorem State.clearTile_spec (s : State) (uid n : Nat) : ∃ f,
    s.clearTile uid n = { s with fleet := f, accs := cellClear s.accs (accKey uid n 0 0) 4096 } := by
  unfold State.clearTile State.wipeErrors
  split <;> exact ⟨_, rfl⟩

/-- A count stands in the range of a tile where it is of that unit and tile. -/
theorem accKey_in_tile {uid uid' k t i n : Nat} (hk : k < 8) (ht : t < 8) (hi : i < 32) (hn : n < 128) :
    accKey uid k i n < accKey uid' t 0 0 ∨ accKey uid' t 0 0 + 4096 ≤ accKey uid k i n ↔ ¬ (uid = uid' ∧ k = t) := by
  unfold accKey
  omega

/-- A legal type that is applied in one-length mode cuts VL to whole blocks (R23, R225). -/
theorem VState.config_one {v : VState} {w : Word} (h : vtypeLegal w.toNat = true) (ho : v.vlo = 0) :
    let b := (vtypeFields w.toNat).blen
    v.config w = { v with vtype := w, illegal := false, vl := if b = 0 then v.vl else v.vl - v.vl % b } := by
  simp [VState.config, h, ho]

/-- R41: the least power of two that holds an inner row. -/
theorem ceilPow2_eq (n : Nat) : ceilPow2 n = 2 ^ Nat.clog 2 n := by
  by_cases h : n ≤ 1
  · rw [ceilPow2, if_pos h, Nat.clog_of_right_le_one h, pow_zero]
  have hne : n - 1 ≠ 0 := by omega
  rw [ceilPow2, if_neg h]
  congr 1
  refine le_antisymm ?_ ((Nat.clog_le_iff_le_pow one_lt_two).2 ?_)
  · have := Nat.log2_self_le hne
    exact (Nat.lt_clog_iff_pow_lt one_lt_two).2 (by omega)
  · have : n - 1 < 2 ^ (Nat.log2 (n - 1) + 1) := Nat.lt_log2_self
    omega

/-- Settles O25. -/
theorem laneTypeAndConfiguration : Obligations.LaneTypeAndConfiguration := by
  refine ⟨fun s e l a b t set h => ⟨?vcfg, ?setvl2, ?mcfg, ?mlive, ?mzero, fun hc => ?tile⟩,
    fun v w => ⟨fun h => ?illegal, fun h ho => ?one, fun h ho => ?two⟩,
    fun v lanes outer inner => ⟨fun h => ?none, fun h => ?outer, fun h => ?padded⟩⟩
  case vcfg => rw [exec_vcfg, execVcfg, laneRun_of h, opA_of h]
  case setvl2 =>
    rw [exec_setvl2, execSetvl2, laneRun_of h, opB_of h]
    simp only [show s.t.q.lane = e :: l from h]
  case mcfg => rw [exec_mcfg, execMcfg, laneRun_of h, opA_of h]
  case mlive => rw [exec_mlive, execMlive, laneRun_of h]
  case mzero => rw [exec_mzero, execMzero, laneRun_of h]
  case tile =>
    obtain ⟨f, hu⟩ := s.clearTile_spec s.uid t.val
    intro u
    have hu : u = { s with fleet := f, accs := cellClear s.accs (accKey s.uid t.val 0 0) 4096 } :=
      (State.zeroTile_of hc _).trans hu
    rw [hu]
    refine ⟨rfl, rfl, rfl, rfl, fun uid k i n hk hi hn => ⟨?_, fun huid => ?_⟩⟩
    · simp only [State.count64, cellGet_clear, State.uid, accKey_in_tile hk t.isLt hi hn, true_and]
      split_ifs <;> simp_all
    · simp only [cellGet_clear, accKey_in_tile hk t.isLt hi hn, huid, false_and, not_false_eq_true, if_true]
  case illegal => simp [VState.config, h]
  case one =>
    rw [VState.config_one h ho]
    refine ⟨rfl, rfl, ?_, fun hb => if_pos hb, fun hb => ?_⟩
    · dsimp only
      split
      · exact le_rfl
      · exact Nat.sub_le _ _
    · simp only [if_neg hb]
      have := Nat.mod_lt v.vl (Nat.pos_of_ne_zero hb)
      have := Nat.mod_le v.vl (vtypeFields w.toNat).blen
      exact ⟨Nat.dvd_sub_mod _, by omega⟩
  case two => simp [VState.config, h, ho]
  case none => simp [VState.two, h]
  case outer => simp [twoOuter, h]
  case padded =>
    refine ⟨Nat.clog 2 inner, Nat.le_pow_clog one_lt_two _, fun j hj => Nat.clog_le_of_le_pow hj, ?_, fun ho => ?_⟩
    · rw [← ceilPow2_eq, twoOuter, if_neg (by simpa using Nat.pos_iff_ne_zero.1 h)]
      split <;> omega
    · rw [← ceilPow2_eq, VState.two, if_neg (by simp; omega)]

end Sys2Proof.Machine
end

section
/-! PROOFS of 01_machine.md: operands of lane instructions and their entry into the lane queue (R27, R30, R172, R184). -/

namespace Sys2Proof.Machine

/-! ### Operands of the head (R172) -/

/-- A queue after one of its four queues has been replaced. -/
theorem Queues.get_set (q : Queues) (l : List Word) {n : Nat} (hn : n < 4) : (q.set n l).get n = l
    ∧ ∀ j < 4, j ≠ n → (q.set n l).get j = q.get j := by
  have h4 : ∀ {k : Nat}, k < 4 → k = 0 ∨ k = 1 ∨ k = 2 ∨ k = 3 := by omega
  refine ⟨?_, fun j hj hne => ?_⟩
  · rcases h4 hn with rfl | rfl | rfl | rfl <;> rfl
  · rcases h4 hn with rfl | rfl | rfl | rfl <;> rcases h4 hj with rfl | rfl | rfl | rfl <;>
      simp [Queues.get, Queues.set] at hne ⊢

theorem Queues.get_lane (q : Queues) (l : List LaneEntry) (n : Nat) : ({ q with lane := l } : Queues).get n = q.get n := by
  unfold Queues.get
  split <;> rfl

/-- What popping the queue operand of the head gives: the value held, or the head of the queue, which is held then. -/
theorem popOperand_spec {s : State} {e : LaneEntry} {l : List LaneEntry} (h : Heads s e l) {n : Nat} (hn : n < 4) :
    (e.bPopped = true → s.popOperand n = some (e.b, s))
      ∧ (e.bPopped = false → (s.t.q.get n = [] → s.popOperand n = none)
        ∧ ∀ w rest, s.t.q.get n = w :: rest → ∃ t, s.popOperand n = some (w, t)
          ∧ t = s.mapQ (fun q => { q.set n rest with lane := { e with b := w, bPopped := true } :: l })
          ∧ t.t.q.get n = rest ∧ ∀ j < 4, j ≠ n → t.t.q.get j = s.t.q.get j) := by
  have hl : s.t.q.lane = e :: l := h
  refine ⟨fun hp => ?_, fun hp => ⟨fun hq => ?_, fun w rest hq => ⟨_, ?_, rfl, ?_, fun j hj hne => ?_⟩⟩⟩
  · simp [State.popOperand, hl, hp]
  · simp [State.popOperand, hl, hp, hq]
  · simp [State.popOperand, hl, hp, hq, LaneEntry.hold]
  · exact (Queues.get_lane ..).trans (Queues.get_set _ _ hn).1
  · exact (Queues.get_lane ..).trans ((Queues.get_set _ _ hn).2 j hj hne)

/-- The scale that a scalar operand gives: its second byte, as a signed number (R172). -/
theorem sextNat_second_byte (w : Word) : sextNat 8 (w.toNat / 256) = (w.extractLsb' 8 8).toInt := by
  have h : (w.extractLsb' 8 8).toNat = w.toNat / 256 % 256 := by
    simp [BitVec.extractLsb'_toNat, Nat.shiftRight_eq_div_pow]
  rw [BitVec.toInt_eq_toNat_cond, h]
  rfl

theorem wrapInt_eq_signExtend (w : Word) (n : Nat) : wrapInt n w.toInt = (w.signExtend n).toNat := by
  rw [wrapInt, BitVec.signExtend, BitVec.toNat_ofInt]

/-! ### Entry into the lane queue (R27, R30, R184) -/

theorem State.lacks_cause {s : State} {need : Nat} {tr : Trap} (h : s.lacks need = some tr) : tr.cause = .featureAbsent := by
  unfold State.lacks at h
  dsimp only at h
  split at h
  · cases h
  · rw [← Option.some.inj h]
    rfl

theorem withFeat_lacks {s : State} {need : Nat} {tr : Trap} (h : s.lacks need = some tr) (k : State → Res) :
    s.withFeat need k = .next (s.trap tr) := by
  rw [State.withFeat, h]
  rfl

theorem NoToken.lane {s : State} {r : SReg} (h : NoToken s [r]) : NoToken s [0, r, 0] := by
  intro q hq hne
  simp only [List.mem_cons, List.not_mem_nil, or_false] at hq
  rcases hq with rfl | rfl | rfl
  · exact absurd rfl hne
  · exact h _ (List.mem_singleton_self _) hne
  · exact absurd rfl hne

/-- The control copies that a push changes are no scalar register, program counter or queue. -/
theorem State.pushCopies_spec (s : State) (i : Instr) (a b : Word) : ∃ v d m,
    s.pushCopies i a b = s.mapC (fun c => { c with v := v, depth := d, mcfg := m }) := by
  unfold State.pushCopies
  cases i
  case vcfg => exact ⟨_, s.t.c.depth, s.t.c.mcfg, rfl⟩
  case setvl2 => exact ⟨_, s.t.c.depth, s.t.c.mcfg, rfl⟩
  case mpush => exact ⟨s.t.c.v, _, s.t.c.mcfg, rfl⟩
  case mpop => exact ⟨s.t.c.v, _, s.t.c.mcfg, rfl⟩
  case mcfg => exact ⟨s.t.c.v, s.t.c.depth, _, rfl⟩
  all_goals exact ⟨s.t.c.v, s.t.c.depth, s.t.c.mcfg, rfl⟩

/-- A lane instruction that is no bz.end enters the lane queue. -/
theorem State.enqueue_of {s : State} {i : Instr} {w : Word} (hi : ∀ z o, i ≠ .bzEnd z o) (ht : s.laneTrap i = none)
    (hr : NoToken s [(laneRegs i).1, (laneRegs i).2.1, (laneRegs i).2.2]) (hroom : s.t.q.lane.length < laneDepth) :
    let r := laneRegs i
    let a := s.pushA i (s.reg r.1) (s.reg r.2.1)
    s.enqueue i w = .next ((s.pushEntry .instr w a (s.reg r.2.1) (s.reg r.2.2)).pushCopies i a (s.reg r.2.1)).advance := by
  rw [State.enqueue]
  simp only [withRegs_of hr, ht, withRoom_of hroom]

theorem State.enqueue_bzEnd {s : State} {z : ZReg} {o : BitVec 24} {w : Word} (ht : s.laneTrap (.bzEnd z o) = none)
    (hroom : s.t.q.lane.length < laneDepth) :
    s.enqueue (.bzEnd z o) w = .next ((s.pushEntry .probe w (s.reg 0) (s.reg 0) (s.reg 0)).toPop w) := by
  have hr : NoToken s [0, 0, 0] := by simp [NoToken]
  rw [State.enqueue]
  simp only [laneRegs, withRegs_of hr, ht, withRoom_of hroom, State.pushA]

theorem exec_laneQueuePush_lane {s : State} {w : Word} {i : Instr} (hd : decode w = .ok i) (hi : isLane i = true) :
    exec (.laneQueuePush w) s = s.enqueue i w := by
  rw [exec_laneQueuePush, execLaneQueuePush, hd]
  exact if_pos hi

/-- Settles O17. -/
theorem laneQueuePushes : Obligations.LaneQueuePushes := by
  refine ⟨fun s e l v r k h => ?operands, fun s vt v n w => ?elements, fun s w i hd hi ht => ?push, fun s tr htr => ?absent⟩
  case operands =>
    exact ⟨rfl, congrArg (fun x => some (BVal.scalar x, s)) (opB_of h r), congrArg (fun x => some (x, s)) (opB_of h r), rfl,
      congrArg (fun x : Word => some (x.toNat, s)) (opB_of h r), popOperand_spec h (by decide), popOperand_spec h (by decide),
      rfl, rfl, rfl, rfl⟩
  case elements =>
    refine ⟨rfl, rfl, fun h => if_pos h, fun h hk => ?_, fun h hk => ?_, fun hk hs => ?_, fun h => ?_⟩
    · rw [← wrapInt_eq_signExtend]
      simp [State.bElem, scalarElem, Nat.not_le.2 h, hk]
    · simp [State.bElem, scalarElem, Nat.not_le.2 h, hk]
    · rw [← sextNat_second_byte]
      simp [State.bScale, scalarScale, hk, hs]
    · rcases h with h | h <;> simp [State.bScale, scalarScale, h]
  case push =>
    intro r hr hroom
    by_cases hz : ∃ z o, i = .bzEnd z o
    · obtain ⟨z, o, rfl⟩ := hz
      exact ⟨_, (exec_laneQueuePush_lane hd hi).trans (State.enqueue_bzEnd ht hroom), rfl, rfl, fun q => rfl, rfl, fun a => rfl⟩
    · have hz : ∀ z o, i ≠ .bzEnd z o := fun z o h => hz ⟨z, o, h⟩
      obtain ⟨v, d, m, hc⟩ := (s.pushEntry .instr w (s.pushA i (s.reg r.1) (s.reg r.2.1)) (s.reg r.2.1)
        (s.reg r.2.2)).pushCopies_spec i (s.pushA i (s.reg r.1) (s.reg r.2.1)) (s.reg r.2.1)
      refine ⟨_, (exec_laneQueuePush_lane hd hi).trans (State.enqueue_of hz ht hr hroom), ?_⟩
      rw [hc]
      split
      next => exact absurd rfl (hz _ _)
      next => exact ⟨rfl, rfl, fun q => rfl, rfl, fun a => rfl⟩
  case absent =>
    refine ⟨State.lacks_cause htr, fun o => ⟨?_, ?_⟩, ?_, fun w m d a b hd hr => ?_⟩
    · rw [exec_bq, execBq, withFeat_lacks htr]
    · rw [exec_bqn, execBqn, withFeat_lacks htr]
    · rw [exec_vdrain, execVdrain, withFeat_lacks htr]
    · have ht : s.laneTrap (.vadd m d a b) = some tr := by
        have hn : needOf (.vadd m d a b) = 1 := rfl
        unfold State.laneTrap
        dsimp only
        rw [hn, Nat.or_zero, htr]
      rw [exec_laneQueuePush_lane hd rfl, State.enqueue]
      simp only [laneRegs] at hr ⊢
      rw [withRegs_of (NoToken.lane hr), ht]
      rfl

end Sys2Proof.Machine
end

section
/-! PROOFS of 01_machine.md: comparisons, mask logic and the mask stack (R15, R40, R53, R234, R239, R240, R247). -/

namespace Sys2Proof.Machine

/-! ### Comparison of values (R234, R247) -/

/-- A finite value as a count of units 2^e, for e at or below its exponent. -/
theorem isReal_scaleInt {n : Bool} {m : Nat} {k e : Int} {x : ℝ} (h : IsReal (.fin n m k) x) (he : e ≤ k) :
    x = ((Val.fin n m k).scaleInt e : ℝ) * (2 : ℝ) ^ e := by
  obtain ⟨n', m', k', hv, hx⟩ := h
  injection hv with hn hm hk
  subst hn hm hk
  have hp : (2 : ℝ) ^ k = (2 : ℝ) ^ (k - e).toNat * (2 : ℝ) ^ e := by
    rw [← zpow_natCast, ← zpow_add₀ (by norm_num), Int.toNat_of_nonneg (by omega)]
    congr 1
    omega
  rw [hx, hp]
  cases n <;> simp [Val.scaleInt] <;> ring

/-- Two values in order, as the model's comparison answers. -/
def CmpIs (c : Int) (x y : EReal) : Prop := (c = -1 ∧ x < y) ∨ (c = 0 ∧ x = y) ∨ (c = 1 ∧ y < x)

theorem cmpIs_scaled (u v : Int) {e : Int} :
    CmpIs (if u < v then -1 else if u == v then 0 else 1) (((u : ℝ) * (2 : ℝ) ^ e : ℝ) : EReal)
      (((v : ℝ) * (2 : ℝ) ^ e : ℝ) : EReal) := by
  have hp : (0 : ℝ) < (2 : ℝ) ^ e := by positivity
  rcases lt_trichotomy u v with h | h | h
  · refine .inl ⟨if_pos h, EReal.coe_lt_coe_iff.2 ?_⟩
    exact mul_lt_mul_of_pos_right (Int.cast_lt.2 h) hp
  · subst h
    exact .inr (.inl ⟨by simp, rfl⟩)
  · refine .inr (.inr ⟨?_, EReal.coe_lt_coe_iff.2 ?_⟩)
    · rw [if_neg (by omega), if_neg (by simp; omega)]
    · exact mul_lt_mul_of_pos_right (Int.cast_lt.2 h) hp

theorem cmpIs_cmp {a b : Val} {x y : EReal} (ha : IsExt a x) (hb : IsExt b y) : CmpIs (a.cmp b) x y := by
  rcases ha with ⟨r, hr, rfl⟩ | ⟨rfl, rfl⟩ | ⟨rfl, rfl⟩ <;> rcases hb with ⟨q, hq, rfl⟩ | ⟨rfl, rfl⟩ | ⟨rfl, rfl⟩
  · obtain ⟨n, m, k, rfl, hx⟩ := id hr
    obtain ⟨n', m', k', rfl, hy⟩ := id hq
    rw [isReal_scaleInt hr (e := if k ≤ k' then k else k') (by split <;> omega),
      isReal_scaleInt hq (e := if k ≤ k' then k else k') (by split <;> omega)]
    exact cmpIs_scaled _ _
  · obtain ⟨n, m, k, rfl, -⟩ := hr
    exact .inl ⟨rfl, EReal.coe_lt_top _⟩
  · obtain ⟨n, m, k, rfl, -⟩ := hr
    exact .inr (.inr ⟨rfl, EReal.bot_lt_coe _⟩)
  · obtain ⟨n, m, k, rfl, -⟩ := hq
    exact .inr (.inr ⟨rfl, EReal.coe_lt_top _⟩)
  · exact .inr (.inl ⟨rfl, rfl⟩)
  · exact .inr (.inr ⟨rfl, bot_lt_top⟩)
  · obtain ⟨n, m, k, rfl, -⟩ := hq
    exact .inl ⟨rfl, EReal.bot_lt_coe _⟩
  · exact .inl ⟨rfl, bot_lt_top⟩
  · exact .inr (.inl ⟨rfl, rfl⟩)

theorem isExt_not_nan {a : Val} {x : EReal} (h : IsExt a x) : a.isNan = false := by
  rcases h with ⟨r, ⟨n, m, e, rfl, -⟩, -⟩ | ⟨rfl, -⟩ | ⟨rfl, -⟩ <;> rfl

theorem condHolds_iff {c : Int} {x y : EReal} (h : CmpIs c x y) (cc : Cond) : condHolds cc c = true ↔ match cc with
    | .eq => x = y | .ne => x ≠ y | .lt => x < y | .le => x ≤ y | .gt => y < x | .ge => y ≤ x | .un => False := by
  rcases h with ⟨rfl, h⟩ | ⟨rfl, rfl⟩ | ⟨rfl, h⟩
  · cases cc <;> simp [condHolds, h, h.le, h.ne, h.not_gt, h.not_ge]
  · cases cc <;> simp [condHolds]
  · cases cc <;> simp [condHolds, h, h.le, h.ne', h.not_gt, h.not_ge]

theorem condHolds_intCmp (x y : Int) :
    condHolds .eq (intCmp x y) = decide (x = y) ∧ condHolds .ne (intCmp x y) = decide (x ≠ y)
      ∧ condHolds .lt (intCmp x y) = decide (x < y) ∧ condHolds .le (intCmp x y) = decide (x ≤ y)
      ∧ condHolds .gt (intCmp x y) = decide (y < x) ∧ condHolds .ge (intCmp x y) = decide (y ≤ x) := by
  rcases lt_trichotomy x y with h | rfl | h
  · simp [condHolds, intCmp, h, h.le, h.ne, h.not_gt, h.not_ge]
  · simp [condHolds, intCmp]
  · simp [condHolds, intCmp, h, h.le, h.ne', h.not_gt, h.not_ge]

/-! ### Unit lanes (R7) -/

/-- The lanes of a thread lie in its quads, each at a place of its own. -/
theorem Alloc.unitLane_inj (a : Alloc) {n k : Nat} (hn : n < a.lanes) (hk : k < a.lanes)
    (h : a.unitLane n = a.unitLane k) : n = k := by
  have hlen : popc 16 a.quads.toNat = a.quadList.length := rfl
  have hnd : a.quadList.Nodup := List.nodup_range.filter _
  have hn' : n / 16384 < a.quadList.length := by rw [Alloc.lanes, hlen] at hn; omega
  have hk' : k / 16384 < a.quadList.length := by rw [Alloc.lanes, hlen] at hk; omega
  unfold Alloc.unitLane at h
  rw [List.getD_eq_getElem _ _ hn', List.getD_eq_getElem _ _ hk'] at h
  have hq : a.quadList[n / 16384] = a.quadList[k / 16384] := by omega
  have := (List.Nodup.getElem_inj_iff hnd).1 hq
  omega

/-! ### Columns written (R14, R15) -/

theorem putBit_getLsbD {w : Word} {i : Nat} (hi : i < 64) (b : Bool) (k : Nat) :
    (putBit w i b).getLsbD k = if k = i then b else w.getLsbD k := by
  by_cases hk : k < 64
  · cases b <;> by_cases h : k = i <;>
      simp only [putBit, BitVec.getLsbD_or, BitVec.getLsbD_and, BitVec.getLsbD_not, getLsbD_one_shiftLeft, h, hi, hk,
        decide_true, decide_false, Bool.and_false, Bool.and_true, Bool.not_false, Bool.not_true, Bool.or_false, Bool.or_true,
        Bool.and_self, Bool.false_eq_true, if_true, if_false]
  · rw [BitVec.getLsbD_of_ge _ _ (Nat.not_lt.1 hk), BitVec.getLsbD_of_ge _ _ (Nat.not_lt.1 hk), if_neg (by omega)]

/-- Columns alone differ. -/
def OnlyCols (s t : State) : Prop := t = { s with cols := t.cols }

theorem OnlyCols.t {s u : State} (h : OnlyCols s u) : u.t = s.t := by rw [show u = _ from h]
theorem OnlyCols.mem {s u : State} (h : OnlyCols s u) : u.mem = s.mem := by rw [show u = _ from h]
theorem OnlyCols.noneAway {s u : State} (h : OnlyCols s u) (ha : NoneAway s) : NoneAway u := by
  rw [show u = _ from h]
  exact ha

theorem setColAt_eq {s : State} {i : Nat} (h : NoneAway s ∨ 32 ≤ i) (uid ul : Nat) (b : Bool) :
    s.setColAt uid ul i b
      = { s with cols := cellSet 0 s.cols (colKey uid ul) (putBit (cellGet 0 s.cols (colKey uid ul)) i b) } := by
  unfold State.setColAt
  dsimp only
  rw [if_pos]
  rcases h with ⟨h, h'⟩ | h
  · simp [h, h']
  · simp [h]

/-- A column bit of a lane written: that bit of that lane, and no other. -/
theorem setCol_spec {s : State} {i : Nat} (h : NoneAway s ∨ 32 ≤ i) (hi : i < 64) (l : Nat) (b : Bool) :
    OnlyCols s (s.setCol i l b) ∧ ∀ n k, ((s.setCol i l b).colWord n).getLsbD k
      = if k = i ∧ s.unitLane n = s.unitLane l then b else (s.colWord n).getLsbD k := by
  rw [State.setCol, setColAt_eq h]
  refine ⟨rfl, fun n k => ?_⟩
  have hkey : colKey s.uid (s.unitLane l) = colKey s.uid (s.unitLane n) ↔ s.unitLane n = s.unitLane l := by
    unfold colKey; omega
  show (cellGet 0 (cellSet 0 s.cols _ _) (colKey s.uid (s.unitLane n))).getLsbD k = _
  rw [cellGet_set]
  by_cases hl : s.unitLane n = s.unitLane l
  · rw [if_pos (hkey.2 hl), putBit_getLsbD hi, State.colWord, hl]
    by_cases hk : k = i <;> simp [hk]
  · rw [if_neg (fun h => hl (hkey.1 h)), if_neg (fun h => hl h.2)]
    rfl

/-- Bits of a column written in some lanes, each lane's by a function of it. -/
theorem setCols_spec {s : State} {i : Nat} (h : NoneAway s ∨ 32 ≤ i) (hi : i < 64) (f : Nat → Bool) (ls : List Nat)
    (hls : ∀ l ∈ ls, l < s.lanes) :
    let t := s.setCols i (ls.map (fun l => (l, f l)))
    OnlyCols s t ∧ (∀ n k, k ≠ i → (t.colWord n).getLsbD k = (s.colWord n).getLsbD k)
      ∧ ∀ n < s.lanes, (t.colWord n).getLsbD i = if n ∈ ls then f n else (s.colWord n).getLsbD i := by
  induction ls generalizing s with
  | nil => exact ⟨rfl, fun n k hk => rfl, fun n hn => rfl⟩
  | cons l ls ih =>
    obtain ⟨hu, hbit⟩ := setCol_spec h hi l (f l)
    have hl := hls l (List.mem_cons_self ..)
    generalize hs1 : s.setCol i l (f l) = s1 at hu hbit
    have hs : s1.t = s.t := hu.t
    have hln : s1.lanes = s.lanes := by rw [State.lanes, hs]; rfl
    have haway : NoneAway s1 ∨ 32 ≤ i := h.imp_left hu.noneAway
    obtain ⟨ht, hout, hin⟩ := ih haway (fun x hx => hln ▸ hls x (List.mem_cons_of_mem _ hx))
    have hstep : s.setCols i ((l :: ls).map (fun l => (l, f l))) = s1.setCols i (ls.map (fun l => (l, f l))) := by
      rw [← hs1]; rfl
    dsimp only
    rw [hstep]
    refine ⟨?_, fun n k hk => ?_, fun n hn => ?_⟩
    · unfold OnlyCols at *
      rw [ht, hu]
    · rw [hout n k hk, hbit, if_neg (fun h => hk h.1)]
    · rw [hin n (hln ▸ hn), hbit]
      by_cases hnl : n = l
      · subst hnl
        simp
      · have : ¬ s.unitLane n = s.unitLane l := fun h => hnl (Alloc.unitLane_inj _ hn hl h)
        simp [this, hnl]

/-! ### The mask stack (R15, R53) -/

theorem State.ownLanes_le (s : State) : s.ownLanes ≤ s.lanes := by
  unfold State.ownLanes
  split
  · exact Nat.min_le_right ..
  · exact le_rfl

/-- What a step on the mask stack does: one column in the lanes owned since the push, and the depth. -/
theorem stackStep_spec {s : State} {e : LaneEntry} {l : List LaneEntry} (h : Heads s e l) (ht : NoTrace s) {entry : Nat}
    (he : entry < 16) (depth : Nat) (f : Nat → Bool) :
    ∃ t, s.stackStep entry depth f = .next t ∧ t.t.l.depth = depth
      ∧ (∀ n < s.ownLanes, (t.colWord n).getLsbD (32 + entry) = f n)
      ∧ (∀ n k, k ≠ 32 + entry → (t.colWord n).getLsbD k = (s.colWord n).getLsbD k)
      ∧ t.mem = s.mem ∧ t.t.c = s.t.c ∧ t.t.q.lane = l := by
  obtain ⟨hu, hout, hin⟩ := setCols_spec (s := s) (i := 32 + entry) (.inr (by omega)) (by omega) f (List.range s.ownLanes)
    (fun n hn => (List.mem_range.1 hn).trans_le s.ownLanes_le)
  generalize hs1 : s.setCols (32 + entry) ((List.range s.ownLanes).map (fun l => (l, f l))) = s1 at hu hout hin
  have hs1t : s1.t = s.t := hu.t
  have hno : NoTrace (s1.mapL (fun l => { l with depth := depth })) := by
    show s1.t.dbg.ctl.getLsbD 0 = false
    rw [hs1t]
    exact ht
  obtain ⟨v, n, d, g, hend, -⟩ := State.laneEnd_noTrace hno s.belowLanes 0
  refine ⟨_, rfl, ?_⟩
  simp only [hs1, hend]
  refine ⟨rfl, fun n hn => ?_, fun n k hk => ?_, hu.mem, ?_, ?_⟩
  · exact (hin n (hn.trans_le s.ownLanes_le)).trans (if_pos (List.mem_range.2 hn))
  · exact hout n k hk
  · show s1.t.c = s.t.c
    rw [hs1t]
  · show s1.t.q.lane.tail = l
    rw [hs1t, show s.t.q.lane = e :: l from h]
    rfl

theorem State.top_of_pos {s : State} (h : 0 < s.t.l.depth) (n : Nat) :
    s.top n = (s.colWord n).getLsbD (31 + s.t.l.depth) := by
  have hd : 32 + (s.t.l.depth - 1) = 31 + s.t.l.depth := by omega
  simp [State.top, State.stackBit, hd, Nat.pos_iff_ne_zero.1 h]

theorem withB_of {s s1 : State} {b : BSrc} {v : BVal} (h : s.operandB b = some (v, s1)) (k : BVal → State → Res) :
    s.withB b k = k v s1 := by
  rw [State.withB, h]

theorem maskLogic_of {s : State} {e : LaneEntry} {l : List LaneEntry} (h : Heads s e l) (i : Instr) (g : Guard) (d : MReg)
    (f : State → Nat → Bool) :
    s.maskLogic i g d f = .next (s.givesMask ⟨g, 0⟩ d fun n => ⟨n, (f s n).toNat, 0, 0⟩) := by
  rw [State.maskLogic, laneRun_of h]
  rfl

/-- Settles O30. -/
theorem maskResultsAndStack : Obligations.MaskResultsAndStack := by
  refine ⟨fun a b x y ha hb cc => ?values, fun a b cc h => ?nan, condHolds_intCmp,
    fun s s1 m g cc d p q a b v e l h => ?logic, fun s a e l h hs ht hd => ⟨?push, fun hpos => ?inv, ?pop⟩⟩
  case values =>
    have hc := condHolds_iff (cmpIs_cmp ha hb) cc
    simp only [fCmp, isExt_not_nan ha, isExt_not_nan hb, Bool.or_self, Bool.false_eq_true, if_false, true_and]
    refine ⟨Bool.toNat_le _, ?_⟩
    cases cc <;> exact Bool.toNat_eq_one.trans hc
  case nan =>
    have hn : (a.isNan || b.isNan) = true := by simpa using h
    rw [fCmp, if_pos hn]
    cases cc <;> rfl
  case logic =>
    intro logic
    refine ⟨?_, ?_, ?_, ?_, ?_, ?_, fun hb => ⟨?_, ?_⟩⟩
    · exact (exec_mand ..).trans (maskLogic_of h _ g d (fun s n => s.mask p n && s.mask q n))
    · exact (exec_mor ..).trans (maskLogic_of h _ g d (fun s n => s.mask p n || s.mask q n))
    · exact (exec_mxor ..).trans (maskLogic_of h _ g d (fun s n => s.mask p n != s.mask q n))
    · exact (exec_mandn ..).trans (maskLogic_of h _ g d (fun s n => s.mask p n && !s.mask q n))
    · exact (exec_mnot ..).trans (maskLogic_of h _ g d (fun s n => !s.mask p n))
    · exact (exec_mmov ..).trans (maskLogic_of h _ g d (fun s n => s.mask p n))
    · rw [exec_vcmp, execVcmp, laneRun_of h, withB_of hb]
      rfl
    · rw [exec_vfcmp, execVfcmp, laneRun_of h, withB_of hb]
      rfl
  case push =>
    rw [exec_mpush, execMpush, laneRun_of h]
    obtain ⟨t, hx, hdep, hin, hout, hmem, hc, hl⟩ := stackStep_spec h ht hd (s.t.l.depth + 1) (fun n => s.top n && s.mask a n)
    refine ⟨t, hx, hdep, fun n hn => ?_, hout, hmem, hc, hl⟩
    rw [State.top_of_pos (by omega), hdep, ← hin n hn]
    congr 1
    omega
  case inv =>
    rw [exec_minv, execMinv, laneRun_of h]
    obtain ⟨t, hx, hdep, hin, hout, hmem, hc, hl⟩ := stackStep_spec h ht (entry := s.t.l.depth - 1) (by omega) s.t.l.depth
      (fun n => (s.t.l.depth ≤ 1 || s.stackBit (s.t.l.depth - 2) n) && !s.top n)
    have he : 32 + (s.t.l.depth - 1) = 31 + s.t.l.depth := by omega
    have h1 : decide (s.t.l.depth ≤ 1) = decide (s.t.l.depth = 1) := by
      rw [decide_eq_decide]; omega
    rw [he] at hin hout
    refine ⟨t, hx, hdep, fun n hn => ?_, hout, hmem, hc, hl⟩
    rw [State.top_of_pos (by omega), hdep, hin n hn, h1]
  case pop =>
    rw [exec_mpop, execMpop, laneRun_of h]
    obtain ⟨d, g, hp, -⟩ := State.lanePop_noTrace (s := (s.mapL (fun l => { l with depth := l.depth - 1 })).addFlags 0) ht
    refine ⟨_, rfl, ?_⟩
    rw [State.laneDone, hp]
    refine ⟨rfl, rfl, rfl, rfl, ?_⟩
    show s.t.q.lane.tail = l
    rw [show s.t.q.lane = e :: l from h]
    rfl

end Sys2Proof.Machine
end

section
/-! PROOFS of 01_machine.md: values given to lanes (R11, R12, R84). The statement ranges over every element width; from 129
bits on the element of a block-scaled binary type reaches into the slot of its scale. -/

namespace Sys2Proof.Machine

/-- A thread with one quad and one lane below VL. -/
def oneLane : State :=
  { State.reset with t := { State.reset.t with alloc := ⟨1, 0, 0⟩, l := { Lane.fresh with v := { VState.start with vl := 1 } } } }

/-- A block-scaled binary type of 200 bits, wider than any of R23. -/
def wideScaled : VType := { vtypeFields 0x90 with ew := 200, kind := 2, blk := 1 }

/-- The value 0 with scale 1 in every lane. -/
def zeroScaled (n : Nat) : LaneVal := ⟨n, 0, 1, 0⟩

/-- Loads that start anew are no debug register, quad or site. -/
theorem Thread.anewAll_rest (ws : List (List Nat)) (x : Thread) :
    (x.anewAll ws).dbg = x.dbg ∧ (x.anewAll ws).alloc = x.alloc ∧ (x.anewAll ws).site = x.site := by
  induction ws generalizing x with
  | nil => exact ⟨rfl, rfl, rfl⟩
  | cons c ws ih => exact ih (x.anew c)

/-- An element is read from memory at a place that the site and the quads of the thread give. -/
theorem State.elem_congr {s t : State} (hm : t.mem = s.mem) (ha : t.t.alloc = s.t.alloc) (hs : t.t.site = s.t.site)
    (w v n : Nat) : t.elem w v n = s.elem w v n := by
  have hrd : t.rd = s.rd := by
    funext a
    rw [State.rd, State.rd, hm]
  simp only [State.elem, State.slotCell, State.unitLane, State.uid, State.rdN, hrd, ha, hs]

/-- What giving elements without exception mask leaves in memory: the cells of the active lanes' values. -/
theorem State.gives_elem {s : State} (g : Guard) (vt : VType) (d : VReg) (f : Nat → LaneVal) (ha : NoneAway s)
    (hc : s.clusters = []) (ht : NoTrace s) (w v n : Nat) :
    (s.gives ⟨g, 0⟩ vt d f).elem w v n
      = (s.wrCells (((s.actives g).map f).flatMap (s.valCells vt d.val))).elem w v n := by
  let cells := ((s.actives g).map f).flatMap (s.valCells vt d.val)
  obtain ⟨⟨ws, hth, -⟩, hcl⟩ := State.store_spec s cells
  have hth : (s.store cells).t = s.t.anewAll ws := hth
  obtain ⟨hdbg, halloc, hsite⟩ := s.t.anewAll_rest ws
  have hw : s.writeLanes vt d.val ((s.actives g).map f) = s.store cells := by
    show (s.store cells).watchSlots _ _ = s.store cells
    rw [State.watchSlots, hcl, hc]
    rfl
  have hno : NoTrace (s.store cells) := by
    unfold NoTrace
    rw [hth, hdbg]
    exact ht
  obtain ⟨lcr, fr, dn, go, he, -⟩ :=
    State.laneEnd_noTrace hno (lanesOf ((s.actives g).map f)) (flagsOf ((s.actives g).map f))
  have hg : s.gives ⟨g, 0⟩ vt d f
      = (s.store cells).laneEnd (lanesOf ((s.actives g).map f)) (flagsOf ((s.actives g).map f)) := by
    rw [State.gives, State.writeX, if_pos rfl, hw]
  have hwr : (s.wrCells cells).t = s.t := by rw [State.wrCells_eq]
  rw [hg, he]
  refine State.elem_congr (State.store_mem s cells ha) ?_ ?_ w v n
  · show (s.store cells).t.alloc = (s.wrCells cells).t.alloc
    rw [hth, halloc, hwr]
  · show (s.store cells).t.site = (s.wrCells cells).t.site
    rw [hth, hsite, hwr]

/-- The scale byte, which is written last, stands in byte 16 of the 25 bytes of the element. -/
theorem oneLane_elem : (oneLane.gives ⟨⟨0, false⟩, 0⟩ wideScaled 0 zeroScaled).elem 200 0 0 = 2 ^ 128 := by
  rw [State.gives_elem (s := oneLane) _ _ _ _ ⟨rfl, rfl⟩ rfl rfl]
  have hmem : (oneLane.wrCells (((oneLane.actives ⟨0, false⟩).map zeroScaled).flatMap
      (oneLane.valCells wideScaled 0))).mem = [(arrayBase 0 + 16, 1)] := by decide
  refine (State.elem_congr (s := { oneLane with mem := [(arrayBase 0 + 16, 1)] }) hmem ?_ ?_ 200 0 0).trans (by decide)
  · rw [State.wrCells_eq]
  · rw [State.wrCells_eq]

/-- Refutes O29: of an element of 200 bits, 25 bytes from byte 0, the scale byte in byte 16 overwrites a part. -/
theorem not_givenValuesAreWritten : ¬ Obligations.GivenValuesAreWritten := by
  intro h
  have hact : (0 : Nat) ∈ oneLane.actives ⟨0, false⟩ := by decide
  obtain ⟨hval, -⟩ := (h.1 oneLane ⟨⟨0, false⟩, 0⟩ wideScaled 0 zeroScaled ⟨rfl, rfl⟩ rfl rfl (by decide) (by decide)
    (fun _ => .inl (by decide)) (fun n => rfl)).1 0 hact
  exact absurd (oneLane_elem.symm.trans hval) (by decide)

end Sys2Proof.Machine
end

section
/-! PROOFS of 01_machine.md: setvl.grow and setvl.shrink (R13, R36, R38, R39, R40, R208). First the free quads, tiles and
segments, then what granting them does, then what landing the elements in flight leaves of the thread in focus. -/

namespace Sys2Proof.Machine

/-! ### Free quads, tiles and segments (R36) -/

/-- A bit of a union. -/
theorem getLsbD_foldl_or {w : Nat} {α : Type} (f : α → BitVec w) (l : List α) (m : BitVec w) (q : Nat) :
    (l.foldl (fun m t => m ||| f t) m).getLsbD q = (m.getLsbD q || l.any (fun t => (f t).getLsbD q)) := by
  induction l generalizing m with
  | nil => simp
  | cons x l ih => simp [ih, Bool.or_assoc]

theorem ownedQuads_eq_false (s : State) (uid q : Nat) :
    (s.ownedQuads uid).getLsbD q = false ↔ ∀ t ∈ s.unitThreads uid, t.alloc.quads.getLsbD q = false := by
  rw [State.ownedQuads, getLsbD_foldl_or (fun t : Thread => t.alloc.quads)]
  simp

theorem ownedTiles_eq_false (s : State) (uid n : Nat) :
    (s.ownedTiles uid).getLsbD n = false ↔ ∀ t ∈ s.unitThreads uid, t.alloc.tiles.getLsbD n = false := by
  rw [State.ownedTiles, getLsbD_foldl_or (fun t : Thread => t.alloc.tiles)]
  simp

theorem ownedSegs_eq_false (s : State) (uid g : Nat) :
    (s.ownedSegs uid).getLsbD g = false ↔ ∀ t ∈ s.unitThreads uid, t.alloc.segs.getLsbD g = false := by
  rw [State.ownedSegs, getLsbD_foldl_or (fun t : Thread => t.alloc.segs)]
  simp

theorem mem_freeQuads {s : State} {uid q : Nat} : q ∈ s.freeQuads uid ↔ q < 16 ∧ (s.unitSt uid).usable.getLsbD q = true
    ∧ (s.unitSt uid).pending.getLsbD q = false ∧ ∀ t ∈ s.unitThreads uid, t.alloc.quads.getLsbD q = false := by
  rw [← ownedQuads_eq_false, State.freeQuads]
  simp only [List.mem_filter, List.mem_range, Bool.and_eq_true, Bool.not_eq_true', and_assoc]

theorem mem_freeTiles {s : State} {uid n : Nat} :
    n ∈ s.freeTiles uid ↔ n < 8 ∧ ∀ t ∈ s.unitThreads uid, t.alloc.tiles.getLsbD n = false := by
  rw [← ownedTiles_eq_false, State.freeTiles]
  simp only [List.mem_filter, List.mem_range, Bool.not_eq_true']

theorem mem_freeSegs {s : State} {uid g : Nat} :
    g ∈ s.freeSegs uid ↔ g < 12 ∧ ∀ t ∈ s.unitThreads uid, t.alloc.segs.getLsbD g = false := by
  rw [← ownedSegs_eq_false, State.freeSegs]
  simp only [List.mem_filter, List.mem_range, Bool.not_eq_true']

theorem free_ascending (s : State) (uid : Nat) : (s.freeQuads uid).Pairwise (· < ·) ∧ (s.freeTiles uid).Pairwise (· < ·)
    ∧ (s.freeSegs uid).Pairwise (· < ·) :=
  ⟨List.pairwise_lt_range.filter _, List.pairwise_lt_range.filter _, List.pairwise_lt_range.filter _⟩

/-- What is free of a kind of unit depends on the threads, by what they own of that kind. -/
theorem freeTiles_congr {s t : State} (hs : t.t.site = s.t.site) (hst : t.t.status = s.t.status)
    (ht : t.t.alloc.tiles = s.t.alloc.tiles) (ho : t.others = s.others) (uid : Nat) : t.freeTiles uid = s.freeTiles uid := by
  have h : t.ownedTiles uid = s.ownedTiles uid := by
    simp only [State.ownedTiles, State.unitThreads, State.threads, List.filter_cons, hs, hst, ho]
    split <;> simp [ht]
  rw [State.freeTiles, State.freeTiles, h]

theorem freeSegs_congr {s t : State} (hs : t.t.site = s.t.site) (hst : t.t.status = s.t.status)
    (ht : t.t.alloc.segs = s.t.alloc.segs) (ho : t.others = s.others) (uid : Nat) : t.freeSegs uid = s.freeSegs uid := by
  have h : t.ownedSegs uid = s.ownedSegs uid := by
    simp only [State.ownedSegs, State.unitThreads, State.threads, List.filter_cons, hs, hst, ho]
    split <;> simp [ht]
  rw [State.freeSegs, State.freeSegs, h]

/-- The quads acquired: the first free ones above every owned one, as many as the request needs (R38). -/
theorem growQuads_eq (s : State) (req : Nat) :
    let own := (List.range 16).filter (fun q => s.t.alloc.quads.getLsbD q)
    s.growQuads req = ((s.freeQuads s.uid).filter (fun q => own.all (fun o => decide (o < q)))).take
      ((req + 16383) / 16384 - own.length) := by
  intro own
  have hown : s.t.alloc.quadList = own := rfl
  have hasc : own.Pairwise (· < ·) := List.pairwise_lt_range.filter _
  have hzero : s.t.alloc.quads = 0 ↔ own = [] := by
    constructor
    · intro h
      simp [own, h]
    · intro h
      apply BitVec.eq_of_getLsbD_eq
      intro q hq
      have := List.filter_eq_nil_iff.1 h q (List.mem_range.2 hq)
      simpa using this
  rw [State.growQuads, hown]
  congr 1
  apply List.filter_congr
  intro q _
  rw [Bool.eq_iff_iff]
  simp only [Bool.or_eq_true, beq_iff_eq, hzero, decide_eq_true_eq, List.all_eq_true]
  rcases List.eq_nil_or_concat own with h | ⟨l, x, h⟩
  · simp [h]
  · rw [h] at hasc ⊢
    simp only [List.concat_eq_append, List.pairwise_append, List.mem_singleton] at hasc
    obtain ⟨-, -, hx⟩ := hasc
    simp only [List.concat_eq_append, List.append_eq_nil_iff, List.cons_ne_nil, and_false, false_or,
      List.getLastD_concat, List.mem_append, List.mem_singleton]
    refine ⟨fun hq o ho => ?_, fun hq => hq x (.inr rfl)⟩
    rcases ho with ho | rfl
    · exact (hx o ho x rfl).trans hq
    · exact hq

/-! ### Quads, tiles and segments granted (R36, R38, R40) -/

/-- A range of cells cleared: the errors there and its bytes, nothing else. -/
theorem State.clearCells_spec (s : State) (lo len : Nat) : ∃ f,
    s.clearCells lo len = { s with fleet := f, mem := cellClear s.mem lo len } := by
  unfold State.clearCells State.wipeErrors
  split <;> exact ⟨_, rfl⟩

theorem getLsbD_or_shift {w : Nat} (m : BitVec w) {n : Nat} (hn : n < w) (q : Nat) :
    (m ||| (1#w <<< n)).getLsbD q = (m.getLsbD q || q == n) := by
  rw [BitVec.getLsbD_or, getLsbD_one_shiftLeft]
  by_cases h : q = n <;> simp [h, hn]

/-- Reading where a range has been cleared. -/
theorem cellGet_clear_range {β : Type} (d : β) (m : List (Nat × β)) {lo len hi : Nat} (h : hi = lo + len) (x : Nat) :
    cellGet d (cellClear m lo len) x = if lo ≤ x ∧ x < hi then d else cellGet d m x := by
  rw [cellGet_clear]
  by_cases hx : lo ≤ x ∧ x < hi
  · rw [if_pos hx, if_neg (by omega)]
  · rw [if_neg hx, if_pos (by omega)]

/-- Clearing one range more. -/
theorem ite_clear_or {β : Type} (d v : β) (b : Bool) (p : Prop) [Decidable p] :
    (if b = true then d else if p then d else v) = if (decide p || b) = true then d else v := by
  by_cases h : p <;> cases b <;> simp [h]

theorem giveQuads_spec (qs : List Nat) (s : State) (h : ∀ q ∈ qs, q < 16) :
    let t := s.giveQuads qs
    (∃ m f c a, t = { s with
        mem := m, fleet := f, cols := c, t := { s.t with alloc := { s.t.alloc with quads := a } } })
      ∧ (∀ q, t.t.alloc.quads.getLsbD q = (s.t.alloc.quads.getLsbD q || qs.contains q))
      ∧ (∀ x, t.rd x = if qs.any (fun q => decide (arrayBase s.uid + q * 2 ^ 20 ≤ x
          ∧ x < arrayBase s.uid + (q + 1) * 2 ^ 20)) then 0 else s.rd x)
      ∧ ∀ k, cellGet 0 t.cols k = if qs.any (fun q => decide (colKey s.uid (q * 16384) ≤ k
          ∧ k < colKey s.uid (q * 16384) + 16384)) then 0 else cellGet 0 s.cols k := by
  induction qs generalizing s with
  | nil => exact ⟨⟨_, _, _, _, rfl⟩, fun q => by simp [State.giveQuads], fun x => rfl, fun k => rfl⟩
  | cons n qs ih =>
    obtain ⟨f, hc⟩ := s.clearCells_spec (arrayBase s.uid + n * 2 ^ 20) (2 ^ 20)
    let u : State := { s with
      fleet := f, mem := cellClear s.mem (arrayBase s.uid + n * 2 ^ 20) (2 ^ 20)
      cols := cellClear s.cols (colKey s.uid (n * 16384)) 16384
      t := { s.t with alloc := { s.t.alloc with quads := s.t.alloc.quads ||| (1#16 <<< n) } } }
    have hu : s.giveQuads (n :: qs) = u.giveQuads qs := by
      rw [State.giveQuads, List.foldl_cons, State.clearQuad, hc]
      rfl
    obtain ⟨⟨m, f', c, a, ht⟩, hq, hm, hk⟩ := ih u (fun q hq => h q (List.mem_cons_of_mem _ hq))
    intro t
    have htu : t = u.giveQuads qs := hu
    rw [htu]
    refine ⟨⟨m, f', c, a, ht⟩, fun q => ?_, fun x => ?_, fun k => ?_⟩
    · rw [hq q, getLsbD_or_shift _ (h n (List.mem_cons_self ..)), List.contains_cons, Bool.or_assoc]
    · rw [hm x, show u.rd x = _ from cellGet_clear_range 0 s.mem (hi := arrayBase s.uid + (n + 1) * 2 ^ 20) (by ring) x,
        ite_clear_or]
      rfl
    · rw [hk k, show cellGet 0 u.cols k = _ from cellGet_clear_range 0 s.cols rfl k, ite_clear_or]
      rfl

theorem giveTiles_spec (ts : List Nat) (s : State) (h : ∀ n ∈ ts, n < 8) :
    let t := s.giveTiles ts
    (∃ f a b, t = { s with fleet := f, accs := b, t := { s.t with alloc := { s.t.alloc with tiles := a } } })
      ∧ (∀ n, t.t.alloc.tiles.getLsbD n = (s.t.alloc.tiles.getLsbD n || ts.contains n))
      ∧ ∀ k, cellGet 0 t.accs k = if ts.any (fun n => decide (accKey s.uid n 0 0 ≤ k ∧ k < accKey s.uid n 0 0 + 4096))
          then 0 else cellGet 0 s.accs k := by
  induction ts generalizing s with
  | nil => exact ⟨⟨_, _, _, rfl⟩, fun n => by simp [State.giveTiles], fun k => rfl⟩
  | cons n ts ih =>
    obtain ⟨f, hc⟩ := s.clearTile_spec s.uid n
    let u : State := { s with
      fleet := f, accs := cellClear s.accs (accKey s.uid n 0 0) 4096
      t := { s.t with alloc := { s.t.alloc with tiles := s.t.alloc.tiles ||| (1#8 <<< n) } } }
    have hu : s.giveTiles (n :: ts) = u.giveTiles ts := by
      rw [State.giveTiles, List.foldl_cons, hc]
      rfl
    obtain ⟨⟨f', a, b, ht⟩, hn, hk⟩ := ih u (fun q hq => h q (List.mem_cons_of_mem _ hq))
    rw [hu]
    refine ⟨⟨f', a, b, ht⟩, fun q => ?_, fun k => ?_⟩
    · rw [hn q, getLsbD_or_shift _ (h n (List.mem_cons_self ..)), List.contains_cons, Bool.or_assoc]
    · rw [hk k, show cellGet 0 u.accs k = _ from cellGet_clear_range 0 s.accs rfl k, ite_clear_or]
      rfl

theorem giveSegs_spec (gs : List Nat) (s : State) (h : ∀ g ∈ gs, g < 12) :
    let t := s.giveSegs gs
    (∃ m f a, t = { s with mem := m, fleet := f, t := { s.t with alloc := { s.t.alloc with segs := a } } })
      ∧ (∀ g, t.t.alloc.segs.getLsbD g = (s.t.alloc.segs.getLsbD g || gs.contains g))
      ∧ ∀ x, t.rd x = if gs.any (fun g => decide (weightBase s.uid + g * 2 ^ 18 ≤ x
          ∧ x < weightBase s.uid + (g + 1) * 2 ^ 18)) then 0 else s.rd x := by
  induction gs generalizing s with
  | nil => exact ⟨⟨_, _, _, rfl⟩, fun g => by simp [State.giveSegs], fun x => rfl⟩
  | cons n gs ih =>
    obtain ⟨f, hc⟩ := s.clearCells_spec (weightBase s.uid + n * 2 ^ 18) (2 ^ 18)
    let u : State := { s with
      fleet := f, mem := cellClear s.mem (weightBase s.uid + n * 2 ^ 18) (2 ^ 18)
      t := { s.t with alloc := { s.t.alloc with segs := s.t.alloc.segs ||| (1#12 <<< n) } } }
    have hu : s.giveSegs (n :: gs) = u.giveSegs gs := by
      rw [State.giveSegs, List.foldl_cons, State.clearSeg, hc]
      rfl
    obtain ⟨⟨m, f', a, ht⟩, hg, hm⟩ := ih u (fun q hq => h q (List.mem_cons_of_mem _ hq))
    rw [hu]
    refine ⟨⟨m, f', a, ht⟩, fun q => ?_, fun x => ?_⟩
    · rw [hg q, getLsbD_or_shift _ (h n (List.mem_cons_self ..)), List.contains_cons, Bool.or_assoc]
    · rw [hm x, show u.rd x = _ from cellGet_clear_range 0 s.mem (hi := weightBase s.uid + (n + 1) * 2 ^ 18) (by ring) x,
        ite_clear_or]
      rfl

/-- A bit set before or taken from a list of free ones. -/
theorem getLsbD_kept {w : Nat} {a b : BitVec w} {l : List Nat} (h : ∀ q, b.getLsbD q = (a.getLsbD q || l.contains q)) :
    (∀ q, a.getLsbD q = true → b.getLsbD q = true) ∧ ∀ q, b.getLsbD q = true → a.getLsbD q = true ∨ q ∈ l := by
  refine ⟨fun q hq => by rw [h, hq, Bool.true_or], fun q hq => ?_⟩
  rw [h, Bool.or_eq_true, List.contains_iff_mem] at hq
  exact hq

/-- The registers of the new state, the request granted, and the entry pushed, by what a grant to sVL does (R37). -/
theorem grantTo_spec (s : State) (i : Instr) (d : SReg) (req : Nat) :
    let g := grant s.lanes s.t.c.v.vtype req
    let t := (s.grantTo i d req).advance
    RegsAfter s t d (BitVec.ofNat 64 g) ∧ t.t.c.v = { s.t.c.v with vl := g, vlo := 0, vli := 0 }
      ∧ t.t.q.lane = s.t.q.lane ++ [⟨s.t.q.pushed, .part, encode i, s.t.c.pc, BitVec.ofNat 64 g, 0, 0, false,
          s.t.alloc.lanes⟩]
      ∧ t.t.alloc = s.t.alloc ∧ t.t.c.pc = s.wordAddr + 8 ∧ t.mem = s.mem ∧ t.cols = s.cols ∧ t.accs = s.accs := by
  refine ⟨fun q => Ctrl.reg_setReg s.t.c d q _, rfl, rfl, rfl, ?_, rfl, rfl, rfl⟩
  by_cases hd : d = 0 <;> simp [State.grantTo, State.advance, State.setReg, Ctrl.setReg, State.wordAddr, hd] <;> rfl

/-! ### Elements in flight land (R267, log entry 66) -/

/-- Of a thread, accesses on their way, reads performed ahead, flags and debug state are all that differs. -/
def OnlyAccesses (x y : Thread) : Prop :=
  y = { x with
    c := { x.c with accs := y.c.accs, early := y.c.early }
    l := { x.l with returns := y.l.returns, stores := y.l.stores, early := y.l.early, xflags := y.l.xflags }
    dbg := y.dbg }

theorem OnlyAccesses.refl (x : Thread) : OnlyAccesses x x := rfl

theorem OnlyAccesses.trans {x y z : Thread} (h : OnlyAccesses x y) (k : OnlyAccesses y z) : OnlyAccesses x z := by
  unfold OnlyAccesses at *
  rw [k, h]

/-- An agent of the thread in focus. -/
def OwnAgent (s : State) (ag : Agent) : Prop := ag.site = s.t.site ∧ ag.task = s.t.task.id

theorem OwnAgent.congr {s t : State} {ag : Agent} (h : OwnAgent s ag) (k : OnlyAccesses s.t t.t) : OwnAgent t ag := by
  unfold OwnAgent
  rw [show t.t = _ from k]
  exact h

theorem anewAll_onlyAccesses (ws : List (List Nat)) (x : Thread) : OnlyAccesses x (x.anewAll ws) := by
  induction ws generalizing x with
  | nil => exact .refl x
  | cons w ws ih => exact OnlyAccesses.trans (y := x.anew w) rfl (ih _)

theorem store_onlyAccesses (s : State) (l : List Host.Cell) : OnlyAccesses s.t (s.store l).t := by
  obtain ⟨⟨ws, h, -⟩, -⟩ := s.store_spec l
  rw [show (s.store l).t = s.t.anewAll ws from h]
  exact anewAll_onlyAccesses ws s.t

/-- A fold whose steps each leave the thread but for its accesses. -/
theorem foldl_onlyAccesses {α : Type} (f : State → α → State) (l : List α) (s : State)
    (hf : ∀ u x, OnlyAccesses s.t u.t → OnlyAccesses u.t (f u x).t) : OnlyAccesses s.t (l.foldl f s).t :=
  foldl_keeps (P := fun u => OnlyAccesses s.t u.t) f l s (fun u x h => h.trans (hf u x h)) (.refl _)

theorem count_t (s : State) (die k : Nat) : (s.count die k).t = s.t := rfl

theorem correctedOf_t (s : State) (cells : List Nat) (es : List ErrLoc) : (s.correctedOf cells es).t = s.t := by
  induction es generalizing s with
  | nil => rfl
  | cons e es ih =>
    unfold State.correctedOf
    dsimp only
    rw [ih]
    split
    · split <;> rfl
    · split <;> rfl
    · rfl

theorem meetOf_t (s : State) (es : List ErrLoc) (cells : List Nat) : (s.meetOf es cells).2.t = s.t := by
  unfold State.meetOf
  dsimp only
  split
  · exact correctedOf_t ..
  · exact correctedOf_t ..

theorem innerStore_onlyAccesses (s : State) (l : List Host.Cell) : OnlyAccesses s.t (s.innerStore l).t := by
  unfold State.innerStore
  dsimp only
  split
  · exact store_onlyAccesses ..
  · rw [← meetOf_t s]
    exact store_onlyAccesses ..

theorem trace_onlyAccesses (s : State) (th : Thread) (src kind lane : Nat) (pc : Word) (seq x y z : Nat) :
    OnlyAccesses s.t (s.trace th src kind lane pc seq x y z).t := by
  unfold State.trace State.traceWrite State.traceRecord
  dsimp only
  split
  · split
    · exact .refl _
    · split
      · exact .refl _
      · exact innerStore_onlyAccesses ..
  · exact .refl _

theorem stopCluster_onlyAccesses (s : State) (cl : Nat) : OnlyAccesses s.t (s.stopCluster cl).t := by
  unfold State.stopCluster
  dsimp only
  split
  · exact .refl _
  · dsimp only
    split
    · rfl
    · rfl

theorem setWatch_onlyAccesses {s : State} {ag : Agent} (h : OwnAgent s ag) (n : Nat) :
    OnlyAccesses s.t (s.setWatch ag n).t := by
  unfold State.setWatch
  split
  · exact .refl _
  · rename_i th hth
    have hown : th = s.t := by
      have hs : s.threadAt ag.site = s.t := if_pos h.1.symm
      unfold State.agentThread at hth
      rw [hs, h.2] at hth
      simp only [beq_self_eq_true, if_true] at hth
      split at hth
      · cases hth
      · exact (Option.some.inj hth).symm
    subst hown
    split
    · exact .refl _
    · dsimp only
      split
      · exact .refl _
      · rw [State.setThread, if_pos rfl]
        rfl

theorem wpHit_onlyAccesses {s : State} {ag : Agent} (h : OwnAgent s ag) (cl n kind w v lane : Nat) :
    OnlyAccesses s.t (s.wpHit cl n ag kind w v lane).t := by
  unfold State.wpHit
  extract_lets c w1 tr w2 s1 s2
  have h2 : OnlyAccesses s.t s2.t := by
    unfold s2
    split
    · exact trace_onlyAccesses s1 ..
    · exact .refl _
  split
  · exact h2.trans (setWatch_onlyAccesses (h.congr h2) n)
  · exact h2.trans (stopCluster_onlyAccesses s2 cl)

theorem watchMem_onlyAccesses {s : State} {ag : Agent} (h : OwnAgent s ag) (k : Access) (homes : List Nat) (v : Nat) :
    OnlyAccesses s.t (s.watchMem ag k homes v).t := by
  unfold State.watchMem
  split
  · exact .refl _
  · refine foldl_onlyAccesses _ _ s (fun u p hu => foldl_onlyAccesses _ _ u (fun x n hx => ?_))
    dsimp only
    split
    · exact .refl _
    · split
      · exact wpHit_onlyAccesses ((h.congr hu).congr hx) ..
      · exact .refl _

theorem watchSlot_onlyAccesses {s : State} {ag : Agent} (h : OwnAgent s ag) (uid lane slot : Nat) :
    OnlyAccesses s.t (s.watchSlot ag uid lane slot).t := by
  unfold State.watchSlot
  split
  · exact .refl _
  · refine foldl_onlyAccesses _ _ s (fun u n hu => ?_)
    dsimp only
    split
    · exact wpHit_onlyAccesses (h.congr hu) ..
    · exact .refl _

theorem watchLocs_onlyAccesses {s : State} {ag : Agent} (h : OwnAgent s ag) (k : Access) (ls : List Loc) (v : Nat) :
    OnlyAccesses s.t (s.watchLocs ag k ls v).t := by
  unfold State.watchLocs
  split
  · exact .refl _
  · have hm := watchMem_onlyAccesses h k (locHomes ls) v
    dsimp only
    split
    · exact hm.trans (foldl_onlyAccesses _ _ _ (fun u p hu => watchSlot_onlyAccesses ((h.congr hm).congr hu) ..))
    · exact hm

theorem writeLocs_onlyAccesses {s : State} {ag : Agent} (h : OwnAgent s ag) (k : Access) (ls : List Loc) (v : Nat) :
    OnlyAccesses s.t (s.writeLocs ag k ls v).t :=
  have hst := store_onlyAccesses s (locWrites ls (bytesOf ls.length v))
  hst.trans (watchLocs_onlyAccesses (h.congr hst) ..)

theorem amoLocs_onlyAccesses {s : State} {ag : Agent} (h : OwnAgent s ag) (op : AmoOp) (ls : List Loc) (v k : Nat) :
    OnlyAccesses s.t (s.amoLocs ag op ls v k).2.t := by
  unfold State.amoLocs
  dsimp only
  split
  · exact watchMem_onlyAccesses h (.atomic true) (locHomes ls) (s.rdLocs ls)
  · exact writeLocs_onlyAccesses h (.atomic true) ls _

theorem homeAmo_onlyAccesses {s : State} {ag : Agent} (h : OwnAgent s ag) (op : AmoOp) (ls : List Loc) (v k : Nat) :
    OnlyAccesses s.t (s.homeAmo ag op ls v k).2.t := by
  unfold State.homeAmo
  split
  · exact amoLocs_onlyAccesses h ..
  · exact .refl _

theorem perform_onlyAccesses {s : State} {ag : Agent} (h : OwnAgent s ag) (older : List MemOp) (op : MemOp) (is : List Nat) :
    OnlyAccesses s.t (s.perform ag older op is).2.t := by
  unfold State.perform
  dsimp only
  split
  · exact writeLocs_onlyAccesses h ..
  · split
    · exact watchLocs_onlyAccesses h ..
    · exact .refl _
  · exact homeAmo_onlyAccesses h ..

theorem performLane_onlyAccesses (s : State) (n : Nat) (is : List Nat) : OnlyAccesses s.t (s.performLane n is).t := by
  unfold State.performLane
  split
  · exact .refl _
  · rename_i op _
    have hp := perform_onlyAccesses (s := s) (ag := s.opAgent op) ⟨rfl, rfl⟩ [] op is
    exact hp.trans (y := (s.perform (s.opAgent op) [] op is).2.t) rfl

theorem performLanes_onlyAccesses (n : Nat) (s : State) : OnlyAccesses s.t (s.performLanes n).t := by
  induction n generalizing s with
  | zero => exact .refl _
  | succ n ih =>
    rw [State.performLanes]
    split
    · exact (performLane_onlyAccesses s 0 _).trans (ih _)
    · exact ih s

theorem elementAccess_onlyAccesses (s : State) (e : Element) : OnlyAccesses s.t (s.elementAccess e).2.t := by
  unfold State.elementAccess
  dsimp only
  split
  · exact homeAmo_onlyAccesses (s := s) ⟨rfl, rfl⟩ ..
  · exact watchLocs_onlyAccesses (s := s) ⟨rfl, rfl⟩ ..

theorem land_onlyAccesses (s : State) (e : Element) : OnlyAccesses s.t (s.land e).t := by
  have ha := elementAccess_onlyAccesses s e
  unfold State.land
  generalize s.elementAccess e = r at ha
  obtain ⟨v, u⟩ := r
  dsimp only
  generalize hx : e.gives v = xf
  generalize hcells : ((e.cell :: e.more).flatMap fun c => u.widthCells c e.width xf.1) = cells
  have hst := ha.trans (store_onlyAccesses u cells)
  have hfl : OnlyAccesses s.t ((u.store cells).mapL (fun l => { l with xflags := l.xflags ||| BitVec.ofNat 8 xf.2 })).t :=
    hst.trans rfl
  split
  · exact hfl
  · exact hfl.trans (foldl_onlyAccesses _ _ _ (fun w n _ => watchSlot_onlyAccesses (s := w) ⟨rfl, rfl⟩ ..))

/-- Landing every element in flight leaves the thread but for its accesses, flags and debug state. -/
theorem settle_onlyAccesses (s : State) : OnlyAccesses s.t s.settle.t := by
  have h : OnlyAccesses s.t (s.t.l.returns.foldl State.landAfter s).t :=
    foldl_onlyAccesses _ _ s (fun u e _ => (performLanes_onlyAccesses _ u).trans (land_onlyAccesses _ e))
  exact h.trans rfl

/-! ### The statement -/

theorem grant_part {i : Instr} (h : (∃ d a b, i = .setvlGrow d a b) ∨ ∃ d a, i = .setvlShrink d a) :
    PartDoes i (fun e x => { x with v := { x.v with vl := e.a.toNat, vlo := 0, vli := 0 } }) :=
  partDoes_of fun s e hd => by
    rcases h with ⟨d, a, b, rfl⟩ | ⟨d, a, rfl⟩ <;> simp [State.partEffect, hd]

/-- What setvl.grow does where nothing holds it up (R38). -/
theorem exec_setvlGrow_of {s : State} {d a b : SReg} (hf : HasFeatures s 1) (hv : s.t.c.v.illegal = false)
    (hr : NoToken s [d, a, b]) (hroom : s.t.q.lane.length < laneDepth) :
    let own := (List.range 16).filter (fun q => s.t.alloc.quads.getLsbD q)
    let qs := ((s.freeQuads s.uid).filter (fun q => own.all (fun o => decide (o < q)))).take
      (((s.reg a).toNat + 16383) / 16384 - own.length)
    let ts := (s.freeTiles s.uid).take (min ((s.reg b).toNat % 16) 8 - popc 8 s.t.alloc.tiles.toNat)
    let gs := (s.freeSegs s.uid).take (min ((s.reg b).toNat / 16 % 16) 12 - popc 12 s.t.alloc.segs.toNat)
    exec (.setvlGrow d a b) s
      = .next ((((s.giveQuads qs).giveTiles ts).giveSegs gs).grantTo (.setvlGrow d a b) d (s.reg a).toNat).advance := by
  intro own qs ts gs
  obtain ⟨⟨m, f, c, aq, hq⟩, -⟩ := giveQuads_spec qs s
    (fun q h => (mem_freeQuads.1 (List.mem_of_mem_filter (List.mem_of_mem_take h))).1)
  have ht : ((s.giveQuads qs).freeTiles (s.giveQuads qs).uid).take
      (min ((s.reg b).toNat % 16) 8 - popc 8 (s.giveQuads qs).t.alloc.tiles.toNat) = ts := by
    rw [hq, freeTiles_congr (s := s)] <;> rfl
  obtain ⟨⟨f', at', ac, hts⟩, -⟩ := giveTiles_spec ts (s.giveQuads qs)
    (fun n h => (mem_freeTiles.1 (List.mem_of_mem_take h)).1)
  have hg : ((((s.giveQuads qs).giveTiles ts)).freeSegs ((s.giveQuads qs).giveTiles ts).uid).take
      (min ((s.reg b).toNat / 16 % 16) 12 - popc 12 ((s.giveQuads qs).giveTiles ts).t.alloc.segs.toNat) = gs := by
    rw [hts, hq, freeSegs_congr (s := s)] <;> rfl
  rw [exec_setvlGrow, execSetvlGrow, withFeat_of hf, withLegal_of hv, withRegs_of hr, withRoom_of hroom]
  dsimp only
  rw [show s.growQuads (s.reg a).toNat = qs from growQuads_eq s _, ht, hg]

/-- What setvl.shrink does where nothing holds it up (R39). -/
theorem setvlShrink_spec {s : State} {d a : SReg} (hf : HasFeatures s 1) (hv : s.t.c.v.illegal = false)
    (hr : NoToken s [d, a]) (hroom : s.t.q.lane.length < laneDepth) :
    let g := grant s.lanes s.t.c.v.vtype (s.reg a).toNat
    ∃ t, exec (.setvlShrink d a) s = .next t ∧ RegsAfter s t d (BitVec.ofNat 64 g)
      ∧ t.t.alloc = s.t.alloc.keep (max ((g + 16383) / 16384) s.t.task.minQuads)
      ∧ t.t.c.v = { s.t.c.v with vl := g, vlo := 0, vli := 0 }
      ∧ t.t.q.lane = (s.t.q.lane ++ [(⟨s.t.q.pushed, .part, encode (.setvlShrink d a), s.t.c.pc, BitVec.ofNat 64 g, 0,
          0, false, s.t.alloc.lanes⟩ : LaneEntry)]).map (fun e => { e with lanes := min e.lanes t.t.alloc.lanes })
      ∧ t.t.c.pc = s.wordAddr + 8 ∧ ∀ x, t.rd x = s.settle.rd x := by
  have hs := settle_onlyAccesses s
  have hreg : ∀ q, s.settle.reg q = s.reg q := fun q => by
    rw [State.reg, show s.settle.t = _ from hs]
    rfl
  obtain ⟨hregs, hvec, hlane, halloc, hpc, hmem, -⟩ := grantTo_spec s.settle (.setvlShrink d a) d (s.reg a).toNat
  have htask : s.settle.t.task = s.t.task := by rw [show s.settle.t = _ from hs]
  have hal : s.settle.t.alloc = s.t.alloc := by rw [show s.settle.t = _ from hs]
  have hvs : s.settle.t.c.v = s.t.c.v := by rw [show s.settle.t = _ from hs]
  have hq : s.settle.t.q = s.t.q := by rw [show s.settle.t = _ from hs]
  have hpcs : s.settle.t.c.pc = s.t.c.pc := by rw [show s.settle.t = _ from hs]
  have hg : grant s.settle.lanes s.settle.t.c.v.vtype (s.reg a).toNat = grant s.lanes s.t.c.v.vtype (s.reg a).toNat := by
    rw [hvs, State.lanes, hal]
    rfl
  rw [hg] at hregs hvec hlane
  rw [hvs] at hvec
  rw [hq, hpcs, hal] at hlane
  intro g
  let u := s.settle.grantTo (.setvlShrink d a) d (s.reg a).toNat
  have huv : u.t.c.v = { s.t.c.v with vl := g, vlo := 0, vli := 0 } := hvec
  have hua : u.t.alloc = s.t.alloc := halloc.trans hal
  have hkeep : u.t.alloc.keep (max ((u.t.c.v.vl + 16383) / 16384) u.t.task.minQuads)
      = s.t.alloc.keep (max ((g + 16383) / 16384) s.t.task.minQuads) := by
    rw [huv, hua, show u.t.task = s.t.task from htask]
  refine ⟨_, by rw [exec_setvlShrink, execSetvlShrink, withFeat_of hf, withLegal_of hv, withRegs_of hr, withRoom_of hroom], ?_⟩
  refine ⟨fun q => (hregs q).trans (by rw [hreg]), hkeep, hvec, ?_, ?_, fun x => congrArg (cellGet 0 · x) hmem⟩
  · exact congrArg (List.map (·.lose (u.t.alloc.keep (max ((u.t.c.v.vl + 16383) / 16384) u.t.task.minQuads)).lanes)) hlane
  · rw [show s.wordAddr = s.settle.wordAddr by rw [State.wordAddr, State.wordAddr, hpcs]]
    exact hpc

/-- What is given of quads, tiles and segments, one after the other: each kind of store is cleared where it is given. -/
theorem give_spec (s : State) {qs ts gs : List Nat} (hqs : ∀ q ∈ qs, q < 16) (hts : ∀ n ∈ ts, n < 8) (hgs : ∀ g ∈ gs, g < 12) :
    let t := ((s.giveQuads qs).giveTiles ts).giveSegs gs
    (∃ a, t.t = { s.t with alloc := a })
      ∧ (∀ q, t.t.alloc.quads.getLsbD q = (s.t.alloc.quads.getLsbD q || qs.contains q))
      ∧ (∀ n, t.t.alloc.tiles.getLsbD n = (s.t.alloc.tiles.getLsbD n || ts.contains n))
      ∧ (∀ g, t.t.alloc.segs.getLsbD g = (s.t.alloc.segs.getLsbD g || gs.contains g))
      ∧ (∀ x, t.rd x = if qs.any (fun q => decide (arrayBase s.uid + q * 2 ^ 20 ≤ x ∧ x < arrayBase s.uid + (q + 1) * 2 ^ 20))
          || gs.any (fun g => decide (weightBase s.uid + g * 2 ^ 18 ≤ x ∧ x < weightBase s.uid + (g + 1) * 2 ^ 18)) then 0
        else s.rd x)
      ∧ (∀ k, cellGet 0 t.cols k = if qs.any (fun q => decide (colKey s.uid (q * 16384) ≤ k
          ∧ k < colKey s.uid (q * 16384) + 16384)) then 0 else cellGet 0 s.cols k)
      ∧ ∀ k, cellGet 0 t.accs k = if ts.any (fun n => decide (accKey s.uid n 0 0 ≤ k ∧ k < accKey s.uid n 0 0 + 4096))
        then 0 else cellGet 0 s.accs k := by
  obtain ⟨⟨m, f, c, aq, hA⟩, hq, hqm, hqc⟩ := giveQuads_spec qs s hqs
  generalize s.giveQuads qs = A at hA hq hqm hqc
  obtain ⟨⟨f', at', ac, hB⟩, ht, hta⟩ := giveTiles_spec ts A hts
  generalize A.giveTiles ts = B at hB ht hta
  obtain ⟨⟨m', f'', as, hW⟩, hg, hgm⟩ := giveSegs_spec gs B hgs
  generalize B.giveSegs gs = W at hW hg hgm
  have hBA : ∀ x, B.rd x = A.rd x := fun x => by rw [hB]; rfl
  have huid : B.uid = s.uid := by rw [hB, hA]; rfl
  have huidA : A.uid = s.uid := by rw [hA]; rfl
  refine ⟨⟨_, by rw [hW, hB, hA]⟩, fun q => ?_, fun n => ?_, fun g => (hg g).trans (by rw [hB, hA]), fun x => ?_, fun k => ?_, fun k => ?_⟩
  · rw [← hq q, hW, hB]
  · rw [hW]
    refine (ht n).trans ?_
    rw [hA]
  · rw [hgm x, hBA, hqm, huid, ite_clear_or, Bool.decide_eq_true]
  · rw [← hqc k, hW, hB]
  · rw [hW]
    refine (hta k).trans ?_
    rw [huidA, hA]

/-- Settles O13. -/
theorem growAndShrink : Obligations.GrowAndShrink := by
  refine ⟨fun d a b => ⟨grant_part (.inl ⟨d, a, b, rfl⟩), grant_part (.inr ⟨d, a, rfl⟩)⟩, fun s uid => ?free,
    fun s d a b hf hv hr hroom => ⟨?grow, setvlShrink_spec hf hv (fun r h => hr r (List.mem_append_left [b] h)) hroom⟩⟩
  case free =>
    obtain ⟨hq, ht, hg⟩ := free_ascending s uid
    exact ⟨hq, ht, hg, fun q => mem_freeQuads, fun n => mem_freeTiles, fun g => mem_freeSegs⟩
  case grow =>
    have hexec := exec_setvlGrow_of hf hv hr hroom
    dsimp only at hexec
    obtain ⟨⟨al, hth⟩, hq, ht, hg, hrd, hcol, hacc⟩ := give_spec s
      (fun q h => (mem_freeQuads.1 (List.mem_of_mem_filter (List.mem_of_mem_take h))).1)
      (fun n h => (mem_freeTiles.1 (List.mem_of_mem_take h)).1) (fun g h => (mem_freeSegs.1 (List.mem_of_mem_take h)).1)
    refine ⟨_, hexec, ?_⟩
    generalize ((s.giveQuads _).giveTiles _).giveSegs _ = W at hth hq ht hg hrd hcol hacc
    have hc : W.t.c = s.t.c := by rw [hth]
    have hlq : W.t.q = s.t.q := by rw [hth]
    have hreg : ∀ q, W.reg q = s.reg q := fun q => by rw [State.reg, State.reg, hc]
    obtain ⟨hregs, hv, hlane, -, hpc, hmem, hcols, haccs⟩ := grantTo_spec W (.setvlGrow d a b) d (s.reg a).toNat
    rw [hlq] at hlane
    rw [hc] at hregs hv hlane
    obtain ⟨hq1, hq2⟩ := getLsbD_kept hq
    refine ⟨⟨fun q => (hregs q).trans (by rw [hreg]; rfl), hv, hlane⟩, hq1, fun q h => (hq2 q h).imp_right ?_,
      (getLsbD_kept ht).1, (getLsbD_kept hg).1, ?_, hq, ht, hg, fun x => ?_, hcol, hacc⟩
    · exact fun h => List.mem_of_mem_filter (List.mem_of_mem_take h)
    · exact hpc.trans (by rw [State.wordAddr, State.wordAddr, hc])
    · exact hrd x

end Sys2Proof.Machine
end

section
/-! PROOFS of 01_machine.md: a step runs the instruction it has fetched and decoded (R29, R30, R35, R54, R168, R443). One
lemma for each part of a step: the move, the fetch of the next word, the control stream, the lane stream. -/

namespace Sys2Proof.Machine

/-! ### A step makes the move that is picked (R406) -/

theorem step_of_pick {s s1 : State} {m : Move} (h : s.tick.pick = some (m, s1)) : step s = s1.move m := by
  rw [step, h]

/-- A move that touches nothing away is not made again. -/
theorem madeIn_of_touched {s t : State} {m : Move} (h : s.made m = .next t) (ht : t.touched.length ≤ s.touched.length)
    (n : Nat) : s.madeIn m n = .next t := by
  cases n with
  | zero => exact h
  | succ n => rw [State.madeIn, h]; exact if_pos ht

/-- A move that touches units away is made again once they are there. -/
theorem madeIn_of_away {s t : State} {m : Move} (h : s.made m = .next t) (ht : s.touched.length < t.touched.length)
    (n : Nat) : s.madeIn m (n + 1) = (s.bringCells (t.touched.drop s.touched.length)).madeIn m n := by
  rw [State.madeIn, h]; exact if_neg (Nat.not_le.2 ht)

/-! ### The word in progress (R54, R168, R360) -/

/-- Nothing that the next iteration of a nest reads awaits data where no nest is in progress. -/
theorem nestStep_of_inactive {s : State} (h : nestAct s.t.c.nestcfg = false) : s.nestStep = s ∧ s.nestWaits = none := by
  have hend : s.nestEnd = false := by rw [State.nestEnd, h, Bool.false_and]
  constructor
  · simp [State.nestStep, hend]
  · simp [State.nestWaits, hend]

theorem nextWord_of_kept {s : State} {w : Word} (h : s.keptWord = some w) : s.nextWord = (w, s) := by
  rw [State.nextWord, h]

/-- A word fetched outside a nest's body is not kept; inside it goes to the loop buffer. -/
theorem nextWord_of_fetched {s u : State} {w : Word} (hk : s.keptWord = none) (hf : s.fetchWord s.wordAddr = (w, u)) :
    (s.t.c.bodyNo s.wordAddr = none → s.nextWord = (w, u))
    ∧ ∀ k, s.t.c.bodyNo s.wordAddr = some k →
      s.nextWord = (w, u.mapC (fun c => { c with body := (k, w) :: c.body })) := by
  obtain ⟨n, hn⟩ := s.fetchWord_state s.wordAddr
  rw [hf] at hn
  have hu : u.t.c.bodyNo s.wordAddr = s.t.c.bodyNo s.wordAddr := by rw [show u = _ from hn]
  have hu' : u.wordAddr = s.wordAddr := by rw [show u = _ from hn, State.wordAddr, State.wordAddr]
  constructor
  · intro hb
    simp [State.nextWord, hk, hf, hu, hu', hb]
  · intro k hb
    simp [State.nextWord, hk, hf, hu, hu', hb]

/-- A fetch from a frame of the context or of none meets no error where there is none (R428, R435). -/
theorem fetchError_of_noErrors {s : State} {a : Word} (he : s.fleet.errors = [])
    (ho : s.ownerOf 0 (a.toNat / 2 ^ 21) = none ∨ s.ownerOf 0 (a.toNat / 2 ^ 21) = some s.t.task.ctx) :
    s.fetchError a = (none, s) := by
  have hm (tr : Trap) : s.fetchMeets tr a = (none, s) := by simp [State.fetchMeets, State.meet, he]
  rcases ho with ho | ho
  · rw [State.fetchError, ho]; exact hm _
  · rw [State.fetchError, ho]; exact (if_pos (beq_self_eq_true _)).trans (hm _)

theorem fetchWord_of_noOld {s : State} {a : Word} (h : s.oldFetches a = []) :
    s.fetchWord a = (BitVec.ofNat 64 (s.rdN a.toNat 8), s) := by
  rw [State.fetchWord, h]

/-! ### The control stream (R29, R30, R443) -/

/-- What a word decodes to is what is fetched, at an address that has the word or its slot B. -/
theorem fetched_of {pc w : Word} {i : Instr} (hd : decode w = .ok i)
    (hpc : pc.toNat % 8 = 0 ∨ (pc.toNat % 8 = 4 ∧ w.getLsbD 63 = true)) :
    fetched pc w = .ok (if isLane i then .laneQueuePush w else i) := by
  have hb : (pc.getLsbD 2 && !w.getLsbD 63) = false := by
    rcases hpc with h0 | ⟨-, hw⟩
    · have : pc.getLsbD 2 = false := by
        rw [BitVec.getLsbD, Nat.testBit_eq_decide_div_mod_eq]
        exact decide_eq_false (by omega)
      rw [this, Bool.false_and]
    · rw [hw, Bool.not_true, Bool.and_false]
  rw [fetched, hb, if_neg Bool.false_ne_true, hd]

/-- The control stream fetches the word in progress, after the step of a nest. -/
theorem fetch_of_word {s u g1 : State} {w : Word} (hu : s.nestStep = u) (hf : u.ctxT.fetchable u.wordAddr = true)
    (hpc : u.t.c.pc.toNat % 8 = 0 ∨ u.t.c.pc.toNat % 8 = 4)
    (he : u.keptWord = none → u.fetchError u.wordAddr = (none, u)) (hw : u.nextWord = (w, g1)) :
    s.fetch = (fetched u.t.c.pc w, g1) := by
  have hchk : (if u.keptWord.isSome then (none, u) else u.fetchError u.wordAddr) = (none, u) := by
    cases hk : u.keptWord with
    | none => exact he hk
    | some x => rfl
  rcases hpc with hpc | hpc
  · simp [State.fetch, hu, hf, hpc, hchk, hw]
  · simp [State.fetch, hu, hf, hpc, hchk, hw]

/-- The pop phase of a word takes no fetch (R443). -/
theorem fetch_of_popPhase {s u : State} (hu : s.nestStep = u) (hf : u.ctxT.fetchable u.wordAddr = true)
    (hpc : u.t.c.pc.toNat % 8 = 2) : s.fetch = (.ok .popPhase, u) := by
  simp [State.fetch, hu, hf, hpc]

theorem control_of_fetch {s u : State} {i : Instr} (hw : s.nestWaits = none) (hf : s.fetch = (.ok i, u)) :
    s.control = Res.map (State.afterWord u i) (exec i u) := by
  rw [State.control, hw]; simp only [hf]

theorem control_of_nestWaits {s : State} {r : SReg} (hw : s.nestWaits = some r) :
    s.control = .next (s.block (.token r.val)) := by
  rw [State.control, hw]

/-! ### The lane stream (R267, R314) -/

theorem lane_of_landed {s g : State} {e : LaneEntry} {l : List LaneEntry} {i : Instr} (h : s.laneLanded = some g)
    (hq : g.clearDue.bringHead.t.q.lane = e :: l) (hk : e.kind = .instr) (hi : e.instr = some i) :
    s.lane = Res.map g.clearDue.bringHead.unlessWaits (exec i g.clearDue.bringHead) := by
  have hh : g.clearDue.bringHead.laneHead = .inr i := by rw [State.laneHead, hq]; simp only [hk, hi]
  rw [State.lane, h]; simp only [hh]

/-- Nothing lands first where nothing is on its way. -/
theorem landSome_of_none {s : State} (p : Element → Bool) (q : MemOp → Bool) (hr : s.t.l.returns = [])
    (hs : s.t.l.stores = []) : s.landSome p q = some s := by
  simp [State.landSome, hr, hs]

/-- Where no element or store is on its way, nothing is performed. -/
theorem drainLane_of_none {s : State} (hr : s.t.l.returns = []) (hs : s.t.l.stores = []) : s.drainLane = s := by
  have hsettle : s.settle = s := by
    have hl : { s.t.l with returns := [] } = s.t.l := by rw [← hr]
    rw [State.settle, hr, List.foldl_nil, State.mapL]
    exact congrArg (fun l => { s with t := { s.t with l := l } }) hl
  rw [State.drainLane, hsettle, hs]; rfl

theorem laneLanded_of_none {s : State} (hr : s.t.l.returns = []) (hs : s.t.l.stores = []) (ha : s.accBusy = false) :
    s.laneLanded = some s := by
  rw [State.laneLanded]
  split
  · rfl
  · split
    · exact landSome_of_none _ _ hr hs
    · rfl
    · split
      · rw [ha, if_neg Bool.false_ne_true, drainLane_of_none hr hs]
      · exact landSome_of_none _ _ hr hs

theorem clearDue_of_noCopies {s : State} (h : s.copies = []) : s.clearDue = s := by
  simp [State.clearDue, State.copiesOf, h]

theorem bringHead_of_noneAway {s : State} (h : s.away = []) : s.bringHead = s := by
  simp [State.bringHead, h]

theorem unlessWaits_of_noMmul {s : State} (t : State) (hm : s.t.l.mm = []) (ha : s.accBusy = false) :
    s.unlessWaits t = t := by
  simp [State.unlessWaits, hm, ha]

/-- Settles O56. -/
theorem stepRunsTheDecodedInstruction : Obligations.StepRunsTheDecodedInstruction := by
  unfold Obligations.StepRunsTheDecodedInstruction
  refine ⟨fun s s1 m h => ⟨fun ha => ?_, fun t ht => ⟨fun hle => ?_, fun hlt n hn => ?_⟩⟩, fun s h => ?_,
    fun s g1 site w i hd => ⟨fun hw hf => ⟨fun hpc he hn => ?_, fun hpc => ?_⟩, nestStep_of_inactive,
      fun x => nextWord_of_kept, fun hk hf => nextWord_of_fetched hk hf, fun r hr => ?_, fetchError_of_noErrors,
      fetchWord_of_noOld, fun e l h hq hk hi => ?_, laneLanded_of_none,
      fun hc ha => ?_, fun t => unlessWaits_of_noMmul t, fun j => ⟨rfl, rfl⟩, fun which => rfl,
      fun t => ⟨rfl, rfl⟩, fun t => rfl, rfl⟩⟩
  · rw [step_of_pick h, State.move, ha]; rfl
  · rw [step_of_pick h, State.move, madeIn_of_touched ht hle]; rfl
  · rw [step_of_pick h, State.move, hn, madeIn_of_away ht hlt]
  · rw [step, h]
  · have hlow : _ % 8 = 0 ∨ _ % 8 = 4 := hpc.imp_right And.left
    have hfetch := fetch_of_word rfl hf hlow he hn
    rw [fetched_of hd hpc] at hfetch
    exact congrArg (Res.map _) (control_of_fetch hw hfetch)
  · exact congrArg (Res.map _) (control_of_fetch hw (fetch_of_popPhase rfl hf hpc))
  · exact congrArg (Res.map _) (control_of_nestWaits hr)
  · exact congrArg (Res.map _) (lane_of_landed h hq hk hi)
  · rw [clearDue_of_noCopies hc, bringHead_of_noneAway ha]

end Sys2Proof.Machine
end

section
/-! PROOFS of 01_machine.md: saving a thread whose queue outgrows its image slot (R405, R407). Nothing in the statement bounds
the queues of its state to the sixteen entries that R18 gives them: the words of a longer one are written behind the image
slot, and those of a very long one reach the arrays, where they put the unit of movement of another saved thread out of the
way. So the threads saved before are not what they were. -/

namespace Sys2Proof.Machine

/-- A unit of movement that stands in slot 0 of the first quad of the device. -/
def standing : MoveUnit := ⟨0, 0, 0, 0, 0, [], true⟩

/-- A thread that is being saved, with a queue q0, beside a saved one whose unit of movement stands in the device. -/
def crowded (q0 : List Word) : State := { State.reset with
  power := .booted
  t := { Thread.fresh 0 with status := .preempting, preempt := .soft, q := { (Thread.fresh 0).q with q0 := q0 } }
  saved := [⟨Thread.fresh 1, false, [standing], false, none⟩] }

/-! ### What a store does to one saved unit of movement (R406) -/

/-- One thread is saved, whose only unit of movement is in the place of `standing`, and stands there at most if e; no unit
hosts a context, no stored bit is in error and there is no context. -/
def Solo (e : Bool) (s : State) : Prop :=
  (∃ y m, s.saved = [y] ∧ y.units = [m] ∧ { m with data := [], evictable := true } = standing ∧ (m.evictable = true → e = true))
    ∧ s.fleet.errors = [] ∧ s.units = [] ∧ s.sec.seals = [] ∧ s.ctxs = []

theorem writeBack_mem {s : State} (he : s.fleet.errors = []) (ctx slot : Nat) (m : MoveUnit) :
    ∃ c, s.writeBack ctx slot m = { s with mem := c } := by
  have hw (lo len : Nat) : s.wipeErrors lo len = s := by simp [State.wipeErrors, he]
  unfold State.writeBack
  dsimp only
  rw [hw, ite_self, State.wrCells_eq]
  exact ⟨_, rfl⟩

theorem writeBacks_mem {α : Type} (f : α → Nat × Nat × MoveUnit) (l : List α) {s : State} (he : s.fleet.errors = []) :
    ∃ c, l.foldl (fun s x => s.writeBack (f x).1 (f x).2.1 (f x).2.2) s = { s with mem := c } := by
  induction l generalizing s with
  | nil => exact ⟨_, rfl⟩
  | cons x l ih =>
    obtain ⟨c, hc⟩ := writeBack_mem he (f x).1 (f x).2.1 (f x).2.2
    rw [List.foldl_cons, hc]
    exact ih (s := { s with mem := c }) he

theorem evictAway_solo {e : Bool} {s : State} (h : Solo e s) (kind uid phys num : Nat) :
    Solo e (s.evictAway kind uid phys num) := by
  unfold State.evictAway
  split
  · obtain ⟨c, hc⟩ := writeBacks_mem (fun x : Away => (x.ctx, x.slot, x.unit))
      (s.away.filter (fun x => x.unit.standsAt kind uid phys num)) h.2.1
    dsimp only at hc ⊢
    rw [hc]
    exact h
  · exact h

/-- Putting units out of the way leaves the saved one in its place or takes it away, and takes it away where it stands. -/
theorem evictUnit_solo {e : Bool} {s : State} (h : Solo e s) (kind uid phys num : Nat) :
    Solo (e && !standing.standsAt kind uid phys num) (s.evictUnit kind uid phys num) := by
  obtain ⟨⟨y, m, hs, hy, hm, hme⟩, he, hrest⟩ := h
  unfold State.evictUnit
  refine evictAway_solo ?_ ..
  rw [hs, List.foldl_cons, List.foldl_nil, hy]
  dsimp only
  have hstand : m.standsAt kind uid phys num = (m.evictable && standing.standsAt kind uid phys num) := by
    rw [← hm, MoveUnit.standsAt, MoveUnit.standsAt]
    simp [Bool.and_assoc]
  by_cases hst : m.standsAt kind uid phys num = true
  · rw [if_pos (by simp [hst])]
    obtain ⟨c, hc⟩ := writeBacks_mem (fun m : MoveUnit => (y.th.task.ctx, y.th.task.slot, m))
      ([m].filter (fun m => m.standsAt kind uid phys num)) he
    dsimp only at hc
    rw [hc]
    refine ⟨⟨{ y with units := [m.imaged] }, m.imaged, ?_, rfl, hm, fun h => nomatch h⟩, he, hrest⟩
    simp [hs, hy, hst]
  · rw [if_neg (by simp [hst])]
    refine ⟨⟨y, m, hs, hy, hm, fun ht => ?_⟩, he, hrest⟩
    rw [hstand, ht, Bool.true_and] at hst
    rw [hme ht, Bool.not_eq_true] at *
    rw [hst]; rfl

/-- What may stand there may have been taken away. -/
theorem Solo.mono {e e' : Bool} {s : State} (h : Solo e s) (hle : e = true → e' = true) : Solo e' s := by
  obtain ⟨⟨y, m, hs, hy, hm, hme⟩, he, hrest⟩ := h
  exact ⟨⟨y, m, hs, hy, hm, fun h => hle (hme h)⟩, he, hrest⟩

theorem evictFor_solo {e : Bool} {s : State} (h : Solo e s) (a : Nat) :
    Solo (e && moveKey a != some (0, 0, 0, 0)) (s.evictFor a) := by
  obtain ⟨y, m, hs, -⟩ := h.1
  rw [State.evictFor, if_neg (by simp [hs])]
  split
  · next kind uid phys num hk =>
    refine (evictUnit_solo h kind uid phys num).mono fun hstand => ?_
    rw [Bool.and_eq_true] at hstand ⊢
    refine ⟨hstand.1, bne_iff_ne.2 fun hkey => ?_⟩
    rw [hk, Option.some.injEq, Prod.mk.injEq, Prod.mk.injEq, Prod.mk.injEq] at hkey
    obtain ⟨rfl, rfl, rfl, rfl⟩ := hkey
    exact absurd hstand.2 (by decide)
  · exact h.mono fun he => by simp_all

theorem evictFor_solo_keep {e : Bool} {s : State} (h : Solo e s) (a : Nat) : Solo e (s.evictFor a) :=
  (evictFor_solo h a).mono fun he => (Bool.and_eq_true _ _ ▸ he).1

/-- A store leaves the saved unit in its place or takes it away. -/
theorem storeCells_solo {e : Bool} (l : List Host.Cell) {s : State} (h : Solo e s) :
    Solo e (l.foldl (fun s p => (s.evictFor p.1).wr p.1 p.2) s) :=
  foldl_keeps (P := Solo e) _ l s (fun _ p h => evictFor_solo_keep h p.1) h

theorem loadsAnew_solo {e : Bool} {s : State} (h : Solo e s) (cells : List Nat) : Solo e (s.loadsAnew cells) := by
  unfold State.loadsAnew
  split <;> exact h

/-- A store whose first byte is in the unit takes it away. -/
theorem store_solo {e : Bool} {s : State} (h : Solo e s) (p : Host.Cell) (l : List Host.Cell) :
    Solo (e && moveKey p.1 != some (0, 0, 0, 0)) (s.store (p :: l)) := by
  have h1 : Solo (e && moveKey p.1 != some (0, 0, 0, 0)) ((p :: l).foldl (fun s p => (s.evictFor p.1).wr p.1 p.2) s) :=
    storeCells_solo l (s := (s.evictFor p.1).wr p.1 p.2) (evictFor_solo h p.1)
  unfold State.store
  dsimp only
  refine loadsAnew_solo ?_ _
  rw [State.clearErrors_none]
  · exact h1
  · exact h1.2.1

/-- A word written by the device: one written at the unit takes it away. -/
theorem innerN_solo {e : Bool} {s : State} (h : Solo e s) (a v : Nat) :
    Solo (e && moveKey a != some (0, 0, 0, 0)) (s.innerN a 8 v) := by
  obtain ⟨-, herr, -, hseal, hctx⟩ := id h
  have hr (x : Nat) : s.readOnly x = false := by simp [State.readOnly, State.sealedPage, State.lockedCode, hseal, hctx]
  have hall : (cellsFrom a (bytesOf 8 v)).filter (fun p => !s.readOnly p.1) = cellsFrom a (bytesOf 8 v) :=
    List.filter_eq_self.2 fun p _ => by rw [hr]; rfl
  rw [State.innerN, State.innerStore, hall, if_pos (by rw [herr]; rfl)]
  exact store_solo h (a, BitVec.ofNat 8 v) _

/-- Words written by the device, one of them at the unit. -/
theorem putWords_solo {e : Bool} {s : State} (h : Solo e s) (base : Nat) (l : List (Nat × Nat)) :
    Solo (e && l.all (fun p => moveKey (base + p.1) != some (0, 0, 0, 0))) (s.putWords base l) := by
  have hfold : ∀ {e : Bool} {s : State}, Solo e s →
      Solo (e && l.all (fun p => moveKey (base + p.1) != some (0, 0, 0, 0)))
        (l.foldl (fun s p => s.innerN (base + p.1) 8 p.2) s) := by
    induction l with
    | nil => exact fun h => h.mono fun he => by simpa using he
    | cons p l ih =>
      intro e s h
      exact (ih (innerN_solo h (base + p.1) p.2)).mono fun he => by simpa [Bool.and_assoc] using he
  unfold State.putWords
  dsimp only
  rw [if_pos (by rw [h.2.1]; rfl)]
  exact hfold h

/-! ### The save (R405, R407) -/

/-- The words of an area, each at its offset. -/
theorem mem_wordsAt {off i : Nat} {l : List Nat} (h : i < l.length) : (off + 8 * i, l[i]) ∈ wordsAt off l := by
  refine List.mem_map.2 ⟨(i, l[i]), List.mem_iff_getElem.2 ⟨i, by simpa using h, by simp⟩, rfl⟩

/-- Entry i of q0 is written at its place behind offset 0x380. -/
theorem mem_stateArea (s : State) (hard : Bool) {i : Nat} (h : i < s.t.q.q0.length) :
    ∃ v, (0x380 + 8 * i, v) ∈ s.stateArea hard := by
  refine ⟨(s.t.q.q0[i]).toNat, ?_⟩
  have hw : (0x380 + 8 * i, (s.t.q.q0[i]).toNat) ∈ wordsAt 0x380 (s.t.q.q0.map (·.toNat)) := by
    have hm := mem_wordsAt (off := 0x380) (l := s.t.q.q0.map (·.toNat)) (i := i) (by rw [List.length_map]; exact h)
    rw [List.getElem_map] at hm
    exact hm
  unfold State.stateArea
  simp only [List.mem_append]
  refine .inl (.inl (.inl (.inl (.inr (List.mem_flatMap.2 ⟨(s.t.q.q0, 0), ?_, hw⟩)))))
  exact List.mem_cons_self ..

theorem crowded_solo (q0 : List Word) : Solo true (crowded q0) :=
  ⟨⟨_, _, rfl, rfl, rfl, fun _ => rfl⟩, rfl, rfl, rfl, rfl⟩

theorem crowded_image (q0 : List Word) : (crowded q0).image = 0 := by
  show Ctx.zero.imgbase + 0 * (21 * 2 ^ 20) = 0
  rw [Nat.zero_mul]
  rfl

/-- What is on its way for the thread is nothing: the save takes it as it stands. -/
theorem exec_save_crowded (q0 : List Word) : exec .save (crowded q0) = .next (crowded q0).saveThread := by
  have hdrain : (crowded q0).drainLane = crowded q0 := drainLane_of_none rfl rfl
  have hrest : ((crowded q0).t.status != .preempting || !(crowded q0).saveDrained) = false := rfl
  rw [exec_save, execSave, hrest, if_neg Bool.false_ne_true, hdrain]
  rfl

theorem preemptLeft_saved_units (s : State) (task : Nat) (b : Bool) :
    (s.preemptLeft task b).saved = s.saved ∧ (s.preemptLeft task b).units = s.units :=
  foldl_keeps (P := fun u => u.saved = s.saved ∧ u.units = s.units) _ _ _ (fun _ _ h => h) ⟨rfl, rfl⟩

/-- The end of a save on a unit that hosts no context adds the thread to the saved ones. -/
theorem saved_of_unhosted {s : State} (h : s.units = []) (x : Saved) (away : List Away) (t : Thread) (n task uid : Nat) :
    ((({ s with fresh := n, saved := s.saved ++ [x], away := away, t := t } : State).forgetTask task).preemptLeft task
      true |>.leaveUnit uid).saved = s.saved ++ [x] := by
  obtain ⟨hs, hu⟩ := preemptLeft_saved_units
    (State.forgetTask { s with fresh := n, saved := s.saved ++ [x], away := away, t := t } task) task true
  generalize State.preemptLeft _ task true = W at hs hu
  have hhost : (W.unitSt uid).host = 0 := by rw [State.unitSt, hu, show State.units _ = [] from h]; rfl
  rw [State.leaveUnit, hhost]
  exact hs

/-- The threads saved after the save of one that owns nothing: those that the words of its image leave, and the thread. -/
theorem saveThread_of_unowned {s : State} (ha : s.t.alloc = ⟨0, 0, 0⟩) (hp : s.t.preempt = .soft)
    (he : s.fleet.errors = []) (hu : ∀ l, (s.putWords s.image l).units = []) :
    ∃ l y, s.saveThread.saved = (s.putWords s.image (s.stateArea false ++ l)).saved ++ [y] := by
  have hq : s.t.alloc.quadList = [] := by rw [ha]; rfl
  have ht : (List.range 8).filter (fun n => s.t.alloc.tiles.getLsbD n && (false || s.t.l.live.getLsbD n)) = [] := by
    rw [ha]; rfl
  have hg : (List.range 12).filter (fun g => s.t.alloc.segs.getLsbD g) = [] := by rw [ha]; rfl
  have hh : (s.t.preempt == .hard) = false := by rw [hp]; rfl
  have hes : s.fleet.errors.isEmpty = true := by rw [he]; rfl
  unfold State.saveThread
  dsimp only
  rw [hh, hes, if_pos rfl, hq, ht, hg]
  dsimp only [List.length_nil, List.range_zero, List.zip_nil_left, List.foldl_nil]
  rw [List.append_assoc]
  exact ⟨_, _, saved_of_unhosted (hu _) _ _ _ _ _ _⟩

/-- A queue that reaches the arrays behind the image slot: the unit of the thread saved before is put out of the way. -/
theorem crowded_evicts {q0 : List Word} (h : 2 ^ 38 - 112 < q0.length) (l : List (Nat × Nat)) :
    Solo false ((crowded q0).putWords (crowded q0).image ((crowded q0).stateArea false ++ l)) := by
  have hlen : (crowded q0).t.q.q0 = q0 := rfl
  obtain ⟨v, hv⟩ := mem_stateArea (crowded q0) false (i := 2 ^ 38 - 112) (by rw [hlen]; exact h)
  refine (putWords_solo (crowded_solo q0) _ _).mono fun hall => ?_
  rw [Bool.true_and, List.all_eq_true] at hall
  have hkey : moveKey ((crowded q0).image + (0x380 + 8 * (2 ^ 38 - 112))) = some (0, 0, 0, 0) := by
    rw [crowded_image]
    norm_num [moveKey]
  have hne := hall _ (List.mem_append_left l hv)
  rw [hkey] at hne
  cases hne

/-- Refutes O49. The queue q0 has 2 ^ 38 words, and the last of them reach cell 2 ^ 41, where the arrays begin. -/
theorem not_schedulingAndSaving : ¬ Obligations.SchedulingAndSaving := by
  unfold Obligations.SchedulingAndSaving
  rintro ⟨-, -, h⟩
  obtain ⟨q0, hq0⟩ : ∃ q0 : List Word, 2 ^ 38 - 112 < q0.length :=
    ⟨List.replicate (2 ^ 38) 0, by rw [List.length_replicate]; decide⟩
  obtain ⟨-, -, -, -, hsave, -⟩ := h (crowded q0) rfl
  have himage : slotBaseOf (crowded q0).ctxT (crowded q0).t.task.slot + 21 * 2 ^ 20 ≤ 2 ^ 39 := by
    rw [show slotBaseOf (crowded q0).ctxT (crowded q0).t.task.slot = 0 from crowded_image q0]
    norm_num
  obtain ⟨t, x, ht, -, hsv, -⟩ := hsave rfl rfl rfl rfl rfl rfl rfl rfl rfl rfl rfl rfl himage (fun c hc => nomatch hc)
  rw [exec_save_crowded, Host.Outcome.next.injEq] at ht
  obtain ⟨l, y, hl⟩ := saveThread_of_unowned (s := crowded q0) rfl rfl rfl
    (fun l => (putWords_solo (crowded_solo _) _ l).2.2.1)
  obtain ⟨⟨z, m, hz, hm, -, hme⟩, -⟩ := crowded_evicts hq0 l
  -- the threads saved before would be as they were
  rw [ht, hsv, hz] at hl
  obtain ⟨hsaved, -⟩ := List.append_inj' hl rfl
  have hunits : [standing] = [m] := (congrArg Saved.units (List.cons.inj hsaved).1).trans hm
  obtain rfl := (List.cons.inj hunits).1
  exact absurd (hme rfl) Bool.false_ne_true

end Sys2Proof.Machine
end

section
/-! PROOFS of 01_machine.md: every step keeps the memory's form and the registers' bounds (R9, R18, R309, R413, R417). What
`Keeps` says goes from one state to the next through every operation of the machine, in the order of the model; a lemma bears
the name of the operation it is about. Here: the ways to change a state. -/

namespace Sys2Proof.Machine

/-! ### What is kept -/

/-- Of the memory's form and of the registers' bounds, what holds of s₀ holds of s. -/
structure Keeps (s₀ s : State) : Prop where
  wf : MemWf s₀ → MemWf s
  inv : RegInv s₀ → RegInv s

/-- The state that comes with a value keeps it. -/
def KeepsP {α : Type} (s₀ : State) (p : α × State) : Prop := Keeps s₀ p.2

/-- A state that there is keeps it. -/
def KeepsO (s₀ : State) (o : Option State) : Prop := ∀ s ∈ o, Keeps s₀ s

/-- The state of a value that there is keeps it. -/
def KeepsOP {α : Type} (s₀ : State) (o : Option (α × State)) : Prop := ∀ p ∈ o, Keeps s₀ p.2

/-- The next state, where there is one, keeps it. -/
def KeepsR (s₀ : State) (r : Res) : Prop := ∀ s, r = .next s → Keeps s₀ s

theorem Keeps.refl (s : State) : Keeps s s := ⟨id, id⟩

/-! ### Through the forms of programs -/

section
variable {s₀ : State} {α β ε : Type} {Q : β → Prop}

theorem bindP {p : α × State} {f : α → State → β} :
    KeepsP s₀ p → (∀ a s, Keeps s₀ s → Q (f a s)) → Q (match p with | (a, s) => f a s) := fun hp hf => hf p.1 p.2 hp

theorem bindO {o : Option State} {f : State → β} {b : β} :
    KeepsO s₀ o → Q b → (∀ s, Keeps s₀ s → Q (f s)) → Q (match o with | none => b | some s => f s) := by
  cases o with
  | none => exact fun _ hb _ => hb
  | some s => exact fun ho _ hf => hf s (ho s rfl)

theorem bindOSome {o : Option State} {f : State → β} {b : β} :
    KeepsO s₀ o → (∀ s, Keeps s₀ s → Q (f s)) → Q b → Q (match o with | some s => f s | none => b) := by
  cases o with
  | none => exact fun _ _ hb => hb
  | some s => exact fun ho hf _ => hf s (ho s rfl)

theorem branches {c : Prop} [Decidable c] {a b : β} (ha : Q a) (hb : Q b) : Q (if c then a else b) := by
  split
  · exact ha
  · exact hb

end

variable {s₀ s : State}

theorem Keeps.foldl {α : Type} {f : State → α → State} {l : List α} (h : Keeps s₀ s)
    (hf : ∀ s x, Keeps s₀ s → Keeps s₀ (f s x)) : Keeps s₀ (l.foldl f s) := foldl_keeps (P := Keeps s₀) f l s hf h

/-- A fold of states with values. -/
theorem KeepsP.foldl {α β : Type} {f : α × State → β → α × State} {l : List β} {p : α × State} (h : KeepsP s₀ p)
    (hf : ∀ p x, KeepsP s₀ p → KeepsP s₀ (f p x)) : KeepsP s₀ (l.foldl f p) := by
  induction l generalizing p with
  | nil => exact h
  | cons x l ih => exact ih (hf p x h)

theorem KeepsP.state {α : Type} {p : α × State} (h : KeepsP s₀ p) : Keeps s₀ p.2 := h

theorem KeepsP.of {α : Type} {p : α × State} {a : α} (h : KeepsP s₀ p) (e : p = (a, s)) : Keeps s₀ s := by
  rw [e] at h; exact h

theorem KeepsO.of {o : Option State} (h : KeepsO s₀ o) (e : o = some s) : Keeps s₀ s := h s e

theorem KeepsOP.of {α : Type} {o : Option (α × State)} {a : α} (h : KeepsOP s₀ o) (e : o = some (a, s)) : Keeps s₀ s :=
  h (a, s) e

theorem KeepsP.just {α : Type} {p : α × State} (h : KeepsP s₀ p) : KeepsOP s₀ (some p) :=
  fun _ e => Option.some.inj e ▸ h

theorem keepsOP_none {α : Type} : KeepsOP s₀ (none : Option (α × State)) := fun _ e => nomatch e

theorem Keeps.pair {α : Type} {a : α} (h : Keeps s₀ s) : KeepsP s₀ (a, s) := h
theorem Keeps.next (h : Keeps s₀ s) : KeepsR s₀ (.next s) := fun _ e => Host.Outcome.next.inj e ▸ h
theorem Keeps.just (h : Keeps s₀ s) : KeepsO s₀ (some s) := fun _ e => Option.some.inj e ▸ h
theorem keepsO_none : KeepsO s₀ none := fun _ e => nomatch e
theorem keepsR_fault {f : Fault} : KeepsR s₀ (.fault f) := fun _ e => nomatch e
theorem keepsR_refused {f : Refusal} : KeepsR s₀ (.refused f) := fun _ e => nomatch e

/-! ### Ways to change a state -/

/-- What the bounds of a thread's registers depend on. -/
def Thread.core (t : Thread) : Word × Nat × Nat × Nat × Nat × Nat × Word :=
  (t.c.s[0], t.q.q0.length, t.q.q1.length, t.q.q2.length, t.q.q3.length, t.q.bo.length, t.dbg.ctl)

theorem regsWf_of_core {t u : Thread} (e : u.core = t.core) (h : RegsWf t) : RegsWf u := by
  simp only [Thread.core, Prod.mk.injEq] at e
  obtain ⟨e0, e1, e2, e3, e4, e5, e6⟩ := e
  unfold RegsWf at *
  rw [e0, e1, e2, e3, e4, e5, e6]
  exact h

/-- What the form of memory and the registers' bounds depend on, beside threads. -/
def State.frame (s : State) : List Host.Cell × List Ctx × Nat × Nat × Nat × Nat :=
  (s.mem, s.ctxs, s.power.state, s.power.target, s.power.phase, s.gts)

/-- A state changed in its threads, bound and saved. -/
theorem Keeps.threads {t : State} (h : Keeps s₀ s) (e : t.frame = s.frame) (ht : (∀ x ∈ s.threads, RegsWf x) →
      (∀ x ∈ s.saved, RegsWf x.th) → (∀ x ∈ t.threads, RegsWf x) ∧ ∀ x ∈ t.saved, RegsWf x.th) : Keeps s₀ t := by
  simp only [State.frame, Prod.mk.injEq] at e
  obtain ⟨e0, e1, e2, e3, e4, e5⟩ := e
  refine ⟨fun h0 => MemWf_of_mem (h.1 h0) e0, fun h0 => ?_⟩
  obtain ⟨hth, hsv, hrest⟩ := h.2 h0
  obtain ⟨kth, ksv⟩ := ht hth hsv
  unfold RegInv
  rw [e1, e2, e3, e4, e5]
  exact ⟨kth, ksv, hrest⟩

/-- A state changed in the thread in focus. -/
theorem Keeps.thread {t : State} (h : Keeps s₀ s) (e : (t.others, t.saved, t.frame) = (s.others, s.saved, s.frame))
    (ht : RegsWf s.t → RegsWf t.t) : Keeps s₀ t := by
  simp only [Prod.mk.injEq] at e
  obtain ⟨eo, es, ef⟩ := e
  refine h.threads ef fun hth hsv => ?_
  unfold State.threads at *
  rw [eo, es]
  rw [List.forall_mem_cons] at *
  exact ⟨⟨ht hth.1, hth.2⟩, hsv⟩

/-- A state changed in nothing of that. -/
theorem Keeps.same {t : State} (h : Keeps s₀ s)
    (e : (t.t.core, t.others, t.saved, t.frame) = (s.t.core, s.others, s.saved, s.frame)) : Keeps s₀ t := by
  simp only [Prod.mk.injEq] at e
  obtain ⟨et, eo, es, ef⟩ := e
  exact h.thread (by rw [eo, es, ef]) (regsWf_of_core et)

/-- A state whose threads, bound and saved, are changed one by one. -/
theorem Keeps.mapAll {t : State} {f : Thread → Thread} {g : Saved → Saved} (h : Keeps s₀ s)
    (e : (t.others, t.saved, t.t, t.frame) = (s.others.map f, s.saved.map g, f s.t, s.frame))
    (hf : ∀ x, RegsWf x → RegsWf (f x)) (hg : ∀ x, RegsWf x.th → RegsWf (g x).th) : Keeps s₀ t := by
  simp only [Prod.mk.injEq] at e
  obtain ⟨eo, es, et, ef⟩ := e
  refine h.threads ef fun hth hsv => ?_
  unfold State.threads at *
  rw [et, eo, es]
  refine ⟨fun x hx => ?_, fun x hx => ?_⟩
  · obtain ⟨y, hy, rfl⟩ := List.mem_map.1 (show x ∈ (s.t :: s.others).map f from hx)
    exact hf y (hth y hy)
  · obtain ⟨y, hy, rfl⟩ := List.mem_map.1 hx
    exact hg y (hsv y hy)

/-- A state whose bound threads are changed one by one. -/
theorem Keeps.mapThreads {t : State} {f : Thread → Thread} (h : Keeps s₀ s)
    (e : (t.others, t.saved, t.t, t.frame) = (s.others.map f, s.saved, f s.t, s.frame)) (hf : ∀ x, RegsWf x → RegsWf (f x)) :
    Keeps s₀ t :=
  h.mapAll (g := id) (by rw [List.map_id]; exact e) hf fun _ => id

/-- A state whose saved threads are changed one by one. -/
theorem Keeps.mapSaved {t : State} {g : Saved → Saved} (h : Keeps s₀ s)
    (e : (t.others, t.saved, t.t, t.frame) = (s.others, s.saved.map g, s.t, s.frame))
    (hg : ∀ x, RegsWf x.th → RegsWf (g x).th) : Keeps s₀ t :=
  h.mapAll (f := id) (by rw [List.map_id]; exact e) (fun _ => id) hg

/-- A state changed in its memory. -/
theorem Keeps.withMem {m : List Host.Cell} (h : Keeps s₀ s)
    (hm : MemWf s → Memory.wf m = true) : Keeps s₀ { s with mem := m } :=
  ⟨fun h0 => hm (h.1 h0), h.2⟩

/-- What only checks do (R184, R435). -/
theorem Keeps.checked {t : State} (h : Keeps s₀ s) (k : OnlyChecked s t) : Keeps s₀ t := by
  rw [show t = _ from k]; exact h.same rfl

/-! ### Threads (R28, R35) -/

theorem regsWf_fresh (site : Nat) : RegsWf (Thread.fresh site) :=
  ⟨rfl, Nat.zero_le _, Nat.zero_le _, Nat.zero_le _, Nat.zero_le _, Nat.zero_le _, BitVec.zero_and⟩

theorem regsWf_threadAt (h : ∀ x ∈ s.threads, RegsWf x) (site : Nat) : RegsWf (s.threadAt site) := by
  unfold State.threadAt
  split
  · exact h _ (List.mem_cons_self ..)
  · cases hf : s.others.find? (fun t => t.site == site) with
    | none => exact regsWf_fresh site
    | some t => exact h t (List.mem_cons_of_mem _ (List.mem_of_find?_eq_some hf))

theorem mem_insThread {l : List Thread} {x y : Thread} (h : y ∈ insThread l x) : y = x ∨ y ∈ l := by
  induction l with
  | nil => exact .inl (List.mem_singleton.1 h)
  | cons z l ih =>
    unfold insThread at h
    split at h
    · exact List.mem_cons.1 h
    · rcases List.mem_cons.1 h with rfl | h
      · exact .inr (List.mem_cons_self ..)
      · exact (ih h).imp_right (List.mem_cons_of_mem _)

theorem mem_putThread {l : List Thread} {x y : Thread} (h : y ∈ putThread l x) : y = x ∨ y ∈ l := by
  unfold putThread at h
  dsimp only at h
  split at h
  · exact .inr (List.mem_of_mem_filter h)
  · exact (mem_insThread h).imp_right List.mem_of_mem_filter

theorem Keeps.setThread {x : Thread} (h : Keeps s₀ s) (hx : RegInv s₀ → RegsWf x) : Keeps s₀ (s.setThread x) := by
  refine ⟨fun h0 => MemWf_setThread _ _ (h.1 h0), fun h0 => ?_⟩
  have hs := h.2 h0
  have hx := hx h0
  unfold State.setThread
  split
  · exact (show Keeps s { s with t := x } from (Keeps.refl s).thread rfl fun _ => hx).2 hs
  · refine (show Keeps s { s with others := putThread s.others x }
      from (Keeps.refl s).threads rfl fun hth hsv => ⟨?_, hsv⟩).2 hs
    intro y hy
    rcases List.mem_cons.1 hy with rfl | hy
    · exact hth _ (List.mem_cons_self ..)
    · rcases mem_putThread hy with rfl | hy
      · exact hx
      · exact hth y (List.mem_cons_of_mem _ hy)

theorem Keeps.focus {site : Nat} (h : Keeps s₀ s) : Keeps s₀ (s.focus site) := by
  unfold State.focus
  refine branches h (h.threads rfl fun hth hsv => ⟨fun y hy => ?_, hsv⟩)
  rcases List.mem_cons.1 hy with rfl | hy
  · exact regsWf_threadAt hth site
  · rcases mem_putThread (List.mem_of_mem_filter hy) with rfl | hy
    · exact hth _ (List.mem_cons_self ..)
    · exact hth y (List.mem_cons_of_mem _ hy)

theorem Keeps.free (h : Keeps s₀ s) : KeepsP s₀ s.free := h.checked s.free_checked

theorem Keeps.someOf {l} (h : Keeps s₀ s) : KeepsP s₀ (s.someOf l) := bindP h.free fun _ _ h => bindP h.free fun _ _ h => h

end Sys2Proof.Machine
end

section
/-! PROOFS of 01_machine.md: what `Keeps` says, through memory, debug and traps, the residual tile, operands, microcode and
the scalar instructions. -/

namespace Sys2Proof.Machine

variable {s₀ s : State}

/-! ### Machine/Memory.lean -/

theorem Keeps.setUnit {uid u} (h : Keeps s₀ s) : Keeps s₀ (s.setUnit uid u) := h.same rfl

theorem Keeps.setCluster {n c} (h : Keeps s₀ s) : Keeps s₀ (s.setCluster n c) := h.same rfl

theorem Keeps.wr {a b} (h : Keeps s₀ s) : Keeps s₀ (s.wr a b) := h.withMem fun k => MemWf_wr _ _ _ k

theorem Keeps.wrCells {l} (h : Keeps s₀ s) : Keeps s₀ (s.wrCells l) := Keeps.foldl h fun _ _ h => h.wr

theorem Keeps.clearErrors {cells} (h : Keeps s₀ s) : Keeps s₀ (s.clearErrors cells) := branches h (h.same (by rfl))

theorem Keeps.wipeErrors {lo len} (h : Keeps s₀ s) : Keeps s₀ (s.wipeErrors lo len) := branches h (h.same (by rfl))

theorem Keeps.clearCells {lo len} (h : Keeps s₀ s) : Keeps s₀ (s.clearCells lo len) := by
  unfold State.clearCells
  rw [← State.wipeErrors_mem s lo len]
  exact h.wipeErrors.withMem fun k => MemWf_clear _ _ _ k

theorem Keeps.countBy {die k n} (h : Keeps s₀ s) : Keeps s₀ (s.countBy die k n) := h.same rfl

theorem Keeps.count {die k} (h : Keeps s₀ s) : Keeps s₀ (s.count die k) := h.countBy

theorem Keeps.correctedOf {cells l} (h : Keeps s₀ s) : Keeps s₀ (s.correctedOf cells l) :=
  h.checked (State.correctedOf_checked _ _ _)

theorem Keeps.meetOf {errors cells} (h : Keeps s₀ s) : KeepsP s₀ (s.meetOf errors cells) := by
  unfold State.meetOf
  dsimp only
  split
  · exact h.correctedOf.pair
  · exact h.correctedOf.count.pair

theorem Keeps.meet {cells} (h : Keeps s₀ s) : KeepsP s₀ (s.meet cells) := branches h.pair h.meetOf

theorem Keeps.markBad {a} (h : Keeps s₀ s) : Keeps s₀ (s.markBad a) := h.same rfl

theorem Keeps.carry {errors f} (h : Keeps s₀ s) : Keeps s₀ (s.carry errors f) := by
  unfold State.carry
  dsimp only
  refine Keeps.foldl h fun _ _ h => branches h ?_
  split
  · exact h.correctedOf
  · exact Keeps.foldl h.count fun _ _ h => h.markBad

theorem Keeps.errorCheck {k va ls} (h : Keeps s₀ s) : KeepsP s₀ (s.errorCheck k va ls) := by
  unfold State.errorCheck
  dsimp only
  refine branches h.pair ?_
  split
  next e =>
    have h := h.meetOf.of e
    exact h.pair
  next e =>
    have h := h.meetOf.of e
    exact h.pair

theorem Keeps.resends {ag ls} (h : Keeps s₀ s) : Keeps s₀ (s.resends ag ls) :=
  branches h (bindP h.free fun _ _ h => h.countBy)

theorem Keeps.check {ag k n va} (h : Keeps s₀ s) : KeepsP s₀ (s.check ag k n va) := h.checked (s.check_spec _ _ _ _).1

theorem Keeps.cellPut {lo len l} (h : Keeps s₀ s) : Keeps s₀ { s with mem := cellPut 0 s.mem lo len l } :=
  h.withMem fun k => MemWf_put _ _ _ _ k

theorem Keeps.putRange {base len l} (h : Keeps s₀ s) : Keeps s₀ (s.putRange base len l) := by
  unfold State.putRange
  rw [← State.wipeErrors_mem s base len]
  exact branches h.wipeErrors.cellPut h.wipeErrors.cellPut.wrCells

theorem Keeps.clearImage {m b} (h : Keeps s₀ s) : Keeps s₀ (s.clearImage m b) := h.withMem fun k => MemWf_filter _ _ k

theorem Keeps.writeBack {ctx slot m} (h : Keeps s₀ s) : Keeps s₀ (s.writeBack ctx slot m) :=
  Keeps.wrCells (Keeps.clearImage (branches h h.wipeErrors))

theorem Keeps.evictAway {kind uid phys num} (h : Keeps s₀ s) : Keeps s₀ (s.evictAway kind uid phys num) :=
  branches (Keeps.same (s := List.foldl _ s _) (h.foldl fun _ _ h => h.writeBack) (by rfl)) h

theorem Keeps.evictUnit {kind uid phys num} (h : Keeps s₀ s) : Keeps s₀ (s.evictUnit kind uid phys num) := by
  refine Keeps.evictAway (h.foldl fun s x h => branches ?_ h)
  have k : Keeps s₀ ((x.units.filter fun m => m.standsAt kind uid phys num).foldl
      (fun s m => s.writeBack x.th.task.ctx x.th.task.slot m) s) := h.foldl fun _ _ h => h.writeBack
  refine k.mapSaved rfl fun _ hy => ?_
  split <;> exact hy

theorem Keeps.evictFor {a} (h : Keeps s₀ s) : Keeps s₀ (s.evictFor a) := by
  unfold State.evictFor
  refine branches h ?_
  split
  · exact h.evictUnit
  · exact h

theorem regsWf_anew {cells t} (h : RegsWf t) : RegsWf (t.anew cells) := h

theorem Keeps.loadsAnew {cells} (h : Keeps s₀ s) : Keeps s₀ (s.loadsAnew cells) :=
  branches (h.mapThreads (by rfl) (f := Thread.anew cells) fun _ => regsWf_anew) h

theorem Keeps.store {l} (h : Keeps s₀ s) : Keeps s₀ (s.store l) := by
  have k : Keeps s₀ (l.foldl (fun s p => (s.evictFor p.1).wr p.1 p.2) s) := h.foldl fun _ _ h => h.evictFor.wr
  exact Keeps.loadsAnew (Keeps.clearErrors (k.same (by rfl)))

theorem Keeps.innerStore {l} (h : Keeps s₀ s) : Keeps s₀ (s.innerStore l) := branches h.store h.meetOf.state.store

theorem Keeps.innerN {a n v} (h : Keeps s₀ s) : Keeps s₀ (s.innerN a n v) := h.innerStore

theorem Keeps.putWords {base l} (h : Keeps s₀ s) : Keeps s₀ (s.putWords base l) :=
  Keeps.foldl (branches h h.clearErrors) fun _ _ h => h.innerN

theorem Keeps.deviceStore {trusted l} (h : Keeps s₀ s) : Keeps s₀ (s.deviceStore trusted l) := h.innerStore

theorem regsWf_taskThread (h : RegInv s) {id t} (e : s.taskThread id = some t) : RegsWf t :=
  h.1 t (List.mem_of_find?_eq_some e)

theorem regsWf_agentThread (h : RegInv s) {ag t} (e : s.agentThread ag = some t) : RegsWf t := by
  unfold State.agentThread at e
  split at e
  · cases e
  split at e
  · exact Option.some.inj e ▸ regsWf_threadAt h.1 _
  split at e
  · next hu => exact Option.some.inj e ▸ regsWf_taskThread h hu
  · obtain ⟨x, hx, rfl⟩ := Option.map_eq_some_iff.1 e
    obtain ⟨-, hsv, -⟩ := h
    exact hsv x (List.mem_of_find?_eq_some hx)

theorem Keeps.setWatch {ag n} (h : Keeps s₀ s) : Keeps s₀ (s.setWatch ag n) := by
  unfold State.setWatch
  split
  · exact h
  next t ht =>
    have hw (k : RegInv s₀) : RegsWf { t with dbg := { t.dbg with watch := some n } } :=
      show RegsWf t from regsWf_agentThread (h.inv k) ht
    refine branches h (branches ⟨h.wf, fun k => ?_⟩ (h.setThread hw))
    refine Keeps.inv (Keeps.threads (Keeps.refl s) (by rfl) fun hth hsv => ⟨hth, ?_⟩) (h.inv k)
    intro y hy
    obtain ⟨x, hx, rfl⟩ := List.mem_map.1 hy
    split
    · exact hw k
    · exact hsv x hx

theorem Keeps.traceRecord {cl rec} (h : Keeps s₀ s) : Keeps s₀ (s.traceRecord cl rec) :=
  branches h (branches h.setCluster h.deviceStore.setCluster)

theorem Keeps.traceWrite {th src kind lane pc seq x y z} (h : Keeps s₀ s) : Keeps s₀ (s.traceWrite th src kind lane pc seq x y
    z) :=
  h.traceRecord

theorem Keeps.trace {th src kind lane pc seq x y z} (h : Keeps s₀ s) : Keeps s₀ (s.trace th src kind lane pc seq x y z) :=
  branches h.traceWrite h

/-- Marks a thread to stop. -/
def stopMark (p : Thread → Bool) (t : Thread) : Thread := if p t then { t with dbg := { t.dbg with stop := true } } else t

theorem regsWf_stopMark {p t} (h : RegsWf t) : RegsWf (stopMark p t) := branches (Q := RegsWf) h h

theorem Keeps.stopCluster {cl} (h : Keeps s₀ s) : Keeps s₀ (s.stopCluster cl) :=
  branches h (Keeps.mapThreads (s := s.setCluster _ _) (f := stopMark _) h.setCluster (by rfl) fun _ => regsWf_stopMark)

theorem regsWf_freeze {t} (h : RegsWf t) : RegsWf t.freeze := by
  obtain ⟨h0, h1, h2, h3, h4, h5, h6⟩ := h
  have k : RegsWf { t with dbg := { t.dbg with ctl := t.dbg.ctl ||| 4 } } := by
    refine ⟨h0, h1, h2, h3, h4, h5, ?_⟩
    show (t.dbg.ctl ||| 4) &&& ~~~0x7D#64 = 0
    rw [BitVec.and_or_distrib_right, h6]; decide
  unfold Thread.freeze
  dsimp only
  split <;> exact k

/-- Freezes a thread where it is due. -/
def freezeDue (p : Thread → Bool) (t : Thread) : Thread := if p t then t.freeze else t

theorem regsWf_freezeDue {p t} (h : RegsWf t) : RegsWf (freezeDue p t) := branches (Q := RegsWf) (regsWf_freeze h) h

theorem Keeps.stopReaches {p} (h : Keeps s₀ s) : Keeps s₀ (s.stopReaches p) :=
  Keeps.mapThreads (s := List.foldl _ s _) (f := freezeDue _) (h.foldl fun _ _ h => h.trace) (by rfl) fun _ => regsWf_freezeDue

theorem Keeps.skid {words lane} (h : Keeps s₀ s) : Keeps s₀ (s.skid words lane) := branches h h.setCluster

theorem Keeps.skids {b} (h : Keeps s₀ s) : Keeps s₀ (State.skids b s) := branches h h.setCluster

theorem Keeps.wpHit {cl n ag kind where_ value lane} (h : Keeps s₀ s) : Keeps s₀ (s.wpHit cl n ag kind where_ value lane) := by
  unfold State.wpHit
  dsimp only
  refine branches (Keeps.setWatch ?_) (Keeps.stopCluster ?_)
  · split
    · exact h.setCluster.trace
    · exact h.setCluster
  · split
    · exact h.setCluster.trace
    · exact h.setCluster

theorem Keeps.watchMem {ag k homes v} (h : Keeps s₀ s) : Keeps s₀ (s.watchMem ag k homes v) := by
  unfold State.watchMem
  dsimp only
  refine branches h (Keeps.foldl h fun _ _ h => Keeps.foldl h fun _ _ h => ?_)
  split
  · exact h
  · exact branches h.wpHit h

theorem Keeps.watchSlot {ag uid lane slot} (h : Keeps s₀ s) : Keeps s₀ (s.watchSlot ag uid lane slot) :=
  branches h (Keeps.foldl h fun _ _ h => branches h.wpHit h)

theorem Keeps.watchAcc {ag uid tile row col value} (h : Keeps s₀ s) : Keeps s₀ (s.watchAcc ag uid tile row col value) :=
  branches h (Keeps.foldl h fun _ _ h => branches h.wpHit h)

theorem Keeps.watchLocs {ag k ls v} (h : Keeps s₀ s) : Keeps s₀ (s.watchLocs ag k ls v) :=
  branches h (branches (Keeps.foldl h.watchMem fun _ _ h => h.watchSlot) h.watchMem)

theorem Keeps.readLocs {ag ls} (h : Keeps s₀ s) : KeepsP s₀ (s.readLocs ag ls) := h.watchLocs.pair

theorem Keeps.writeLocs {ag k ls v} (h : Keeps s₀ s) : Keeps s₀ (s.writeLocs ag k ls v) := h.store.watchLocs

theorem Keeps.noteRead {ls whole} (h : Keeps s₀ s) : Keeps s₀ (s.noteRead ls whole) := h.same rfl

theorem Keeps.load {ag size va} (h : Keeps s₀ s) : KeepsP s₀ (s.load ag size va) := by
  unfold State.load
  dsimp only
  split
  next e =>
    have h := h.check.of e
    exact h.pair
  next e =>
    have h := h.check.of e
    exact h.noteRead.watchLocs.pair

theorem Keeps.amoLocs {ag op ls v k} (h : Keeps s₀ s) : KeepsP s₀ (s.amoLocs ag op ls v k) :=
  branches h.watchMem.pair h.writeLocs.pair

/-! ### Machine/Record.lean -/

theorem Keeps.setLaunch {l} (h : Keeps s₀ s) : Keeps s₀ (s.setLaunch l) := h.same rfl

/-! ### Machine/Ops.lean -/

theorem Keeps.mapT {f : Thread → Thread} (h : Keeps s₀ s) (hf : (f s.t).core = s.t.core) : Keeps s₀ (s.mapT f) :=
  h.thread rfl (regsWf_of_core hf)

theorem Keeps.mapC {f : Ctrl → Ctrl} (h : Keeps s₀ s) (hf : (f s.t.c).s[0] = s.t.c.s[0]) : Keeps s₀ (s.mapC f) :=
  h.thread rfl fun ⟨k0, k⟩ => ⟨hf.trans k0, k⟩

/-- The lengths of the bounded queues. -/
def Queues.sizes (q : Queues) : Nat × Nat × Nat × Nat × Nat :=
  (q.q0.length, q.q1.length, q.q2.length, q.q3.length, q.bo.length)

theorem Keeps.mapQ {f : Queues → Queues} (h : Keeps s₀ s) (hf : (f s.t.q).sizes = s.t.q.sizes) :
    Keeps s₀ (s.mapQ f) := by
  refine h.thread rfl (regsWf_of_core ?_)
  simp only [Queues.sizes, Prod.mk.injEq] at hf
  obtain ⟨e1, e2, e3, e4, e5⟩ := hf
  simp only [Thread.core, State.mapQ, e1, e2, e3, e4, e5]

theorem Keeps.mapD {f : Dbg → Dbg} (h : Keeps s₀ s) (hf : (f s.t.dbg).ctl = s.t.dbg.ctl) : Keeps s₀ (s.mapD f) :=
  h.thread rfl fun ⟨k0, k1, k2, k3, k4, k5, k6⟩ => ⟨k0, k1, k2, k3, k4, k5, hf ▸ k6⟩

theorem Keeps.mapL {f} (h : Keeps s₀ s) : Keeps s₀ (s.mapL f) := h.same rfl

theorem Keeps.mapR {f} (h : Keeps s₀ s) : Keeps s₀ (s.mapR f) := h.same rfl

@[simp] theorem Ctrl.setReg_zero (c : Ctrl) (r : SReg) (v : Word) : (c.setReg r v).s[0] = c.s[0] := by
  unfold Ctrl.setReg
  split
  · rfl
  · next hr => exact Vector.getElem_set_ne r.isLt (by decide) fun e => hr (Fin.ext e)

theorem Ctrl.setLoad_s (c : Ctrl) (r : SReg) (v : Word) : (c.setLoad r v).s = c.s := by
  unfold Ctrl.setLoad; split <;> rfl

theorem Keeps.setReg {r v} (h : Keeps s₀ s) : Keeps s₀ (s.setReg r v) := h.mapC (Ctrl.setReg_zero _ _ _)

theorem Keeps.setLoad {r v} (h : Keeps s₀ s) : Keeps s₀ (s.setLoad r v) := h.mapC (by rw [Ctrl.setLoad_s])

theorem Keeps.block {w} (h : Keeps s₀ s) : Keeps s₀ (s.block w) := by
  unfold State.block
  split
  · exact h.mapT rfl
  · exact h.mapT rfl
  · exact h

theorem Keeps.withRegs {rs k} (h : Keeps s₀ s) (hk : ∀ s, Keeps s₀ s → KeepsR s₀ (k s)) : KeepsR s₀ (s.withRegs rs k) := by
  unfold State.withRegs
  split
  · exact h.block.next
  · exact hk s h

theorem Keeps.setPc {a} (h : Keeps s₀ s) : Keeps s₀ (s.setPc a) := h.mapC rfl

theorem Keeps.advance (h : Keeps s₀ s) : Keeps s₀ s.advance := h.mapC rfl

theorem Keeps.branch {target} (h : Keeps s₀ s) : Keeps s₀ (s.branch target) := h.mapC rfl

theorem Keeps.result {d v} (h : Keeps s₀ s) : Keeps s₀ (s.result d v) := h.setReg.advance

theorem Keeps.nestStep (h : Keeps s₀ s) : Keeps s₀ s.nestStep := by
  unfold State.nestStep
  dsimp only
  refine branches ?_ h
  split
  · exact h.mapC rfl
  · exact Keeps.mapC (Keeps.foldl h fun _ _ h => h.setReg) (by rfl)

theorem Keeps.fetchWord {a} (h : Keeps s₀ s) : KeepsP s₀ (s.fetchWord a) := by
  unfold State.fetchWord
  dsimp only
  split
  · exact h.pair
  · exact bindP h.free fun _ _ h => h.pair

/-- The bounded queues hold at most sixteen entries (R18). -/
def Queues.Fits (q : Queues) : Prop :=
  q.q0.length ≤ 16 ∧ q.q1.length ≤ 16 ∧ q.q2.length ≤ 16 ∧ q.q3.length ≤ 16 ∧ q.bo.length ≤ 16

theorem regsWf_iff {t} : RegsWf t ↔ t.c.s[0] = 0 ∧ t.q.Fits ∧ t.dbg.ctl &&& ~~~0x7D#64 = 0 := by
  unfold RegsWf Queues.Fits
  tauto

theorem Keeps.mapFits {f : Queues → Queues} (h : Keeps s₀ s) (hf : s.t.q.Fits → (f s.t.q).Fits) : Keeps s₀ (s.mapQ f) :=
  h.thread rfl fun k => let ⟨k0, kq, kd⟩ := regsWf_iff.1 k; regsWf_iff.2 ⟨k0, hf kq, kd⟩

theorem Queues.Fits.get {q : Queues} (h : q.Fits) (k : Nat) : (q.get k).length ≤ 16 := by
  obtain ⟨h0, h1, h2, h3, -⟩ := h
  unfold Queues.get
  split <;> assumption

theorem Queues.Fits.set {q : Queues} {l : List Word} (h : q.Fits) (k : Nat) (hl : l.length ≤ 16) : (q.set k l).Fits := by
  obtain ⟨h0, h1, h2, h3, hb⟩ := h
  unfold Queues.set
  split
  · exact ⟨hl, h1, h2, h3, hb⟩
  · exact ⟨h0, hl, h2, h3, hb⟩
  · exact ⟨h0, h1, hl, h3, hb⟩
  · exact ⟨h0, h1, h2, hl, hb⟩

theorem Queues.Fits.push {q : Queues} (h : q.Fits) (k : Nat) (v : Word) : (q.push k v).Fits := by
  unfold Queues.push
  split
  · next hl => exact h.set k (by rw [List.length_append]; exact hl)
  · exact h

theorem Queues.Fits.pushBo {q : Queues} (h : q.Fits) (b : Bool) : (q.pushBo b).Fits := by
  obtain ⟨h0, h1, h2, h3, hb⟩ := h
  unfold Queues.pushBo
  split
  · next hl => exact ⟨h0, h1, h2, h3, by rw [List.length_append]; exact hl⟩
  · exact ⟨h0, h1, h2, h3, hb⟩

theorem Queues.Fits.deliver {q : Queues} (h : q.Fits) : q.deliver.Fits := by
  unfold Queues.deliver
  split
  · exact h
  next p hp =>
    dsimp only
    split
    next hr =>
      unfold Queues.pendRoom at hr
      rw [hp] at hr
      dsimp only at hr
      split at hr
      · next h3 =>
        rw [if_pos h3]
        obtain ⟨h0, h1, h2, h3, hb⟩ := h
        refine ⟨h0, h1, h2, h3, ?_⟩
        rw [List.length_append]
        exact of_decide_eq_true hr
      · next h3 =>
        rw [if_neg h3]
        refine Queues.Fits.set (q := { q with pend := none }) h _ ?_
        rw [List.length_append]
        exact of_decide_eq_true hr
    · exact h

theorem Keeps.pushEntry {k word a b c} (h : Keeps s₀ s) : Keeps s₀ (s.pushEntry k word a b c) := by
  unfold State.pushEntry
  dsimp only
  exact h.mapQ rfl

theorem Keeps.withRoom {k} (h : Keeps s₀ s) (hk : ∀ s, Keeps s₀ s → KeepsR s₀ (k s)) : KeepsR s₀ (s.withRoom k) :=
  branches (hk s h) h.block.next

theorem Keeps.pushPart {i a b c} (h : Keeps s₀ s) : Keeps s₀ (s.pushPart i a b c) := h.pushEntry

theorem Keeps.homeAmo {ag op ls v k} (h : Keeps s₀ s) : KeepsP s₀ (s.homeAmo ag op ls v k) := branches h.amoLocs h.pair

theorem Keeps.perform {ag older op is} (h : Keeps s₀ s) : KeepsP s₀ (s.perform ag older op is) := by
  unfold State.perform
  dsimp only
  split
  · exact h.writeLocs.pair
  · exact branches h.watchLocs.pair h.pair
  · exact bindP h.homeAmo fun _ _ h => h.pair

theorem Keeps.performAcc {n is} (h : Keeps s₀ s) : Keeps s₀ (s.performAcc n is) := by
  unfold State.performAcc
  dsimp only
  split
  · exact h
  · split
    · exact ((h.perform.state.mapC (by rfl)).mapC (by rfl)).setLoad
    · exact (h.perform.state.mapC (by rfl)).mapC (by rfl)

theorem Keeps.performFirst {n} (h : Keeps s₀ s) : Keeps s₀ (s.performFirst n) := by
  induction n generalizing s with
  | zero => exact h
  | succ n ih =>
    refine ih ?_
    split
    · exact h.performAcc
    · exact h

theorem Keeps.clearChans {src} (h : Keeps s₀ s) : Keeps s₀ (s.clearChans src) := h.same rfl

theorem Keeps.drainAccs (h : Keeps s₀ s) : Keeps s₀ s.drainAccs := branches h h.performFirst.clearChans

theorem Keeps.performMarked {l n} (h : Keeps s₀ s) : Keeps s₀ (s.performMarked l n) := by
  induction l generalizing s n with
  | nil => exact h
  | cons x l ih =>
    obtain ⟨b, op⟩ := x
    cases b with
    | false => exact ih h
    | true =>
      refine ih ?_
      split
      · exact h.performAcc
      · exact h

theorem Keeps.performSome {p} (h : Keeps s₀ s) : Keeps s₀ (s.performSome p) := h.performMarked

theorem Keeps.drainReads (h : Keeps s₀ s) : Keeps s₀ s.drainReads := h.performSome

theorem Keeps.drainOver {ls} (h : Keeps s₀ s) : Keeps s₀ (s.drainOver ls) := h.performSome

theorem Keeps.cload {size va} (h : Keeps s₀ s) : KeepsP s₀ (s.cload size va) := by
  unfold State.cload
  dsimp only
  split
  next e =>
    have h := h.check.of e
    exact h.pair
  next e =>
    have h := h.check.of e
    exact (h.drainOver.resends.mapC (by rfl)).noteRead.watchLocs.pair

theorem Keeps.issue {k kind size va} (h : Keeps s₀ s) : KeepsP s₀ (s.issue k kind size va) := by
  unfold State.issue
  split
  next e =>
    have h := h.check.of e
    exact h.pair
  next e =>
    have h := h.check.of e
    exact (h.mapC (by rfl)).pair

theorem Keeps.cstore {size va v} (h : Keeps s₀ s) : KeepsP s₀ (s.cstore size va v) := h.issue

theorem Keeps.performLane {n is} (h : Keeps s₀ s) : Keeps s₀ (s.performLane n is) := by
  unfold State.performLane
  dsimp only
  split
  · exact h
  · exact h.perform.state.mapL

theorem Keeps.elementAccess {e} (h : Keeps s₀ s) : KeepsP s₀ (s.elementAccess e) := by
  unfold State.elementAccess
  dsimp only
  split
  · exact h.homeAmo
  · exact h.watchLocs.pair

theorem Keeps.land {e} (h : Keeps s₀ s) : Keeps s₀ (s.land e) := by
  unfold State.land
  dsimp only
  have k {l f} : Keeps s₀ (((s.elementAccess e).2.store l).mapL f) := h.elementAccess.state.store.mapL
  exact branches k (k.foldl fun _ _ h => h.watchSlot)

theorem Keeps.performLanes {n} (h : Keeps s₀ s) : Keeps s₀ (s.performLanes n) := by
  induction n generalizing s with
  | zero => exact h
  | succ n ih =>
    refine ih ?_
    split
    · exact h.performLane
    · exact h

theorem Keeps.landAfter {e} (h : Keeps s₀ s) : Keeps s₀ (s.landAfter e) := h.performLanes.land

theorem Keeps.settle (h : Keeps s₀ s) : Keeps s₀ s.settle := Keeps.mapL (Keeps.foldl h fun _ _ h => h.landAfter)

theorem Keeps.settleIf {p} (h : Keeps s₀ s) : Keeps s₀ (s.settleIf p) :=
  branches h.settle (Keeps.mapL (Keeps.foldl h fun _ _ h => h.land))

theorem Keeps.drainLane (h : Keeps s₀ s) : Keeps s₀ s.drainLane := h.settle.performLanes

theorem Keeps.drainLaneOver {ls} (h : Keeps s₀ s) : Keeps s₀ (s.drainLaneOver ls) := branches h.settle.performLanes h

theorem Keeps.launchLeft {launch ord} (h : Keeps s₀ s) : Keeps s₀ (s.launchLeft launch ord) := by
  unfold State.launchLeft
  dsimp only
  split
  · exact h
  · exact branches h.setLaunch h.setLaunch

theorem Keeps.forgetTask {task} (h : Keeps s₀ s) : Keeps s₀ (s.forgetTask task) := h.same rfl

theorem regsWf_stopTask {t} (h : RegsWf t) : RegsWf t.stopTask := h

theorem Keeps.filterSaved {p} (h : Keeps s₀ s) : Keeps s₀ { s with saved := s.saved.filter p } :=
  h.threads rfl fun hth hsv => ⟨hth, fun x hx => hsv x (List.mem_of_mem_filter hx)⟩

theorem Keeps.endSaved {task} (h : Keeps s₀ s) : Keeps s₀ (s.endSaved task) := by
  unfold State.endSaved
  split
  · exact h
  · exact branches h h.filterSaved.launchLeft

theorem Keeps.stopTasks {p : Thread → Bool} {q : Saved → Bool} (h : Keeps s₀ s) : Keeps s₀ { s with
    others := s.others.map (fun t => if p t then t.stopTask else t)
    saved := s.saved.map (fun x => if q x then { x with th := x.th.stopTask } else x) } := by
  refine h.threads rfl fun hth hsv => ⟨fun x hx => ?_, fun x hx => ?_⟩
  · rcases List.mem_cons.1 hx with rfl | hx
    · exact hth _ (List.mem_cons_self ..)
    · obtain ⟨y, hy, rfl⟩ := List.mem_map.1 hx
      exact branches (Q := RegsWf) (regsWf_stopTask (hth y (List.mem_cons_of_mem _ hy))) (hth y (List.mem_cons_of_mem _ hy))
  · obtain ⟨y, hy, rfl⟩ := List.mem_map.1 hx
    have := hsv y hy
    split
    · exact regsWf_stopTask this
    · exact this

theorem Keeps.stopTask (h : Keeps s₀ s) : Keeps s₀ { s with t := s.t.stopTask } := h.thread rfl regsWf_stopTask

theorem Keeps.failTask {t code} (h : Keeps s₀ s) (ht : RegInv s₀ → RegsWf t) : Keeps s₀ (s.failTask t code) := by
  have k := h.setThread fun hs => regsWf_stopTask (ht hs)
  unfold State.failTask
  dsimp only
  split
  · exact k
  · exact k.setLaunch

theorem Keeps.featureAbsent {bit} (h : Keeps s₀ s) : Keeps s₀ (s.featureAbsent bit) := by
  unfold State.featureAbsent
  dsimp only
  split
  · exact h.stopTask
  · refine branches ?_ h.stopTask.setLaunch
    refine Keeps.foldl (Keeps.stopTasks (s := List.foldl _ (State.setLaunch _ _) _) ?_) fun _ _ h => h.endSaved
    exact h.stopTask.setLaunch.foldl fun _ _ h => h.forgetTask

theorem Keeps.fetchMeets {tr a} (h : Keeps s₀ s) : KeepsP s₀ (s.fetchMeets tr a) := by
  unfold State.fetchMeets
  split
  next e =>
    have h := h.meet.of e
    exact h.pair
  next e =>
    have h := h.meet.of e
    exact h.pair

theorem Keeps.fetchError {a} (h : Keeps s₀ s) : KeepsP s₀ (s.fetchError a) := by
  unfold State.fetchError
  dsimp only
  split
  · exact branches h.fetchMeets h.pair
  · exact h.fetchMeets

theorem Keeps.addFault {r} (h : Keeps s₀ s) : Keeps s₀ (s.addFault r) := h.same rfl

theorem Keeps.newToken {f} (h : Keeps s₀ s) : KeepsP s₀ (s.newToken f) := (h.same (by rfl)).pair

theorem Keeps.selfRead {ctx ranges} (h : Keeps s₀ s) : KeepsP s₀ (s.selfRead ctx ranges) := by
  unfold State.selfRead
  refine branches h.pair ?_
  split
  next e =>
    have h := h.meet.of e
    exact h.pair
  next e =>
    have h := h.meet.of e
    exact bindP h.free fun _ _ h => h.addFault.pair

theorem Keeps.checkWords {k va n} (h : Keeps s₀ s) : KeepsP s₀ (s.checkWords k va n) := by
  induction n generalizing s va with
  | zero => exact h
  | succ n ih =>
    unfold State.checkWords
    split
    next e => exact (h.check.of e).pair
    next e =>
      have h := h.check.of e
      split
      next e => exact ((ih h).of e).pair
      next e => exact ((ih h).of e).pair

theorem Keeps.drainFor {r} (h : Keeps s₀ s) : Keeps s₀ (s.drainFor r) := h.performSome

theorem Ctrl.issueWords_s (c : Ctrl) (va : Nat) (ls : List (List Loc)) (vs : List Nat) : (c.issueWords va ls vs).s = c.s := by
  induction ls generalizing c va vs with
  | nil => unfold Ctrl.issueWords; rfl
  | cons l ls ih =>
    cases vs with
    | nil => unfold Ctrl.issueWords; rfl
    | cons v vs => exact ih _ _ _

theorem Keeps.issueWords {va ls vs} (h : Keeps s₀ s) : Keeps s₀ (s.mapC (·.issueWords va ls vs)) :=
  h.mapC (by rw [Ctrl.issueWords_s])

theorem Thread.unblock_core (t : Thread) : t.unblock.core = t.core := by
  unfold Thread.unblock; split <;> rfl

theorem Keeps.trapUser {tr} (h : Keeps s₀ s) : KeepsO s₀ (s.trapUser tr) := by
  unfold State.trapUser
  refine branches keepsO_none ?_
  dsimp only
  split
  · exact keepsO_none
  next e =>
    have h := h.drainFor.checkWords.of e
    exact (((h.issueWords.setReg.mapQ (by rfl)).mapC (by rfl)).mapT (Thread.unblock_core _)).just

theorem Keeps.trapDriver {tr} (h : Keeps s₀ s) : Keeps s₀ (s.trapDriver tr) :=
  branches h.addFault (branches h.addFault.featureAbsent (bindP h.newToken fun _ _ h => h.addFault.mapT (by rfl)))

theorem Keeps.trap {tr} (h : Keeps s₀ s) : Keeps s₀ (s.trap tr) :=
  branches (h.mapT (by rfl)) (branches h (bindOSome
    (Keeps.trapUser (branches (h.drainLane.mapT (by rfl)).trace (h.drainLane.mapT (by rfl)).trace)) (fun _ h => h)
    (Keeps.trapDriver (branches (h.drainLane.mapT (by rfl)).trace (h.drainLane.mapT (by rfl)).trace))))

theorem Keeps.raise {tr} (h : Keeps s₀ s) : KeepsR s₀ (s.raise tr) := h.trap.next

theorem Ctrl.reissue_s (c : Ctrl) (e : LaneEntry) : (c.reissue e).s = c.s := by
  unfold Ctrl.reissue
  repeat' split
  all_goals rfl

theorem reissueAll_s (l : List LaneEntry) (c : Ctrl) : (l.foldl Ctrl.reissue c).s = c.s := by
  induction l generalizing c with
  | nil => rfl
  | cons e l ih => exact (ih _).trans (c.reissue_s e)

theorem Keeps.trapReturn {resume two vst} (h : Keeps s₀ s) : Keeps s₀ (s.trapReturn resume two vst) := by
  unfold State.trapReturn
  exact ((h.setReg.pushPart.mapQ (by rfl)).mapC (by rw [reissueAll_s])).mapC (by rfl)

/-! ### Machine/Operands.lean -/

theorem Keeps.setColAt {uid ul i b} (h : Keeps s₀ s) : Keeps s₀ (s.setColAt uid ul i b) :=
  Keeps.same (branches h h.evictUnit) (by rfl)

theorem Keeps.setCol {i l b} (h : Keeps s₀ s) : Keeps s₀ (s.setCol i l b) := h.setColAt

theorem Keeps.setCols {i l} (h : Keeps s₀ s) : Keeps s₀ (s.setCols i l) := Keeps.foldl h fun _ _ h => h.setCol

theorem Keeps.watchSlots {lanes slots} (h : Keeps s₀ s) : Keeps s₀ (s.watchSlots lanes slots) :=
  branches h (Keeps.foldl h fun _ _ h => Keeps.foldl h fun _ _ h => h.watchSlot)

theorem Keeps.writeLanes {vt v xs} (h : Keeps s₀ s) : Keeps s₀ (s.writeLanes vt v xs) := h.store.watchSlots

theorem Queues.Fits.dropHead {q : Queues} {k : Nat} {w : Word} {r : List Word} (h : q.Fits) (e : q.get k = w :: r) :
    (q.set k r).Fits := by
  have := h.get k
  rw [e, List.length_cons] at this
  exact h.set k (by omega)

theorem Keeps.popOperand {k} (h : Keeps s₀ s) : KeepsOP s₀ (s.popOperand k) := by
  unfold State.popOperand
  split
  · refine branches h.pair.just ?_
    split
    · exact keepsOP_none
    · next hg => exact KeepsP.just (Keeps.pair (h.mapFits fun hq => hq.dropHead hg))
  · split
    · exact keepsOP_none
    · next hg => exact KeepsP.just (Keeps.pair (h.mapFits fun hq => hq.dropHead hg))

theorem KeepsOP.map {α β : Type} {o : Option (α × State)} {f : α → β} (h : KeepsOP s₀ o) :
    KeepsOP s₀ (o.map fun p => (f p.1, p.2)) := by
  intro p hp
  obtain ⟨x, hx, rfl⟩ := Option.map_eq_some_iff.1 hp
  exact h x hx

theorem Keeps.operandB {b} (h : Keeps s₀ s) : KeepsOP s₀ (s.operandB b) := by
  cases b with
  | vec v => exact h.pair.just
  | scalar r => exact h.pair.just
  | q0 => exact h.popOperand.map
  | q1 => exact h.popOperand.map

theorem Keeps.operandS {b} (h : Keeps s₀ s) : KeepsOP s₀ (s.operandS b) := by
  unfold State.operandS
  split
  · exact h.pair.just
  · exact h.popOperand
  · exact h.popOperand

theorem Keeps.withB {b k} (h : Keeps s₀ s) (hk : ∀ v s, Keeps s₀ s → KeepsR s₀ (k v s)) : KeepsR s₀ (s.withB b k) := by
  unfold State.withB
  split
  next e => exact hk _ _ (h.operandB.of e)
  next => exact h.next

theorem Keeps.withSQ {b k} (h : Keeps s₀ s) (hk : ∀ v s, Keeps s₀ s → KeepsR s₀ (k v s)) : KeepsR s₀ (s.withSQ b k) := by
  unfold State.withSQ
  split
  next e => exact hk _ _ (h.operandS.of e)
  next => exact h.next

theorem Keeps.readRow {l} (h : Keeps s₀ s) : KeepsP s₀ (s.readRow l) := h.errorCheck

theorem Keeps.onRow {l k} (h : Keeps s₀ s) (hk : ∀ s, Keeps s₀ s → KeepsP s₀ (k s)) : KeepsP s₀ (s.onRow l k) := by
  unfold State.onRow
  split
  next e => exact (h.readRow.of e).pair
  next e => exact hk _ (h.readRow.of e)

theorem Keeps.readRows {l} (h : Keeps s₀ s) : KeepsP s₀ (s.readRows l) := by
  induction l generalizing s with
  | nil => exact h
  | cons x l ih =>
    unfold State.readRows
    split
    next e => exact (h.readRow.of e).pair
    next e => exact ih (h.readRow.of e)

theorem Keeps.overRows {lanes k} (h : Keeps s₀ s) (hk : ∀ s, Keeps s₀ s → KeepsR s₀ (k s)) : KeepsR s₀ (s.overRows lanes k) :=
    by
  unfold State.overRows
  refine branches (hk s h) ?_
  split
  next e => exact (h.readRows.of e).raise
  next e => exact hk _ (h.readRows.of e)

theorem Keeps.laneCycles {act} (h : Keeps s₀ s) : Keeps s₀ (s.laneCycles act) := by
  unfold State.laneCycles
  exact Keeps.same (s := s.free.2) h.free.state (by rfl)

theorem Keeps.passCount {p} (h : Keeps s₀ s) : KeepsP s₀ (s.passCount p) := by
  unfold State.passCount
  split
  · exact h.pair
  · exact bindP h.free fun _ _ h => h.pair
  · exact h.free

theorem Keeps.countPasses (h : Keeps s₀ s) : KeepsP s₀ s.countPasses :=
  branches (bindP h.passCount fun _ _ h => h.pair) h.pair

theorem Keeps.laneRecord {a passes} (h : Keeps s₀ s) : Keeps s₀ (s.laneRecord a passes) := by
  unfold State.laneRecord
  dsimp only
  refine Keeps.mapL ?_
  split
  · exact h.traceWrite
  · exact h

theorem Keeps.lanePop (h : Keeps s₀ s) : Keeps s₀ s.lanePop := by
  unfold State.lanePop
  dsimp only
  exact bindP h.countPasses fun _ _ h => Keeps.mapL (Keeps.mapQ (branches h.mapL h.laneRecord) (by rfl))

theorem Keeps.finishLanes (h : Keeps s₀ s) : Keeps s₀ s.finishLanes := Keeps.foldl h.mapL fun _ _ h => h.laneRecord.skid

theorem Keeps.finishAll (h : Keeps s₀ s) : Keeps s₀ s.finishAll := Keeps.foldl h fun _ _ h => h.focus.finishLanes

theorem Keeps.addFlags {fl} (h : Keeps s₀ s) : Keeps s₀ (s.addFlags fl) := h.mapL

theorem Keeps.laneEnd {act fl} (h : Keeps s₀ s) : Keeps s₀ (s.laneEnd act fl) := h.addFlags.laneCycles.lanePop

theorem Keeps.laneDone {fl} (h : Keeps s₀ s) : Keeps s₀ (s.laneDone fl) := h.addFlags.lanePop

theorem Keeps.writeX {x xs} (h : Keeps s₀ s) : Keeps s₀ (s.writeX x xs) := branches h h.setCols

theorem Keeps.gives {m vt d f} (h : Keeps s₀ s) : Keeps s₀ (s.gives m vt d f) := h.writeLanes.writeX.laneEnd

theorem Keeps.givesMask {m d f} (h : Keeps s₀ s) : Keeps s₀ (s.givesMask m d f) := h.setCols.writeX.laneEnd

theorem Keeps.laneResult {m vt d f} (h : Keeps s₀ s) : KeepsR s₀ (s.laneResult m vt d f) := h.gives.next

theorem Keeps.maskResult {m d f} (h : Keeps s₀ s) : KeepsR s₀ (s.maskResult m d f) := h.givesMask.next

/-! ### Machine/Residual.lean -/

theorem Keeps.sendReq {line typ words entry forced racc covered} (h : Keeps s₀ s) : Keeps s₀ (s.sendReq line typ words entry
    forced racc covered) :=
  h.same (by rfl)

theorem Keeps.sendWords {e} (h : Keeps s₀ s) : KeepsP s₀ (s.sendWords e) := by
  unfold State.sendWords
  refine branches h.pair (KeepsP.foldl h.pair fun _ _ h => ?_)
  split
  next e =>
    have h := h.state.meet.of e
    exact h.pair
  next e =>
    have h := h.state.meet.of e
    exact h.addFault.pair

theorem Keeps.sendForced {e} (h : Keeps s₀ s) : Keeps s₀ (s.sendForced e) := by
  unfold State.sendForced
  dsimp only
  exact bindP h.sendWords fun _ _ h => h.sendReq.mapR

theorem Keeps.sendHeld {l stay} (h : Keeps s₀ s) : Keeps s₀ (s.sendHeld l stay) := by
  induction l generalizing s stay with
  | nil => exact h
  | cons e l ih => exact branches (ih h) (ih h.sendForced)

theorem Keeps.pumpHeld (h : Keeps s₀ s) : Keeps s₀ s.pumpHeld := h.sendHeld

theorem Keeps.makeDue {e} (h : Keeps s₀ s) : Keeps s₀ (s.makeDue e) := h.mapR.pumpHeld

theorem Keeps.takeEntry {line typ} (h : Keeps s₀ s) : KeepsOP s₀ (s.takeEntry line typ) := by
  unfold State.takeEntry
  dsimp only
  split
  · exact h.clearErrors.mapR.pair.just
  · split
    · exact keepsOP_none
    · exact h.sendWords.state.sendReq.clearErrors.mapR.pair.just

theorem Keeps.placeWords {line typ words racc} (h : Keeps s₀ s) : KeepsO s₀ (s.placeWords line typ words racc) := by
  have k : KeepsOP s₀ (match s.t.r.find line typ with | some e => some (e, s) | none => s.takeEntry line typ) := by
    split
    · exact h.pair.just
    · exact h.takeEntry
  unfold State.placeWords
  dsimp only
  split
  · exact keepsO_none
  next e =>
    have h := k.of e
    exact branches h.mapR.just h.sendWords.state.sendReq.mapR.just

theorem Keeps.placeLine {line typ words racc} (h : Keeps s₀ s) : KeepsP s₀ (s.placeLine line typ words racc) := by
  have k : Keeps s₀ (match s.t.r.otherType line typ with | some e => if e.fl then s else s.makeDue e | none => s) := by
    split
    · exact branches h h.makeDue
    · exact h
  unfold State.placeLine
  refine branches k.pair ?_
  split
  next e => exact (k.placeWords.of e).pair
  next => exact k.pair

theorem Keeps.placeAll {n} (h : Keeps s₀ s) : Keeps s₀ (s.placeAll n) := by
  induction n generalizing s with
  | zero => exact h
  | succ n ih =>
    unfold State.placeAll
    split
    · exact h
    · split
      next e => exact h.placeLine.of e
      next e => exact ih (h.placeLine.of e).mapR

theorem Keeps.flushSet {mark} (h : Keeps s₀ s) : Keeps s₀ (s.flushSet mark) := by
  unfold State.flushSet
  dsimp only
  refine Keeps.foldl h.mapR fun _ _ h => ?_
  split
  · exact branches h h.makeDue
  · exact h

theorem Keeps.laneFlushStart (h : Keeps s₀ s) : Keeps s₀ s.laneFlushStart := h.flushSet

theorem Keeps.startFlush (h : Keeps s₀ s) : Keeps s₀ s.startFlush := (h.same (by rfl)).flushSet

theorem Keeps.withFlush {k} (h : Keeps s₀ s) (hk : ∀ s, Keeps s₀ s → KeepsR s₀ (k s)) : KeepsR s₀ (s.withFlush k) :=
  branches (branches (hk _ (h.mapC (by rfl))) h.block.next) (branches (hk s h) (h.startFlush.mapC (by rfl)).block.next)

theorem Keeps.withRelease {k} (h : Keeps s₀ s) (hk : ∀ s, Keeps s₀ s → KeepsR s₀ (k s)) : KeepsR s₀ (s.withRelease k) :=
  h.drainAccs.withFlush hk

theorem Keeps.setReq {r} (h : Keeps s₀ s) : Keeps s₀ (s.setReq r) := h.same rfl

theorem Keeps.execAccumulateRequest {id} (h : Keeps s₀ s) : KeepsR s₀ (execAccumulateRequest id s) := by
  unfold Machine.execAccumulateRequest
  split
  · exact h.next
  · exact branches h.next (branches (h.same (by rfl)).next h.setReq.next)

theorem Keeps.performWord {r j v} (h : Keeps s₀ s) : Keeps s₀ (s.performWord r j v) := by
  unfold State.performWord
  dsimp only
  refine branches h ?_
  split
  next e =>
    have h := h.selfRead.of e
    exact h
  next e =>
    have h := h.selfRead.of e
    exact h.writeLocs

theorem Keeps.dropReq (h : Keeps s₀ s) : Keeps s₀ s.dropReq := h.same rfl

theorem Keeps.execAccumulatePerform {id} (h : Keeps s₀ s) : KeepsR s₀ (execAccumulatePerform id s) := by
  unfold Machine.execAccumulatePerform
  dsimp only
  split
  · exact h.next
  · exact branches h.next (Keeps.next (Keeps.dropReq (Keeps.setReq (Keeps.foldl h fun _ _ h => h.performWord))))

theorem Keeps.focusTask {id} (h : Keeps s₀ s) : KeepsO s₀ (s.focusTask id) := by
  intro u hu
  obtain ⟨t, -, rfl⟩ := Option.map_eq_some_iff.1 hu
  exact h.focus

theorem Keeps.afterReply (h : Keeps s₀ s) : Keeps s₀ s.afterReply := h.pumpHeld.placeAll

theorem Keeps.replied {e} (h : Keeps s₀ s) : Keeps s₀ (s.replied e) := branches h.makeDue h.mapR

theorem Keeps.execAcceptedReply {id} (h : Keeps s₀ s) : KeepsR s₀ (execAcceptedReply id s) := by
  unfold Machine.execAcceptedReply
  dsimp only
  split
  · exact h.next
  · refine branches h.next ?_
    split
    · exact h.setReq.dropReq.next
    next e =>
      have h := h.setReq.dropReq.focusTask.of e
      split
      · exact h.afterReply.next
      · exact h.replied.afterReply.next

theorem Keeps.execRefusalReply {id} (h : Keeps s₀ s) : KeepsR s₀ (execRefusalReply id s) := by
  unfold Machine.execRefusalReply
  dsimp only
  split
  · exact h.next
  · refine branches h.next ?_
    split
    · exact (h.same (by rfl)).next
    next e =>
      have h := (h.same (by rfl)).focusTask.of e
      split
      · exact h.next
      · exact h.replied.afterReply.next

/-! ### Machine/Scalar.lean -/

theorem Keeps.alu {d a b f} (h : Keeps s₀ s) : KeepsR s₀ (s.alu d a b f) := h.withRegs fun _ h => h.result.next

theorem Keeps.execAdd {d a b} (h : Keeps s₀ s) : KeepsR s₀ (execAdd d a b s) := h.alu

theorem Keeps.execSub {d a b} (h : Keeps s₀ s) : KeepsR s₀ (execSub d a b s) := h.alu

theorem Keeps.execAnd {d a b} (h : Keeps s₀ s) : KeepsR s₀ (execAnd d a b s) := h.alu

theorem Keeps.execOr {d a b} (h : Keeps s₀ s) : KeepsR s₀ (execOr d a b s) := h.alu

theorem Keeps.execXor {d a b} (h : Keeps s₀ s) : KeepsR s₀ (execXor d a b s) := h.alu

theorem Keeps.execAndn {d a b} (h : Keeps s₀ s) : KeepsR s₀ (execAndn d a b s) := h.alu

theorem Keeps.execSll {d a b} (h : Keeps s₀ s) : KeepsR s₀ (execSll d a b s) := h.alu

theorem Keeps.execSrl {d a b} (h : Keeps s₀ s) : KeepsR s₀ (execSrl d a b s) := h.alu

theorem Keeps.execSra {d a b} (h : Keeps s₀ s) : KeepsR s₀ (execSra d a b s) := h.alu

theorem Keeps.execMul {d a b} (h : Keeps s₀ s) : KeepsR s₀ (execMul d a b s) := h.alu

theorem Keeps.execMulh {d a b} (h : Keeps s₀ s) : KeepsR s₀ (execMulh d a b s) := h.alu

theorem Keeps.execMulhn {d a b} (h : Keeps s₀ s) : KeepsR s₀ (execMulhn d a b s) := h.alu

theorem Keeps.execDiv {d a b} (h : Keeps s₀ s) : KeepsR s₀ (execDiv d a b s) := h.alu

theorem Keeps.execDivn {d a b} (h : Keeps s₀ s) : KeepsR s₀ (execDivn d a b s) := h.alu

theorem Keeps.execRem {d a b} (h : Keeps s₀ s) : KeepsR s₀ (execRem d a b s) := h.alu

theorem Keeps.execRemn {d a b} (h : Keeps s₀ s) : KeepsR s₀ (execRemn d a b s) := h.alu

theorem Keeps.execMin {d a b} (h : Keeps s₀ s) : KeepsR s₀ (execMin d a b s) := h.alu

theorem Keeps.execMax {d a b} (h : Keeps s₀ s) : KeepsR s₀ (execMax d a b s) := h.alu

theorem Keeps.execMinn {d a b} (h : Keeps s₀ s) : KeepsR s₀ (execMinn d a b s) := h.alu

theorem Keeps.execMaxn {d a b} (h : Keeps s₀ s) : KeepsR s₀ (execMaxn d a b s) := h.alu

theorem Keeps.execSlt {d a b} (h : Keeps s₀ s) : KeepsR s₀ (execSlt d a b s) := h.alu

theorem Keeps.execSltn {d a b} (h : Keeps s₀ s) : KeepsR s₀ (execSltn d a b s) := h.alu

theorem Keeps.execSeq {d a b} (h : Keeps s₀ s) : KeepsR s₀ (execSeq d a b s) := h.alu

theorem Keeps.execPopc {d a} (h : Keeps s₀ s) : KeepsR s₀ (execPopc d a s) := h.withRegs fun _ h => h.result.next

theorem Keeps.execClz {d a} (h : Keeps s₀ s) : KeepsR s₀ (execClz d a s) := h.withRegs fun _ h => h.result.next

theorem Keeps.execLi {d i} (h : Keeps s₀ s) : KeepsR s₀ (execLi d i s) := h.withRegs fun _ h => h.result.next

theorem Keeps.execLih {d i} (h : Keeps s₀ s) : KeepsR s₀ (execLih d i s) := h.withRegs fun _ h => h.result.next

theorem Keeps.execLix {d i} (h : Keeps s₀ s) : KeepsR s₀ (execLix d i s) := h.withRegs fun _ h => h.result.next

theorem Keeps.branchIf {w : ℕ} {c} {o : BitVec w} (h : Keeps s₀ s) : Keeps s₀ (s.branchIf c o) := branches h.branch h.advance

theorem Keeps.condBranch {a b o f} (h : Keeps s₀ s) : KeepsR s₀ (s.condBranch a b o f) :=
  h.withRegs fun _ h => h.branchIf.next

theorem Keeps.execBeq {a b o} (h : Keeps s₀ s) : KeepsR s₀ (execBeq a b o s) := h.condBranch

theorem Keeps.execBne {a b o} (h : Keeps s₀ s) : KeepsR s₀ (execBne a b o s) := h.condBranch

theorem Keeps.execBlt {a b o} (h : Keeps s₀ s) : KeepsR s₀ (execBlt a b o s) := h.condBranch

theorem Keeps.execBge {a b o} (h : Keeps s₀ s) : KeepsR s₀ (execBge a b o s) := h.condBranch

theorem Keeps.execBltn {a b o} (h : Keeps s₀ s) : KeepsR s₀ (execBltn a b o s) := h.condBranch

theorem Keeps.execBgen {a b o} (h : Keeps s₀ s) : KeepsR s₀ (execBgen a b o s) := h.condBranch

theorem Keeps.execBr {o} (h : Keeps s₀ s) : KeepsR s₀ (execBr o s) := h.branch.next

theorem Keeps.withFeat {need k} (h : Keeps s₀ s) (hk : ∀ s, Keeps s₀ s → KeepsR s₀ (k s)) : KeepsR s₀ (s.withFeat need k) := by
  unfold State.withFeat
  split
  · exact h.raise
  · exact hk s h

theorem Keeps.popBo {k} (h : Keeps s₀ s) (hk : ∀ b s, Keeps s₀ s → KeepsR s₀ (k b s)) : KeepsR s₀ (s.popBo k) := by
  unfold State.popBo
  split
  · exact h.block.next
  next b l e =>
    refine hk _ _ (h.mapFits fun ⟨h0, h1, h2, h3, hb⟩ => ⟨h0, h1, h2, h3, ?_⟩)
    rw [e, List.length_cons] at hb
    exact Nat.le_of_succ_le hb

theorem Keeps.execBq {o} (h : Keeps s₀ s) : KeepsR s₀ (execBq o s) :=
  h.withFeat fun _ h => h.popBo fun _ _ h => h.branchIf.next

theorem Keeps.execBqn {o} (h : Keeps s₀ s) : KeepsR s₀ (execBqn o s) :=
  h.withFeat fun _ h => h.popBo fun _ _ h => h.branchIf.next

theorem Keeps.toPop {w} (h : Keeps s₀ s) : Keeps s₀ (s.toPop w) := h.mapC rfl

theorem Keeps.pushProbe {i} (h : Keeps s₀ s) : KeepsR s₀ (s.pushProbe i) :=
  h.withFeat fun _ h => h.withRoom fun _ h => h.pushEntry.toPop.next

theorem Keeps.execBmz {o} (h : Keeps s₀ s) : KeepsR s₀ (execBmz o s) := h.pushProbe

theorem Keeps.execBmnz {o} (h : Keeps s₀ s) : KeepsR s₀ (execBmnz o s) := h.pushProbe

theorem Keeps.popPhaseWord (h : Keeps s₀ s) : KeepsP s₀ s.popPhaseWord := by
  unfold State.popPhaseWord
  dsimp only
  split
  · exact h.pair
  · exact (h.fetchWord.state.mapC (by rfl)).pair

theorem Keeps.endPop {c o} (h : Keeps s₀ s) : Keeps s₀ (s.endPop c o) := (h.mapC (by rfl)).branchIf

theorem Keeps.execPopPhase (h : Keeps s₀ s) : KeepsR s₀ (execPopPhase s) := by
  unfold Machine.execPopPhase
  dsimp only
  split
  · exact h.popPhaseWord.state.popBo fun _ _ h => h.endPop.next
  · exact h.popPhaseWord.state.popBo fun _ _ h => h.endPop.next
  · exact h.popPhaseWord.state.popBo fun _ _ h => h.endPop.next
  · exact h.popPhaseWord.state.raise

theorem Keeps.callTo {target} (h : Keeps s₀ s) : KeepsR s₀ (s.callTo target) := by
  unfold State.callTo
  dsimp only
  split
  · exact h.raise
  · split
    next e =>
      have h := h.cstore.of e
      exact h.raise
    next e =>
      have k := h.cstore.of e
      split
      · exact h.raise
      next e =>
        have h := k.cstore.of e
        exact h.setReg.setReg.branch.next

theorem Keeps.execCall {o} (h : Keeps s₀ s) : KeepsR s₀ (execCall o s) := h.withRegs fun _ h => h.callTo

theorem Keeps.execCallr {a} (h : Keeps s₀ s) : KeepsR s₀ (execCallr a s) := h.withRegs fun _ h => branches h.callTo h.raise

theorem Keeps.execRet (h : Keeps s₀ s) : KeepsR s₀ (execRet s) := by
  unfold Machine.execRet
  dsimp only
  refine h.withRegs fun _ k => ?_
  split
  · exact k.raise
  · split
    next e =>
      have h := k.cload.of e
      exact h.raise
    next e =>
      have h := k.cload.of e
      split
      next e =>
        have h := h.cload.of e
        exact h.raise
      next e =>
        have h := h.cload.of e
        exact branches h.raise (branches h.raise (branches k.block.next (h.pushPart.setReg.mapC (by rfl)).branch.next))

/-! ### Machine/ScalarMem.lean -/

theorem Keeps.loadTo {w : ℕ} {size} {signed} {d} {a} {e : BitVec w} (h : Keeps s₀ s) : KeepsR s₀ (s.loadTo size signed d a e)
    := by
  unfold State.loadTo
  refine h.withRegs fun _ h => ?_
  split
  next e =>
    have h := h.issue.of e
    exact h.raise
  next e =>
    have h := h.issue.of e
    exact h.advance.next

theorem Keeps.storeFrom {w : ℕ} {size} {a} {b} {e : BitVec w} (h : Keeps s₀ s) : KeepsR s₀ (s.storeFrom size a b e) := by
  unfold State.storeFrom
  refine h.withRegs fun _ h => ?_
  split
  next e =>
    have h := h.cstore.of e
    exact h.raise
  next e =>
    have h := h.cstore.of e
    exact h.advance.next

theorem Keeps.execLdB {d a e} (h : Keeps s₀ s) : KeepsR s₀ (execLdB d a e s) := h.loadTo

theorem Keeps.execLdH {d a e} (h : Keeps s₀ s) : KeepsR s₀ (execLdH d a e s) := h.loadTo

theorem Keeps.execLdW {d a e} (h : Keeps s₀ s) : KeepsR s₀ (execLdW d a e s) := h.loadTo

theorem Keeps.execLdD {d a e} (h : Keeps s₀ s) : KeepsR s₀ (execLdD d a e s) := h.loadTo

theorem Keeps.execLdBS {d a e} (h : Keeps s₀ s) : KeepsR s₀ (execLdBS d a e s) := h.loadTo

theorem Keeps.execLdHS {d a e} (h : Keeps s₀ s) : KeepsR s₀ (execLdHS d a e s) := h.loadTo

theorem Keeps.execLdWS {d a e} (h : Keeps s₀ s) : KeepsR s₀ (execLdWS d a e s) := h.loadTo

theorem Keeps.execStB {a b e} (h : Keeps s₀ s) : KeepsR s₀ (execStB a b e s) := h.storeFrom

theorem Keeps.execStH {a b e} (h : Keeps s₀ s) : KeepsR s₀ (execStH a b e s) := h.storeFrom

theorem Keeps.execStW {a b e} (h : Keeps s₀ s) : KeepsR s₀ (execStW a b e s) := h.storeFrom

theorem Keeps.execStD {a b e} (h : Keeps s₀ s) : KeepsR s₀ (execStD a b e s) := h.storeFrom

theorem Keeps.amoAt {op size d a b c k} (h : Keeps s₀ s) (hk : ∀ s, Keeps s₀ s → Keeps s₀ (k s)) :
    KeepsR s₀ (s.amoAt op size d a b c k) := by
  unfold State.amoAt
  dsimp only
  split
  next e => exact (h.issue.of e).raise
  next e => exact (hk _ (h.issue.of e)).advance.next

theorem Keeps.markRelease (h : Keeps s₀ s) : Keeps s₀ s.markRelease := h.mapC rfl

theorem Keeps.execAmo {op dbl ord x d a b c} (h : Keeps s₀ s) : KeepsR s₀ (execAmo op dbl ord x d a b c s) :=
  h.withRegs fun _ h => branches (h.withFlush fun _ h => h.markRelease.amoAt fun _ h => branches h.drainReads h) (h.amoAt fun _
    h => branches h.drainReads h)

theorem Keeps.execFenceAcq {x} (h : Keeps s₀ s) : KeepsR s₀ (execFenceAcq x s) := h.drainReads.advance.next

theorem Keeps.execFenceRel {x} (h : Keeps s₀ s) : KeepsR s₀ (execFenceRel x s) :=
  h.withFlush fun _ h => h.markRelease.advance.next

theorem Keeps.execFenceAr {x} (h : Keeps s₀ s) : KeepsR s₀ (execFenceAr x s) := h.withRelease fun _ h => h.advance.next

theorem Keeps.drained {w k} (h : Keeps s₀ s) (hk : ∀ s, Keeps s₀ s → KeepsR s₀ (k s)) : KeepsR s₀ (s.drained w k) :=
  branches (hk s h) h.block.next

theorem Keeps.execVdrain (h : Keeps s₀ s) : KeepsR s₀ (execVdrain s) :=
  h.withFeat fun _ h => h.drained fun _ h => h.advance.next

theorem Keeps.execAwait {a b} (h : Keeps s₀ s) : KeepsR s₀ (execAwait a b s) := by
  unfold Machine.execAwait
  dsimp only
  refine h.withRegs fun _ h => ?_
  split
  · exact h.raise
  · split
    next e =>
      have h := h.cload.of e
      exact h.raise
    next e =>
      have h := h.cload.of e
      exact branches h.block.next h.advance.next

theorem Keeps.execAwaitEv {a b} (h : Keeps s₀ s) : KeepsR s₀ (execAwaitEv a b s) := by
  unfold Machine.execAwaitEv
  dsimp only
  refine h.withRegs fun _ h => ?_
  split
  · exact h.raise
  · split
    next e =>
      have h := h.cload.of e
      exact h.raise
    next e =>
      have h := h.cload.of e
      exact branches h.block.next h.advance.next

end Sys2Proof.Machine
end

section
/-! PROOFS of 01_machine.md: what `Keeps` says, through the queues, the system registers, the lane instructions, the
accesses of vectors, copies and tasks. -/

namespace Sys2Proof.Machine

variable {s₀ s : State}

/-! ### Machine/Queue.lean -/

theorem Keeps.execQpush {q a} (h : Keeps s₀ s) : KeepsR s₀ (execQpush q a s) := by
  unfold Machine.execQpush
  refine h.withFeat fun _ h => h.withRegs fun s h => ?_
  split
  · next hl =>
    refine (h.mapFits (f := fun x => x.set q.val (x.get q.val ++ [s.reg a])) fun hq => hq.set _ ?_).advance.next
    rw [List.length_append]
    exact hl
  · exact h.block.next

theorem Keeps.execQpop {d q} (h : Keeps s₀ s) : KeepsR s₀ (execQpop d q s) := by
  unfold Machine.execQpop
  refine h.withFeat fun _ h => h.withRegs fun _ h => ?_
  split
  · exact h.block.next
  · next hg => exact (h.mapFits fun hq => hq.dropHead hg).result.next

theorem Keeps.withLegal {k} (h : Keeps s₀ s) (hk : ∀ s, Keeps s₀ s → KeepsR s₀ (k s)) : KeepsR s₀ (s.withLegal k) :=
  branches h.raise (hk s h)

theorem Keeps.grantTo {i d req} (h : Keeps s₀ s) : Keeps s₀ (s.grantTo i d req) := by
  unfold State.grantTo
  dsimp only
  exact h.pushPart.setReg.mapC (by rfl)

theorem Keeps.execSetvl {d a} (h : Keeps s₀ s) : KeepsR s₀ (execSetvl d a s) :=
  h.withFeat fun _ h => h.withLegal fun _ h => h.withRegs fun _ h => h.withRoom fun _ h => h.grantTo.advance.next

theorem Keeps.clearQuad {uid q} (h : Keeps s₀ s) : Keeps s₀ (s.clearQuad uid q) := h.clearCells.same (by rfl)

theorem Keeps.clearTile {uid t} (h : Keeps s₀ s) : Keeps s₀ (s.clearTile uid t) := h.wipeErrors.same (by rfl)

theorem Keeps.clearSeg {uid g} (h : Keeps s₀ s) : Keeps s₀ (s.clearSeg uid g) := h.clearCells

theorem Keeps.giveQuads {qs} (h : Keeps s₀ s) : Keeps s₀ (s.giveQuads qs) :=
  Keeps.foldl h fun _ _ h => h.clearQuad.mapT (by rfl)

theorem Keeps.giveTiles {ts} (h : Keeps s₀ s) : Keeps s₀ (s.giveTiles ts) :=
  Keeps.foldl h fun _ _ h => h.clearTile.mapT (by rfl)

theorem Keeps.giveSegs {gs} (h : Keeps s₀ s) : Keeps s₀ (s.giveSegs gs) := Keeps.foldl h fun _ _ h => h.clearSeg.mapT (by rfl)

theorem Keeps.execSetvlGrow {d a b} (h : Keeps s₀ s) : KeepsR s₀ (execSetvlGrow d a b s) :=
  h.withFeat fun _ h => h.withLegal fun _ h => h.withRegs fun _ h => h.withRoom fun _ h =>
    h.giveQuads.giveTiles.giveSegs.grantTo.advance.next

theorem Keeps.execSetvlShrink {d a} (h : Keeps s₀ s) : KeepsR s₀ (execSetvlShrink d a s) :=
  h.withFeat fun _ h => h.withLegal fun _ h => h.withRegs fun _ h => h.withRoom fun _ h =>
    ((h.settle.grantTo.same (by rfl)).mapT (by rfl)).advance.next

theorem Keeps.stripPtrs {b vl blen zs} (h : Keeps s₀ s) : Keeps s₀ (s.stripPtrs b vl blen zs) :=
  Keeps.foldl h fun _ _ h => branches h h.setReg

theorem Keeps.execStrip {d a b z0 z1 z2 z3 o} (h : Keeps s₀ s) : KeepsR s₀ (execStrip d a b z0 z1 z2 z3 o s) :=
  h.withFeat fun _ h => branches h.raise (h.withRegs fun _ h => h.withRoom fun _ h => branches h.raise
    h.setReg.stripPtrs.grantTo.branchIf.next)

theorem Keeps.fetchBody {a k n} (h : Keeps s₀ s) : KeepsP s₀ (s.fetchBody a k n) := by
  induction n generalizing s a k with
  | zero => exact h
  | succ n ih =>
    unfold State.fetchBody
    dsimp only
    split
    next e => exact (h.fetchError.of e).pair
    next e =>
      have h := (h.fetchError.of e).fetchWord (a := a) |>.state
      split
      next e => exact ((ih h).of e).pair
      next e => exact ((ih h).of e).pair

theorem Keeps.execNest {k dims a} (h : Keeps s₀ s) : KeepsR s₀ (execNest k dims a s) := by
  unfold Machine.execNest
  dsimp only
  refine branches h.raise (h.withRegs fun _ h => branches h.raise ?_)
  split
  next e =>
    have h := h.fetchBody.of e
    exact h.raise
  next e =>
    have h := h.fetchBody.of e
    exact branches h.raise (h.mapC (by rfl)).advance.next

/-! ### Machine/System.lean -/

theorem Keeps.execMfsr {d n} (h : Keeps s₀ s) : KeepsR s₀ (execMfsr d n s) :=
  h.withRegs fun _ h => branches (h.drained fun _ h => h.result.next) h.result.next

theorem Ctrl.writeDraw_s (c : Ctrl) (n : Nat) (v : Word) : (c.writeDraw n v).s = c.s := by
  unfold Ctrl.writeDraw
  repeat' split
  all_goals rfl

theorem Keeps.execMtsr {n a} (h : Keeps s₀ s) : KeepsR s₀ (execMtsr n a s) :=
  h.withRegs fun _ h => branches (h.mapC (by rfl)).advance.next (branches h.raise
    (h.withRoom fun _ h => (h.pushPart.mapC (by rw [Ctrl.writeDraw_s])).advance.next))

theorem Keeps.execTfence (h : Keeps s₀ s) : KeepsR s₀ (execTfence s) := h.drained fun _ h => branches h.raise h.advance.next

theorem Keeps.loadWords {va n} (h : Keeps s₀ s) : KeepsP s₀ (s.loadWords va n) := by
  induction n generalizing s va with
  | zero => exact h
  | succ n ih =>
    unfold State.loadWords
    split
    next e => exact (h.cload.of e).pair
    next e =>
      have h := h.cload.of e
      split
      next e => exact ((ih h).of e).pair
      next e => exact ((ih h).of e).pair

theorem Keeps.execTret (h : Keeps s₀ s) : KeepsR s₀ (execTret s) := by
  unfold Machine.execTret
  dsimp only
  refine h.withRegs fun _ k => ?_
  split
  · exact k.raise
  · split
    next e =>
      have h := k.loadWords.of e
      exact h.raise
    next e =>
      have h := k.loadWords.of e
      exact branches h.raise (branches h.raise (branches k.block.next h.trapReturn.next))
    next e =>
      have h := k.loadWords.of e
      exact h.next

theorem Keeps.execIfence (h : Keeps s₀ s) : KeepsR s₀ (execIfence s) := (h.drainAccs.mapC (by rfl)).advance.next

theorem Keeps.execYieldpt (h : Keeps s₀ s) : KeepsR s₀ (execYieldpt s) :=
  h.withRoom fun _ h => Keeps.next (branches (h.pushPart.advance.mapT (by rfl)) h.pushPart.advance)

theorem Keeps.execExit (h : Keeps s₀ s) : KeepsR s₀ (execExit s) := (h.mapT (by rfl)).next

theorem Keeps.execBrk {code} (h : Keeps s₀ s) : KeepsR s₀ (execBrk code s) :=
  branches h.next (Keeps.next (branches h.advance.trap.stopCluster h.advance.trap))

theorem Keeps.execNop (h : Keeps s₀ s) : KeepsR s₀ (execNop s) := h.advance.next

theorem Keeps.execReservedEncoding {x} (h : Keeps s₀ s) : KeepsR s₀ (execReservedEncoding x s) := h.setPc.raise

theorem Keeps.pushCopies {i a b} (h : Keeps s₀ s) : Keeps s₀ (s.pushCopies i a b) := by
  unfold State.pushCopies
  refine h.mapC ?_
  split <;> rfl

theorem Keeps.enqueue {i w} (h : Keeps s₀ s) : KeepsR s₀ (s.enqueue i w) := by
  unfold State.enqueue
  dsimp only
  refine h.withRegs fun _ h => ?_
  split
  · exact h.raise
  · refine h.withRoom fun _ h => ?_
    split
    · exact h.pushEntry.toPop.next
    · exact h.pushEntry.pushCopies.advance.next

theorem Keeps.laneRun {i k} (h : Keeps s₀ s) (hk : ∀ s, Keeps s₀ s → KeepsR s₀ (k s)) : KeepsR s₀ (s.laneRun i k) := by
  unfold State.laneRun
  split
  · exact hk s h
  · split
    · exact h.raise
    · exact hk _ h.pushCopies

theorem Keeps.execLaneQueuePush {w} (h : Keeps s₀ s) : KeepsR s₀ (execLaneQueuePush w s) := by
  unfold Machine.execLaneQueuePush
  split
  · exact h.raise
  · exact branches h.enqueue h.next

theorem Keeps.runShort {hi w x} (h : Keeps s₀ s) : KeepsR s₀ (s.runShort hi w x) := by
  unfold State.runShort
  dsimp only
  split
  · exact h.execNop
  · split
    · exact h.execAdd
    · exact h.execSub
    · exact h.execAnd
    · exact h.execOr
    · exact h.execXor
    · exact h.execSll
    · exact h.execSrl
    · exact h.execSra
  · exact h.execAdd
  · exact h.execLi
  · exact h.execLdD
  · exact h.execLdW
  · exact h.execStD
  · exact h.execStW
  · exact h.execBr
  · exact h.execBeq
  · exact h.execBne
  · exact h.execBq
  · exact h.execBqn
  · exact h.execQpush
  · exact h.execQpop
  · split
    · exact h.enqueue
    · exact h.next
  · split
    · exact h.enqueue
    · exact h.next

theorem KeepsR.of {r : Res} (h : KeepsR s₀ r) (e : r = .next s) : Keeps s₀ s := h s e

theorem Keeps.slotB {a b} (h : Keeps s₀ s) : KeepsR s₀ (s.slotB a b) := by
  have k : KeepsR s₀ ((s.mapC fun c => { c with pc := s.wordAddr ||| 4, popWord := some (encode (.pair a b)) }).runShort true
    (encode (.pair a b)) b) := (h.mapC (by rfl)).runShort
  unfold State.slotB
  split
  next e => exact Keeps.next (branches (k.of e) ((k.of e).mapC (by rfl)))
  next => exact k

theorem Keeps.execPair {a b} (h : Keeps s₀ s) : KeepsR s₀ (execPair a b s) := by
  have k : KeepsR s₀ (s.runShort false (encode (.pair a b)) a) := h.runShort
  unfold Machine.execPair
  refine branches h.slotB ?_
  split
  next e => exact branches (k.of e).next ((k.of e).mapC (by rfl)).slotB
  next => exact k

theorem Keeps.execVdead {mask n} (h : Keeps s₀ s) : KeepsR s₀ (execVdead mask n s) :=
  h.withFeat fun _ h => h.drained fun _ h => Keeps.next (Keeps.advance (branches (h.same (by rfl)).setCols.mapL (h.same
      (by rfl)).store.mapL))

/-! ### Machine/Micro.lean -/

theorem Keeps.microPut {m : Micro} {r x ls l} (h : Keeps s₀ m.s) : Keeps s₀ (m.put r x ls l).s := by
  unfold Micro.put
  split
  · exact h.store
  · exact h

theorem Keeps.microRecord {m : Micro} {e w tag skipped} (h : Keeps s₀ m.s) : Keeps s₀ (m.record e w tag skipped).s := by
  unfold Micro.record
  split <;> exact h

theorem Micro.foldl_put {α : Type} {f : Micro → α → Micro} {l : List α} {m : Micro} (h : Keeps s₀ m.s)
    (hf : ∀ m x, Keeps s₀ m.s → Keeps s₀ (f m x).s) : Keeps s₀ (l.foldl f m).s := by
  induction l generalizing m with
  | nil => exact h
  | cons x l ih => exact ih (hf m x h)

theorem Keeps.microPass {m : Micro} {r act e w ls} (h : Keeps s₀ m.s) : Keeps s₀ (m.pass r act e w ls).s := by
  unfold Micro.pass
  refine Keeps.microRecord ?_
  split
  · exact h
  · exact Micro.foldl_put h fun _ _ h => Micro.foldl_put h fun _ _ h => h.microPut

theorem Keeps.microRun {tbl vt r act k e ls} {m : Micro} (h : Keeps s₀ m.s) : Keeps s₀ (Micro.run tbl vt r act k e ls m).s := by
  induction k generalizing e ls m with
  | zero => exact h
  | succ k ih =>
    unfold Micro.run
    dsimp only
    split
    · split
      · split
        · exact ih h
        · exact ih h
      · split
        · exact h
        · split
          · split
            · exact ih h
            · exact ih h
          · split
            · exact ih h
            · exact ih h
      · exact h
    · exact ih h.microPass

theorem Keeps.runMicro {e r act} (h : Keeps s₀ s) : Keeps s₀ (s.runMicro e r act).s :=
  Keeps.microRun (m := ⟨s, _, _, _, _, _⟩) h

theorem Keeps.records {m} (h : Keeps s₀ s) : Keeps s₀ (Micro.records m s) := Keeps.foldl h fun _ _ h => h.traceWrite

theorem Keeps.tracePasses {e r act} (h : Keeps s₀ s) : Keeps s₀ (s.tracePasses e r act) := h.records

/-! ### Machine/LaneInt.lean -/

theorem Keeps.execVcfg {a} (h : Keeps s₀ s) : KeepsR s₀ (execVcfg a s) := h.laneRun fun _ h => h.mapL.lanePop.next

theorem Keeps.execSetvl2 {a b} (h : Keeps s₀ s) : KeepsR s₀ (execSetvl2 a b s) := h.laneRun fun _ h => h.mapL.lanePop.next

theorem Keeps.execVid {g sel d} (h : Keeps s₀ s) : KeepsR s₀ (execVid g sel d s) := h.laneRun fun _ h => h.laneResult

theorem Keeps.intBin {i m d a b f} (h : Keeps s₀ s) : KeepsR s₀ (s.intBin i m d a b f) :=
  h.laneRun fun _ h => h.withB fun _ _ h => h.laneResult

theorem Keeps.intUn {i m d a f} (h : Keeps s₀ s) : KeepsR s₀ (s.intUn i m d a f) := h.laneRun fun _ h => h.laneResult

theorem Keeps.withTrace {i g f} (h : Keeps s₀ s) (hf : ∀ s, Keeps s₀ s → KeepsR s₀ (f s)) : KeepsR s₀ (withTrace s i g f) := by
  unfold Machine.withTrace
  split
  · exact hf s h
  · exact branches (hf _ h.tracePasses) (hf s h)

theorem Keeps.execVadd {m d a b} (h : Keeps s₀ s) : KeepsR s₀ (execVadd m d a b s) := h.withTrace fun _ h => h.intBin

theorem Keeps.execVsub {m d a b} (h : Keeps s₀ s) : KeepsR s₀ (execVsub m d a b s) := h.withTrace fun _ h => h.intBin

theorem Keeps.execVmul {m d a b} (h : Keeps s₀ s) : KeepsR s₀ (execVmul m d a b s) := h.intBin

theorem Keeps.execVmulh {m d a b} (h : Keeps s₀ s) : KeepsR s₀ (execVmulh m d a b s) := h.intBin

theorem Keeps.execVdiv {m d a b} (h : Keeps s₀ s) : KeepsR s₀ (execVdiv m d a b s) := h.intBin

theorem Keeps.execVrem {m d a b} (h : Keeps s₀ s) : KeepsR s₀ (execVrem m d a b s) := h.intBin

theorem Keeps.execVmin {m d a b} (h : Keeps s₀ s) : KeepsR s₀ (execVmin m d a b s) := h.intBin

theorem Keeps.execVmax {m d a b} (h : Keeps s₀ s) : KeepsR s₀ (execVmax m d a b s) := h.intBin

theorem Keeps.execVneg {m d a} (h : Keeps s₀ s) : KeepsR s₀ (execVneg m d a s) := h.intUn

theorem Keeps.execVabs {m d a} (h : Keeps s₀ s) : KeepsR s₀ (execVabs m d a s) := h.intUn

theorem Keeps.logic {i g d a b f} (h : Keeps s₀ s) : KeepsR s₀ (s.logic i g d a b f) :=
  h.laneRun fun _ h => h.withB fun _ _ h => h.laneResult

theorem Keeps.execVand {g d a b} (h : Keeps s₀ s) : KeepsR s₀ (execVand g d a b s) := h.logic

theorem Keeps.execVor {g d a b} (h : Keeps s₀ s) : KeepsR s₀ (execVor g d a b s) := h.logic

theorem Keeps.execVandn {g d a b} (h : Keeps s₀ s) : KeepsR s₀ (execVandn g d a b s) := h.logic

theorem Keeps.execVxor {g d a b} (h : Keeps s₀ s) : KeepsR s₀ (execVxor g d a b s) := h.logic

theorem Keeps.execVxnor {g d a b} (h : Keeps s₀ s) : KeepsR s₀ (execVxnor g d a b s) := h.logic

theorem Keeps.execVnot {g d a} (h : Keeps s₀ s) : KeepsR s₀ (execVnot g d a s) := h.logic

theorem Keeps.execVlut3 {g d a b c t} (h : Keeps s₀ s) : KeepsR s₀ (execVlut3 g d a b c t s) :=
  h.laneRun fun _ h => h.laneResult

theorem Keeps.shift {i m d a n f} (h : Keeps s₀ s) : KeepsR s₀ (s.shift i m d a n f) := by
  unfold State.shift
  split
  · exact h.intUn
  · exact h.intBin

theorem Keeps.execVsll {m d a n} (h : Keeps s₀ s) : KeepsR s₀ (execVsll m d a n s) := h.shift

theorem Keeps.execVsrl {m d a n} (h : Keeps s₀ s) : KeepsR s₀ (execVsrl m d a n s) := h.shift

theorem Keeps.execVsra {m d a n} (h : Keeps s₀ s) : KeepsR s₀ (execVsra m d a n s) := h.shift

theorem Keeps.funnel {i g d a b f} (h : Keeps s₀ s) : KeepsR s₀ (s.funnel i g d a b f) := h.intBin

theorem Keeps.execVfsl {g d a b n} (h : Keeps s₀ s) : KeepsR s₀ (execVfsl g d a b n s) := h.funnel

theorem Keeps.execVfsr {g d a b n} (h : Keeps s₀ s) : KeepsR s₀ (execVfsr g d a b n s) := h.funnel

theorem Keeps.execVcmp {g cc d a b} (h : Keeps s₀ s) : KeepsR s₀ (execVcmp g cc d a b s) :=
  h.laneRun fun _ h => h.withB fun _ _ h => h.maskResult

theorem Keeps.execVsel {g d a b c} (h : Keeps s₀ s) : KeepsR s₀ (execVsel g d a b c s) :=
  h.laneRun fun _ h => h.withB fun _ _ h => h.laneResult

theorem Keeps.execVmov {g d b} (h : Keeps s₀ s) : KeepsR s₀ (execVmov g d b s) :=
  h.withTrace fun _ h => h.laneRun fun _ h => h.withB fun _ _ h => h.laneResult

theorem Keeps.slide {g up inn rot d a k} (h : Keeps s₀ s) : KeepsR s₀ (s.slide g up inn rot d a k) :=
  branches h.raise (h.overRows fun _ h => h.writeLanes.laneEnd.next)

theorem Keeps.operandK {k} (h : Keeps s₀ s) : KeepsOP s₀ (s.operandK k) := by
  cases k with
  | imm k => exact h.pair.just
  | scalar r => exact h.pair.just
  | q0 => exact h.operandS.map
  | q1 => exact h.operandS.map

theorem Keeps.withSlide {k f} (h : Keeps s₀ s) (hf : ∀ n s, Keeps s₀ s → KeepsR s₀ (f n s)) : KeepsR s₀ (s.withSlide k f) := by
  unfold State.withSlide
  split
  next e => exact hf _ _ (h.operandK.of e)
  next => exact h.next

theorem Keeps.execVslideup {g inn rot d a k} (h : Keeps s₀ s) : KeepsR s₀ (execVslideup g inn rot d a k s) :=
  h.laneRun fun _ h => h.withSlide fun _ _ h => h.slide

theorem Keeps.execVslidedn {g inn rot d a k} (h : Keeps s₀ s) : KeepsR s₀ (execVslidedn g inn rot d a k s) :=
  h.laneRun fun _ h => h.withSlide fun _ _ h => h.slide

theorem Keeps.execVlscat {g inn d a b} (h : Keeps s₀ s) : KeepsR s₀ (execVlscat g inn d a b s) :=
  h.laneRun fun _ h => h.overRows fun _ h => h.writeLanes.laneEnd.next

theorem Keeps.maskLogic {i g d f} (h : Keeps s₀ s) : KeepsR s₀ (s.maskLogic i g d f) := h.laneRun fun _ h => h.maskResult

theorem Keeps.execMand {g d a b} (h : Keeps s₀ s) : KeepsR s₀ (execMand g d a b s) := h.maskLogic

theorem Keeps.execMor {g d a b} (h : Keeps s₀ s) : KeepsR s₀ (execMor g d a b s) := h.maskLogic

theorem Keeps.execMxor {g d a b} (h : Keeps s₀ s) : KeepsR s₀ (execMxor g d a b s) := h.maskLogic

theorem Keeps.execMandn {g d a b} (h : Keeps s₀ s) : KeepsR s₀ (execMandn g d a b s) := h.maskLogic

theorem Keeps.execMnot {g d a} (h : Keeps s₀ s) : KeepsR s₀ (execMnot g d a s) := h.maskLogic

theorem Keeps.execMmov {g d a} (h : Keeps s₀ s) : KeepsR s₀ (execMmov g d a s) := h.maskLogic

theorem Keeps.stackStep {entry depth f} (h : Keeps s₀ s) : KeepsR s₀ (s.stackStep entry depth f) :=
  h.setCols.mapL.laneEnd.next

theorem Keeps.execMpush {a} (h : Keeps s₀ s) : KeepsR s₀ (execMpush a s) := h.laneRun fun _ h => h.stackStep

theorem Keeps.execMinv (h : Keeps s₀ s) : KeepsR s₀ (execMinv s) := h.laneRun fun _ h => h.stackStep

theorem Keeps.execMpop (h : Keeps s₀ s) : KeepsR s₀ (execMpop s) := h.laneRun fun _ h => h.mapL.laneDone.next

theorem Keeps.pushQ {q v} (h : Keeps s₀ s) : Keeps s₀ (s.pushQ q v) := h.mapFits fun hq => hq.push _ _

theorem Keeps.execMpopc {g d a} (h : Keeps s₀ s) : KeepsR s₀ (execMpopc g d a s) := by
  unfold Machine.execMpopc
  dsimp only
  refine h.laneRun fun _ h => ?_
  split
  · exact h.pushQ.laneEnd.next
  · exact h.laneResult

/-! ### Machine/LaneParts.lean -/

theorem Keeps.zeroTile {n} (h : Keeps s₀ s) : Keeps s₀ (s.zeroTile n) :=
  branches h.clearTile (Keeps.foldl h.clearTile fun _ _ h => h.watchAcc)

theorem Keeps.partEffect {e} (h : Keeps s₀ s) : Keeps s₀ (s.partEffect e) := by
  unfold State.partEffect
  rcases decode e.word with _ | i
  · exact h
  · cases i
    case setvl => exact h.mapL
    case setvlGrow => exact h.mapL
    case setvlShrink => exact h.mapL
    case strip => exact h.mapL
    case ret => exact h.mapL
    case tret => exact h.mapL
    case yieldpt => exact h.foldl fun _ _ h => h.zeroTile
    case mtsr => exact h.mapL
    all_goals exact h

theorem Keeps.runPart {e} (h : Keeps s₀ s) : Keeps s₀ (s.runPart e) := h.partEffect.mapQ (by rfl)

theorem Keeps.probeTop (h : Keeps s₀ s) : Keeps s₀ s.probeTop := (h.mapFits fun hq => hq.pushBo _).laneEnd

theorem Keeps.laneHead {u} (h : Keeps s₀ s) (e : s.laneHead = .inl u) : Keeps s₀ u := by
  unfold State.laneHead at e
  split at e
  · exact Sum.inl.inj e ▸ h
  · split at e
    · exact Sum.inl.inj e ▸ h.runPart
    · exact Sum.inl.inj e ▸ h.probeTop
    · exact Sum.inl.inj e ▸ h.probeTop
    · cases e
    · exact Sum.inl.inj e ▸ (h.mapQ (by rfl))

theorem Keeps.landSome {p q} (h : Keeps s₀ s) : KeepsO s₀ (s.landSome p q) :=
  branches h.just (branches keepsO_none (branches h.settle.performLanes.just h.settleIf.just))

theorem Keeps.laneLanded (h : Keeps s₀ s) : KeepsO s₀ s.laneLanded := by
  unfold State.laneLanded
  dsimp only
  split
  · exact h.just
  · split
    · exact h.landSome
    · exact h.just
    · exact branches (branches keepsO_none h.drainLane.just) h.landSome

/-! ### Machine/Units.lean -/

theorem Keeps.putUnit {t m data} (h : Keeps s₀ s) : Keeps s₀ (s.putUnit t m data) := by
  unfold State.putUnit
  dsimp only
  split
  · exact h.evictUnit.store
  · exact Keeps.foldl h.evictUnit fun _ _ h => h.setColAt
  · exact h.evictUnit.store

theorem Keeps.fromImage {t base m} (h : Keeps s₀ s) (ht : RegInv s₀ → RegsWf t) : Keeps s₀ (s.fromImage t base m) := by
  unfold State.fromImage
  refine branches ?_ h.putUnit.carry
  split
  next e => exact (h.selfRead.of e).failTask ht
  next e => exact (h.selfRead.of e).putUnit

theorem Keeps.bring {p} (h : Keeps s₀ s) : Keeps s₀ (s.bring p) := by
  have k {l} : Keeps s₀ { s with away := l } := h.same rfl
  refine k.foldl fun s x h => ?_
  split
  · next ht => exact branches h.putUnit (h.fromImage fun k => regsWf_taskThread (h.inv k) ht)
  · exact h

theorem Keeps.bringCells {cells} (h : Keeps s₀ s) : Keeps s₀ (s.bringCells cells) := h.bring

theorem Keeps.bringHead (h : Keeps s₀ s) : Keeps s₀ s.bringHead := by
  unfold State.bringHead
  dsimp only
  refine branches h ?_
  split
  · exact h
  · exact h.bring

/-! ### Machine/LaneFloat.lean -/

theorem Keeps.floatBin {i m d a b f} (h : Keeps s₀ s) : KeepsR s₀ (s.floatBin i m d a b f) := h.intBin

theorem Keeps.execVfadd {m d a b} (h : Keeps s₀ s) : KeepsR s₀ (execVfadd m d a b s) := h.floatBin

theorem Keeps.execVfsub {m d a b} (h : Keeps s₀ s) : KeepsR s₀ (execVfsub m d a b s) := h.floatBin

theorem Keeps.execVfmul {m d a b} (h : Keeps s₀ s) : KeepsR s₀ (execVfmul m d a b s) := h.floatBin

theorem Keeps.execVfdiv {m d a b} (h : Keeps s₀ s) : KeepsR s₀ (execVfdiv m d a b s) := h.floatBin

theorem Keeps.execVfsqrt {m d a} (h : Keeps s₀ s) : KeepsR s₀ (execVfsqrt m d a s) := h.intUn

theorem Keeps.execVfmin {m d a b} (h : Keeps s₀ s) : KeepsR s₀ (execVfmin m d a b s) := h.intBin

theorem Keeps.execVfmax {m d a b} (h : Keeps s₀ s) : KeepsR s₀ (execVfmax m d a b s) := h.intBin

theorem Keeps.execVfcmp {m cc d a b} (h : Keeps s₀ s) : KeepsR s₀ (execVfcmp m cc d a b s) :=
  h.laneRun fun _ h => h.withB fun _ _ h => h.maskResult

theorem Keeps.execVcvt {m d a t} (h : Keeps s₀ s) : KeepsR s₀ (execVcvt m d a t s) := h.laneRun fun _ h => h.laneResult

theorem Keeps.execVcvtLg {m d a t} (h : Keeps s₀ s) : KeepsR s₀ (execVcvtLg m d a t s) := h.laneRun fun _ h => h.laneResult

/-! ### Machine/LaneSearch.lean -/

theorem Keeps.laneReads {size va n} (h : Keeps s₀ s) : KeepsP s₀ (s.laneReads size va n) := by
  induction n generalizing s va with
  | zero => exact h
  | succ n ih =>
    unfold State.laneReads
    split
    next e => exact (h.load.of e).pair
    next e =>
      have h := h.load.of e
      split
      next e => exact ((ih h).of e).pair
      next e => exact ((ih h).of e).pair

theorem Keeps.execVtab {g d a b n} (h : Keeps s₀ s) : KeepsR s₀ (execVtab g d a b n s) := by
  unfold Machine.execVtab
  dsimp only
  refine h.laneRun fun _ h => ?_
  split
  · exact h.laneEnd.next
  · split
    · exact h.raise
    · split
      next e =>
        have h := h.laneReads.of e
        exact h.raise
      next e =>
        have h := h.laneReads.of e
        exact h.laneResult

theorem Keeps.givesSeg {g d vt f} (h : Keeps s₀ s) : Keeps s₀ (s.givesSeg g d vt f) := by
  unfold State.givesSeg
  dsimp only
  split
  · exact h.pushQ.laneEnd
  · exact h.writeLanes.laneEnd

theorem Keeps.reduce {g d vt f} (h : Keeps s₀ s) : KeepsR s₀ (s.reduce g d vt f) := h.givesSeg.next

theorem Keeps.givesSegMask {g inn d f} (h : Keeps s₀ s) : Keeps s₀ (s.givesSegMask g inn d f) := h.setCols.laneEnd

theorem Keeps.reduceMask {g inn d f} (h : Keeps s₀ s) : KeepsR s₀ (s.reduceMask g inn d f) := h.givesSegMask.next

theorem Keeps.execVkth {g d a b} (h : Keeps s₀ s) : KeepsR s₀ (execVkth g d a b s) :=
  h.laneRun fun _ h => h.withSQ fun _ _ h => h.reduce

theorem Keeps.execVtopk {g inn d a b} (h : Keeps s₀ s) : KeepsR s₀ (execVtopk g inn d a b s) :=
  h.laneRun fun _ h => h.withSQ fun _ _ h => h.reduceMask

theorem Keeps.execVtopp {g inn d a b} (h : Keeps s₀ s) : KeepsR s₀ (execVtopp g inn d a b s) :=
  h.laneRun fun _ h => h.withSQ fun _ _ h => h.reduceMask

theorem Keeps.execVrsum {g d a} (h : Keeps s₀ s) : KeepsR s₀ (execVrsum g d a s) := h.laneRun fun _ h => h.reduce

theorem Keeps.minMax {max g d a} (h : Keeps s₀ s) : KeepsR s₀ (s.minMax max g d a) := h.reduce

theorem Keeps.execVrmin {g d a} (h : Keeps s₀ s) : KeepsR s₀ (execVrmin g d a s) := h.laneRun fun _ h => h.minMax

theorem Keeps.execVrmax {g d a} (h : Keeps s₀ s) : KeepsR s₀ (execVrmax g d a s) := h.laneRun fun _ h => h.minMax

theorem Keeps.execVscanadd {g inn d a} (h : Keeps s₀ s) : KeepsR s₀ (execVscanadd g inn d a s) :=
  h.laneRun fun _ h => h.overRows fun _ h => h.writeLanes.laneEnd.next

theorem Keeps.execVscanand {g inn d a} (h : Keeps s₀ s) : KeepsR s₀ (execVscanand g inn d a s) :=
  h.laneRun fun _ h => h.reduceMask

theorem Keeps.execVfirst0 {g d a} (h : Keeps s₀ s) : KeepsR s₀ (execVfirst0 g d a s) := h.laneRun fun _ h => h.reduce

theorem Keeps.execVpick {g d a b} (h : Keeps s₀ s) : KeepsR s₀ (execVpick g d a b s) :=
  h.laneRun fun _ h => h.withB fun _ _ h => h.overRows fun _ h => h.reduce

theorem Keeps.execVrand {g d b} (h : Keeps s₀ s) : KeepsR s₀ (execVrand g d b s) :=
  h.laneRun fun _ h => h.withB fun _ _ h => h.laneResult

theorem Keeps.countEnts {ln fuel chain slot left} (h : Keeps s₀ s) : KeepsP s₀ (s.countEnts ln fuel chain slot left) := by
  induction fuel generalizing s chain slot left with
  | zero => unfold State.countEnts; exact branches h.pair h.pair
  | succ n ih =>
    unfold State.countEnts
    refine branches h.pair ?_
    dsimp only
    split
    · exact h.pair
    split
    next e => exact (h.laneReads.of e).pair
    next ws t e =>
      have h := h.laneReads.of e
      have k : KeepsP s₀ (if (chain != 0) = true then t.countEnts ln n (ws.getD 1 0) slot left
        else t.countEnts ln n (ws.getD 1 0) (slot + 16) (left - 1)) := branches (ih h) (ih h)
      split
      next e => exact (k.of e).pair
      next e => exact (k.of e).pair

theorem Keeps.countTab {a o ln fuel} (h : Keeps s₀ s) : KeepsP s₀ (s.countTab a o ln fuel) := by
  unfold State.countTab
  dsimp only
  split
  · exact h.pair
  · split
    next e =>
      have h := h.laneReads.of e
      exact h.pair
    next e =>
      have h := h.laneReads.of e
      refine branches h.pair ?_
      split
      · exact h.pair
      · split
        next e =>
          have h := h.countEnts.of e
          exact h.pair
        next e =>
          have h := h.countEnts.of e
          exact h.pair

theorem Keeps.countTabs {a fuel l} (h : Keeps s₀ s) : KeepsP s₀ (s.countTabs a fuel l) := by
  induction l generalizing s fuel with
  | nil => exact h
  | cons sg r ih =>
    unfold State.countTabs
    split
    · exact ih h
    split
    next e => exact (h.countTab.of e).pair
    next e =>
      have h := h.countTab.of e
      split
      next e => exact ((ih h).of e).pair
      next e => exact ((ih h).of e).pair

theorem Keeps.execVscatl {g d a} (h : Keeps s₀ s) : KeepsR s₀ (execVscatl g d a s) := by
  unfold Machine.execVscatl
  dsimp only
  refine h.laneRun fun _ h => ?_
  split
  next e =>
    have h := h.countTabs.of e
    exact h.raise
  next e =>
    have h := h.countTabs.of e
    exact h.writeLanes.laneEnd.next

theorem Keeps.execVmload {a b c} (h : Keeps s₀ s) : KeepsR s₀ (execVmload a b c s) := by
  unfold Machine.execVmload
  dsimp only
  refine h.laneRun fun _ h => branches h.raise (branches h.laneDone.next (branches h.raise ?_))
  split
  next e =>
    have h := h.laneReads.of e
    exact h.raise
  next e =>
    have h := h.laneReads.of e
    exact branches h.raise (h.same (by rfl)).laneDone.next

theorem Keeps.execVmicro {g n d a b} (h : Keeps s₀ s) : KeepsR s₀ (execVmicro g n d a b s) := by
  refine h.laneRun fun _ h => ?_
  dsimp only
  refine branches h.raise (branches h.raise (Keeps.next (Keeps.laneEnd ?_)))
  exact branches (Keeps.mapFits (Keeps.foldl h.runMicro.records fun _ _ h => h.watchSlots) fun hq => hq.push _ _)
    (Keeps.foldl h.runMicro.records fun _ _ h => h.watchSlots)

/-! ### Machine/VecMem.lean -/

theorem Keeps.eachLane {f l} (h : Keeps s₀ s) (hf : ∀ s l, Keeps s₀ s → KeepsP s₀ (f s l)) : KeepsP s₀ (s.eachLane f l) := by
  induction l generalizing s with
  | nil => exact h
  | cons x l ih =>
    unfold State.eachLane
    split
    next e => exact ((hf s x h).of e).pair
    next e => exact ih ((hf s x h).of e)

theorem Keeps.pushElem {l cell width src amo scale} (h : Keeps s₀ s) : Keeps s₀ (s.pushElem l cell width src amo scale) :=
  h.mapL

theorem Keeps.pushLoad {l cell width va tile ls} (h : Keeps s₀ s) : Keeps s₀ (s.pushLoad l cell width va tile ls) :=
  Keeps.foldl h fun _ _ h => h.pushElem

theorem Keeps.pushStore {kind l ls o} (h : Keeps s₀ s) : Keeps s₀ (s.pushStore kind l ls o) := h.mapL

theorem Keeps.pushParts {l va v tile o ls} (h : Keeps s₀ s) : Keeps s₀ (s.pushParts l va v tile o ls) :=
  Keeps.foldl h fun _ _ h => h.pushStore

theorem KeepsP.endLanes {r act fl} (h : KeepsP s₀ r) : KeepsR s₀ (State.endLanes r act fl) := by
  unfold State.endLanes
  split
  · exact h.state.laneEnd.next
  · exact h.state.mapL.raise

theorem Keeps.loadOne {vt d addr l} (h : Keeps s₀ s) : KeepsP s₀ (loadOne vt d addr s l) := by
  unfold Machine.loadOne
  split
  next e =>
    have h := h.check.of e
    exact h.pair
  next e =>
    have h := h.check.of e
    exact h.pushLoad.pair

theorem Keeps.storeBytes {l n va v tile o} (h : Keeps s₀ s) : KeepsP s₀ (s.storeBytes l n va v tile o) := by
  unfold State.storeBytes
  split
  next e =>
    have h := h.check.of e
    exact h.pair
  next e =>
    have h := h.check.of e
    exact h.pushParts.pair

theorem Keeps.storeOne {vt val addr o l} (h : Keeps s₀ s) : KeepsP s₀ (storeOne vt val addr o s l) :=
  h.onRow fun _ h => h.storeBytes

theorem Keeps.loadLanes {g d addr} (h : Keeps s₀ s) : KeepsR s₀ (s.loadLanes g d addr) :=
  KeepsP.endLanes (h.eachLane fun _ _ h => h.loadOne)

theorem Keeps.storeLanes {g free v addr} (h : Keeps s₀ s) : KeepsR s₀ (s.storeLanes g free v addr) :=
  KeepsP.endLanes (h.eachLane fun _ _ h => h.storeOne)

theorem Keeps.eachBlock {α : Type} {f : State → Nat → Except AccFault α × State}
    {g : α → Nat → State → Nat → Except AccFault Unit × State} {l : List (List Nat)} (h : Keeps s₀ s)
    (hf : ∀ s l, Keeps s₀ s → KeepsP s₀ (f s l)) (hg : ∀ x l s k, Keeps s₀ s → KeepsP s₀ (g x l s k)) :
    KeepsP s₀ (s.eachBlock f g l) := by
  induction l generalizing s with
  | nil => exact h
  | cons b l ih =>
    unfold State.eachBlock
    dsimp only
    split
    next e => exact ((hf s _ h).of e).pair
    next e =>
      have h := (hf s _ h).of e
      split
      next e => exact ((h.eachLane (hg _ _)).of e).pair
      next e => exact ih ((h.eachLane (hg _ _)).of e)

theorem Keeps.loadScale {v vt scb l} (h : Keeps s₀ s) : KeepsP s₀ (loadScale v vt scb s l) := h.check

theorem Keeps.pushScale {vt ls first l cell} (h : Keeps s₀ s) : Keeps s₀ (s.pushScale vt ls first l cell) :=
  branches h.pushElem h.mapL

theorem Keeps.loadScaledOne {v vt d base e ls first l} (h : Keeps s₀ s) : KeepsP s₀ (loadScaledOne v vt d base e ls first s l)
    := by
  unfold Machine.loadScaledOne
  split
  next e =>
    have h := h.loadOne.of e
    exact h.pair
  next e =>
    have h := h.loadOne.of e
    exact h.pushScale.pair

theorem Keeps.loadScaled {g d base scb e} (h : Keeps s₀ s) : KeepsR s₀ (s.loadScaled g d base scb e) :=
  KeepsP.endLanes (h.eachBlock (fun _ _ h => h.loadScale) (fun _ _ _ _ h => h.loadScaledOne))

theorem Keeps.storeScale {v vt free b scb l} (h : Keeps s₀ s) : KeepsP s₀ (storeScale v vt free b scb s l) := by
  unfold Machine.storeScale
  dsimp only
  refine h.onRow fun _ h => ?_
  split
  next e =>
    have h := h.check.of e
    exact h.pair
  next e =>
    have h := h.check.of e
    exact h.pushStore.addFlags.pair

theorem Keeps.storeScaledOne {v vt free b base e x first l} (h : Keeps s₀ s) : KeepsP s₀ (storeScaledOne v vt free b base e x
    first s l) :=
  h.storeOne

theorem Keeps.storeScaled {g free b base scb e} (h : Keeps s₀ s) : KeepsR s₀ (s.storeScaled g free b base scb e) :=
  KeepsP.endLanes (h.eachBlock (fun _ _ h => h.storeScale) (fun _ _ _ _ h => h.storeScaledOne))

theorem Keeps.contStore {i g free a b sc e} (h : Keeps s₀ s) : KeepsR s₀ (s.contStore i g free a b sc e) := by
  unfold State.contStore
  refine h.laneRun fun _ h => ?_
  split
  · exact h.storeScaled
  · exact h.storeLanes

theorem Keeps.execVld {g d a sc e} (h : Keeps s₀ s) : KeepsR s₀ (execVld g d a sc e s) := by
  unfold Machine.execVld
  refine h.laneRun fun _ h => ?_
  split
  · exact h.loadScaled
  · exact h.loadLanes

theorem Keeps.execVst {g a b sc e} (h : Keeps s₀ s) : KeepsR s₀ (execVst g a b sc e s) := h.contStore

theorem Keeps.execVstFree {g a b sc e} (h : Keeps s₀ s) : KeepsR s₀ (execVstFree g a b sc e s) := h.contStore

theorem Keeps.execVlds {g d a b e} (h : Keeps s₀ s) : KeepsR s₀ (execVlds g d a b e s) := h.laneRun fun _ h => h.loadLanes

theorem Keeps.execVsts {g free a b c e} (h : Keeps s₀ s) : KeepsR s₀ (execVsts g free a b c e s) :=
  h.laneRun fun _ h => h.storeLanes

theorem Keeps.tldOne {n d addr l} (h : Keeps s₀ s) : KeepsP s₀ (tldOne n d addr s l) := by
  unfold Machine.tldOne
  split
  next e =>
    have h := h.check.of e
    exact h.pair
  next e =>
    have h := h.check.of e
    exact h.pushLoad.pair

theorem Keeps.tstOne {n b addr l} (h : Keeps s₀ s) : KeepsP s₀ (tstOne n b addr s l) := h.onRow fun _ h => h.storeBytes

theorem Keeps.execTld {g d a k e} (h : Keeps s₀ s) : KeepsR s₀ (execTld g d a k e s) :=
  h.laneRun fun _ h => KeepsP.endLanes (h.eachLane fun _ _ h => h.tldOne)

theorem Keeps.execTst {g a b k e} (h : Keeps s₀ s) : KeepsR s₀ (execTst g a b k e s) :=
  h.laneRun fun _ h => KeepsP.endLanes (h.eachLane fun _ _ h => h.tstOne)

theorem Keeps.eachMarked {f l} (h : Keeps s₀ s) (hf : ∀ s l, Keeps s₀ s → KeepsP s₀ (f s l)) :
    KeepsP s₀ (s.eachMarked f l) := by
  induction l generalizing s with
  | nil => exact h
  | cons x l ih =>
    unfold State.eachMarked
    split
    next e => exact (ih ((hf s x h).of e)).state.pair
    next e => exact ih ((hf s x h).of e).setCol

theorem Keeps.clearEdone (h : Keeps s₀ s) : Keeps s₀ s.clearEdone := h.setCols

theorem KeepsP.endMarked {r act fl k} (h : KeepsP s₀ r) (hk : ∀ s, Keeps s₀ s → KeepsR s₀ (k s)) :
    KeepsR s₀ (State.endMarked r act fl k) := by
  unfold State.endMarked
  split
  · exact hk _ h
  · exact (Keeps.laneCycles (Keeps.addFlags h)).raise

theorem Keeps.gatherOne {vt base mode d i l} (h : Keeps s₀ s) : KeepsP s₀ (gatherOne vt base mode d i s l) :=
  h.onRow fun _ h => h.loadOne

theorem Keeps.scatterOne {vt base mode i c l} (h : Keeps s₀ s) : KeepsP s₀ (scatterOne vt base mode i c s l) :=
  h.onRow fun _ h => h.storeBytes

theorem Keeps.indexedEnd {act} (h : Keeps s₀ s) : Keeps s₀ (s.indexedEnd act) := h.clearEdone.laneEnd

theorem Keeps.execVgather {g mode d a i} (h : Keeps s₀ s) : KeepsR s₀ (execVgather g mode d a i s) :=
  h.laneRun fun _ h => KeepsP.endMarked (h.eachMarked fun _ _ h => h.gatherOne) fun _ h => h.indexedEnd.next

theorem Keeps.execVscatter {g mode a i c} (h : Keeps s₀ s) : KeepsR s₀ (execVscatter g mode a i c s) :=
  h.laneRun fun _ h => KeepsP.endMarked (h.eachMarked fun _ _ h => h.scatterOne) fun _ h => h.indexedEnd.next

theorem Keeps.laneFlush {k} (h : Keeps s₀ s) (hk : ∀ s, Keeps s₀ s → KeepsR s₀ (k s)) : KeepsR s₀ (s.laneFlush k) :=
  branches (branches (hk _ h.mapL) h.next) (branches (hk s h) h.laneFlushStart.mapL.next)

theorem Keeps.execRflush {sc} (h : Keeps s₀ s) : KeepsR s₀ (execRflush sc s) :=
  h.laneRun fun _ h => h.drainLane.laneFlush fun _ h => h.laneDone.next

theorem Keeps.execVfence {sc} (h : Keeps s₀ s) : KeepsR s₀ (execVfence sc s) :=
  h.laneRun fun _ h => h.drainLane.laneFlush fun _ h => h.laneDone.next

theorem Keeps.atomicOne {w op addr v k ret l} (h : Keeps s₀ s) : KeepsP s₀ (atomicOne w op addr v k ret s l) := by
  unfold Machine.atomicOne
  refine h.onRow fun _ h => ?_
  split
  next e =>
    have h := h.check.of e
    exact h.pair
  next e =>
    have h := h.check.of e
    split
    · exact h.pushElem.pair
    · exact h.pushStore.pair

theorem Keeps.vamoLanes {op mode d a i c l} (h : Keeps s₀ s) : KeepsP s₀ (s.vamoLanes op mode d a i c l) :=
  h.eachMarked fun _ _ h => h.atomicOne

theorem Keeps.vredLanes {op mode a i c l} (h : Keeps s₀ s) : KeepsP s₀ (s.vredLanes op mode a i c l) :=
  h.eachMarked fun _ _ h => h.atomicOne

theorem Keeps.vamoRun {g op mode post d a i c} (h : Keeps s₀ s) : KeepsR s₀ (s.vamoRun g op mode post d a i c) :=
  h.vamoLanes.endMarked fun _ h => branches (h.drainLane.laneFlush fun _ h => h.indexedEnd.next) h.indexedEnd.next

theorem Keeps.execVamo {g op mode ord sc d a i c} (h : Keeps s₀ s) : KeepsR s₀ (execVamo g op mode ord sc d a i c s) :=
  h.laneRun fun _ h => branches (h.drainLane.laneFlush fun _ h => h.vamoRun) h.vamoRun

theorem Keeps.execVred {g op mode rel sc a i c} (h : Keeps s₀ s) : KeepsR s₀ (execVred g op mode rel sc a i c s) :=
  h.laneRun fun _ h => branches (h.drainLane.laneFlush fun _ h => h.vredLanes.endMarked fun _ h => h.indexedEnd.next)
    (h.vredLanes.endMarked fun _ h => h.indexedEnd.next)

theorem Keeps.sumMeets {typ ls} (h : Keeps s₀ s) : KeepsP s₀ (s.sumMeets typ ls) := by
  unfold State.sumMeets
  refine branches h.pair ?_
  split
  · exact h.pair
  · split
    · exact h.pair
    · exact h.meet

theorem Keeps.targetOf {typ va l} (h : Keeps s₀ s) : KeepsP s₀ (s.targetOf typ va l) := by
  unfold State.targetOf
  split
  next e =>
    have h := h.readRow.of e
    exact h.pair
  next e =>
    have h := h.readRow.of e
    exact h.check

theorem Keeps.targets {typ addr l ok bad} (h : Keeps s₀ s) : Keeps s₀ (s.targets typ addr l ok bad).2.2 := by
  induction l generalizing s ok bad with
  | nil => exact h
  | cons x l ih =>
    unfold State.targets
    split
    next e => exact ih (h.targetOf.of e)
    next e =>
      have h := h.targetOf.of e
      split
      next e => exact ih (h.sumMeets.of e)
      next e => exact ih (h.sumMeets.of e)

theorem Keeps.execRacc {m t v a i} (h : Keeps s₀ s) : KeepsR s₀ (execRacc m t v a i s) := by
  refine h.laneRun fun _ h => branches h.next (KeepsP.endMarked ?_ fun _ h => h.clearEdone.laneEnd.next)
  exact Keeps.pair (Keeps.writeX (Keeps.placeAll (Keeps.mapR (Keeps.setCols (Keeps.drainLaneOver h.targets)))))

theorem Keeps.execArrive {a b sc} (h : Keeps s₀ s) : KeepsR s₀ (execArrive a b sc s) := by
  unfold Machine.execArrive
  dsimp only
  refine h.laneRun fun _ h => h.drainLane.laneFlush fun _ h => branches h.laneEnd.next ?_
  split
  next e =>
    have h := h.check.of e
    exact h.raise
  next e =>
    have h := h.check.of e
    split
    · exact h.laneEnd.next
    · exact h.writeLocs.laneEnd.next

/-! ### Machine/Copy.lean -/

theorem Keeps.execCpy {d a} (h : Keeps s₀ s) : KeepsR s₀ (execCpy d a s) := by
  unfold Machine.execCpy
  dsimp only
  refine h.withRegs fun _ h => ?_
  split
  · exact h.raise
  · refine branches h.block.next ?_
    split
    next e =>
      have h := h.drainAccs.loadWords.of e
      exact h.raise
    next e =>
      have h := h.drainAccs.loadWords.of e
      exact Keeps.next (Keeps.advance (branches (h.same (by rfl)) ((h.same (by rfl)).mapC (by rfl))))

theorem Keeps.copyCheck {c k} (h : Keeps s₀ s) : KeepsP s₀ (s.copyCheck c k) := by
  unfold State.copyCheck
  split
  next e =>
    have h := h.check.of e
    exact h.pair
  next e =>
    have h := h.check.of e
    split
    next e =>
      have h := h.check.of e
      exact h.pair
    next e =>
      have h := h.check.of e
      exact h.pair

theorem Keeps.mixBytes {x y} (h : Keeps s₀ s) : KeepsP s₀ (s.mixBytes x y) := by
  induction x generalizing s y with
  | nil => unfold State.mixBytes; exact h
  | cons a x ih =>
    cases y with
    | nil => unfold State.mixBytes; exact h
    | cons b y =>
      unfold State.mixBytes
      dsimp only
      split
      · exact (ih h).state.pair
      · exact (ih h.free.state).state.pair

theorem Keeps.copyOne {c src dst} (h : Keeps s₀ s) : KeepsP s₀ (s.copyOne c src dst) :=
  bindP h.mixBytes fun _ _ h => h.watchLocs.writeLocs.pair

theorem Keeps.copyUnits {c k src dst l} (h : Keeps s₀ s) : KeepsP s₀ (s.copyUnits c k src dst l) := by
  induction l generalizing s c with
  | nil => exact h
  | cons o l ih => exact ih h.copyOne.state

theorem Keeps.copyMove {c l} (h : Keeps s₀ s) : Keeps s₀ (s.copyMove c l).2.2 := by
  induction l generalizing s c with
  | nil => exact h
  | cons k l ih =>
    unfold State.copyMove
    split
    next e => exact h.copyCheck.of e
    next e => exact ih (h.copyCheck.of e).copyUnits.state

theorem Keeps.shuffle {n l} (h : Keeps s₀ s) : KeepsP s₀ (s.shuffle n l) := by
  induction n generalizing s l with
  | zero => exact h
  | succ n ih =>
    unfold State.shuffle
    refine branches h.pair ?_
    dsimp only
    split
    · exact h.free.state.pair
    · exact (ih h.free.state).state.pair

theorem Keeps.copyMaybe {c l} (h : Keeps s₀ s) : Keeps s₀ (s.copyMaybe c l) := by
  induction l generalizing s with
  | nil => exact h
  | cons k l ih =>
    unfold State.copyMaybe
    dsimp only
    refine branches (ih h.free.state) ?_
    split
    next e => exact ih (h.free.state.copyCheck.of e)
    next e => exact ih ((h.free.state.copyCheck.of e).watchLocs.mixBytes.state.writeLocs)

theorem Keeps.setCopy {c} (h : Keeps s₀ s) : Keeps s₀ (s.setCopy c) := h.same rfl

theorem Keeps.copyStop {c} (h : Keeps s₀ s) : Keeps s₀ (s.copyStop c) := h.copyMaybe.setCopy

theorem Keeps.copyFault {c f} (h : Keeps s₀ s) : Keeps s₀ (s.copyFault c f) :=
  branches h.addFault.copyStop (branches (bindP h.newToken fun _ _ h => h.addFault.setCopy) h.copyStop)

theorem Keeps.addSavedColumn {x rank col} (h : Keeps s₀ s) : Keeps s₀ (s.addSavedColumn x rank col) := by
  refine Keeps.mapSaved (s := s.clearImage _ _) h.clearImage (by rfl) fun y hy => ?_
  split <;> exact hy

theorem Keeps.setSavedBit {x col l b} (h : Keeps s₀ s) : Keeps s₀ (s.setSavedBit x col l b) := by
  have k (r n : Nat) : Keeps s₀ (if x.units.any (fun m => m.kind == 1 && m.rank == l / 16384 && m.num == col) then s
      else s.addSavedColumn x r n) := branches h h.addSavedColumn
  unfold State.setSavedBit
  refine branches (h.mapSaved rfl fun y hy => ?_) (branches (k _ _) (k _ _).wr)
  split <;> exact hy

theorem Keeps.setChunkBits {c ls b} (h : Keeps s₀ s) : Keeps s₀ (s.setChunkBits c ls b) := by
  unfold State.setChunkBits
  dsimp only
  split
  · exact Keeps.foldl (branches h h.bring) fun _ _ h => h.setColAt
  · refine Keeps.foldl (branches h h.bring) fun _ _ h => ?_
    split
    · exact branches h.setSavedBit h
    · exact h

theorem Keeps.copyBits {c} (h : Keeps s₀ s) : Keeps s₀ (s.copyBits c) :=
  branches h.setCopy (branches h.setCopy (Keeps.setCopy (Keeps.setChunkBits (branches h h.setChunkBits))))

theorem Keeps.moveElement {id chunk} (h : Keeps s₀ s) : Keeps s₀ (s.moveElement id chunk) := by
  unfold State.moveElement
  dsimp only
  split
  · exact h
  · refine branches h ?_
    split
    next e =>
      have h := h.free.state.copyCheck.of e
      exact h.copyFault
    next e =>
      have h := h.free.state.copyCheck.of e
      exact h.free.state.copyUnits.state.setCopy

theorem Keeps.execCopyChunkDone {id chunk} (h : Keeps s₀ s) : KeepsR s₀ (execCopyChunkDone id chunk s) := by
  unfold Machine.execCopyChunkDone
  split
  · exact h.next
  next c _ =>
    refine branches h.next (branches ?_ h.copyBits.next)
    have k := (h.shuffle (n := (c.rest chunk).length) (l := c.rest chunk)).state.copyMove (c := c)
      (l := (s.shuffle (c.rest chunk).length (c.rest chunk)).1)
    dsimp only
    split
    next e => rw [e] at k; exact k.copyFault.next
    next e => rw [e] at k; exact k.copyBits.next

theorem Keeps.clearDue (h : Keeps s₀ s) : Keeps s₀ s.clearDue := Keeps.foldl h fun _ _ h => branches h h.copyBits

theorem Keeps.execCopyComplete {id} (h : Keeps s₀ s) : KeepsR s₀ (execCopyComplete id s) := by
  unfold Machine.execCopyComplete
  split
  · exact h.next
  next c _ =>
    have k : Keeps s₀ { s with copies := s.copies.filter (fun x => x.id != id) } := h.same rfl
    refine branches h.next ?_
    by_cases hc : c.token = 0
    · rw [if_pos (by simpa using hc)]
      exact k.endSaved.next
    rw [if_neg (by simpa using hc)]
    split
    · next t ht =>
      refine (k.setThread fun hs => ?_).next
      obtain ⟨e0, hq⟩ := regsWf_taskThread (k.inv hs) ht
      refine ⟨?_, hq⟩
      rw [← e0]
      exact Vector.getElem_setIfInBounds_ne (by decide) hc
    · dsimp only
      split
      · exact k.next
      · exact k.innerN.innerN.endSaved.next

/-! ### Machine/Task.lean -/

theorem Keeps.loadMicro {uid c} (h : Keeps s₀ s) : Keeps s₀ (s.loadMicro uid c) := by
  have k {t : State} {m} (h : Keeps s₀ t) : Keeps s₀ { t with micro := m } := h.same rfl
  exact k h.selfRead.state

theorem Keeps.saveMicro {uid c} (h : Keeps s₀ s) : Keeps s₀ (s.saveMicro uid c) := h.putWords

theorem Keeps.hostUnit {uid ctx} (h : Keeps s₀ s) : Keeps s₀ (s.hostUnit uid ctx) := branches h h.loadMicro.setUnit

theorem Keeps.leaveUnit {uid} (h : Keeps s₀ s) : Keeps s₀ (s.leaveUnit uid) := branches h.saveMicro.setUnit h

theorem Keeps.closePreempts (h : Keeps s₀ s) : Keeps s₀ s.closePreempts := Keeps.foldl (h.same (by rfl)) fun _ _ h => h.addFault

theorem Keeps.preemptLeft {task saved} (h : Keeps s₀ s) : Keeps s₀ (s.preemptLeft task saved) := (h.same (by rfl)).closePreempts

theorem Keeps.withThread {t : State} (h : Keeps s₀ s) (e : (t.others, t.saved, t.frame) = (s.others, s.saved, s.frame))
    (ht : RegInv s₀ → RegsWf t.t) : Keeps s₀ t :=
  have k (h0 : RegInv s₀) : Keeps s t := (Keeps.refl s).thread e fun _ => ht h0
  ⟨fun h0 => MemWf_of_mem (h.wf h0) (congrArg (fun p => p.2.2.1) e), fun h0 => (k h0).inv (h.inv h0)⟩

theorem Keeps.endTask (h : Keeps s₀ s) : Keeps s₀ s.endTask := by
  have k : Keeps s₀ { s.drainAccs.drainLane with
      t := Thread.fresh s.drainAccs.drainLane.t.site
      away := s.drainAccs.drainLane.away.filter (fun x => x.task != s.drainAccs.drainLane.t.task.id) } :=
    h.drainAccs.drainLane.withThread (by rfl) fun _ => regsWf_fresh _
  exact k.forgetTask.preemptLeft.launchLeft.leaveUnit

theorem Thread.applyFz_core (n : Nat) (t : Thread) : (t.applyFz n).core = t.core := by
  have freeze (x : Status) {p : Bool} : (if p then { t.noEarly with
      status := x, c := { t.noEarly.c with popWord := none, body := [] } } else t).core = t.core := by split <;> rfl
  have thaw (x : Status) {p : Bool} : (if p then t else { t with
      status := if t.preempt == .hard then .preempting else x, c := { t.c with fetchFrom := n } }).core = t.core := by
    split <;> rfl
  unfold Thread.applyFz
  dsimp only
  split
  · exact freeze _
  · exact freeze _
  · exact thaw _
  · exact thaw _
  · rfl

theorem dbgctl_ctxD (h : RegInv s) (n : Nat) : (s.ctxD n).dbgctl &&& ~~~0x7D#64 = 0 := by
  obtain ⟨-, -, hc, -⟩ := h
  unfold State.ctxD State.ctx?
  cases e : s.ctxs.find? (fun c => c.num == n) with
  | none => rfl
  | some c => exact hc c (List.mem_of_find?_eq_some e)

theorem State.startCtrl_zero (s : State) (l : Launch) (ord slot : Nat) : (s.startCtrl l ord slot).s[0] = 0 := by
  simp [State.startCtrl]

theorem regsWf_t (h : RegInv s) : RegsWf s.t := h.1 _ (List.mem_cons_self ..)

theorem Keeps.failSelf {code} (h : Keeps s₀ s) : Keeps s₀ (s.failTask s.t code) := h.failTask fun hs => regsWf_t (h.inv hs)

theorem Keeps.bindTask {l ord site slot} (h : Keeps s₀ s) : Keeps s₀ (s.bindTask l ord site slot) := by
  unfold State.bindTask
  dsimp only
  refine (fun k : Keeps s₀ _ => branches k.failSelf k) ?_
  refine Keeps.mapT (Keeps.giveSegs (Keeps.giveTiles (Keeps.giveQuads ?_))) (Thread.applyFz_core _ _)
  refine Keeps.withThread (s := State.focus _ _) h.selfRead.state.hostUnit.focus (by rfl) fun hs => ?_
  refine ⟨State.startCtrl_zero .., Nat.zero_le _, Nat.zero_le _, Nat.zero_le _, Nat.zero_le _, Nat.zero_le _, ?_⟩
  dsimp only
  split
  · exact BitVec.zero_and
  · exact dbgctl_ctxD (h.selfRead.state.hostUnit.focus.inv hs) _

end Sys2Proof.Machine
end

section
/-! PROOFS of 01_machine.md: what `Keeps` says, through launches, events, the selection of work, streams and the saving of
threads. -/

namespace Sys2Proof.Machine

variable {s₀ s : State}

/-! ### Machine/Launch.lean -/

theorem Keeps.distAgent {ctx} (h : Keeps s₀ s) : KeepsP s₀ (s.distAgent ctx) := bindP h.free fun _ _ h => h.pair

theorem Keeps.distCheck {ag k va} (h : Keeps s₀ s) : KeepsP s₀ (s.distCheck ag k va) := branches h.pair h.check

theorem Keeps.distData {ctx f} (h : Keeps s₀ s) : Keeps s₀ (s.distData ctx f) :=
  branches h (bindP h.free fun _ _ h => h.addFault)

theorem Keeps.distLoad {ctx va} (h : Keeps s₀ s) : KeepsP s₀ (s.distLoad ctx va) := by
  unfold State.distLoad
  dsimp only
  split
  next e =>
    have h := h.distAgent.state.distCheck.of e
    exact h.distData.pair
  next e =>
    have h := h.distAgent.state.distCheck.of e
    exact h.readLocs.state.pair

theorem Keeps.distPut {ctx va v} (h : Keeps s₀ s) : KeepsP s₀ (s.distPut ctx va v) := by
  unfold State.distPut
  dsimp only
  split
  next e =>
    have h := h.distAgent.state.distCheck.of e
    exact h.distData.pair
  next e =>
    have h := h.distAgent.state.distCheck.of e
    exact h.writeLocs.pair

theorem Keeps.distAdd {ctx va} (h : Keeps s₀ s) : KeepsP s₀ (s.distAdd ctx va) := by
  unfold State.distAdd
  dsimp only
  split
  next e =>
    have h := h.distAgent.state.distCheck.of e
    exact h.distData.pair
  next e =>
    have h := h.distAgent.state.distCheck.of e
    exact h.amoLocs.state.pair

theorem Keeps.mapWords {ctx va n} (h : Keeps s₀ s) : KeepsP s₀ (s.mapWords ctx va n) := by
  induction n generalizing s va with
  | zero => exact h
  | succ n ih =>
    unfold State.mapWords
    split
    next e => exact (h.distLoad.of e).pair
    next e =>
      have h := h.distLoad.of e
      split
      next e => exact ((ih h).of e).pair
      next e => exact ((ih h).of e).pair

theorem Keeps.readMap {l} (h : Keeps s₀ s) : KeepsP s₀ (s.readMap l) := by
  unfold State.readMap
  dsimp only
  refine branches h.pair (branches h.pair ?_)
  split
  next e =>
    have h := h.mapWords.of e
    exact h.pair
  next e =>
    have h := h.mapWords.of e
    refine branches h.pair ?_
    split
    next e =>
      have h := h.mapWords.of e
      exact h.pair
    next e =>
      have h := h.mapWords.of e
      exact h.pair

theorem Keeps.waitMet {l} (h : Keeps s₀ s) : KeepsP s₀ (s.waitMet l) := by
  unfold State.waitMet
  refine branches h.pair (branches h.pair ?_)
  split
  next e =>
    have h := h.distLoad.of e
    exact h.pair
  next e =>
    have h := h.distLoad.of e
    exact h.pair

theorem Keeps.takeRecord {l ctx late known} (h : Keeps s₀ s) : KeepsP s₀ (s.takeRecord l ctx late known) := by
  unfold State.takeRecord
  dsimp only
  split
  · exact Keeps.pair (KeepsP.state (branches (Keeps.pair (KeepsP.state (branches h.pair h.readMap))) (Keeps.waitMet
    (KeepsP.state (branches h.pair h.readMap)))))
  · exact Keeps.pair (KeepsP.state (branches (Keeps.pair (KeepsP.state (branches h.pair h.readMap))) (Keeps.waitMet
    (KeepsP.state (branches h.pair h.readMap)))))

theorem Keeps.enterPool {d l wait} (h : Keeps s₀ s) : KeepsR s₀ (s.enterPool d l wait) := by
  unfold State.enterPool
  have k : Keeps s₀ (s.mapC fun c => { c with launchRec := none }) := h.mapC rfl
  refine branches k.setLoad.advance.next (branches ?_ (branches (k.mapC (by rfl)).block.next k.setLoad.advance.next))
  exact Keeps.next (Keeps.advance (Keeps.setLoad (Keeps.same (s := State.mapC _ _) k (by rfl))))

theorem Keeps.refuse {l reason} (h : Keeps s₀ s) : Keeps s₀ (s.refuse l reason) := h.same rfl

theorem Keeps.launchStep {d a wait} (h : Keeps s₀ s) : KeepsR s₀ (s.launchStep d a wait) := by
  unfold State.launchStep
  dsimp only
  refine h.withRegs fun _ h => ?_
  split
  · exact h.enterPool
  · split
    · exact h.raise
    · refine h.withRelease fun _ h => ?_
      split
      next e =>
        have h := h.loadWords.of e
        exact h.raise
      next e =>
        have h := h.loadWords.of e
        split
        next e =>
          have h := h.takeRecord.of e
          exact branches h.next h.refuse.raise
        next e =>
          have h := h.takeRecord.of e
          exact h.enterPool

theorem Keeps.execLaunch {d a} (h : Keeps s₀ s) : KeepsR s₀ (execLaunch d a s) := h.launchStep

theorem Keeps.execLaunchW {d a} (h : Keeps s₀ s) : KeepsR s₀ (execLaunchW d a s) := h.launchStep

/-! ### Machine/Events.lean -/

theorem Keeps.execAwaitedCondition (h : Keeps s₀ s) : KeepsR s₀ (execAwaitedCondition s) := by
  unfold Machine.execAwaitedCondition
  split
  · exact Keeps.next (branches (h.mapT (by rfl)) h)
  · exact h.next

theorem Keeps.execPendingPush (h : Keeps s₀ s) : KeepsR s₀ (execPendingPush s) := (h.mapFits fun hq => hq.deliver).next

theorem Keeps.execLoadDataArrival {r} (h : Keeps s₀ s) : KeepsR s₀ (execLoadDataArrival r s) := by
  unfold Machine.execLoadDataArrival
  split
  · exact h.setReg.next
  · exact h.next

theorem Keeps.elementPortion {e} (h : Keeps s₀ s) : KeepsP s₀ (s.elementPortion e) := branches h.pair h.someOf

theorem Keeps.execElementReturn {n} (h : Keeps s₀ s) : KeepsR s₀ (execElementReturn n s) := by
  unfold Machine.execElementReturn
  dsimp only
  split
  · exact branches h.next (branches h.elementPortion.state.mapL.next h.elementPortion.state.land.mapL.next)
  · exact h.next

theorem Keeps.setChan {c} (h : Keeps s₀ s) : Keeps s₀ (s.setChan c) := branches (h.same (by rfl)) (h.same (by rfl))

theorem Keeps.portion {op} (h : Keeps s₀ s) : KeepsP s₀ (s.portion op) := by
  unfold State.portion
  dsimp only
  exact branches h.pair h.someOf.state.pair

theorem Keeps.accessOut {n op} (h : Keeps s₀ s) : Keeps s₀ (s.accessOut n op) :=
  bindP h.portion fun _ _ k => branches h (branches k.performAcc (branches h (k.mapC (by rfl)).setChan))

theorem Keeps.execHomeSliceAccess {n} (h : Keeps s₀ s) : KeepsR s₀ (execHomeSliceAccess n s) := by
  unfold Machine.execHomeSliceAccess
  dsimp only
  split
  · exact branches h.accessOut.next h.next
  · split
    · exact branches h.performLane.next h.next
    · exact h.next

theorem Keeps.execStreamDeadlock (h : Keeps s₀ s) : KeepsR s₀ (execStreamDeadlock s) := by
  unfold Machine.execStreamDeadlock
  split
  · exact branches h.raise h.next
  · exact h.next

theorem Keeps.signal {v} (h : Keeps s₀ s) : Keeps s₀ (s.signal v) := branches h (branches (h.same (by rfl)) (h.same (by rfl)))

theorem Keeps.signalPending (h : Keeps s₀ s) : Keeps s₀ s.signalPending :=
  Keeps.foldl h fun _ _ h => branches (h.same (by rfl)).signal h

theorem Keeps.execFaultRecordWrite (h : Keeps s₀ s) : KeepsR s₀ (execFaultRecordWrite s) := by
  unfold Machine.execFaultRecordWrite
  dsimp only
  split
  · exact Keeps.next (KeepsP.state (branches h.pair h.free))
  · exact branches (Keeps.next (KeepsP.state (branches h.pair h.free))) (Keeps.next (Keeps.signal (Keeps.same
    (Keeps.deviceStore (KeepsP.state (branches h.pair h.free))) (by rfl))))

theorem Keeps.execTcWatch (h : Keeps s₀ s) : KeepsR s₀ (execTcWatch s) := by
  unfold Machine.execTcWatch
  split
  · exact branches h.next (h.mapD (by rfl)).raise
  · exact branches h.next (h.mapD (by rfl)).raise
  · exact h.next

theorem regsWf_frozen {t st w} (h : RegsWf t) : RegsWf { t with
    status := st
    dbg := { t.dbg with stepping := false, ctl := t.dbg.ctl ||| 4 }
    c := { t.c with popWord := none, body := w } } := by
  obtain ⟨h0, h1, h2, h3, h4, h5, h6⟩ := h
  refine ⟨h0, h1, h2, h3, h4, h5, ?_⟩
  show (t.dbg.ctl ||| 4) &&& ~~~0x7D#64 = 0
  rw [BitVec.and_or_distrib_right, h6]; decide

theorem Keeps.execStepEnd (h : Keeps s₀ s) : KeepsR s₀ (execStepEnd s) := by
  refine branches (Keeps.raise ?_) h.next
  exact Keeps.thread (s := State.trace _ _ _ _ _ _ _ _ _ _) h.trace (by rfl) regsWf_frozen

theorem Keeps.execExitComplete (h : Keeps s₀ s) : KeepsR s₀ (execExitComplete s) :=
  branches h.next (branches (h.startFlush.mapC (by rfl)).next (branches h.next h.endTask.next))

/-! ### Machine/Schedule.lean -/

theorem Keeps.setQueue {q} (h : Keeps s₀ s) : Keeps s₀ (s.setQueue q) := h.same rfl

theorem Keeps.ringMet {pa n} (h : Keeps s₀ s) : Keeps s₀ (s.ringMet pa n) := h.meet.state

theorem Keeps.distFault {l f} (h : Keeps s₀ s) : Keeps s₀ (s.distFault l f) :=
  bindP h.newToken fun _ _ h => bindP h.free fun _ _ h => h.addFault.setLaunch

theorem Keeps.refusedRecord {l reason} (h : Keeps s₀ s) : Keeps s₀ (s.refusedRecord l reason) :=
  bindP h.free fun _ _ h => h.addFault

theorem Keeps.rereadLaunch {l} (h : Keeps s₀ s) : Keeps s₀ (s.rereadLaunch l) := by
  unfold State.rereadLaunch
  dsimp only
  refine branches h ?_
  split
  next e =>
    have h := h.waitMet.of e
    exact h.setLaunch
  next e =>
    have h := h.waitMet.of e
    exact h
  next e =>
    have h := h.waitMet.of e
    exact branches h.distFault (Keeps.setLaunch (branches h.refusedRecord h))

theorem Keeps.probeHead {q} (h : Keeps s₀ s) : Keeps s₀ (s.probeHead q) := by
  unfold State.probeHead
  dsimp only
  refine branches h ?_
  split
  · refine branches h.ringMet.ringMet.ringMet.setQueue (branches h.ringMet.ringMet.ringMet.setQueue ?_)
    split
    next e =>
      have h := h.ringMet.ringMet.ringMet.distLoad.of e
      exact h.setQueue
    next e =>
      have h := h.ringMet.ringMet.ringMet.distLoad.of e
      exact h.setQueue
  · exact h.ringMet.ringMet.ringMet.setQueue

theorem Keeps.rereadSource {src} (h : Keeps s₀ s) : Keeps s₀ (s.rereadSource src) :=
  Keeps.foldl (branches h.probeHead h) fun _ _ h => h.rereadLaunch

theorem Keeps.execWaitEventReread {src} (h : Keeps s₀ s) : KeepsR s₀ (execWaitEventReread src s) := h.rereadSource.next

theorem Keeps.rereadPart {part} (h : Keeps s₀ s) : Keeps s₀ (s.rereadPart part) := Keeps.foldl h fun _ _ h => h.rereadSource

theorem Keeps.writeHead {q} (h : Keeps s₀ s) : Keeps s₀ (s.writeHead q) := by
  unfold State.writeHead
  refine branches h (branches ?_ h.setQueue)
  split
  next e =>
    have h := h.errorCheck.of e
    exact h.deviceStore
  next e =>
    have h := h.errorCheck.of e
    exact bindP h.free fun _ _ h => h.addFault.setQueue

theorem Keeps.takeHead {q p} (h : Keeps s₀ s) : Keeps s₀ (s.takeHead q p) := by
  have k {t : State} {x y} (h : Keeps s₀ t) : Keeps s₀ { t with sched := { t.sched with launches := x, nextId := y } } :=
    h.same rfl
  have k' {t : State} {x} (h : Keeps s₀ t) : Keeps s₀ { t with sched := { t.sched with launches := x } } := h.same rfl
  have k'' {t : State} {x} (h : Keeps s₀ t) : Keeps s₀ { t with sched := { t.sched with nextId := x } } := h.same rfl
  unfold State.takeHead
  dsimp only
  split
  · split
    · exact h.ringMet.setQueue
    · exact h.ringMet.setQueue.free.state.addFault
  · split
    next e => exact k' (KeepsP.of (Keeps.takeRecord (k'' h.ringMet.setQueue.writeHead)) e)
    next e => exact Keeps.refusedRecord (k' (KeepsP.of (Keeps.takeRecord (k'' h.ringMet.setQueue.writeHead)) e))

theorem Keeps.takeEntry' {l p} (h : Keeps s₀ s) : Keeps s₀ (s.takeEntry' l p) := by
  unfold State.takeEntry'
  split
  · exact h.setLaunch
  · exact h.setLaunch

theorem Keeps.execSelection (h : Keeps s₀ s) : KeepsR s₀ (execSelection s) := by
  unfold Machine.execSelection
  dsimp only
  refine branches h.next ?_
  split
  · exact h.next
  · refine branches (h.same (by rfl)).takeHead.probeHead.next ?_
    split
    · exact (h.same (by rfl)).takeEntry'.next
    · exact (h.same (by rfl)).next

/-! ### Machine/Stream.lean -/

theorem Keeps.setZ {k z} (h : Keeps s₀ s) : Keeps s₀ (s.setZ k z) := h.mapL

theorem Keeps.badFibre {α : Type} {k reason position} (h : Keeps s₀ s) :
    KeepsP s₀ (s.badFibre (α := α) k reason position) := h.setZ

theorem Keeps.streamRead {k va n} (h : Keeps s₀ s) : KeepsP s₀ (s.streamRead k va n) := by
  unfold State.streamRead
  dsimp only
  split
  · split
    · exact h.setZ.pair
    · exact h.pair
  · split
    next e =>
      have h := h.load.of e
      exact h.pair
    next e =>
      have h := h.load.of e
      exact h.setZ.pair

theorem Keeps.needBounds {k} (h : Keeps s₀ s) : KeepsP s₀ (s.needBounds k) := by
  unfold State.needBounds
  refine branches h.pair ?_
  split
  next e =>
    have h := h.streamRead.of e
    exact h.pair
  next e =>
    have h := h.streamRead.of e
    split
    next e =>
      have h := h.streamRead.of e
      exact h.pair
    next e =>
      have h := h.streamRead.of e
      split
      · exact h.badFibre
      · exact h.setZ.pair

theorem Keeps.scanBits {k n i hi} (h : Keeps s₀ s) : KeepsP s₀ (s.scanBits k n i hi) := by
  induction n generalizing s i with
  | zero => exact h
  | succ n ih =>
    unfold State.scanBits
    refine branches h.pair ?_
    split
    next e => exact (h.streamRead.of e).pair
    next e =>
      have h := h.streamRead.of e
      split
      · exact h.pair
      · exact ih h

theorem Keeps.scanFrom {k coord} (h : Keeps s₀ s) : KeepsP s₀ (s.scanFrom k coord) := by
  unfold State.scanFrom
  dsimp only
  split
  next e => exact (h.scanBits.of e).pair
  next => exact h.scanBits

theorem Keeps.readCrd {k c q} (h : Keeps s₀ s) : KeepsP s₀ (s.readCrd k c q) := by
  unfold State.readCrd
  dsimp only
  split
  next e =>
    have h := h.streamRead.of e
    exact h.pair
  next e =>
    have h := h.streamRead.of e
    exact branches h.badFibre (branches h.badFibre h.pair)

theorem Keeps.peek {k c} (h : Keeps s₀ s) : KeepsP s₀ (s.peek k c) := by
  unfold State.peek
  dsimp only
  refine branches (branches ?_ h.pair) (branches ?_ (branches h.badFibre (branches h.badFibre (branches h.pair ?_))))
  · split
    next e =>
      have h := h.scanFrom.of e
      exact h.pair
    next e =>
      have h := h.scanFrom.of e
      exact h.badFibre
    next e =>
      have h := h.scanFrom.of e
      exact h.pair
  · split
    next e =>
      have h := h.scanFrom.of e
      exact h.pair
    next e =>
      have h := h.scanFrom.of e
      exact branches h.badFibre h.pair
    next e =>
      have h := h.scanFrom.of e
      exact branches h.badFibre h.pair
  · split
    next e =>
      have h := h.readCrd.of e
      exact h.pair
    next e =>
      have h := h.readCrd.of e
      exact h.pair

theorem Keeps.nextCommon {k j n a b} (h : Keeps s₀ s) : KeepsP s₀ (s.nextCommon k j n a b) := by
  induction n generalizing s a b with
  | zero => exact h
  | succ n ih =>
    unfold State.nextCommon
    refine branches h.pair (branches ?_ ?_)
    · split
      next e => exact (h.peek.of e).pair
      next e => exact (h.peek.of e).pair
    · split
      next e => exact (h.peek.of e).pair
      next e => exact (h.peek.of e).pair
      next e =>
        have h := h.peek.of e
        split
        next e => exact (h.peek.of e).pair
        next e => exact (h.peek.of e).pair
        next e =>
          have h := h.peek.of e
          exact branches h.pair (branches (ih h) (ih h))

theorem Keeps.nextEither {k j a b} (h : Keeps s₀ s) : KeepsP s₀ (s.nextEither k j a b) := by
  unfold State.nextEither
  split
  next e =>
    have h := h.peek.of e
    exact h.pair
  next e =>
    have h := h.peek.of e
    split
    next e =>
      have h := h.peek.of e
      exact h.pair
    next e =>
      have h := h.peek.of e
      split
      · exact h.pair
      · exact h.pair
      · exact h.pair
      · exact branches h.pair (branches h.pair h.pair)

theorem Keeps.nextItem {k a b} (h : Keeps s₀ s) : KeepsP s₀ (s.nextItem k a b) := by
  unfold State.nextItem
  dsimp only
  split
  · exact h.nextCommon
  · exact h.nextEither
  · split
    next e =>
      have h := h.peek.of e
      exact h.pair
    next e =>
      have h := h.peek.of e
      exact h.pair
    next e =>
      have h := h.peek.of e
      exact h.pair

theorem Keeps.pullGo {k n a b} (h : Keeps s₀ s) : KeepsP s₀ (s.pullGo k n a b) := by
  induction n generalizing s a b with
  | zero => exact h
  | succ n ih =>
    unfold State.pullGo
    split
    next e => exact (h.nextItem.of e).pair
    next e => exact (h.nextItem.of e).pair
    next e => exact (ih (h.nextItem.of e)).state.pair

theorem Keeps.pairBounds {k} (h : Keeps s₀ s) : KeepsP s₀ (s.pairBounds k) := by
  unfold State.pairBounds
  dsimp only
  refine branches h.pair ?_
  split
  next e =>
    have h := h.needBounds.of e
    exact h.pair
  next e =>
    have h := h.needBounds.of e
    exact branches h.pair h.needBounds

theorem Keeps.pull {k n} (h : Keeps s₀ s) : KeepsP s₀ (s.pull k n) := by
  unfold State.pull
  dsimp only
  refine branches h.pair ?_
  split
  next e =>
    have h := h.pairBounds.of e
    exact h.pair
  next e =>
    have h := h.pairBounds.of e
    exact h.pullGo

theorem Keeps.goTo {k a b} (h : Keeps s₀ s) : Keeps s₀ (s.goTo k a b) := branches h.setZ h.setZ.setZ

theorem Keeps.laneWords {va n} (h : Keeps s₀ s) : KeepsP s₀ (s.laneWords va n) := by
  induction n generalizing s va with
  | zero => exact h
  | succ n ih =>
    unfold State.laneWords
    split
    next e => exact (h.load.of e).pair
    next e =>
      have h := h.load.of e
      split
      next e => exact ((ih h).of e).pair
      next e => exact ((ih h).of e).pair

theorem Keeps.execZopen {z a lev b} (h : Keeps s₀ s) : KeepsR s₀ (execZopen z a lev b s) := by
  unfold Machine.execZopen
  dsimp only
  refine h.laneRun fun _ h => branches h.raise (branches h.raise ?_)
  split
  · exact h.raise
  · split
    next e =>
      have h := h.laneWords.of e
      exact h.raise
    next e =>
      have h := h.laneWords.of e
      refine branches h.raise ?_
      split
      next e =>
        have h := h.laneWords.of e
        exact h.raise
      next e =>
        have h := h.laneWords.of e
        refine branches h.raise ?_
        split
        · exact h.raise
        · exact h.setZ.laneDone.next

theorem Keeps.onOpen {i z k} (h : Keeps s₀ s) (hk : ∀ s, Keeps s₀ s → KeepsR s₀ (k s)) : KeepsR s₀ (s.onOpen i z k) :=
  h.laneRun fun s h => branches (hk s h) h.raise

theorem Keeps.execZadv {z} (h : Keeps s₀ s) : KeepsR s₀ (execZadv z s) := by
  unfold Machine.execZadv
  dsimp only
  refine h.onOpen fun _ h => ?_
  split
  · exact h.pull.state.goTo.raise
  · exact h.pull.state.goTo.laneDone.next

theorem Keeps.zload {i g z consume} {deliver : State → List (Nat × Merged) → State × Nat} (h : Keeps s₀ s)
    (hd : ∀ s xs, Keeps s₀ s → Keeps s₀ (deliver s xs).1) : KeepsR s₀ (s.zload i g z consume deliver) := by
  refine h.onOpen fun s h => ?_
  have push {t : State} {v} (h : Keeps s₀ t) : Keeps s₀ (t.mapQ (·.push 2 v)) := h.mapFits fun hq => hq.push _ _
  have step {t : State} {c : Bool} {p : Pulled} (h : Keeps s₀ t) : Keeps s₀ (if c then t.goTo z p.a p.b else t) :=
    branches h.goTo h
  dsimp only
  refine branches (push h).laneEnd.next ?_
  split
  · exact (Keeps.mapL (Keeps.addFlags (step (hd _ _ h.pull.state)))).raise
  · exact (push (step (hd _ _ h.pull.state))).laneEnd.next

theorem Keeps.deliverTo {d f xs} (h : Keeps s₀ s) : Keeps s₀ (State.deliverTo d f s xs).1 := h.writeLanes

theorem Keeps.execZldC {g d z} (h : Keeps s₀ s) : KeepsR s₀ (execZldC g d z s) := h.zload fun _ _ h => h.deliverTo

theorem Keeps.execZldP {g d z} (h : Keeps s₀ s) : KeepsR s₀ (execZldP g d z s) := h.zload fun _ _ h => h.deliverTo

theorem Keeps.execZldCK {g d z} (h : Keeps s₀ s) : KeepsR s₀ (execZldCK g d z s) := h.zload fun _ _ h => h.deliverTo

theorem Keeps.execZldPK {g d z} (h : Keeps s₀ s) : KeepsR s₀ (execZldPK g d z s) := h.zload fun _ _ h => h.deliverTo

theorem Keeps.execZldM {g d z} (h : Keeps s₀ s) : KeepsR s₀ (execZldM g d z s) :=
  h.onOpen fun _ h => branches h.raise (h.zload fun _ _ h => h.setCols.setCols)

theorem Keeps.merge {i z m mode} (h : Keeps s₀ s) : KeepsR s₀ (s.merge i z m mode) :=
  h.laneRun fun _ h => branches h.raise h.setZ.setZ.laneDone.next

theorem Keeps.execZisect {z m} (h : Keeps s₀ s) : KeepsR s₀ (execZisect z m s) := h.merge

theorem Keeps.execZunion {z m} (h : Keeps s₀ s) : KeepsR s₀ (execZunion z m s) := h.merge

theorem Keeps.searchRead {k c seen q} (h : Keeps s₀ s) : KeepsP s₀ (s.searchRead k c seen q) := by
  unfold State.searchRead
  split
  next e =>
    have h := h.readCrd.of e
    exact h.pair
  next e =>
    have h := h.readCrd.of e
    refine branches h.badFibre ?_
    split
    · exact h.badFibre
    · exact h.pair

theorem Keeps.gallop {k c t n lo d seen} (h : Keeps s₀ s) : KeepsP s₀ (s.gallop k c t n lo d seen) := by
  induction n generalizing s lo d seen with
  | zero => exact h
  | succ n ih =>
    unfold State.gallop
    refine branches ?_ h.pair
    split
    next e => exact (h.searchRead.of e).pair
    next e => exact branches (h.searchRead.of e).pair (ih (h.searchRead.of e))

theorem Keeps.bisect {k c t n lo hi seen} (h : Keeps s₀ s) : KeepsP s₀ (s.bisect k c t n lo hi seen) := by
  induction n generalizing s lo hi seen with
  | zero => exact h
  | succ n ih =>
    unfold State.bisect
    refine branches ?_ h.pair
    dsimp only
    split
    next e => exact (h.searchRead.of e).pair
    next e => exact branches (ih (h.searchRead.of e)) (ih (h.searchRead.of e))

theorem KeepsP.stays {c : Cur} {α : Type} {r : Except Trap α × State} (h : KeepsP s₀ r) : Keeps s₀ (c.stays r).2.2 := by
  unfold Cur.stays
  split <;> exact h

theorem Keeps.passBits {k t hi n c} (h : Keeps s₀ s) : Keeps s₀ (s.passBits k t hi n c).2.2 := by
  induction n generalizing s c with
  | zero => exact h
  | succ n ih =>
    unfold State.passBits
    dsimp only
    split
    · exact h
    split
    next e => exact h.scanBits.of e
    next e =>
      have h := h.scanBits.of e
      split
      · exact h.badFibre.stays
      · exact h
    next e =>
      have h := h.scanBits.of e
      have q {c : Prop} [Decidable c] {a b : Option Trap × Cur × State} (ha : Keeps s₀ a.2.2) (hb : Keeps s₀ b.2.2) :
          Keeps s₀ (if c then a else b).2.2 := branches (Q := fun r : Option Trap × Cur × State => Keeps s₀ r.2.2) ha hb
      exact q h.badFibre.stays (q h.badFibre.stays (q h (ih h)))

theorem Keeps.passOne {k t c} (h : Keeps s₀ s) : Keeps s₀ (s.passOne k t c).2.2 := by
  unfold State.passOne
  split
  next e => exact h.peek.of e
  next => exact h.peek.stays

theorem Keeps.passed {k} {r : Option Trap × Cur × State} (h : Keeps s₀ r.2.2) : KeepsP s₀ (State.passed k r) := by
  unfold State.passed
  dsimp only
  split
  · exact h.setZ.pair
  · exact h.setZ.pair

theorem Keeps.skipTo {k t} (h : Keeps s₀ s) : KeepsP s₀ (s.skipTo k t) := by
  unfold State.skipTo
  refine branches h.pair ?_
  dsimp only
  split
  next e => exact (h.needBounds.of e).pair
  next e =>
    have h := h.needBounds.of e
    refine branches h.pair ?_
    split
    · exact Keeps.pair (branches h h.setZ)
    · split
      next e => exact (h.gallop.of e).pair
      next e =>
        have h := h.gallop.of e
        split
        next e => exact (h.bisect.of e).pair
        next e => exact Keeps.pair (branches (h.bisect.of e) (h.bisect.of e).setZ)
    · exact Keeps.passed h.passBits
    · exact Keeps.passed h.passOne

theorem Keeps.execZskip {z b} (h : Keeps s₀ s) : KeepsR s₀ (execZskip z b s) := by
  unfold Machine.execZskip
  dsimp only
  refine h.onOpen fun _ h => ?_
  split
  next e =>
    have h := h.skipTo.of e
    exact h.raise
  next e =>
    have h := h.skipTo.of e
    refine branches h.laneDone.next ?_
    split
    next e =>
      have h := h.skipTo.of e
      exact h.setZ.raise
    next e =>
      have h := h.skipTo.of e
      exact h.laneDone.next

theorem Keeps.oneEnded {k} (h : Keeps s₀ s) : KeepsP s₀ (s.oneEnded k) := by
  unfold State.oneEnded
  dsimp only
  split
  next e =>
    have h := h.needBounds.of e
    exact h.pair
  next e =>
    have h := h.needBounds.of e
    refine branches h.pair ?_
    split
    next e =>
      have h := h.peek.of e
      exact h.pair
    next e =>
      have h := h.peek.of e
      exact h.pair
    next e =>
      have h := h.peek.of e
      exact h.setZ.pair

theorem Keeps.testEnd {k} (h : Keeps s₀ s) : KeepsP s₀ (s.testEnd k) := by
  unfold State.testEnd
  split
  · dsimp only
    split
    · exact h.pull.state.pair
    · exact Keeps.pair (branches h.pull.state.goTo h.pull.state)
  · split
    next e => exact (h.oneEnded.of e).oneEnded
    next => exact h.oneEnded
  · exact h.oneEnded

theorem Keeps.execBzEnd {z o} (h : Keeps s₀ s) : KeepsR s₀ (execBzEnd z o s) := by
  refine h.onOpen fun _ h => ?_
  split
  next e => exact (h.testEnd.of e).raise
  next e => exact (Keeps.mapFits (h.testEnd.of e) fun hq => hq.pushBo _).laneDone.next

theorem Keeps.execZclose {z} (h : Keeps s₀ s) : KeepsR s₀ (execZclose z s) :=
  h.onOpen fun _ h => Keeps.next (Keeps.laneDone (branches h.setZ h.setZ.setZ))

theorem Keeps.keepAhead {k r} (h : Keeps s₀ s) : Keeps s₀ (s.keepAhead k r) := h.setZ

theorem Keeps.execStreamFetchAhead {k} (h : Keeps s₀ s) : KeepsR s₀ (execStreamFetchAhead k s) := by
  unfold Machine.execStreamFetchAhead
  dsimp only
  split
  · exact h.free.state.next
  · split
    next e =>
      have h := h.free.state.load.of e
      exact Keeps.next (Keeps.keepAhead (branches h.addFault h))
    next e =>
      have h := h.free.state.load.of e
      exact h.keepAhead.next

/-! ### Machine/Save.lean -/

theorem Keeps.putStack {base depth rank cols} (h : Keeps s₀ s) : Keeps s₀ (s.putStack base depth rank cols) :=
  Keeps.foldl h fun _ _ h => h.putRange

theorem Keeps.putTile {base uid t} (h : Keeps s₀ s) : Keeps s₀ (s.putTile base uid t) := h.putRange.carry

theorem Keeps.imageBad {ctx slot m} (h : Keeps s₀ s) : KeepsP s₀ (s.imageBad ctx slot m) :=
  branches h.writeBack.carry.pair h.pair

theorem Thread.asSaved_core (t : Thread) : t.asSaved.core = t.core := rfl

theorem Keeps.withFresh {n} (h : Keeps s₀ s) : Keeps s₀ { s with fresh := n } := h.same rfl

theorem Keeps.saveAs {x : Saved} {o n} (h : Keeps s₀ s) (hx : RegInv s₀ → RegsWf x.th) : Keeps s₀ { s with
    saved := s.saved ++ [x]
    away := o
    t := Thread.fresh n } := by
  refine ⟨h.wf, fun h0 => ?_⟩
  refine Keeps.inv (Keeps.threads (Keeps.refl s) (by rfl) fun hth hsv => ⟨?_, ?_⟩) (h.inv h0)
  · exact List.forall_mem_cons.2 ⟨regsWf_fresh n, (List.forall_mem_cons.1 hth).2⟩
  · intro y hy
    rcases List.mem_append.1 hy with hy | hy
    · exact hsv y hy
    · rw [List.mem_singleton.1 hy]; exact hx h0

theorem Keeps.badUnits {units : List MoveUnit} {ctx slot} (h : Keeps s₀ s) : KeepsP s₀ (if s.fleet.errors.isEmpty then (units,
    s)
    else units.foldl (fun (acc : List MoveUnit × State) m =>
      ((acc.1 ++ [(acc.2.imageBad ctx slot m).1]), (acc.2.imageBad ctx slot m).2)) ([], s)) :=
  branches h.pair (KeepsP.foldl h.pair fun _ _ h => Keeps.imageBad h.state)

theorem Keeps.saveThread (h : Keeps s₀ s) : Keeps s₀ s.saveThread := by
  unfold State.saveThread
  dsimp only
  refine Keeps.leaveUnit (Keeps.preemptLeft (Keeps.forgetTask (Keeps.saveAs ?_ fun hs => ?_)))
  · refine Keeps.foldl (Keeps.foldl (Keeps.foldl (Keeps.foldl (Keeps.withFresh (Keeps.putWords h.badUnits.state))
      fun _ _ h => h.putStack) fun _ _ h => h.putTile) fun _ _ h => h.clearQuad) fun _ _ h => h.clearSeg
  · exact regsWf_of_core (Thread.asSaved_core _) (regsWf_t (h.inv hs))

theorem Thread.stopMmul_core (t : Thread) : t.stopMmul.core = t.core := by
  unfold Thread.stopMmul; split <;> rfl

theorem Keeps.execSave (h : Keeps s₀ s) : KeepsR s₀ (execSave s) := by
  unfold Machine.execSave
  refine branches h.next ?_
  have k : Keeps s₀ ((s.drainLane.finishLanes.drainAccs).mapT Thread.stopMmul) :=
    h.drainLane.finishLanes.drainAccs.mapT (Thread.stopMmul_core _)
  have k' : Keeps s₀ (((s.drainLane.finishLanes.drainAccs).mapT Thread.stopMmul).t.c.loads.foldl
    (fun s p => s.setReg (sreg p.1) p.2) ((s.drainLane.finishLanes.drainAccs).mapT Thread.stopMmul)) :=
    k.foldl fun _ _ h => h.setReg
  exact branches k'.laneFlushStart.next (branches k'.saveThread.next k'.next)

/-! ### Machine/Resume.lean -/

theorem Keeps.getStack {base depth} (h : Keeps s₀ s) : Keeps s₀ (s.getStack base depth) :=
  Keeps.foldl h fun _ _ h => Keeps.foldl h fun _ _ h => Keeps.foldl h fun _ _ h => h.setColAt

theorem Keeps.getTile {base t} (h : Keeps s₀ s) : Keeps s₀ (s.getTile base t) := (h.same (by rfl)).carry

theorem Keeps.stopSet {site} (h : Keeps s₀ s) : Keeps s₀ (s.stopSet site) := h.setCluster

end Sys2Proof.Machine
end

section
/-! PROOFS of 01_machine.md: what `Keeps` says, through the resumption and the placement of tasks. -/

namespace Sys2Proof.Machine

variable {s₀ s : State}

/-! ### Machine/Resume.lean -/

theorem State.imageCtrl_zero (s : State) (base : Nat) (c : Ctrl) (l : List LaneEntry) : (s.imageCtrl base c l).s[0] = 0 := by
  unfold State.imageCtrl
  rw [reissueAll_s]
  exact Vector.getElem_set_self (by decide)

theorem State.imageQueues_fits (s : State) (base : Nat) (q : Queues) (l : List LaneEntry) :
    (s.imageQueues base q l).Fits := by
  simp [State.imageQueues, Queues.Fits, State.imageWords, queueDepth]

theorem Keeps.withAway {l} (h : Keeps s₀ s) : Keeps s₀ { s with away := l } := h.same rfl

theorem dbgctl_stop {x : Word} {b : Bool} (h : x &&& ~~~0x7D#64 = 0) : (if b then x ||| 4 else x) &&& ~~~0x7D#64 = 0 := by
  split
  · rw [BitVec.and_or_distrib_right, h]; decide
  · exact h

theorem dbgctl_masked {x : Word} {b : Bool} : (if b then 0 else x &&& dbgMask) &&& ~~~0x7D#64 = 0 := by
  split
  · exact BitVec.zero_and
  · rw [BitVec.and_assoc, show dbgMask &&& ~~~0x7D#64 = 0#64 by decide, BitVec.and_zero]; rfl

theorem Keeps.restoreAt {x site quads} (h : Keeps s₀ s) : Keeps s₀ (s.restoreAt x site quads) := by
  unfold State.restoreAt
  dsimp only
  refine (fun k : Keeps s₀ _ => branches k.failSelf k) ?_
  refine Keeps.mapT ?_ (Thread.applyFz_core _ _)
  refine (fun k : Keeps s₀ _ => branches k.stopSet k) ?_
  refine Keeps.foldl (Keeps.getStack (Keeps.withAway (Keeps.foldl (Keeps.giveSegs (Keeps.giveTiles (Keeps.giveQuads ?_)))
    fun _ _ h => h.putUnit))) fun _ _ h => h.getTile
  refine Keeps.withThread (s := State.focus _ _) h.selfRead.state.filterSaved.hostUnit.focus (by rfl) fun hs => ?_
  refine regsWf_iff.2 ⟨State.imageCtrl_zero _ _ _ _, ?_, dbgctl_stop dbgctl_masked⟩
  dsimp only
  exact State.imageQueues_fits _ _ _ _

theorem keepsO_map {α : Type} {o : Option α} {f : α → State} (hf : ∀ x, Keeps s₀ (f x)) : KeepsO s₀ (o.map f) := by
  intro t ht
  obtain ⟨x, -, rfl⟩ := Option.map_eq_some_iff.1 ht
  exact hf x

theorem keepsO_bind {α : Type} {o : Option α} {f : α → Option State} (hf : ∀ x, KeepsO s₀ (f x)) : KeepsO s₀ (o.bind f) := by
  intro t ht
  obtain ⟨x, -, hx⟩ := Option.bind_eq_some_iff.1 ht
  exact hf x t hx

theorem keepsO_findSome {α : Type} {l : List α} {f : α → Option State} (hf : ∀ x, KeepsO s₀ (f x)) :
    KeepsO s₀ (l.findSome? f) := by
  intro t ht
  obtain ⟨x, -, hx⟩ := List.exists_of_findSome?_eq_some ht
  exact hf x t hx

theorem KeepsO.bind {o : Option State} {f : State → Option State} (h : KeepsO s₀ o)
    (hf : ∀ s, Keeps s₀ s → KeepsO s₀ (f s)) : KeepsO s₀ (o.bind f) := by
  intro t ht
  obtain ⟨x, hx, hxt⟩ := Option.bind_eq_some_iff.1 ht
  exact hf x (h x hx) t hxt

theorem KeepsO.foldl {α : Type} {f : Option State → α → Option State} {l : List α} {o : Option State} (h : KeepsO s₀ o)
    (hf : ∀ o x, KeepsO s₀ o → KeepsO s₀ (f o x)) : KeepsO s₀ (l.foldl f o) := by
  induction l generalizing o with
  | nil => exact h
  | cons x l ih => exact ih (hf o x h)

theorem Keeps.resumeOn {x uid} (h : Keeps s₀ s) : KeepsO s₀ (s.resumeOn x uid) := by
  have k {o : Option Nat} {quads} : KeepsO s₀ (o.map fun site => s.restoreAt x site quads) := keepsO_map fun _ => h.restoreAt
  unfold State.resumeOn
  exact branches keepsO_none (branches (branches k keepsO_none) (branches keepsO_none k))

/-! ### Machine/Place.lean -/

theorem Keeps.placeIn {l leaf home j ords units} (h : Keeps s₀ s)
    (hl : ∀ s ord units, Keeps s₀ s → KeepsO s₀ (leaf s ord units)) : KeepsO s₀ (placeIn l leaf home j s ords units) := by
  induction j generalizing s ords units with
  | zero => exact h.just.foldl fun _ _ h => h.bind fun _ h => hl _ _ _ h
  | succ j ih =>
    unfold Machine.placeIn
    have k {sub : List Nat} {units} : KeepsO s₀ (sub.foldl (fun o g => o.bind (fun s =>
        Machine.placeIn l leaf home j s (ords.filter (fun k => k / l.groupSize j == g)) units)) (some s)) :=
      h.just.foldl fun _ _ h => h.bind fun _ h => ih h
    exact branches (keepsO_findSome fun _ => k) k

theorem Keeps.bindOne {l ord units} (h : Keeps s₀ s) : KeepsO s₀ (State.bindOne l s ord units) := by
  unfold State.bindOne
  split
  · exact keepsO_none
  · exact keepsO_findSome fun _ => branches (keepsO_map fun _ => h.bindTask) keepsO_none

theorem Keeps.placeGroup {l g die} (h : Keeps s₀ s) : KeepsO s₀ (s.placeGroup l g die) := by
  have k : KeepsO s₀ (Machine.placeIn l (State.bindOne l) (fun _ => none) (l.placeLevel.getD 0) s (l.groupTasks g) (dieUnits
    die)) :=
    h.placeIn fun _ _ _ h => h.bindOne
  unfold State.placeGroup
  dsimp only
  split
  · exact keepsO_none
  next e => exact keepsO_map fun _ => (k.of e).setLaunch

theorem Keeps.sendNext (h : Keeps s₀ s) : Keeps s₀ s.sendNext := by
  unfold State.sendNext
  dsimp only
  split
  · exact h
  · split
    · exact h
    · exact h.setLaunch

theorem Keeps.resumeOne {l ord units} (h : Keeps s₀ s) : KeepsO s₀ (State.resumeOne l s ord units) := by
  unfold State.resumeOne
  split
  · exact keepsO_none
  · exact keepsO_findSome fun _ => h.resumeOn

theorem Keeps.dropSaved {xs} (h : Keeps s₀ s) : Keeps s₀ (s.dropSaved xs) := by
  refine h.filterSaved.foldl fun _ _ h => ?_
  split
  · exact h
  · exact h.setLaunch

theorem Thread.evict_core (t : Thread) : t.evict.core = t.core := by
  unfold Thread.evict; split <;> rfl

theorem Keeps.evictOn {dies} (h : Keeps s₀ s) : Keeps s₀ (s.evictOn dies) := by
  unfold State.evictOn
  dsimp only
  split
  · exact h
  · refine Keeps.mapThreads (s := s.free.2) h.free.state (by rfl) fun x hx => ?_
    split
    · exact regsWf_of_core x.evict_core hx
    · exact hx

theorem Keeps.makeRoom {dies} (h : Keeps s₀ s) : Keeps s₀ (s.makeRoom dies) := branches h h.evictOn

theorem Keeps.resumeGroup {l g dies} (h : Keeps s₀ s) : KeepsO s₀ (s.resumeGroup l g dies) :=
  h.placeIn fun _ _ _ h => h.resumeOne

theorem Keeps.roomFor {g dies} (h : Keeps s₀ s) : Keeps s₀ (s.roomFor g dies) := branches h (branches h.makeRoom h.makeRoom)

theorem Keeps.execResumePlacement {task} (h : Keeps s₀ s) : KeepsR s₀ (execResumePlacement task s) := by
  unfold Machine.execResumePlacement
  dsimp only
  split
  · exact h.next
  · refine branches h.next ?_
    split
    · exact h.next
    · split
      next e =>
        have h := h.resumeGroup.of e
        exact h.next
      · exact branches h.dropSaved.next h.roomFor.next

theorem Keeps.placePackage {l gs} (h : Keeps s₀ s) : KeepsO s₀ (s.placePackage l gs) :=
  h.just.foldl fun _ _ h => h.bind fun _ h => keepsO_bind fun _ => keepsO_bind fun _ => branches keepsO_none h.placeGroup

theorem Keeps.sendPackage {part} (h : Keeps s₀ s) : Keeps s₀ (s.sendPackage part) := by
  unfold State.sendPackage
  dsimp only
  split
  · exact h
  · refine bindOSome h.placePackage (fun _ h => h) (branches h.setLaunch ?_)
    split
    · exact h
    · exact branches h (branches h.setLaunch h.makeRoom)

theorem Keeps.serveDie {die} (h : Keeps s₀ s) : Keeps s₀ (s.serveDie die) := by
  unfold State.serveDie
  dsimp only
  split
  · exact h
  · exact branches h (bindOSome h.placeGroup (fun _ h => h) (branches h.setLaunch h.makeRoom))

theorem Keeps.execGroupPlacement {die} (h : Keeps s₀ s) : KeepsR s₀ (execGroupPlacement die s) :=
  branches h.next h.sendNext.sendPackage.serveDie.next

theorem Keeps.stepFault {l f step} (h : Keeps s₀ s) : Keeps s₀ (s.stepFault l f step) := branches h.distFault h.setLaunch

theorem Keeps.wakeParent {l} (h : Keeps s₀ s) : Keeps s₀ (s.wakeParent l) := by
  refine h.mapAll rfl (fun x hx => ?_) fun x hx => ?_
  · split <;> exact hx
  · split <;> exact hx

theorem Keeps.writeStatus {l} (h : Keeps s₀ s) : Keeps s₀ (s.writeStatus l) := by
  unfold State.writeStatus
  refine branches h.setLaunch ?_
  split
  next e =>
    have h := h.distPut.of e
    exact h.setLaunch
  next e =>
    have h := h.distPut.of e
    exact h.stepFault

theorem Keeps.addSignal {l} (h : Keeps s₀ s) : Keeps s₀ (s.addSignal l) := by
  unfold State.addSignal
  refine branches h.setLaunch ?_
  split
  next e =>
    have h := h.distAdd.of e
    exact h.wakeParent.setLaunch.rereadPart
  next e =>
    have h := h.distAdd.of e
    exact h.stepFault

theorem Keeps.endLaunch {l} (h : Keeps s₀ s) : Keeps s₀ (s.endLaunch l) := Keeps.same (branches h.signal h) (by rfl)

theorem Keeps.execLaunchCompletion {id} (h : Keeps s₀ s) : KeepsR s₀ (execLaunchCompletion id s) := by
  unfold Machine.execLaunchCompletion
  dsimp only
  refine branches h.next (Keeps.next ?_)
  split
  · refine branches (Keeps.endLaunch ?_) ?_
    · split
      · refine branches (Keeps.addSignal ?_) ?_
        · split
          · exact branches h.writeStatus h
          · exact h
        · split
          · exact branches h.writeStatus h
          · exact h
      · split
        · exact branches h.writeStatus h
        · exact h
    · split
      · refine branches (Keeps.addSignal ?_) ?_
        · split
          · exact branches h.writeStatus h
          · exact h
        · split
          · exact branches h.writeStatus h
          · exact h
      · split
        · exact branches h.writeStatus h
        · exact h
  · split
    · refine branches (Keeps.addSignal ?_) ?_
      · split
        · exact branches h.writeStatus h
        · exact h
      · split
        · exact branches h.writeStatus h
        · exact h
    · split
      · exact branches h.writeStatus h
      · exact h

/-! ### Machine/Mailbox.lean -/

theorem Keeps.mbValue {a} (h : Keeps s₀ s) : KeepsP s₀ (s.mbValue a) := by
  unfold State.mbValue
  split
  · exact h.pair
  · exact (h.same (by rfl)).pair

theorem Keeps.finish {result r0 r1} (h : Keeps s₀ s) : Keeps s₀ (s.finish result r0 r1) := by
  unfold State.finish
  dsimp only
  exact (h.mbValue.state.mbValue.state.same (by rfl)).signal

theorem Keeps.done {result} (h : Keeps s₀ s) : KeepsR s₀ (s.done result) := h.finish.next

theorem Keeps.wait (h : Keeps s₀ s) : Keeps s₀ s.wait := h.same rfl

end Sys2Proof.Machine
end

section
/-! PROOFS of 01_machine.md: what `Keeps` says, through the mailbox, contexts, the fabric and what comes from outside. -/

namespace Sys2Proof.Machine

variable {s₀ s : State}

/-! ### Machine/Mailbox.lean -/

theorem Keeps.commandOk {bad denied k} (h : Keeps s₀ s) (hk : bad = false → denied = false → KeepsR s₀ (k s)) :
    KeepsR s₀ (s.command bad denied k) := by
  unfold State.command
  cases bad <;> cases denied
  · exact branches h.next (hk rfl rfl)
  all_goals exact branches h.next h.done

theorem Keeps.command {bad denied k} (h : Keeps s₀ s) (hk : ∀ s, Keeps s₀ s → KeepsR s₀ (k s)) :
    KeepsR s₀ (s.command bad denied k) := h.commandOk fun _ _ => hk s h

theorem Keeps.writeCommand {v trusted} (h : Keeps s₀ s) : Keeps s₀ (s.writeCommand v trusted) :=
  branches h (branches (h.same (by rfl)) (h.same (by rfl)))

theorem Keeps.deviceWrite {pa l} (h : Keeps s₀ s) : Keeps s₀ (s.deviceWrite pa l) := h.deviceStore

theorem Keeps.execQcfg (h : Keeps s₀ s) : KeepsR s₀ (execQcfg s) := h.command fun _ h => h.setQueue.done

theorem Keeps.execQenable (h : Keeps s₀ s) : KeepsR s₀ (execQenable s) := by
  unfold Machine.execQenable
  dsimp only
  exact h.command fun _ h => h.setQueue.probeHead.done

theorem Keeps.execQdisable (h : Keeps s₀ s) : KeepsR s₀ (execQdisable s) := h.command fun _ h => h.setQueue.wait.next

theorem Keeps.execQprio (h : Keeps s₀ s) : KeepsR s₀ (execQprio s) := h.command fun _ h => h.setQueue.done

theorem Keeps.execQreset (h : Keeps s₀ s) : KeepsR s₀ (execQreset s) := h.command fun _ h => h.setQueue.done

theorem Keeps.execSetage (h : Keeps s₀ s) : KeepsR s₀ (execSetage s) := h.command fun _ h => (h.same (by rfl)).done

/-! ### Machine/Context.lean -/

theorem Keeps.package {t : State} (h : Keeps s₀ s) (e : (t.t, t.others, t.saved, t.mem) = (s.t, s.others, s.saved, s.mem))
    (ht : RegInv s → (∀ c ∈ t.ctxs, c.dbgctl &&& ~~~0x7D#64 = 0) ∧ t.power.state ≤ 5 ∧ t.power.target ≤ 5
      ∧ (t.power.phase ≤ 6 ∨ t.power.phase = 15) ∧ t.gts < 2 ^ 64) : Keeps s₀ t := by
  simp only [Prod.mk.injEq] at e
  obtain ⟨et, eo, es, em⟩ := e
  refine ⟨fun h0 => MemWf_of_mem (h.wf h0) em, fun h0 => ?_⟩
  obtain ⟨hth, hsv, -⟩ := h.inv h0
  refine ⟨?_, es ▸ hsv, ht (h.inv h0)⟩
  unfold State.threads
  rw [et, eo]
  exact hth

theorem Keeps.withCtxs {t : State} (h : Keeps s₀ s)
    (e : (t.t, t.others, t.saved, t.mem, t.power, t.gts) = (s.t, s.others, s.saved, s.mem, s.power, s.gts))
    (hc : RegInv s → ∀ c ∈ t.ctxs, c.dbgctl &&& ~~~0x7D#64 = 0) : Keeps s₀ t := by
  simp only [Prod.mk.injEq] at e
  obtain ⟨et, eo, es, em, ep, eg⟩ := e
  refine h.package (by rw [et, eo, es, em]) fun hs => ⟨hc hs, ?_⟩
  rw [ep, eg]
  exact hs.2.2.2

theorem dbgctl_ctxs (h : RegInv s) : ∀ c ∈ s.ctxs, c.dbgctl &&& ~~~0x7D#64 = 0 := h.2.2.1

theorem Keeps.setCtx {c} (h : Keeps s₀ s) (hc : RegInv s₀ → c.dbgctl &&& ~~~0x7D#64 = 0) : Keeps s₀ (s.setCtx c) := by
  have k (h0 : RegInv s₀) : Keeps s (s.setCtx c) := (Keeps.refl s).withCtxs rfl fun hs x hx => by
    obtain ⟨y, hy, rfl⟩ := List.mem_map.1 hx
    split
    · exact hc h0
    · exact dbgctl_ctxs hs y hy
  exact ⟨fun h0 => h.wf h0, fun h0 => (k h0).inv (h.inv h0)⟩

theorem dbgctl_dbgMask {x : Word} : x &&& dbgMask &&& ~~~0x7D#64 = 0 := dbgctl_masked (b := false)

theorem Keeps.recordMet {c a} (h : Keeps s₀ s) : KeepsP s₀ (s.recordMet c a) := h.selfRead

theorem Keeps.recordRead {b : Bool} {c a} (h : Keeps s₀ s) : KeepsP s₀ (if b then (true, s) else s.recordMet c a) :=
  branches h.pair h.recordMet

theorem dbgctl_readCtx {n a} : (s.readCtx n a).dbgctl &&& ~~~0x7D#64 = 0 := dbgctl_dbgMask

theorem Keeps.addCtx {c} (h : Keeps s₀ s) (hc : c.dbgctl &&& ~~~0x7D#64 = 0) : Keeps s₀ { s with ctxs := s.ctxs ++ [c] } :=
  h.withCtxs rfl fun hs x hx => by
    rcases List.mem_append.1 hx with hx | hx
    · exact dbgctl_ctxs hs x hx
    · rw [List.mem_singleton.1 hx]
      exact hc

theorem Keeps.execCtxset (h : Keeps s₀ s) : KeepsR s₀ (execCtxset s) := by
  have k {t : State} {bad denied : Bool} {n a : Nat} (ht : Keeps s₀ t) : KeepsR s₀ (t.command bad denied fun u =>
      let c := s.readCtx n a
      ({ u with ctxs := u.ctxs ++ [if c.conf then { c with cmeas := u.measure c a } else c] } : State).done 0) :=
    ht.command fun u hu => (hu.addCtx (by split <;> exact dbgctl_readCtx (n := n) (a := a))).done
  unfold Machine.execCtxset
  dsimp only
  split
  · exact k h
  · exact k h.recordMet.state

theorem Keeps.execCtxmod (h : Keeps s₀ s) : KeepsR s₀ (execCtxmod s) :=
  bindP h.recordRead fun _ _ h => h.command fun _ h => (h.setCtx fun _ => dbgctl_dbgMask).done

theorem Keeps.zeroOwned {kind num} (h : Keeps s₀ s) : Keeps s₀ (s.zeroOwned kind num) := h.clearCells

theorem Keeps.releaseOwned {p} (h : Keeps s₀ s) : Keeps s₀ (s.releaseOwned p) :=
  Keeps.same (Keeps.foldl h fun _ _ h => h.zeroOwned) (by rfl)

theorem Keeps.execCtxfree (h : Keeps s₀ s) : KeepsR s₀ (execCtxfree s) := by
  unfold Machine.execCtxfree
  refine h.command fun r h => ?_
  have k := h.releaseOwned (p := fun x => x.2.2 == s.arg 0)
  exact Keeps.next (Keeps.wait
    (k.withCtxs rfl fun hs c hc => dbgctl_ctxs hs c (List.mem_of_mem_filter hc)))

theorem Keeps.execTlbinv (h : Keeps s₀ s) : KeepsR s₀ (execTlbinv s) := by
  unfold Machine.execTlbinv
  dsimp only
  exact h.command fun _ h => (h.same (by rfl)).wait.next

theorem Keeps.execFqcfg (h : Keeps s₀ s) : KeepsR s₀ (execFqcfg s) := by
  unfold Machine.execFqcfg
  dsimp only
  exact h.command fun _ h => (h.same (by rfl)).done

theorem Keeps.retryTask {t} (h : Keeps s₀ s) (ht : RegInv s₀ → RegsWf t) : Keeps s₀ (s.retryTask t) := by
  unfold State.retryTask
  split
  · exact branches (h.setThread ht) (h.setThread fun h0 => regsWf_of_core (Thread.applyFz_core _ _) (ht h0))
  · exact h

theorem Keeps.replayLaunch {l retry} (h : Keeps s₀ s) : Keeps s₀ (s.replayLaunch l retry) :=
  branches h.setLaunch (branches h.setLaunch h.setLaunch)

theorem Keeps.replayToken {f retry} (h : Keeps s₀ s) : Keeps s₀ (s.replayToken f retry) := by
  unfold State.replayToken
  split
  · split
    · exact h
    next e =>
      exact branches (h.retryTask fun h0 => regsWf_taskThread (h.inv h0) e) (h.failTask fun h0 => regsWf_taskThread (h.inv h0)
        e)
  · split
    · exact h
    · exact branches h.setCopy h.copyStop
  · split
    · exact h
    · exact h.replayLaunch

theorem Keeps.execReplay (h : Keeps s₀ s) : KeepsR s₀ (execReplay s) := by
  unfold Machine.execReplay
  dsimp only
  split
  · exact h.command fun _ h => h.next
  · exact h.command fun _ h => (h.same (by rfl)).replayToken.done

theorem Thread.ask_core (t : Thread) (hard : Bool) : (t.ask hard).core = t.core := by
  unfold Thread.ask
  split
  · rfl
  · split
    iterate 4 rfl
    all_goals split <;> rfl

theorem Keeps.execPreempt (h : Keeps s₀ s) : KeepsR s₀ (execPreempt s) := by
  unfold Machine.execPreempt
  refine h.command fun s h => ?_
  refine Keeps.done (Keeps.mapThreads (s := s.free.2) h.free.state (by rfl) fun x hx => ?_)
  split
  · exact regsWf_of_core (x.ask_core _) hx
  · exact hx

theorem Keeps.execResume (h : Keeps s₀ s) : KeepsR s₀ (execResume s) := by
  unfold Machine.execResume
  refine h.command fun s h => ?_
  refine Keeps.done (Keeps.mapSaved (s := s) h (by rfl) fun x hx => ?_)
  exact branches (Q := fun y : Saved => RegsWf y.th) hx hx

theorem Keeps.withPower {t : State} (h : Keeps s₀ s)
    (e : (t.t, t.others, t.saved, t.mem, t.ctxs, t.gts) = (s.t, s.others, s.saved, s.mem, s.ctxs, s.gts))
    (hp : RegInv s → t.power.state ≤ 5 ∧ t.power.target ≤ 5 ∧ (t.power.phase ≤ 6 ∨ t.power.phase = 15)) : Keeps s₀ t := by
  simp only [Prod.mk.injEq] at e
  obtain ⟨et, eo, es, em, ec, eg⟩ := e
  refine h.package (by rw [et, eo, es, em]) fun hs => ?_
  obtain ⟨hst, htg, hph⟩ := hp hs
  obtain ⟨-, -, hc, -, -, -, hg⟩ := hs
  exact ⟨ec ▸ hc, hst, htg, hph, eg ▸ hg⟩

theorem power_bounds (h : RegInv s) : s.power.state ≤ 5 ∧ s.power.target ≤ 5 ∧ (s.power.phase ≤ 6 ∨ s.power.phase = 15) :=
  ⟨h.2.2.2.1, h.2.2.2.2.1, h.2.2.2.2.2.1⟩

theorem Power.arrive_bounds {p : Power} (h : p.state ≤ 5 ∧ p.target ≤ 5 ∧ (p.phase ≤ 6 ∨ p.phase = 15)) :
    p.arrive.state ≤ 5 ∧ p.arrive.target ≤ 5 ∧ (p.arrive.phase ≤ 6 ∨ p.arrive.phase = 15) := by
  unfold Power.arrive
  split
  · exact h
  · exact ⟨h.2.1, h.2⟩

theorem Keeps.drainContext {ctx} (h : Keeps s₀ s) : Keeps s₀ (s.drainContext ctx) :=
  Keeps.foldl h fun _ _ h => h.focus.drainAccs.drainLane

theorem Keeps.execMailboxCompletion (h : Keeps s₀ s) : KeepsR s₀ (execMailboxCompletion s) := by
  refine branches h.next ?_
  split
  · exact h.done
  · exact h.drainContext.done
  · exact Keeps.done (h.withPower (by rfl) fun hs => Power.arrive_bounds (power_bounds hs))
  · exact h.done

/-! ### Machine/Fabric.lean -/

theorem Keeps.apply {src r} (h : Keeps s₀ s) : Keeps s₀ (s.apply src r) := by
  unfold State.apply
  dsimp only
  split
  · split
    · exact h.focus.performAcc
    · exact h.focus
  · exact h.focus

theorem Keeps.execFabricRequestReceive {ch seq} (h : Keeps s₀ s) : KeepsR s₀ (execFabricRequestReceive ch seq s) := by
  unfold Machine.execFabricRequestReceive
  dsimp only
  split
  · exact h.next
  · split
    · exact h.next
    · exact branches h.setChan.next (branches h.setChan.next (branches h.free.state.setChan.next
      h.free.state.apply.setChan.next))

theorem Keeps.execFabricAck {ch} (h : Keeps s₀ s) : KeepsR s₀ (execFabricAck ch s) := by
  unfold Machine.execFabricAck
  split
  · exact h.next
  · exact h.setChan.next

theorem Keeps.execNakBackoffExpire {ch} (h : Keeps s₀ s) : KeepsR s₀ (execNakBackoffExpire ch s) := by
  unfold Machine.execNakBackoffExpire
  split
  · exact h.next
  · split
    · exact h.setChan.next
    · exact h.next

theorem Keeps.execReplyTimeoutResend {ch} (h : Keeps s₀ s) : KeepsR s₀ (execReplyTimeoutResend ch s) := by
  unfold Machine.execReplyTimeoutResend
  split
  · exact h.next
  · split
    · exact h.setChan.count.next
    · exact h.next

/-! ### Machine/HostBus.lean -/

theorem Keeps.answer {l} (h : Keeps s₀ s) : Keeps s₀ (s.answer l) := h.same rfl

theorem Keeps.setControl {site v} (h : Keeps s₀ s) : Keeps s₀ (s.setControl site v) := by
  refine branches h ?_
  have k := Keeps.stopReaches (p := (·.site == site)) h
  refine k.setThread fun h0 => regsWf_of_core (Thread.applyFz_core _ _) ?_
  obtain ⟨r0, r1, r2, r3, r4, r5, -⟩ := regsWf_threadAt (k.inv h0).1 site
  exact ⟨r0, r1, r2, r3, r4, r5, dbgctl_dbgMask⟩

theorem Keeps.execThreadControlWrite {site v} (h : Keeps s₀ s) : KeepsR s₀ (execThreadControlWrite site v s) :=
  Keeps.next (branches h.setControl h)

theorem Keeps.execDebugBlockRead {die cluster off} (h : Keeps s₀ s) : KeepsR s₀ (execDebugBlockRead die cluster off s) :=
  branches h.next h.answer.next

theorem Keeps.setTrctl {cl v} (h : Keeps s₀ s) : Keeps s₀ (s.setTrctl cl v) :=
  branches h.setCluster.stopCluster h.stopReaches.setCluster

theorem Keeps.setDebug {cl off v} (h : Keeps s₀ s) : Keeps s₀ (s.setDebug cl off v) :=
  branches h (branches h.setCluster (branches h.setCluster (branches h.setCluster (branches h.setTrctl (branches h.setCluster
    (branches h.setCluster h))))))

theorem Keeps.setWindow {v} (h : Keeps s₀ s) : Keeps s₀ (s.setWindow v) := h.same rfl

theorem Keeps.setMsix {o l} (h : Keeps s₀ s) : Keeps s₀ (s.setMsix o l) := (h.same (by rfl)).signalPending

theorem Keeps.execRegisterWrite {off v trusted} (h : Keeps s₀ s) : KeepsR s₀ (execRegisterWrite off v trusted s) :=
  branches h.next (branches h.writeCommand.next (branches (h.same (by rfl)).next (branches h.setWindow.next
    (branches (h.same (by rfl)).next (branches h.setMsix.next (branches h.setControl.next (branches h.setDebug.next h.next)))))))

theorem Keeps.writeHalf {off v trusted} (h : Keeps s₀ s) : KeepsR s₀ (s.writeHalf off v trusted) :=
  branches h.next (branches h.execRegisterWrite h.execRegisterWrite)

theorem Keeps.resizeBar {log} (h : Keeps s₀ s) : Keeps s₀ (s.resizeBar log) := branches (h.same (by rfl)) h

theorem Keeps.execDoorbell {q off size v} (h : Keeps s₀ s) : KeepsR s₀ (execDoorbell q off size v s) :=
  branches h.next (Keeps.next (branches h.setQueue.rereadSource h.setQueue))

theorem Keeps.outsideRead {ag trusted pa len} (h : Keeps s₀ s) : Keeps s₀ (s.outsideRead ag trusted pa len) := by
  unfold State.outsideRead
  dsimp only
  split
  next e =>
    have h := h.errorCheck.of e
    exact h.answer
  next e =>
    have h := h.errorCheck.of e
    exact h.answer.watchMem

theorem Keeps.outsideWrite {ag trusted pa data} (h : Keeps s₀ s) : Keeps s₀ (s.outsideWrite ag trusted pa data) :=
  bindP h.errorCheck fun _ _ h => branches h h.store.watchMem

theorem Keeps.outsideAtomic {ag trusted op pa size value compare} (h : Keeps s₀ s) : Keeps s₀ (s.outsideAtomic ag trusted op pa
    size value compare) := by
  unfold State.outsideAtomic
  dsimp only
  refine branches h.answer (branches h.answer ?_)
  split
  next e =>
    have h := h.errorCheck.of e
    exact h.answer
  next e =>
    have h := h.errorCheck.of e
    exact bindP h.amoLocs fun _ _ h => h.answer

theorem Keeps.ownerWrite {lo hi pa data} (h : Keeps s₀ s) : Keeps s₀ (s.ownerWrite lo hi pa data) := h.wrCells.loadsAnew

theorem Keeps.performPosted {n} (h : Keeps s₀ s) : Keeps s₀ (s.performPosted n) := by
  unfold State.performPosted
  split
  · exact h
  · exact (h.same (by rfl)).outsideWrite

theorem Keeps.performAllPosted (h : Keeps s₀ s) : Keeps s₀ s.performAllPosted := Keeps.foldl h fun _ _ h => h.performPosted

theorem Keeps.hostWrite {pa data trusted relaxed} (h : Keeps s₀ s) : Keeps s₀ (s.hostWrite pa data trusted relaxed) :=
  branches (h.same (by rfl)) h.outsideWrite

theorem Keeps.execHostRequest {r} (h : Keeps s₀ s) : KeepsR s₀ (execHostRequest r s) := by
  unfold Machine.execHostRequest
  dsimp only
  split
  · exact branches h.next (branches (Keeps.next (Keeps.outsideRead (branches h h.performAllPosted))) h.answer.next)
  · exact branches h.hostWrite.next h.next
  · exact branches h.next (branches h.outsideAtomic.next h.answer.next)
  · exact branches h.next h.answer.next
  · exact h.writeHalf
  · exact Keeps.next (branches h.resizeBar h)
  · exact h.answer.next
  · exact h.ownerWrite.next

theorem Keeps.execPeerRequest {port r} (h : Keeps s₀ s) : KeepsR s₀ (execPeerRequest port r s) := by
  unfold Machine.execPeerRequest
  dsimp only
  split
  · exact branches h.next h.outsideRead.next
  · exact branches h.next h.outsideWrite.next
  · exact h.ownerWrite.next

end Sys2Proof.Machine
end

section
/-! PROOFS of 01_machine.md: what `Keeps` says, through power, trust, the fleet's errors and the matrix engine. -/

namespace Sys2Proof.Machine

variable {s₀ s : State}

/-! ### Machine/Power.lean -/

theorem Keeps.outside (h : Keeps s₀ s) : Keeps s₀ s.outside :=
  ⟨fun h0 => MemWf_filter s _ (h.wf h0), fun _ => Tests.reset_regInv⟩

theorem Keeps.halted {code} (h : Keeps s₀ s) : Keeps s₀ (s.halted code) :=
  h.withPower rfl fun hs => ⟨(power_bounds hs).1, (power_bounds hs).2.1, .inr rfl⟩

theorem Keeps.nextPhase (h : Keeps s₀ s) (hp : s.power.phase < 6) : Keeps s₀ s.nextPhase :=
  h.withPower rfl fun hs => ⟨(power_bounds hs).1, (power_bounds hs).2.1, .inl hp⟩

theorem Keeps.bootPhase (h : Keeps s₀ s) : Keeps s₀ s.bootPhase := by
  have go {t : State} (ht : Keeps s₀ t) {n : Nat} (e : s.power.phase = n) (hn : n < 6) (et : t.power.phase = s.power.phase) :
      Keeps s₀ t.nextPhase := ht.nextPhase (by rw [et, e]; exact hn)
  unfold State.bootPhase
  dsimp only
  split
  next e => exact branches h.halted (go h e (by decide) rfl)
  next e =>
    split
    · exact h.halted
    · exact go (Keeps.same h (by rfl)) e (by decide) rfl
  next e =>
    have k : Keeps s₀ { s with power := { s.power with dies := BitVec.ofNat 8 (Config.bootFindings s.sec.boots).2.2.1 } } :=
      h.withPower rfl power_bounds
    exact branches k.halted (go k e (by decide) rfl)
  next e => exact branches h.halted (go h e (by decide) rfl)
  next e => exact go (Keeps.same h (by rfl)) e (by decide) rfl
  next e => exact go h e (by decide) rfl
  · exact h

theorem Keeps.execPowerOn (h : Keeps s₀ s) : KeepsR s₀ (execPowerOn s) := Keeps.next (branches h h.outside)

theorem Keeps.execPerst (h : Keeps s₀ s) : KeepsR s₀ (execPerst s) := Keeps.next (branches h.outside h)

theorem Keeps.execPackagePowerRemoved (h : Keeps s₀ s) : KeepsR s₀ (execPackagePowerRemoved s) := by
  refine Keeps.next (h.outside.withPower (by rfl) fun _ => ⟨?_, Nat.zero_le _, .inl (Nat.zero_le _)⟩)
  dsimp only
  split <;> decide

theorem Keeps.execIdeKmKeyProgramming (h : Keeps s₀ s) : KeepsR s₀ (execIdeKmKeyProgramming s) :=
  Keeps.next (branches (h.same (by rfl)) h)

theorem Keeps.execTdiEntersRun (h : Keeps s₀ s) : KeepsR s₀ (execTdiEntersRun s) := Keeps.next (branches (h.same (by rfl)) h)

theorem Keeps.execTdispStop (h : Keeps s₀ s) : KeepsR s₀ (execTdispStop s) := (h.same (by rfl)).next

theorem Keeps.execIdeStreamLoss (h : Keeps s₀ s) : KeepsR s₀ (execIdeStreamLoss s) := (h.same (by rfl)).next

theorem Keeps.execPset (h : Keeps s₀ s) : KeepsR s₀ (execPset s) := by
  unfold Machine.execPset
  refine h.commandOk fun hbad hden => ?_
  refine Keeps.next (Keeps.wait (Keeps.withPower h (by rfl) fun hs => ?_))
  obtain ⟨hst, -, hph⟩ := power_bounds hs
  refine ⟨hst, ?_, hph⟩
  have htrip : s.power.trip = false := by
    simp only [State.psetDenied, Bool.or_eq_false_iff] at hden
    exact hden.1.1.1
  simp only [htrip, Bool.not_false, Bool.and_true, decide_eq_false_iff_not, Nat.not_lt] at hbad
  exact hbad

theorem Keeps.execThermalTrip {temp} (h : Keeps s₀ s) : KeepsR s₀ (execThermalTrip temp s) := by
  refine branches h.next (Keeps.next ?_)
  have k : Keeps s₀ { s with power := { s.power with
      temp := temp, trip := s.power.trip || (decide (105 ≤ temp) && !s.power.trip) } } := h.withPower rfl power_bounds
  exact branches k.signal k

theorem Keeps.execTripclr (h : Keeps s₀ s) : KeepsR s₀ (execTripclr s) := by
  unfold Machine.execTripclr
  refine h.commandOk fun _ _ => ?_
  refine Keeps.next (Keeps.wait (Keeps.withPower h (by rfl) fun hs => Power.arrive_bounds ?_))
  obtain ⟨hst, htg, hph⟩ := power_bounds hs
  refine ⟨hst, ?_, hph⟩
  dsimp only
  split
  · exact htg
  · exact hst

theorem Keeps.execInventory (h : Keeps s₀ s) : KeepsR s₀ (execInventory s) := h.command fun _ h => h.deviceWrite.done

/-! ### Machine/Trust.lean -/

theorem Keeps.execIdinfo (h : Keeps s₀ s) : KeepsR s₀ (execIdinfo s) := by
  unfold Machine.execIdinfo
  refine h.command fun s h => ?_
  have k (a b : Nat) (l m : List Byte) (x y : Option Nat) : Keeps s₀ (((s.deviceWrite a l).deviceWrite b m).finish 0 x y) :=
    h.deviceWrite.deviceWrite.finish
  exact (k ..).next

theorem Keeps.execAttest (h : Keeps s₀ s) : KeepsR s₀ (execAttest s) := by
  unfold Machine.execAttest
  refine h.command fun s h => ?_
  have k (sec : Security) (a : Nat) (l : List Byte) : Keeps s₀ (({ s with sec := sec } : State).deviceWrite a l).wait :=
    Keeps.wait (Keeps.deviceWrite (h.same (by rfl)))
  split
  exact (k ..).next

theorem Keeps.scramble {num} (h : Keeps s₀ s) : Keeps s₀ (s.scramble num) := h.putRange.same (by rfl)

theorem Keeps.assign {ctx kind us} (h : Keeps s₀ s) : Keeps s₀ (s.assign ctx kind us) :=
  Keeps.same (branches (Keeps.foldl h fun _ _ h => h.scramble) h) (by rfl)

theorem Keeps.execCcmap (h : Keeps s₀ s) : KeepsR s₀ (execCcmap s) :=
  h.command fun _ h => branches h.releaseOwned.wait.next h.assign.wait.next

theorem Keeps.execDbgunlock (h : Keeps s₀ s) : KeepsR s₀ (execDbgunlock s) := by
  unfold Machine.execDbgunlock
  exact h.commandOk fun _ _ => Keeps.done (h.setCtx fun h0 => dbgctl_ctxD (h.inv h0) _)

theorem Keeps.setSeal {x} (h : Keeps s₀ s) : Keeps s₀ (s.setSeal x) := h.same rfl

theorem Keeps.execSealcfg (h : Keeps s₀ s) : KeepsR s₀ (execSealcfg s) := h.command fun _ h => h.setSeal.done

theorem Keeps.execSealflush (h : Keeps s₀ s) : KeepsR s₀ (execSealflush s) := h.command fun _ h => h.wait.next

theorem Keeps.sealStatus {x code} (h : Keeps s₀ s) : KeepsP s₀ (s.sealStatus x code) := branches h.pair (h.same (by rfl)).pair

theorem Keeps.sealOne {x slot} (h : Keeps s₀ s) : Keeps s₀ (s.sealOne x slot) := by
  unfold State.sealOne
  dsimp only
  exact Keeps.innerN (branches h.selfRead.state.sealStatus.state.drainContext.setSeal h.selfRead.state.sealStatus.state.setSeal)

theorem Keeps.execSealRequest {ctx} (h : Keeps s₀ s) : KeepsR s₀ (execSealRequest ctx s) := by
  unfold Machine.execSealRequest
  split
  · exact h.next
  · refine branches h.next ?_
    split
    · exact h.next
    · exact h.sealOne.next

theorem Keeps.execBatchClose {ctx} (h : Keeps s₀ s) : KeepsR s₀ (execBatchClose ctx s) := by
  have k (sec : Security) (a b c : List Host.Cell) (x : Seal) : Keeps s₀ (State.setSeal
      (State.deviceStore (State.deviceStore (State.deviceStore { s with sec := sec } true a) true b) true c) x) :=
    have h : Keeps s₀ { s with sec := sec } := h.same rfl
    h.deviceStore.deviceStore.deviceStore.setSeal
  unfold Machine.execBatchClose
  split
  · exact h.next
  · refine branches h.next ?_
    split
    exact (k ..).next

/-! ### Machine/Fleet.lean -/

theorem Keeps.flipColumn {a} (h : Keeps s₀ s) : Keeps s₀ (s.flipColumn a) := by
  unfold State.flipColumn
  dsimp only
  split
  · exact branches h.wr h
  · exact h

theorem Keeps.execDataError {l} (h : Keeps s₀ s) : KeepsR s₀ (execDataError l s) :=
  branches h.next (branches (h.same (by rfl)).next (Keeps.next (Keeps.foldl
    (Keeps.same (Keeps.flipColumn (Keeps.foldl h fun _ _ h => h.evictUnit)) (by rfl)) fun _ _ h => h.carry)))

theorem Keeps.scrubRecord {home detail} (h : Keeps s₀ s) : Keeps s₀ (s.scrubRecord home detail) :=
  bindP h.free fun _ _ h => h.addFault

theorem Keeps.execScrubRead {home} (h : Keeps s₀ s) : KeepsR s₀ (execScrubRead home s) := by
  unfold Machine.execScrubRead
  dsimp only
  refine branches h.next (Keeps.next (Keeps.foldl h fun s _ h => ?_))
  split
  · exact Keeps.same (h.count (die := dieOfCell home) (k := 0)) (by rfl)
  · exact h.count.scrubRecord
  · exact h.count.scrubRecord
  · exact h

theorem Keeps.execScrubcfg (h : Keeps s₀ s) : KeepsR s₀ (execScrubcfg s) := h.command fun _ h => (h.same (by rfl)).done

theorem Keeps.execErrcnt (h : Keeps s₀ s) : KeepsR s₀ (execErrcnt s) := by
  unfold Machine.execErrcnt
  dsimp only
  exact h.command fun _ h => Keeps.done (branches (h.deviceWrite.same (by rfl)) h.deviceWrite)

theorem Keeps.retired (h : Keeps s₀ s) : Keeps s₀ { s with fleet := { s.fleet with cfggen := s.fleet.cfggen + 1 } } :=
  h.same rfl

theorem Keeps.retireQuad {uid q} (h : Keeps s₀ s) : Keeps s₀ (s.retireQuad uid q) := by
  unfold State.retireQuad
  generalize hk : List.foldl _ s _ = t
  have k : Keeps s₀ t := by
    rw [← hk]
    exact h.foldl fun _ _ h => h.evictUnit.evictUnit
  exact k.setUnit.retired

theorem Keeps.execQretire (h : Keeps s₀ s) : KeepsR s₀ (execQretire s) := by
  unfold Machine.execQretire
  dsimp only
  exact h.command fun _ h => branches (h.same (by rfl)).setUnit.finish.next (h.same (by rfl)).retireQuad.finish.next

theorem Keeps.execQuadRetirement {unit quad} (h : Keeps s₀ s) : KeepsR s₀ (execQuadRetirement unit quad s) :=
  Keeps.next (branches h.retireQuad h)

theorem Keeps.execTelem (h : Keeps s₀ s) : KeepsR s₀ (execTelem s) := by
  unfold Machine.execTelem
  dsimp only
  exact h.command fun _ h => (h.same (by rfl)).deviceWrite.done

theorem Keeps.execPartset (h : Keeps s₀ s) : KeepsR s₀ (execPartset s) := by
  unfold Machine.execPartset
  dsimp only
  exact h.command fun _ h => (h.same (by rfl)).done

theorem Keeps.execFwstage (h : Keeps s₀ s) : KeepsR s₀ (execFwstage s) := by
  unfold Machine.execFwstage
  dsimp only
  exact Keeps.command (KeepsP.state (branches h.selfRead h.pair)) fun _ h => (h.same (by rfl)).wait.next

theorem Keeps.execFwfloor (h : Keeps s₀ s) : KeepsR s₀ (execFwfloor s) := by
  unfold Machine.execFwfloor
  dsimp only
  exact h.command fun _ h => (h.same (by rfl)).wait.next

/-! ### Machine/Matrix.lean -/

theorem Keeps.execMcfg {a} (h : Keeps s₀ s) : KeepsR s₀ (execMcfg a s) := h.laneRun fun _ h => h.mapL.laneDone.next

theorem Keeps.startMmul {mm vstart} (h : Keeps s₀ s) : Keeps s₀ (s.startMmul mm vstart) := (h.mapQ (by rfl)).mapL

theorem Keeps.bringSegs {lo stop} (h : Keeps s₀ s) : Keeps s₀ (s.bringSegs lo stop) := branches h h.bring

theorem Keeps.execMmul {g t a b} (h : Keeps s₀ s) : KeepsR s₀ (execMmul g t a b s) := by
  unfold Machine.execMmul
  dsimp only
  refine h.laneRun fun _ h => ?_
  split
  · exact h.bringSegs.startMmul.next
  · refine branches h.raise ?_
    split
    next e =>
      have h := h.bringSegs.meet.of e
      exact h.raise
    next e =>
      have h := h.bringSegs.meet.of e
      exact branches (Keeps.raise (branches h.noteRead h)) (Keeps.next (Keeps.startMmul (Keeps.bringSegs (branches h.noteRead
        h))))

theorem Keeps.setCount {ag tile i n x} (h : Keeps s₀ s) : Keeps s₀ (s.setCount ag tile i n x) := (h.same
    (by rfl)).clearErrors.watchAcc

theorem Keeps.watchStep {ag cells} (h : Keeps s₀ s) : Keeps s₀ (s.watchStep ag cells) :=
  branches h (Keeps.foldl h fun _ _ h => h.watchMem)

theorem Keeps.stepMeets {c tile cells act} (h : Keeps s₀ s) : KeepsP s₀ (s.stepMeets c tile cells act) :=
  branches h.pair h.meet

theorem Keeps.stepAdd {ag c m tile va sb act} (h : Keeps s₀ s) : Keeps s₀ (s.stepAdd ag c m tile va sb act).1 := by
  unfold State.stepAdd
  dsimp only
  split
  · exact h
  · exact List.foldlRecOn (motive := fun p : State × Nat => Keeps s₀ p.1) _ _ h fun _ h _ _ =>
      List.foldlRecOn (motive := fun p : State × Nat => Keeps s₀ p.1) _ _ h fun _ h _ _ => h.setCount

theorem Keeps.mmulEnd {m fl} (h : Keeps s₀ s) : Keeps s₀ (s.mmulEnd m fl) := by
  unfold State.mmulEnd
  dsimp only
  exact (h.mapL.mapQ (by rfl)).laneEnd.mapL

end Sys2Proof.Machine
end

section
/-! PROOFS of 01_machine.md: what `Keeps` says, through the readout of tiles and every instruction, and so through a step.
-/

namespace Sys2Proof.Machine

variable {s₀ s : State}

/-! ### Machine/Matrix.lean -/

theorem Keeps.execMmulStep (h : Keeps s₀ s) : KeepsR s₀ (execMmulStep s) := by
  unfold Machine.execMmulStep
  split
  · exact h.next
  · split
    · dsimp only
      have k := Keeps.setUnit (uid := s.uid) (u := { s.unitSt s.uid with served := siteThread s.t.site }) h
      split
      next e => exact (Keeps.mapT (k.stepMeets.of e) (Thread.stopMmul_core _)).raise
      next e =>
        have k := k.stepMeets.of e
        exact branches (Keeps.next (Keeps.mapL k.watchStep.stepAdd)) (Keeps.next (Keeps.mmulEnd k.watchStep.stepAdd))
    · exact h.mapL.next

theorem Keeps.withRows {c tile rows} {k : State → Res} (h : Keeps s₀ s) (hk : ∀ s, Keeps s₀ s → KeepsR s₀ (k s)) :
    KeepsR s₀ (s.withRows c tile rows k) := by
  refine branches (hk s h) ?_
  split
  next e => exact (h.meet.of e).raise
  next e => exact hk _ (h.meet.of e)

theorem Keeps.execMst {g d t b} (h : Keeps s₀ s) : KeepsR s₀ (execMst g d t b s) :=
  h.laneRun fun _ h => h.withRows fun _ h => h.writeLanes.laneEnd.next

theorem Keeps.putAll {l} (h : Keeps s₀ s) : KeepsP s₀ (s.putAll l) := by
  induction l generalizing s with
  | nil => exact h
  | cons x l ih =>
    unfold State.putAll
    split
    next e => exact (h.storeBytes.of e).pair
    next e => exact ih (h.storeBytes.of e)

theorem Keeps.execMstm {a t pitch sc} (h : Keeps s₀ s) : KeepsR s₀ (execMstm a t pitch sc s) := by
  unfold Machine.execMstm
  dsimp only
  refine h.laneRun fun _ h => h.withRows fun _ h => ?_
  split
  next e =>
    have h := h.putAll.of e
    exact h.raise
  next e =>
    have h := h.putAll.of e
    exact h.laneDone.next

theorem Keeps.execMzero {t} (h : Keeps s₀ s) : KeepsR s₀ (execMzero t s) := h.laneRun fun _ h => h.zeroTile.laneDone.next

theorem Keeps.execMlive {set} (h : Keeps s₀ s) : KeepsR s₀ (execMlive set s) := h.laneRun fun _ h => h.mapL.laneDone.next

/-! ### Machine/Dispatch.lean -/

theorem Keeps.exec {i} (h : Keeps s₀ s) : KeepsR s₀ (exec i s) := by
  unfold Machine.exec
  split
  · exact h.execAdd
  · exact h.execSub
  · exact h.execAnd
  · exact h.execOr
  · exact h.execXor
  · exact h.execAndn
  · exact h.execSll
  · exact h.execSrl
  · exact h.execSra
  · exact h.execMul
  · exact h.execMulh
  · exact h.execMulhn
  · exact h.execDiv
  · exact h.execDivn
  · exact h.execRem
  · exact h.execRemn
  · exact h.execMin
  · exact h.execMax
  · exact h.execMinn
  · exact h.execMaxn
  · exact h.execSlt
  · exact h.execSltn
  · exact h.execSeq
  · exact h.execPopc
  · exact h.execClz
  · exact h.execLi
  · exact h.execLih
  · exact h.execLix
  · exact h.execBeq
  · exact h.execBne
  · exact h.execBlt
  · exact h.execBge
  · exact h.execBltn
  · exact h.execBgen
  · exact h.execBr
  · exact h.execCall
  · exact h.execCallr
  · exact h.execRet
  · exact h.execBq
  · exact h.execBqn
  · exact h.execBmz
  · exact h.execBmnz
  · exact h.execPopPhase
  · exact h.execLdB
  · exact h.execLdH
  · exact h.execLdW
  · exact h.execLdD
  · exact h.execLdBS
  · exact h.execLdHS
  · exact h.execLdWS
  · exact h.execStB
  · exact h.execStH
  · exact h.execStW
  · exact h.execStD
  · exact h.execAmo
  · exact h.execFenceAcq
  · exact h.execFenceRel
  · exact h.execFenceAr
  · exact h.execVdrain
  · exact h.execAwait
  · exact h.execAwaitEv
  · exact h.execQpush
  · exact h.execQpop
  · exact h.execSetvl
  · exact h.execSetvlGrow
  · exact h.execSetvlShrink
  · exact h.execStrip
  · exact h.execNest
  · exact h.execLaunch
  · exact h.execLaunchW
  · exact h.execVcfg
  · exact h.execSetvl2
  · exact h.execVid
  · exact h.execVadd
  · exact h.execVsub
  · exact h.execVmul
  · exact h.execVmulh
  · exact h.execVdiv
  · exact h.execVrem
  · exact h.execVmin
  · exact h.execVmax
  · exact h.execVneg
  · exact h.execVabs
  · exact h.execVand
  · exact h.execVor
  · exact h.execVandn
  · exact h.execVxor
  · exact h.execVxnor
  · exact h.execVnot
  · exact h.execVsll
  · exact h.execVsrl
  · exact h.execVsra
  · exact h.execVfsl
  · exact h.execVfsr
  · exact h.execVlut3
  · exact h.execVcmp
  · exact h.execVsel
  · exact h.execVmov
  · exact h.execVslideup
  · exact h.execVslidedn
  · exact h.execVlscat
  · exact h.execMand
  · exact h.execMor
  · exact h.execMxor
  · exact h.execMandn
  · exact h.execMnot
  · exact h.execMmov
  · exact h.execMpush
  · exact h.execMinv
  · exact h.execMpop
  · exact h.execMpopc
  · exact h.execVfadd
  · exact h.execVfsub
  · exact h.execVfmul
  · exact h.execVfdiv
  · exact h.execVfsqrt
  · exact h.execVfmin
  · exact h.execVfmax
  · exact h.execVfcmp
  · exact h.execVcvt
  · exact h.execVcvtLg
  · exact h.execVtab
  · exact h.execVkth
  · exact h.execVtopk
  · exact h.execVtopp
  · exact h.execVrsum
  · exact h.execVrmin
  · exact h.execVrmax
  · exact h.execVscanadd
  · exact h.execVscanand
  · exact h.execVfirst0
  · exact h.execVpick
  · exact h.execVrand
  · exact h.execVscatl
  · exact h.execVmload
  · exact h.execVmicro
  · exact h.execVld
  · exact h.execVst
  · exact h.execVstFree
  · exact h.execVlds
  · exact h.execVsts
  · exact h.execTld
  · exact h.execTst
  · exact h.execVgather
  · exact h.execVscatter
  · exact h.execVamo
  · exact h.execVred
  · exact h.execRacc
  · exact h.execRflush
  · exact h.execVfence
  · exact h.execArrive
  · exact h.execCpy
  · exact h.execMcfg
  · exact h.execMmul
  · exact h.execMmulStep
  · exact h.execMst
  · exact h.execMstm
  · exact h.execMzero
  · exact h.execMlive
  · exact h.execZopen
  · exact h.execZadv
  · exact h.execZldC
  · exact h.execZldP
  · exact h.execZldCK
  · exact h.execZldPK
  · exact h.execZldM
  · exact h.execZisect
  · exact h.execZunion
  · exact h.execZskip
  · exact h.execBzEnd
  · exact h.execZclose
  · exact h.execMfsr
  · exact h.execMtsr
  · exact h.execTfence
  · exact h.execYieldpt
  · exact h.execIfence
  · exact h.execVdead
  · exact h.execTret
  · exact h.execExit
  · exact h.execExitComplete
  · exact h.execBrk
  · exact h.execNop
  · exact h.execPair
  · exact h.execLaneQueuePush
  · exact h.execAwaitedCondition
  · exact h.execPendingPush
  · exact h.execLoadDataArrival
  · exact h.execElementReturn
  · exact h.execHomeSliceAccess
  · exact h.execStreamDeadlock
  · exact h.execFaultRecordWrite
  · exact h.execCopyChunkDone
  · exact h.execCopyComplete
  · exact h.execStreamFetchAhead
  · exact h.execAccumulateRequest
  · exact h.execAccumulatePerform
  · exact h.execAcceptedReply
  · exact h.execRefusalReply
  · exact h.execFabricRequestReceive
  · exact h.execFabricAck
  · exact h.execNakBackoffExpire
  · exact h.execReplyTimeoutResend
  · exact h.execTcWatch
  · exact h.execStepEnd
  · exact h.execThreadControlWrite
  · exact h.execDebugBlockRead
  · exact h.execRegisterWrite
  · exact h.execDoorbell
  · exact h.execHostRequest
  · exact h.execPeerRequest
  · exact h.execSelection
  · exact h.execWaitEventReread
  · exact h.execGroupPlacement
  · exact h.execLaunchCompletion
  · exact h.execSave
  · exact h.execResumePlacement
  · exact h.execQuadRetirement
  · exact h.execMailboxCompletion
  · exact h.execReservedEncoding
  · exact h.execDataError
  · exact h.execThermalTrip
  · exact h.execSealRequest
  · exact h.execBatchClose
  · exact h.execScrubRead
  · exact h.execQcfg
  · exact h.execQenable
  · exact h.execQdisable
  · exact h.execQprio
  · exact h.execQreset
  · exact h.execSetage
  · exact h.execCtxset
  · exact h.execCtxmod
  · exact h.execCtxfree
  · exact h.execTlbinv
  · exact h.execFqcfg
  · exact h.execReplay
  · exact h.execPreempt
  · exact h.execResume
  · exact h.execInventory
  · exact h.execPset
  · exact h.execTripclr
  · exact h.execIdinfo
  · exact h.execAttest
  · exact h.execCcmap
  · exact h.execDbgunlock
  · exact h.execSealcfg
  · exact h.execSealflush
  · exact h.execErrcnt
  · exact h.execScrubcfg
  · exact h.execQretire
  · exact h.execTelem
  · exact h.execPartset
  · exact h.execFwstage
  · exact h.execFwfloor
  · exact h.execPowerOn
  · exact h.execPerst
  · exact h.execTdispStop
  · exact h.execIdeStreamLoss
  · exact h.execPackagePowerRemoved
  · exact h.execIdeKmKeyProgramming
  · exact h.execTdiEntersRun

/-! ### Machine/Fetch.lean -/

theorem Keeps.nextWord (h : Keeps s₀ s) : KeepsP s₀ s.nextWord := by
  unfold State.nextWord
  dsimp only
  split
  · exact h.pair
  · refine Keeps.pair ?_
    split
    · exact h.fetchWord.state.mapC (by rfl)
    · exact h.fetchWord.state

theorem Keeps.fetch (h : Keeps s₀ s) : KeepsP s₀ s.fetch := by
  unfold State.fetch
  dsimp only
  refine branches h.nestStep.pair (branches h.nestStep.pair ?_)
  split
  next e =>
    have h := KeepsP.of (branches h.nestStep.pair h.nestStep.fetchError) e
    exact h.pair
  next e =>
    have h := KeepsP.of (branches h.nestStep.pair h.nestStep.fetchError) e
    exact h.nextWord.state.pair

/-! ### Machine/Moves.lean -/

theorem Keeps.pick (h : Keeps s₀ s) : KeepsOP s₀ s.pick := by
  unfold State.pick
  dsimp only
  split
  · exact keepsOP_none
  · exact (h.same (by rfl)).pair.just
  · exact (h.free.state.same (by rfl)).pair.just

theorem Thread.waitCycles_core (x : Thread) (n : Nat) : (x.waitCycles n).core = x.core := by
  unfold Thread.waitCycles
  split <;> rfl

theorem mem_waitAll {l : List Thread} {k : Nat} {x : Thread} (hx : x ∈ waitAll l k) : ∃ y ∈ l, ∃ n, x = y.waitCycles n := by
  induction l generalizing k with
  | nil => exact nomatch hx
  | cons y l ih =>
    rcases List.mem_cons.1 hx with rfl | hx
    · exact ⟨y, List.mem_cons_self .., _, rfl⟩
    · obtain ⟨z, hz, hn⟩ := ih hx
      exact ⟨z, List.mem_cons_of_mem _ hz, hn⟩

theorem Keeps.ticked {n} (h : Keeps s₀ s) : Keeps s₀ { s with gts := min n (2 ^ 64 - 1) } :=
  h.package rfl fun ⟨_, _, hc, hst, htg, hph, _⟩ => ⟨hc, hst, htg, hph, by dsimp only; omega⟩

theorem Keeps.tick (h : Keeps s₀ s) : Keeps s₀ s.tick := by
  have k : Keeps s₀ { s.free.2 with gts := min (s.free.2.gts + s.free.1) (2 ^ 64 - 1) } := h.free.state.ticked
  unfold State.tick
  dsimp only
  refine branches k (Keeps.threads (s := State.free _ |>.2) k.free.state (by rfl) fun hth hsv => ⟨fun x hx => ?_, hsv⟩)
  rcases List.mem_cons.1 hx with rfl | hx
  · exact regsWf_of_core (Thread.waitCycles_core ..) (hth _ (List.mem_cons_self ..))
  · obtain ⟨y, hy, n, rfl⟩ := mem_waitAll hx
    exact regsWf_of_core (Thread.waitCycles_core ..) (hth y (List.mem_cons_of_mem _ hy))

/-! ### Machine/Run.lean -/

theorem KeepsR.map {r : Res} {f : State → State} (h : KeepsR s₀ r) (hf : ∀ s, Keeps s₀ s → Keeps s₀ (f s)) :
    KeepsR s₀ (Res.map f r) := by
  cases r with
  | next s => exact (hf s (h s rfl)).next
  | fault f => exact keepsR_fault
  | refused f => exact keepsR_refused

theorem Keeps.afterWord {b i} (h : Keeps s₀ s) : Keeps s₀ (State.afterWord b i s) := by
  have step {t : State} (ht : Keeps s₀ t) (c : Prop) [Decidable c] :
      Keeps s₀ (if c then t.mapD (fun g => { g with stepping := true }) else t) := branches (ht.mapD rfl) ht
  unfold State.afterWord
  dsimp only
  refine branches h (step (branches (Keeps.traceWrite ?_) h) _)
  split
  · exact h.drainFor
  · exact h

theorem Keeps.unlessWaits {r : State} (h : Keeps s₀ s) (hr : Keeps s₀ r) : Keeps s₀ (r.unlessWaits s) := branches hr h

theorem Keeps.ctlTried {b : State} (h : Keeps s₀ s) : Keeps s₀ (b.ctlTried s) := h.skids.mapC (by rfl)

theorem Keeps.laneTried {b : State} (h : Keeps s₀ s) : Keeps s₀ (b.laneTried s) := h.skids.mapL

theorem Keeps.control (h : Keeps s₀ s) : KeepsR s₀ s.control := by
  unfold State.control
  split
  · exact h.block.next
  · split
    next e => exact (h.fetch.of e).raise
    next e => exact (h.fetch.of e).exec.map fun _ h => h.afterWord

theorem Keeps.takeTurn (h : Keeps s₀ s) : Keeps s₀ s.takeTurn := h.setUnit

theorem Keeps.lane (h : Keeps s₀ s) : KeepsR s₀ s.lane := by
  unfold State.lane
  split
  · exact h.next
  next e =>
    have k := (h.laneLanded.of e).clearDue.bringHead
    dsimp only
    split
    next e => exact (k.laneHead e).next
    next e => exact k.exec.map fun _ h => h.unlessWaits k

theorem Keeps.takeEarly {now es rs} (h : Keeps s₀ s) : KeepsP s₀ (s.takeEarly now es rs) := by
  unfold State.takeEarly
  dsimp only
  split
  · exact Keeps.pair (KeepsP.state (branches h.pair h.free))
  · exact branches (Keeps.pair (KeepsP.state (branches h.pair h.free))) (Keeps.pair (KeepsP.state (branches (Keeps.pair
    (KeepsP.state (branches h.pair h.free))) (Keeps.someOf (KeepsP.state (branches h.pair h.free))))))

theorem Keeps.earlyControl (h : Keeps s₀ s) : Keeps s₀ s.earlyControl :=
  branches h (bindP (Keeps.takeEarly (Keeps.mapC (branches h.drainAccs h.drainOver) (by rfl))) fun _ _ h => h.mapC (by rfl))

theorem Keeps.earlyLane (h : Keeps s₀ s) : Keeps s₀ s.earlyLane :=
  bindO h.laneLanded h fun _ k => branches h (bindP k.takeEarly fun _ _ h => h.mapL)

theorem Keeps.earlyStep (h : Keeps s₀ s) : Keeps s₀ s.earlyStep := by
  unfold State.earlyStep
  dsimp only
  split
  · exact h
  · split
    · exact bindP h.free fun _ _ h => bindP h.takeEarly fun _ _ h => h.mapL
    · exact h

theorem Keeps.readEarly {which} (h : Keeps s₀ s) : Keeps s₀ (s.readEarly which) := by
  unfold State.readEarly
  split
  · exact h.earlyControl
  · exact h.earlyLane
  · exact h.earlyStep

theorem Keeps.made {m} (h : Keeps s₀ s) : KeepsR s₀ (s.made m) := by
  cases m with
  | control site => exact h.focus.takeTurn.control.map fun _ h => h.ctlTried
  | lane site => exact h.focus.lane.map fun _ h => h.laneTried
  | event site i => exact h.focus.exec.map fun _ h => h.skids
  | stop site => exact h.stopReaches.next
  | device i => exact h.exec
  | posted n => exact h.performPosted.next
  | element id chunk => exact h.moveElement.next
  | early site which => exact h.focus.readEarly.next
  | boot => exact h.bootPhase.next
  | input =>
    unfold State.made
    dsimp only
    split
    · exact Keeps.exec (h.same (by rfl))
    · exact h.next

theorem Keeps.madeIn {m n} (h : Keeps s₀ s) : KeepsR s₀ (s.madeIn m n) := by
  induction n generalizing s with
  | zero => exact h.made
  | succ n ih =>
    unfold State.madeIn
    split
    next e => exact branches (h.made _ e).next (ih h.bringCells)
    next e => exact h.made

theorem Keeps.endMove (h : Keeps s₀ s) : Keeps s₀ s.endMove := h.finishAll.same (by rfl)

theorem Keeps.move {m} (h : Keeps s₀ s) : KeepsR s₀ (s.move m) := h.madeIn.map fun _ h => h.endMove

/-! ### Machine/Step.lean -/

theorem Keeps.step (h : Keeps s₀ s) : KeepsR s₀ (step s) := by
  unfold Machine.step
  split
  next e => exact (h.tick.pick.of e).move
  · exact branches h.tick.next keepsR_fault

end Sys2Proof.Machine
end

section
namespace Sys2Proof.Machine

/-- Settles O59: each operation of the machine keeps the memory's form and the registers' bounds, so a step does. -/
theorem stepsKeepMemoryCanonical : Obligations.StepsKeepMemoryCanonical := fun s t e =>
  have k := (Keeps.refl s).step t e
  ⟨k.wf, k.inv⟩

end Sys2Proof.Machine
end

section
/-! PROOFS of 04_memory_model.md: scalar loads and stores, and the checks of an access (R88 to R90, R92, R94, R184, R198, R200,
R396, R397). First the windows, then entries, walks and translations, then the orders of the checks, and at the end the
statement. -/

namespace Sys2Proof.Machine

/-! ### Loads and stores issued (R198, R200) -/

theorem loadTo_issued {s s1 : State} {d a : SReg} (h : NoToken s [d, a]) {n : Nat} {signed : Bool} {e : BitVec 24}
    {ls : List Loc} (hc : s.check s.ctlAgent .read n (s.dispAddr a e).toNat = (.ok ls, s1)) :
    Issued s1 (s.loadTo n signed d a e) (.load d.val signed) (s.dispAddr a e).toNat ls := by
  rw [State.loadTo, withRegs_of h, State.issue, hc]
  rfl

theorem storeFrom_issued {s s1 : State} {a b : SReg} (h : NoToken s [a, b]) {n : Nat} {e : BitVec 24}
    {ls : List Loc} (hc : s.check s.ctlAgent .write n (s.dispAddr a e).toNat = (.ok ls, s1)) :
    Issued s1 (s.storeFrom n a b e) (.store ((s.reg b).toNat % 2 ^ (8 * n))) (s.dispAddr a e).toNat ls := by
  rw [State.storeFrom, withRegs_of h, State.cstore, State.issue, hc]
  rfl

/-! ### Windows (R88 to R90, R94) -/

section
variable (s : State) (ag : Agent) (k : Access) {o : Nat}

theorem window_rows : s.window ag k (0x00FFFF0000000000 + o) =
    if o < 2 ^ 24 then
      if !(s.unitSt (uidOf ag.site)).usable.getLsbD (o / 2 ^ 20) then none
      else if (s.ownedQuads (uidOf ag.site)).getLsbD (o / 2 ^ 20) then
        some (.cell (arrayBase (uidOf ag.site) + o) (arrayBase (uidOf ag.site) + o))
      else some .void
    else none := by
  rw [State.window]
  dsimp only
  rw [if_pos (by omega), Nat.add_sub_cancel_left]

theorem window_clusterScratch (ho : o < 2 ^ 32) : s.window ag k (0x00FFFE0000000000 + o) =
    if o < scratchSize 0 && s.scratchAllowed ag.ctx (siteDie ag.site) (siteCluster ag.site) o then
      some (scratchLoc (siteDie ag.site) (siteCluster ag.site) o (s.ctxD ag.ctx).bankkey) else none := by
  rw [State.window]
  dsimp only
  rw [if_neg (by omega), if_pos (by omega), Nat.add_sub_cancel_left]

theorem window_dieScratch (ho : o < 2 ^ 32) : s.window ag k (0x00FFFD0000000000 + o) =
    if o < scratchSize 15 && s.scratchAllowed ag.ctx (siteDie ag.site) 15 o then
      some (scratchLoc (siteDie ag.site) 15 o (s.ctxD ag.ctx).bankkey) else none := by
  rw [State.window]
  dsimp only
  rw [if_neg (by omega), if_neg (by omega), if_pos (by omega), Nat.add_sub_cancel_left]

theorem window_residual (ho : o < 2 ^ 40) : s.window ag k (0x00FFFC0000000000 + o) =
    if o < 2 ^ 15 && k == .read then some (.rtile ag.site o) else none := by
  rw [State.window]
  dsimp only
  rw [if_neg (by omega), if_neg (by omega), if_neg (by omega), if_pos (by omega), Nat.add_sub_cancel_left]

theorem window_weights (ho : o < 2 ^ 40) : s.window ag k (0x00FFFB0000000000 + o) =
    if o < 3 * 2 ^ 20 && !k.isAtomic then
      if (s.ownedSegs (uidOf ag.site)).getLsbD (o / 2 ^ 18) then
        some (.cell (weightBase (uidOf ag.site) + o) (weightBase (uidOf ag.site) + o))
      else some .void
    else none := by
  rw [State.window]
  dsimp only
  rw [if_neg (by omega), if_neg (by omega), if_neg (by omega), if_neg (by omega), if_pos (by omega),
    Nat.add_sub_cancel_left]

/-- The global window of the scratchpads: a die, a cluster or 15, and an offset. -/
theorem window_scratchpads {d c : Nat} (hd : d < 0x7B0) (hc : c ≤ 15) (ho : o < 2 ^ 32) :
    s.window ag k (0x00FF800000000000 + d * 2 ^ 36 + c * 2 ^ 32 + o) =
      if d ≤ 7 && (c ≤ 11 || c == 15) && o < scratchSize c && s.scratchAllowed ag.ctx d c o then
        some (scratchLoc d c o (s.ctxD ag.ctx).bankkey)
      else none := by
  have hx : 0x00FF800000000000 + d * 2 ^ 36 + c * 2 ^ 32 + o - 0x00FF800000000000 = d * 2 ^ 36 + c * 2 ^ 32 + o := by omega
  have hdie : (d * 2 ^ 36 + c * 2 ^ 32 + o) / 2 ^ 36 = d := by omega
  have hcl : (d * 2 ^ 36 + c * 2 ^ 32 + o) / 2 ^ 32 % 16 = c := by omega
  have hoff : (d * 2 ^ 36 + c * 2 ^ 32 + o) % 2 ^ 32 = o := by omega
  rw [State.window]
  dsimp only
  rw [if_neg (by omega), if_neg (by omega), if_neg (by omega), if_neg (by omega), if_neg (by omega), if_pos (by omega),
    hx, hdie, hcl, hoff]

theorem window_below (ho : o < 0x00FF800000000000) : s.window ag k o = none := by
  rw [State.window]
  dsimp only
  rw [if_neg (by omega), if_neg (by omega), if_neg (by omega), if_neg (by omega), if_neg (by omega), if_neg (by omega)]

end

theorem windowsResolve : WindowsResolve := by
  intro s ag k o d c uid key at' glob here
  have hdie : siteDie ag.site ≤ 7 := by unfold siteDie; omega
  have hglob : ∀ {d c}, d < 0x7B0 → c ≤ 15 → o < 2 ^ 32 → glob d c = _ := fun hd hc ho =>
    window_scratchpads s ag k hd hc ho
  refine ⟨fun ho => ⟨fun hu => ?_, fun hu => ?_⟩, fun ho => ?_, fun hd hc ho ha => ?_, fun hd ho ha => ?_,
    fun hc ho hd h => ?_, fun ho hh => ?_, fun ho => ?_, fun ho => ?_, fun ho => ?_, window_below s ag k, ?_⟩
  · show s.window ag k _ = _
    rw [window_rows, if_pos ho, hu]
    rfl
  · show s.window ag k _ = _
    rw [window_rows, if_pos ho, hu]
    rfl
  · show s.window ag k _ = _
    rw [window_rows, if_neg (by omega)]
  · have hs : scratchSize c = 12 * 2 ^ 20 := if_neg (by simp; omega)
    have hne : (c == 15) = false := by simp; omega
    rw [hglob (by omega) (by omega) (by omega), if_pos (by simpa [hs, ha, hd, hc] using ho), scratchLoc, hne]
    rfl
  · rw [hglob (by omega) (by omega) (by omega), if_pos (by simpa [scratchSize, ha, hd] using ho)]
    rfl
  · rw [hglob hd hc ho, if_neg]
    simp only [scratchSize, Bool.and_eq_true, Bool.or_eq_true, decide_eq_true_eq, beq_iff_eq]
    rintro ⟨⟨⟨h1, h2⟩, h3⟩, h4⟩
    rcases h with h | h | h | h
    · omega
    · omega
    · split_ifs at h h3 <;> omega
    · simp [h4] at h
  · have hs : scratchSize here = scratchSize 0 := by
      have : (here == 15) = false := by simp; omega
      simp [scratchSize, this]
    rw [hglob (by omega) (by omega) ho]
    show s.window ag k _ = _
    rw [window_clusterScratch s ag k ho, hs]
    simp [hdie, hh, here]
  · rw [hglob (by omega) (by omega) ho]
    show s.window ag k _ = _
    rw [window_dieScratch s ag k ho]
    simp [hdie]
  · show s.window ag k _ = _
    rw [window_residual s ag k ho]
    simp
  · show s.window ag k _ = _
    rw [window_weights s ag k ho]
    simp [uid]
  · simp [State.windowOk, at', Option.isSome_iff_ne_none]

/-! ### Entries and walks (R396) -/

/-- An entry that may not stand at its level. -/
def BadEntry (lev e : Nat) : Prop :=
  e / 2 ^ 48 ≠ 0 ∨ bits e 11 7 ≠ 0 ∨ e / 2 % 2 = 1 ∨ (e / 32 % 2 = 1 ∧ (lev = 3 ∨ lev = 0 ∨ e / 64 % 2 = 1))

theorem badEntry_iff (lev e : Nat) : BadEntry lev e ↔
    (e / 2 ^ 48 != 0 || bits e 11 7 != 0 || e / 2 % 2 == 1 || (e / 32 % 2 == 1 && (lev == 3 || lev == 0))
      || (e / 32 % 2 == 1 && e / 64 % 2 == 1)) = true := by
  simp only [BadEntry, Bool.or_eq_true, Bool.and_eq_true, bne_iff_ne, beq_iff_eq]
  tauto

theorem ptStep_invalid {lev e : Nat} (h : e % 2 = 0) : ptStep lev e = .error ⟨.memTranslation, 0, false, 0⟩ := by
  simp [ptStep, h]

theorem ptStep_bad {lev e : Nat} (h : e % 2 = 1) (hb : BadEntry lev e) :
    ptStep lev e = .error ⟨.memPermission, 0, false, 0⟩ := by
  rw [badEntry_iff] at hb
  unfold ptStep
  dsimp only
  rw [if_neg (by simp [h]), if_pos hb]

theorem ptStep_table {lev e : Nat} (h : e % 2 = 1) (hb : ¬ BadEntry lev e) (hl : lev ≠ 0) (hf : ¬ e / 32 % 2 = 1) :
    ptStep lev e = .ok (.table (bits e 47 12 * 4096)) := by
  rw [badEntry_iff] at hb
  unfold ptStep
  dsimp only
  rw [if_neg (by simp [h]), if_neg hb, if_neg (by simp [hl, hf])]

theorem ptStep_leaf {lev e : Nat} (h : e % 2 = 1) (hb : ¬ BadEntry lev e) (hl : lev = 0 ∨ e / 32 % 2 = 1) :
    let size := if lev = 2 then 2 ^ 30 else if lev = 1 then 2 ^ 21 else if e / 64 % 2 = 1 then 2 ^ 16 else 4096
    ptStep lev e = if bits e 47 12 * 4096 % size = 0 then .ok (.leaf ⟨e, size⟩)
      else .error ⟨.memPermission, 0, false, 0⟩ := by
  intro size
  have hs : (if lev == 2 then 2 ^ 30 else if lev == 1 then 2 ^ 21 else if e / 64 % 2 == 1 then 2 ^ 16 else 4096) = size := by
    simp only [beq_iff_eq, size]
  rw [badEntry_iff] at hb
  unfold ptStep
  dsimp only
  rw [if_neg (by simp [h]), if_neg hb, if_pos (by simpa using hl), hs]
  by_cases hm : bits e 47 12 * 4096 % size = 0 <;> simp [hm]

/-- At level 0 there is no next table. -/
theorem ptStep_zero_ne_table (e t : Nat) : ptStep 0 e ≠ .ok (.table t) := by
  unfold ptStep
  dsimp only
  split_ifs <;> simp_all

theorem ptIndex_eq (va : Nat) {lev : Nat} (h : lev ≤ 3) :
    ptIndex va lev = if lev = 3 then bits va 55 39 else va / 2 ^ (12 + 9 * lev) % 512 := by
  interval_cases lev <;> rfl

section
variable {s : State} {ctx va lev t : Nat}

theorem walkFrom_unread {f : WalkFault} (h : s.ptRead ctx (t + 8 * ptIndex va lev) = .error f) :
    s.walkFrom ctx va lev t = .error f := by
  unfold State.walkFrom
  rw [h]

theorem walkFrom_fault {e : Nat} {f : WalkFault} (h : s.ptRead ctx (t + 8 * ptIndex va lev) = .ok e)
    (hs : ptStep lev e = .error f) : s.walkFrom ctx va lev t = .error f := by
  unfold State.walkFrom
  simp only [h, hs]

theorem walkFrom_leaf {e : Nat} {l : Leaf} (h : s.ptRead ctx (t + 8 * ptIndex va lev) = .ok e)
    (hs : ptStep lev e = .ok (.leaf l)) : s.walkFrom ctx va lev t = .ok l := by
  unfold State.walkFrom
  simp only [h, hs]

theorem walkFrom_table {e t' : Nat} (h : s.ptRead ctx (t + 8 * ptIndex va lev) = .ok e)
    (hs : ptStep lev e = .ok (.table t')) : s.walkFrom ctx va lev t = s.walkFrom ctx va (lev - 1) t' := by
  cases lev with
  | zero => exact absurd hs (ptStep_zero_ne_table e t')
  | succ lev =>
    rw [State.walkFrom]
    simp only [h, hs]
    rfl

end

theorem ptRead_readable {s : State} {ctx a : Nat} (ha : a < 2 ^ 39) (hh : s.hbmAllowed ctx false a = true)
    (hc : (s.ctxD ctx).conf = false) (he : s.fleet.errors = []) : s.ptRead ctx a = .ok (s.rdN a 8) := by
  rw [State.ptRead, if_neg (by rw [decide_eq_true ha, hh, hc]; exact Bool.false_ne_true), if_neg (by rw [he]; simp)]

theorem ptRead_refused {s : State} {ctx a : Nat} (h : 2 ^ 39 ≤ a ∨ s.hbmAllowed ctx false a = false) :
    s.ptRead ctx a = .error ⟨.memPermission, 0, true, a⟩ := by
  rw [State.ptRead, if_pos]
  rcases h with h | h
  · rw [decide_eq_false (Nat.not_lt.2 h)]; rfl
  · simp [h]

/-! ### What a translation leaves alone (R397) -/

/-- Cached translations, free values and the counters of errors are all that differs. -/
def OnlyTranslated (s t : State) : Prop :=
  t = { s with tlb := t.tlb, displaced := t.displaced, fresh := t.fresh, fleet := { s.fleet with counters := t.fleet.counters } }

namespace OnlyTranslated

variable {s t u : State}

theorem refl (s : State) : OnlyTranslated s s := rfl

theorem trans (h : OnlyTranslated s t) (k : OnlyTranslated t u) : OnlyTranslated s u := by
  unfold OnlyTranslated at *
  rw [k, h]

theorem errors (h : OnlyTranslated s t) : t.fleet.errors = s.fleet.errors := by rw [h]

theorem ptRead (h : OnlyTranslated s t) (ctx a : Nat) : t.ptRead ctx a = s.ptRead ctx a := by rw [h]; rfl

theorem ctxD (h : OnlyTranslated s t) (ctx : Nat) : t.ctxD ctx = s.ctxD ctx := by rw [h]; rfl

theorem walkFrom (h : OnlyTranslated s t) (ctx va lev a : Nat) : t.walkFrom ctx va lev a = s.walkFrom ctx va lev a := by
  induction lev generalizing a with
  | zero => unfold State.walkFrom; rw [h.ptRead]
  | succ lev ih => unfold State.walkFrom; simp only [h.ptRead, ih]

theorem withTlb (h : OnlyTranslated s t) (l : List Tlb) : OnlyTranslated s { t with tlb := l } := by
  unfold OnlyTranslated at *
  rw [h]

theorem free (h : OnlyTranslated s t) : OnlyTranslated s t.free.2 := h.trans rfl

theorem displace (h : OnlyTranslated s t) (e : Tlb) : OnlyTranslated s (t.displace e) := by
  unfold State.displace
  split
  · exact h.trans rfl
  · exact h

theorem displaceAll (h : OnlyTranslated s t) (l : List Tlb) : OnlyTranslated s (l.foldl State.displace t) :=
  foldl_keeps (P := OnlyTranslated s) _ l t (fun _ e h => h.displace e) h

theorem cacheEntry (h : OnlyTranslated s t) (e : Tlb) : OnlyTranslated s (t.cacheEntry e) := by
  unfold State.cacheEntry
  dsimp only
  split
  · exact h
  · split
    · exact (h.displaceAll _).withTlb _
    · exact ((h.displaceAll _).free.withTlb _).displaceAll _

theorem correctedOf (h : OnlyTranslated s t) (cells : List Nat) (l : List ErrLoc) :
    OnlyTranslated s (t.correctedOf cells l) := by
  induction l generalizing t with
  | nil => exact h
  | cons e l ih =>
    refine ih ?_
    cases e with
    | hbmCorrectable p => dsimp only; split <;> exact h.trans rfl
    | sramCorrectable p q => dsimp only; split <;> exact h.trans rfl
    | hbmBad p => exact h
    | arrayParity p q => exact h
    | sramBad p => exact h

theorem ptEntry (h : OnlyTranslated s t) (ag : Agent) (va lev a : Nat) : OnlyTranslated s (t.ptEntry ag va lev a).2 := by
  have hk : OnlyTranslated s (t.corrected [a + 8 * ptIndex va lev]) := h.correctedOf _ _
  unfold State.ptEntry
  dsimp only
  split
  · exact hk
  · split_ifs
    · exact hk
    · exact hk.free
    · exact hk.free

theorem sixteen (h : OnlyTranslated s t) (ctx va a : Nat) (l : Leaf) : OnlyTranslated s (t.sixteen ctx va a l).2 := by
  unfold State.sixteen
  dsimp only
  split
  · exact h
  · split
    · exact h
    · split
      · exact h.free
      · exact h.free.correctedOf _ _
      · exact h.free.correctedOf _ _

theorem walkCached (h : OnlyTranslated s t) (ag : Agent) (va lev a : Nat) :
    OnlyTranslated s (t.walkCached ag va lev a).2 := by
  induction lev generalizing t a with
  | zero =>
    have hp := h.ptEntry ag va 0 a
    unfold State.walkCached
    split
    · rename_i e; rw [e] at hp; exact hp
    · rename_i e; rw [e] at hp
      split
      · exact hp
      · exact hp.sixteen ..
      · exact hp
  | succ lev ih =>
    have hp := h.ptEntry ag va (lev + 1) a
    unfold State.walkCached
    split
    · rename_i e; rw [e] at hp; exact hp
    · rename_i e; rw [e] at hp
      split
      · exact hp
      · exact hp
      · exact ih (hp.cacheEntry _) _

end OnlyTranslated


theorem OnlyTranslated.cacheLeaf {s t : State} (h : OnlyTranslated s t) (l : List (Nat × Nat)) (f : Nat × Nat → Tlb) :
    OnlyTranslated s (l.foldl (fun s c => s.cacheEntry (f c)) t) := by
  induction l generalizing t with
  | nil => exact h
  | cons c l ih => exact ih (h.cacheEntry _)

/-! ### Translation (R397) -/

/-- A walk by an agent whose leaf is cached. -/
def State.walked (s : State) (ag : Agent) (va : Nat) : Except WalkFault Leaf × State :=
  match s.walkCached ag va 3 (s.ctxD ag.ctx).ptroot with
  | (.error f, s) => (.error f, s)
  | (.ok l, s) => (.ok l, ag.caches.foldl (fun s c =>
      s.cacheEntry ⟨c.1, c.2, ag.ctx, 0, va / l.size * l.size, l.size, BitVec.ofNat 64 l.entry⟩) s)

theorem State.walked_fst (s : State) (ag : Agent) (va : Nat) :
    (s.walked ag va).1 = (s.walkCached ag va 3 (s.ctxD ag.ctx).ptroot).1 := by
  unfold State.walked
  split <;> (rename_i e; rw [e])

theorem OnlyTranslated.walked {s t : State} (h : OnlyTranslated s t) (ag : Agent) (va : Nat) :
    OnlyTranslated s (t.walked ag va).2 := by
  have hw := h.walkCached ag va 3 (t.ctxD ag.ctx).ptroot
  unfold State.walked
  split
  · rename_i e; rw [e] at hw; exact hw
  · rename_i e; rw [e] at hw; exact hw.cacheLeaf _ _

/-- The entries of the caches of an agent that serve an address. -/
def State.hits (s : State) (ag : Agent) (va : Nat) : List Tlb :=
  s.tlb.filter (fun x => x.lev == 0 && x.ctx == ag.ctx && x.va ≤ va && va < x.va + x.size
    && ag.caches.contains (x.kind, x.num))

theorem State.mem_hits {s : State} {ag : Agent} {va : Nat} {x : Tlb} : x ∈ s.hits ag va ↔
    x ∈ s.tlb ∧ x.lev = 0 ∧ x.ctx = ag.ctx ∧ x.va ≤ va ∧ va < x.va + x.size ∧ (x.kind, x.num) ∈ ag.caches := by
  simp [State.hits, and_assoc]

/-- A translation is a walk, at once or after a free choice, or a cached leaf. -/
theorem State.translate_cases (s : State) (ag : Agent) (va : Nat) :
    s.translate ag va = s.walked ag va ∨ s.hits ag va ≠ [] ∧ (s.translate ag va = s.free.2.walked ag va
      ∨ ∃ x ∈ s.hits ag va, ∃ u, (u = s ∨ u = s.free.2) ∧ s.translate ag va = (.ok ⟨x.leaf.toNat, x.size⟩, u)) := by
  have cached : ∀ l ∈ (s.hits ag va).map (fun x => (⟨x.leaf.toNat, x.size⟩ : Leaf)), ∀ u, (u = s ∨ u = s.free.2) →
      s.translate ag va = (.ok l, u) →
      ∃ x ∈ s.hits ag va, ∃ u, (u = s ∨ u = s.free.2) ∧ s.translate ag va = (.ok ⟨x.leaf.toNat, x.size⟩, u) := by
    intro l hl u hu h
    obtain ⟨x, hx, rfl⟩ := List.mem_map.1 hl
    exact ⟨x, hx, u, hu, h⟩
  cases hm : (s.hits ag va).map (fun x => (⟨x.leaf.toNat, x.size⟩ : Leaf)) with
  | nil =>
    refine .inl ?_
    unfold State.translate
    dsimp only
    rw [show List.map _ (s.tlb.filter _) = [] from hm]
    rfl
  | cons h r =>
    refine .inr ⟨fun e => by simp [e] at hm, ?_⟩
    rw [hm] at cached
    have ht : s.translate ag va = if r.all (· == h) && (match s.walk0 ag.ctx va with | .ok l => l == h | .error _ => false)
        then (.ok h, s)
        else match (h :: r)[s.free.1 % (r.length + 2)]? with
          | some l => (.ok l, s.free.2)
          | none => s.free.2.walked ag va := by
      unfold State.translate
      dsimp only
      rw [show List.map _ (s.tlb.filter _) = h :: r from hm]
      rfl
    split_ifs at ht
    · exact .inr (cached h (List.mem_cons_self ..) s (.inl rfl) ht)
    · split at ht
      · rename_i l e
        exact .inr (cached l (List.mem_of_getElem? e) _ (.inr rfl) ht)
      · exact .inl ht

theorem State.translate_onlyTranslated (s : State) (ag : Agent) (va : Nat) : OnlyTranslated s (s.translate ag va).2 := by
  rcases s.translate_cases ag va with h | ⟨-, h | ⟨x, -, u, hu, h⟩⟩
  · rw [h]
    exact (OnlyTranslated.refl s).walked ag va
  · rw [h]
    exact (OnlyTranslated.refl s).free.walked ag va
  · rw [h]
    rcases hu with rfl | rfl
    · exact .refl _
    · exact (OnlyTranslated.refl s).free

/-! ### A walk that no cached entry serves -/

@[simp] theorem State.count_tlb (s : State) (die k : Nat) : (s.count die k).tlb = s.tlb := rfl

theorem State.correctedOf_tlb (s : State) (cells : List Nat) (es : List ErrLoc) :
    (s.correctedOf cells es).tlb = s.tlb := by
  induction es generalizing s with
  | nil => rfl
  | cons e es ih =>
    unfold State.correctedOf
    dsimp only
    rw [ih]
    split
    · split <;> rfl
    · split <;> rfl
    · rfl

theorem State.displaceAll_tlb (l : List Tlb) (s : State) : (l.foldl State.displace s).tlb = s.tlb := by
  refine foldl_keeps (P := fun u => u.tlb = s.tlb) _ l s (fun u e h => ?_) rfl
  unfold State.displace
  split <;> exact h

theorem State.mem_cacheEntry {s : State} {e x : Tlb} (h : x ∈ (s.cacheEntry e).tlb) : x = e ∨ x ∈ s.tlb := by
  unfold State.cacheEntry at h
  dsimp only at h
  split_ifs at h
  · exact .inr h
  · exact (List.mem_cons.1 h).imp_right List.mem_of_mem_filter
  · rw [State.displaceAll_tlb] at h
    exact (List.mem_cons.1 h).imp_right fun h => List.mem_of_mem_filter (List.mem_of_mem_filter h)

/-- No cached entry of a level or of one below it. -/
def NoneCached (s : State) (lev : Nat) : Prop := ∀ x ∈ s.tlb, lev < x.lev

theorem ptEntry_uncached {s : State} {ag : Agent} {va lev t : Nat} (h : NoneCached s lev) :
    s.ptEntry ag va lev t = (s.ptRead ag.ctx (t + 8 * ptIndex va lev), s.corrected [t + 8 * ptIndex va lev]) := by
  have hm : (s.corrected [t + 8 * ptIndex va lev]).tlb.find? (fun x => x.kind == 2 && x.num == siteDie ag.site
      && x.ctx == ag.ctx && x.lev == lev && decide (x.va ≤ va) && decide (va < x.va + x.size)) = none := by
    rw [State.corrected, State.correctedOf_tlb, List.find?_eq_none]
    intro x hx
    have hl : (x.lev == lev) = false := beq_false_of_ne (h x hx).ne'
    simp [hl]
  unfold State.ptEntry
  dsimp only
  rw [hm]

/-- The leaf of the sixteen is the one found, but for a page of 64 KiB. -/
theorem sixteen_fst {s : State} {ctx va t : Nat} {l : Leaf} (h : l.size ≠ 65536) : s.sixteen ctx va t l = (.ok l, s) := by
  unfold State.sixteen
  rw [if_pos (by simpa using h)]

theorem walkCached_uncached {s : State} {ag : Agent} {va lev t : Nat} (h : NoneCached s lev) :
    (s.walkCached ag va lev t).1 = s.walkFrom ag.ctx va lev t
      ∨ ∃ l, s.walkFrom ag.ctx va lev t = .ok l ∧ l.size = 65536 := by
  have hk : OnlyTranslated s (s.corrected [t + 8 * ptIndex va lev]) := (OnlyTranslated.refl s).correctedOf _ _
  have htlb : (s.corrected [t + 8 * ptIndex va lev]).tlb = s.tlb := State.correctedOf_tlb ..
  induction lev generalizing s t with
  | zero =>
    unfold State.walkCached
    rw [ptEntry_uncached h]
    cases hr : s.ptRead ag.ctx (t + 8 * ptIndex va 0) with
    | error f => exact .inl (walkFrom_unread hr).symm
    | ok e =>
      cases hs : ptStep 0 e with
      | error f => exact .inl (by simp only [hs, walkFrom_fault hr hs])
      | ok p =>
        cases p with
        | table t' => exact absurd hs (ptStep_zero_ne_table e t')
        | leaf l =>
          by_cases hl : l.size = 65536
          · exact .inr ⟨l, walkFrom_leaf hr hs, hl⟩
          · exact .inl (by simp [hs, walkFrom_leaf hr hs, sixteen_fst hl])
  | succ lev ih =>
    unfold State.walkCached
    rw [ptEntry_uncached h]
    cases hr : s.ptRead ag.ctx (t + 8 * ptIndex va (lev + 1)) with
    | error f => exact .inl (walkFrom_unread hr).symm
    | ok e =>
      cases hs : ptStep (lev + 1) e with
      | error f => exact .inl (by simp only [hs, walkFrom_fault hr hs])
      | ok p =>
        cases p with
        | leaf l => exact .inl (by simp [hs, walkFrom_leaf hr hs])
        | table t' =>
          let u := (s.corrected [t + 8 * ptIndex va (lev + 1)]).cacheEntry ⟨2, siteDie ag.site, ag.ctx, lev + 1,
            va / ptSpan (lev + 1) * ptSpan (lev + 1), ptSpan (lev + 1), BitVec.ofNat 64 e⟩
          have hu : NoneCached u lev := by
            intro x hx
            rcases State.mem_cacheEntry hx with rfl | hx
            · exact Nat.lt_succ_self lev
            · exact Nat.lt_of_succ_lt (h x (htlb ▸ hx))
          have hw := ih (t := t') hu ((OnlyTranslated.refl u).correctedOf _ _) (State.correctedOf_tlb ..)
          rw [(hk.cacheEntry _).walkFrom] at hw
          rw [walkFrom_table hr hs]
          simp only [hs]
          exact hw

/-! ### The place of a translated byte (R92, R112, R396) -/

/-- The bits of a leaf that an access needs. -/
def Access.allowedBy (k : Access) (e : Nat) : Prop :=
  match k with
  | .read => e / 4 % 2 = 1
  | .write => e / 8 % 2 = 1
  | .atomic _ => e / 4 % 8 = 7

/-- Where an allowed access to a physical address goes; far is what becomes of it in host and peer memory. -/
def State.placeAt (s : State) (ag : Agent) (w : Bool) (pa : Nat) (far : Except Cause Loc) : Except Cause Loc :=
  if pa < 2 ^ 39 then if s.hbmAllowed ag.ctx w pa then .ok (.cell pa pa) else .error .memPermission
  else if pa < 2 ^ 47 then .error .memPermission
  else far

theorem leafLoc_spec (s : State) (ag : Agent) (k : Access) (n va : Nat) (l : Leaf) :
    let pa := bits l.entry 47 12 * 4096 + va % l.size
    ∃ far, (¬ k.allowedBy l.entry → s.leafLoc ag k n va l = .error .memPermission)
      ∧ (k.allowedBy l.entry → s.leafLoc ag k n va l = s.placeAt ag k.isWrite pa far)
      ∧ (k.isAtomic = false → far = .ok (.cell pa pa))
      ∧ ∀ ok, k = .atomic ok →
        far = if ok && Config.atomicCompleter (completerOf pa) n then .ok (.cell pa pa) else .error .hostAtomic := by
  intro pa
  cases k with
  | read => exact ⟨_, fun h => if_pos (by simpa [Access.allowedBy] using h),
      fun h => if_neg (by simpa [Access.allowedBy] using h), fun _ => rfl, nofun⟩
  | write => exact ⟨_, fun h => if_pos (by simpa [Access.allowedBy] using h),
      fun h => if_neg (by simpa [Access.allowedBy] using h), fun _ => rfl, nofun⟩
  | atomic ok => exact ⟨_, fun h => if_pos (by simpa [Access.allowedBy] using h),
      fun h => if_neg (by simpa [Access.allowedBy] using h), nofun, fun _ e => by cases e; rfl⟩

/-! ### The statement on walks -/

theorem translationWalks : TranslationWalks := by
  refine ⟨?step, ?walk, ?root, ?cached, ?leaf⟩
  case step =>
    intro lev e _ leaf c bad size
    exact ⟨ptStep_invalid, ptStep_bad, fun h hb => ptStep_table h hb, fun h hb => ptStep_leaf h hb⟩
  case walk =>
    intro s ctx va lev t hl a
    have ha : a = t + 8 * ptIndex va lev := by rw [ptIndex_eq va hl]
    rw [ha]
    exact ⟨fun f => walkFrom_unread,
      fun e h => ⟨fun f => walkFrom_fault h, fun l => walkFrom_leaf h, fun t' => walkFrom_table h⟩⟩
  case root =>
    intro s ctx va a
    exact ⟨rfl, fun ⟨ha, hh, hc⟩ he => ptRead_readable ha hh hc he, ptRead_refused⟩
  case cached =>
    intro s ag va
    have hf : s.free.2.ctxD ag.ctx = s.ctxD ag.ctx := rfl
    refine ⟨fun ht => ?_, ?_⟩
    · have hh : s.hits ag va = [] := by rw [State.hits, ht]; rfl
      have hw : s.translate ag va = s.walked ag va := (s.translate_cases ag va).resolve_right (fun h => h.1 hh)
      rw [hw, State.walked_fst]
      exact walkCached_uncached (by simp [NoneCached, ht])
    · rcases s.translate_cases ag va with h | ⟨-, h | ⟨x, hx, u, -, h⟩⟩
      · exact .inl (by simp [h, State.walked_fst])
      · exact .inl (by simp [h, State.walked_fst, hf])
      · obtain ⟨hm, hlev, hctx, hlo, hhi, hc⟩ := State.mem_hits.1 hx
        exact .inr ⟨x, hm, hlev, hctx, hlo, hhi, hc, by rw [h]⟩
  case leaf =>
    intro s ag k n va l pa may r
    obtain ⟨far, hdenied, hplaced, hremote, hatomic⟩ := leafLoc_spec s ag k n va l
    refine ⟨hdenied, fun h h39 => ?_, fun h h39 h47 => ?_, fun h h47 hk => ?_, fun h h47 ok hk => ?_⟩
    · exact (hplaced h).trans (if_pos h39)
    · exact (hplaced h).trans ((if_neg (by omega)).trans (if_pos h47))
    · exact (hplaced h).trans ((if_neg (by omega)).trans ((if_neg (by omega)).trans (hremote hk)))
    · exact (hplaced h).trans ((if_neg (by omega)).trans ((if_neg (by omega)).trans (hatomic ok hk)))

/-! ### The checks of an access, in their order (R184) -/

section
variable {s u : State} {ag : Agent} {k : Access} {n va : Nat}

/-- Order 1 of R184: every byte is outside the windows or in one. -/
def InWindows (s : State) (ag : Agent) (k : Access) (n va : Nat) : Prop :=
  ∀ i < n, s.windowOk ag k ((va + i) % 2 ^ 64) = true

theorem inWindows_iff : InWindows s ag k n va ↔ (List.range n).all (fun i => s.windowOk ag k ((va + i) % 2 ^ 64)) = true := by
  simp only [InWindows, List.all_eq_true, List.mem_range]

theorem check_outside (h : ¬ InWindows s ag k n va) : s.check ag k n va = (.error ⟨.memPermission, 0, va, k.code⟩, s) := by
  rw [inWindows_iff] at h
  rw [State.check, if_pos (by simpa using h)]

theorem check_misaligned (h : InWindows s ag k n va) (hk : k.isAtomic = true) (ha : va % n ≠ 0) :
    s.check ag k n va = (.error ⟨.memAlign, 0, va, k.code⟩, s) := by
  rw [inWindows_iff] at h
  rw [State.check, h, if_neg (by simp), if_pos (by simp [hk, ha])]

theorem check_refused {f : AccFault} (h : InWindows s ag k n va) (ha : k.isAtomic = false ∨ va % n = 0)
    (hr : s.resolve ag k n va = (.error f, u)) : s.check ag k n va = (.error f, u) := by
  rw [inWindows_iff] at h
  rw [State.check, h, if_neg (by simp), if_neg (by rcases ha with ha | ha <;> simp [ha]), hr]

theorem check_passed {ls : List Loc} (h : InWindows s ag k n va) (ha : k.isAtomic = false ∨ va % n = 0)
    (hr : s.resolve ag k n va = (.ok ls, u)) (he : u.fleet.errors = []) : (s.check ag k n va).1 = .ok ls := by
  rw [inWindows_iff] at h
  rw [State.check, h, if_neg (by simp), if_neg (by rcases ha with ha | ha <;> simp [ha]), hr]
  simp only [State.errorCheck_nil u k va ls he]

end

/-! ### Places of some bytes, one after the other -/

section
variable {s : State} {ag : Agent} {k : Access} {n : Nat} {pages : List (Nat × Leaf)}

theorem byteLocs_of_forall₂ {l : List Nat} {ls : List Loc}
    (h : List.Forall₂ (fun va x => s.byteLoc ag k n pages va = .ok x) l ls) : s.byteLocs ag k n pages l = .ok ls := by
  induction h with
  | nil => rfl
  | cons hx _ ih => simp only [State.byteLocs, hx, ih]

theorem byteLocs_of_row {va : Nat} {ls : List Loc} (hl : ls.length = n)
    (h : ∀ i < n, ∃ x, ls[i]? = some x ∧ s.byteLoc ag k n pages (va + i) = .ok x) :
    s.byteLocs ag k n pages ((List.range n).map (va + ·)) = .ok ls := by
  refine byteLocs_of_forall₂ (List.forall₂_iff_get.2 ⟨by simp [hl], fun i h1 h2 => ?_⟩)
  obtain ⟨x, hx, hb⟩ := h i (hl ▸ h2)
  rw [List.getElem?_eq_getElem h2, Option.some.injEq] at hx
  simpa [hx] using hb

/-- The first byte that fails refuses the access. -/
theorem byteLocs_refused {pre r : List Nat} {va : Nat} {c : Cause} (hp : ∀ x ∈ pre, ∃ y, s.byteLoc ag k n pages x = .ok y)
    (hc : s.byteLoc ag k n pages va = .error c) :
    s.byteLocs ag k n pages (pre ++ va :: r) = .error ⟨c, 0, va, k.code⟩ := by
  induction pre with
  | nil => simp only [List.nil_append, State.byteLocs, hc]
  | cons x pre ih =>
    obtain ⟨y, hy⟩ := hp x (List.mem_cons_self ..)
    simp only [List.cons_append, State.byteLocs, hy, ih (fun z hz => hp z (List.mem_cons_of_mem _ hz))]

theorem byteLocs_row_refused {va i : Nat} {c : Cause} (hi : i < n)
    (hp : ∀ j < i, ∃ y, s.byteLoc ag k n pages (va + j) = .ok y) (hc : s.byteLoc ag k n pages (va + i) = .error c) :
    s.byteLocs ag k n pages ((List.range n).map (va + ·)) = .error ⟨c, 0, va + i, k.code⟩ := by
  have hr : (List.range n).map (va + ·) = (List.range i).map (va + ·)
      ++ (va + i) :: (List.range' (i + 1) (n - i - 1)).map (va + ·) := by
    have hn : List.range n = List.range i ++ i :: List.range' (i + 1) (n - i - 1) := by
      rw [← List.range'_succ, List.range_eq_range', List.range_eq_range']
      have := List.range'_append_1 (s := 0) (m := i) (n := n - i - 1 + 1)
      rw [Nat.zero_add] at this
      rw [this, show i + (n - i - 1 + 1) = n by omega]
    rw [hn, List.map_append, List.map_cons]
  rw [hr]
  refine byteLocs_refused (fun x hx => ?_) hc
  obtain ⟨j, hj, rfl⟩ := List.mem_map.1 hx
  exact hp j (List.mem_range.1 hj)

end

/-! ### The pages of an access -/

/-- Addresses that do not wrap around. -/
theorem vaBytes_row {n va : Nat} (h : va + n ≤ 2 ^ 64) : vaBytes n va = (List.range n).map (va + ·) := by
  refine List.map_congr_left (fun i hi => Nat.mod_eq_of_lt ?_)
  have := List.mem_range.1 hi
  omega

/-- Pages already translated are not translated again. -/
theorem translatePages_covered {s : State} {ag : Agent} {acc : List (Nat × Leaf)} {l : List Nat}
    (h : ∀ va ∈ l, acc.any (fun p => p.1 ≤ va && va < p.1 + p.2.size) = true) :
    s.translatePages ag l acc = (.ok acc, s) := by
  induction l with
  | nil => rfl
  | cons va l ih =>
    rw [State.translatePages, if_pos (h va (List.mem_cons_self ..))]
    exact ih fun x hx => h x (List.mem_cons_of_mem _ hx)

section
variable {s s1 : State} {ag : Agent} {k : Access} {n va : Nat}

theorem resolve_windows (h : InWindows s ag k n va) (hlo : windowsBase ≤ va) (hhi : va + n ≤ 2 ^ 56) :
    s.resolve ag k n va = (.ok ((List.range n).map (fun i => (s.window ag k (va + i)).getD .void)), s) := by
  have hrow := vaBytes_row (n := n) (va := va) (by omega)
  have hpages : (vaBytes n va).filter (· < windowsBase) = [] := by
    rw [hrow, List.filter_eq_nil_iff]
    intro x hx
    obtain ⟨i, -, rfl⟩ := List.mem_map.1 hx
    rw [decide_eq_true_eq]
    omega
  rw [State.resolve, hpages, State.translatePages]
  dsimp only
  rw [hrow]
  refine Prod.ext (byteLocs_of_row (by simp) fun i hi => ?_) rfl
  have hw := h i hi
  have hmod : (va + i) % 2 ^ 64 = va + i := Nat.mod_eq_of_lt (by omega)
  have hb : ¬ va + i < windowsBase := by omega
  rw [hmod, State.windowOk, decide_eq_false hb, Bool.false_or, Bool.and_eq_true] at hw
  obtain ⟨x, hx⟩ := Option.isSome_iff_exists.1 hw.2
  exact ⟨x, by simp [hi, hx], by rw [State.byteLoc, if_neg hb, hx]⟩

/-- Below the windows the first byte's page is translated first. -/
theorem pageBytes_cons (hn : 0 < n) (hhi : va + n ≤ windowsBase) :
    (vaBytes n va).filter (· < windowsBase) = va :: (List.range' 1 (n - 1)).map (va + ·) := by
  have hw : windowsBase < 2 ^ 64 := by decide
  rw [vaBytes_row (by omega), List.filter_eq_self.2 ?_]
  · obtain ⟨m, rfl⟩ : ∃ m, n = m + 1 := ⟨n - 1, by omega⟩
    rw [List.range_eq_range', List.range'_succ]
    rfl
  · intro x hx
    obtain ⟨i, hi, rfl⟩ := List.mem_map.1 hx
    have := List.mem_range.1 hi
    simp only [decide_eq_true_eq]
    omega

theorem resolve_untranslated {f : WalkFault} (hn : 0 < n) (hhi : va + n ≤ windowsBase)
    (ht : s.translate ag va = (.error f, s1)) :
    ∃ u, s.resolve ag k n va = (.error ⟨f.cause, f.detail, va, if f.table then 4 else k.code⟩, u) := by
  rw [State.resolve, pageBytes_cons hn hhi, State.translatePages]
  simp only [List.any_nil, Bool.false_eq_true, if_false, ht]
  exact ⟨_, rfl⟩

/-- An access within one page: its bytes' places from the page's leaf. -/
theorem resolve_page {l : Leaf} (hn : 0 < n) (hhi : va + n ≤ windowsBase) (ht : s.translate ag va = (.ok l, s1))
    (hp : va % l.size + n ≤ l.size) :
    s.resolve ag k n va = (s1.byteLocs ag k n [(va / l.size * l.size, l)] ((List.range n).map (va + ·)), s1)
      ∧ ∀ i < n, s1.byteLoc ag k n [(va / l.size * l.size, l)] (va + i) = s1.leafLoc ag k n (va + i) l := by
  have hw : windowsBase < 2 ^ 64 := by decide
  have hdiv := Nat.div_add_mod' va l.size
  have hin : ∀ i < n, ([(va / l.size * l.size, l)] : List (Nat × Leaf)).any
      (fun p => p.1 ≤ va + i && va + i < p.1 + p.2.size) = true := by
    intro i hi
    simp only [List.any_cons, List.any_nil, Bool.or_false, Bool.and_eq_true, decide_eq_true_eq]
    omega
  refine ⟨?_, fun i hi => ?_⟩
  · rw [State.resolve, pageBytes_cons hn hhi, State.translatePages]
    simp only [List.any_nil, Bool.false_eq_true, if_false, ht]
    rw [translatePages_covered, vaBytes_row (by omega)]
    intro x hx
    obtain ⟨i, hi, rfl⟩ := List.mem_map.1 hx
    exact hin i (by have := List.mem_range'_1.1 hi; omega)
  · have hf := hin i hi
    simp only [List.any_cons, List.any_nil, Bool.or_false] at hf
    rw [State.byteLoc, if_pos (by omega), List.find?_cons, hf]

end

theorem accessesAreChecked : AccessesAreChecked := by
  intro s s1 ag k n va l f ls ok refused
  refine ⟨check_outside, check_misaligned, fun h ha he => ⟨fun hlo hhi => ?_, fun hn hhi => ⟨fun ht => ?_, fun ht hp => ?_⟩⟩⟩
  · exact check_passed h ha (resolve_windows h hlo hhi) he
  · obtain ⟨u, hr⟩ := resolve_untranslated (k := k) hn hhi ht
    rw [check_refused h ha hr]
  · have he1 : s1.fleet.errors = [] := by
      have hk := (s.translate_onlyTranslated ag va).errors
      rwa [ht, he] at hk
    obtain ⟨hr, hb⟩ := resolve_page (k := k) hn hhi ht hp
    refine ⟨fun hall hl => ?_, fun i c hi hc hj => ?_⟩
    · refine check_passed h ha (u := s1) ?_ he1
      rw [hr, byteLocs_of_row hl]
      intro i hi
      rw [hb i hi]
      exact hall i hi
    · have hbad := byteLocs_row_refused hi (fun j hji => by rw [hb j (by omega)]; exact hj j hji) ((hb i hi).trans hc)
      rw [check_refused h ha (hr.trans (by rw [hbad]))]

/-- Settles O7: a load or store whose checks pass issues one access; the checks and the places of bytes by the lemmas
above on windows, walks and the orders of R184. -/
theorem scalarLoadsAndStores : Obligations.ScalarLoadsAndStores := by
  refine ⟨?loads, ?stores, ?checks, windowsResolve, translationWalks, accessesAreChecked⟩
  case loads =>
    intro s s1 d a e ls h va loaded
    have hl : ∀ n signed, s.check s.ctlAgent .read n va = (.ok ls, s1) →
        Issued s1 (s.loadTo n signed d a e) (.load d.val signed) va ls := fun n signed => loadTo_issued h
    exact ⟨hl 1 false, hl 1 true, hl 2 false, hl 2 true, hl 4 false, hl 4 true, hl 8 false⟩
  case stores =>
    intro s s1 a b e ls h va stored
    have hs : ∀ n, s.check s.ctlAgent .write n va = (.ok ls, s1) →
        Issued s1 (s.storeFrom n a b e) (.store ((s.reg b).toNat % 2 ^ (8 * n))) va ls := fun n => storeFrom_issued h
    exact ⟨hs 1, hs 2, hs 4, hs 8⟩
  case checks =>
    intro s s1 ag k n va r hc
    obtain ⟨hs, hl⟩ := s.check_spec ag k n va
    rw [hc] at hs hl
    exact ⟨hs, hl⟩

end Sys2Proof.Machine
end

section
/-! PROOFS of 04_memory_model.md: fences, vdrain and the waits (R49, R103, R108, R203, R204, R206). First what a write
leaves of the accesses on their way, then which of them a drain performs, and at the end the statement. -/

namespace Sys2Proof.Machine

/-! ### What a write leaves of a thread, watchpoints and all -/

/-- A relation between a thread before and after that holds whatever a write makes of it: loads may start anew, and its debug
state may change. -/
structure KeptByWrites (R : Thread → Thread → Prop) : Prop where
  refl : ∀ x, R x x
  trans : ∀ {x y z}, R x y → R y z → R x z
  anew : ∀ x cells, R x (x.anew cells)
  dbg : ∀ x d, R x { x with dbg := d }
  own : ∀ {x y}, R x y → y.site = x.site ∧ y.task = x.task

namespace KeptByWrites

variable {R : Thread → Thread → Prop} (hR : KeptByWrites R)
include hR

theorem ownAgent {s t : State} {ag : Agent} (h : OwnAgent s ag) (k : R s.t t.t) : OwnAgent t ag := by
  obtain ⟨hs, ht⟩ := hR.own k
  exact ⟨h.1.trans hs.symm, by rw [ht]; exact h.2⟩

/-- A fold whose steps each keep the relation keeps it. -/
theorem foldl {α : Type} (f : State → α → State) (l : List α) (s : State)
    (hf : ∀ u x, R s.t u.t → R u.t (f u x).t) : R s.t (l.foldl f s).t :=
  foldl_keeps (P := fun u => R s.t u.t) f l s (fun u x h => hR.trans h (hf u x h)) (hR.refl _)

theorem store (s : State) (l : List Host.Cell) : R s.t (s.store l).t := by
  have go : ∀ (ws : List (List Nat)) (x : Thread), R x (x.anewAll ws) := by
    intro ws
    induction ws with
    | nil => exact hR.refl
    | cons w ws ih => exact fun x => hR.trans (hR.anew x w) (ih _)
  obtain ⟨⟨ws, h, -⟩, -⟩ := s.store_spec l
  rw [show (s.store l).t = s.t.anewAll ws from h]
  exact go ws s.t

theorem innerStore (s : State) (l : List Host.Cell) : R s.t (s.innerStore l).t := by
  unfold State.innerStore
  dsimp only
  split
  · exact hR.store ..
  · rw [← meetOf_t s]
    exact hR.store ..

theorem trace (s : State) (th : Thread) (src kind lane : Nat) (pc : Word) (seq x y z : Nat) :
    R s.t (s.trace th src kind lane pc seq x y z).t := by
  unfold State.trace State.traceWrite State.traceRecord
  dsimp only
  split
  · split
    · exact hR.refl _
    · split
      · exact hR.refl _
      · exact hR.innerStore ..
  · exact hR.refl _

theorem stopCluster (s : State) (cl : Nat) : R s.t (s.stopCluster cl).t := by
  unfold State.stopCluster
  dsimp only
  split
  · exact hR.refl _
  · dsimp only
    split
    · exact hR.dbg ..
    · exact hR.refl _

theorem setWatch {s : State} {ag : Agent} (h : OwnAgent s ag) (n : Nat) : R s.t (s.setWatch ag n).t := by
  unfold State.setWatch
  split
  · exact hR.refl _
  · rename_i th hth
    have hs : s.threadAt ag.site = s.t := if_pos h.1.symm
    simp only [State.agentThread, hs, h.2, beq_self_eq_true, if_true] at hth
    split at hth
    · cases hth
    · obtain rfl := Option.some.inj hth
      split
      · exact hR.refl _
      · dsimp only
        split
        · exact hR.refl _
        · rw [State.setThread, if_pos rfl]
          exact hR.dbg ..

theorem wpHit {s : State} {ag : Agent} (h : OwnAgent s ag) (cl n kind w v lane : Nat) :
    R s.t (s.wpHit cl n ag kind w v lane).t := by
  unfold State.wpHit
  extract_lets c w1 tr w2 s1 s2
  have h2 : R s.t s2.t := by
    unfold s2
    split
    · exact hR.trace s1 ..
    · exact hR.refl _
  split
  · exact hR.trans h2 (hR.setWatch (hR.ownAgent h h2) n)
  · exact hR.trans h2 (hR.stopCluster s2 cl)

theorem watchMem {s : State} {ag : Agent} (h : OwnAgent s ag) (k : Access) (homes : List Nat) (v : Nat) :
    R s.t (s.watchMem ag k homes v).t := by
  unfold State.watchMem
  split
  · exact hR.refl _
  · refine hR.foldl _ _ s (fun u p hu => hR.foldl _ _ u (fun x n hx => ?_))
    dsimp only
    split
    · exact hR.refl _
    · split
      · exact hR.wpHit (hR.ownAgent (hR.ownAgent h hu) hx) ..
      · exact hR.refl _

theorem watchSlot {s : State} {ag : Agent} (h : OwnAgent s ag) (uid lane slot : Nat) :
    R s.t (s.watchSlot ag uid lane slot).t := by
  unfold State.watchSlot
  split
  · exact hR.refl _
  · refine hR.foldl _ _ s (fun u n hu => ?_)
    dsimp only
    split
    · exact hR.wpHit (hR.ownAgent h hu) ..
    · exact hR.refl _

theorem watchLocs {s : State} {ag : Agent} (h : OwnAgent s ag) (k : Access) (ls : List Loc) (v : Nat) :
    R s.t (s.watchLocs ag k ls v).t := by
  unfold State.watchLocs
  split
  · exact hR.refl _
  · have hm := hR.watchMem h k (locHomes ls) v
    dsimp only
    split
    · exact hR.trans hm (hR.foldl _ _ _ (fun u p hu => hR.watchSlot (hR.ownAgent (hR.ownAgent h hm) hu) ..))
    · exact hm

theorem writeLocs {s : State} {ag : Agent} (h : OwnAgent s ag) (k : Access) (ls : List Loc) (v : Nat) :
    R s.t (s.writeLocs ag k ls v).t :=
  have hst := hR.store s (locWrites ls (bytesOf ls.length v))
  hR.trans hst (hR.watchLocs (hR.ownAgent h hst) ..)

theorem amoLocs {s : State} {ag : Agent} (h : OwnAgent s ag) (op : AmoOp) (ls : List Loc) (v k : Nat) :
    R s.t (s.amoLocs ag op ls v k).2.t := by
  unfold State.amoLocs
  dsimp only
  split
  · exact hR.watchMem h (.atomic true) (locHomes ls) (s.rdLocs ls)
  · exact hR.writeLocs h (.atomic true) ls _

theorem homeAmo {s : State} {ag : Agent} (h : OwnAgent s ag) (op : AmoOp) (ls : List Loc) (v k : Nat) :
    R s.t (s.homeAmo ag op ls v k).2.t := by
  unfold State.homeAmo
  split
  · exact hR.amoLocs h ..
  · exact hR.refl _

theorem perform {s : State} {ag : Agent} (h : OwnAgent s ag) (older : List MemOp) (op : MemOp) (is : List Nat) :
    R s.t (s.perform ag older op is).2.t := by
  unfold State.perform
  dsimp only
  split
  · exact hR.writeLocs h ..
  · split
    · exact hR.watchLocs h ..
    · exact hR.refl _
  · exact hR.homeAmo h ..

end KeptByWrites

/-! ### What is on its way: kinds of access -/

/-- The kinds of a thread's accesses on their way, oldest first. -/
def Ctrl.kinds (c : Ctrl) : List MemKind := c.accs.map (·.kind)

/-- Nothing enters or leaves the list of the accesses on their way. -/
def SameKinds (x y : Thread) : Prop := y.site = x.site ∧ y.task = x.task ∧ y.c.kinds = x.c.kinds

theorem MemOp.anew_kind (cells : List Nat) (op : MemOp) : (op.anew cells).kind = op.kind := by
  unfold MemOp.anew; split <;> rfl

theorem MemOp.see_kind (x op : MemOp) : (x.see op).kind = x.kind := by
  unfold MemOp.see
  split
  · split <;> rfl
  · rfl

theorem sameKinds_keptByWrites : KeptByWrites SameKinds where
  refl _ := ⟨rfl, rfl, rfl⟩
  trans := fun ⟨hs, ht, hk⟩ ⟨hs', ht', hk'⟩ => ⟨hs'.trans hs, ht'.trans ht, hk'.trans hk⟩
  anew x cells := ⟨rfl, rfl, by simp [Ctrl.kinds, Thread.anew, MemOp.anew_kind]⟩
  dbg _ _ := ⟨rfl, rfl, rfl⟩
  own := fun ⟨hs, ht, _⟩ => ⟨hs, ht⟩

/-- An access of which all that is left is performed has nothing left. -/
theorem perform_all_left (s : State) (ag : Agent) (older : List MemOp) (op : MemOp) :
    (s.perform ag older op op.left).1.1.left = [] := by
  have hf : op.left.filter (fun i => !op.left.contains i) = [] := by simp
  unfold State.perform
  dsimp only
  split
  · exact hf
  · split
    · exact hf
    · exact hf
  · rfl

theorem kinds_see (op : MemOp) (n : Nat) (l : List MemOp) :
    ((l.take n).map (fun x => x.see op) ++ l.drop n).map (·.kind) = l.map (·.kind) := by
  have hf : MemOp.kind ∘ (fun x => x.see op) = MemOp.kind := funext fun x => x.see_kind op
  rw [List.map_append, List.map_map, hf, ← List.map_append, List.take_append_drop]

theorem setLoad_kinds (s : State) (d : SReg) (v : Word) : (s.setLoad d v).t.c.kinds = s.t.c.kinds :=
  congrArg (List.map MemOp.kind) (State.setLoad_accs_pc s d v).1

/-- An access performed whole leaves the list, and no other does. -/
theorem performAcc_kinds {s : State} {n : Nat} {op : MemOp} (h : s.t.c.accs[n]? = some op) :
    (s.performAcc n op.left).t.c.kinds = s.t.c.kinds.eraseIdx n := by
  have hp := sameKinds_keptByWrites.perform (s := s) (ag := { s.ctlAgent with pc := op.addr }) ⟨rfl, rfl⟩
    (s.t.c.accs.take n) op op.left
  have hl := perform_all_left s { s.ctlAgent with pc := op.addr } (s.t.c.accs.take n) op
  obtain ⟨-, -, hk⟩ := hp
  have he := (List.eraseIdx_map MemOp.kind _ n).symm.trans (congrArg (List.eraseIdx · n) hk)
  simp only [State.performAcc, h, hl, List.isEmpty_nil, if_true]
  split
  · rw [setLoad_kinds]
    exact (kinds_see op n _).trans he
  · exact (kinds_see op n _).trans he

/-- The first accesses performed whole leave the list. -/
theorem performFirst_kinds (s : State) (n : Nat) : (s.performFirst n).t.c.kinds = s.t.c.kinds.drop n := by
  induction n generalizing s with
  | zero => rfl
  | succ n ih =>
    rw [State.performFirst, ih]
    cases h : s.t.c.accs with
    | nil => simp [Ctrl.kinds, h]
    | cons op l =>
      dsimp only
      rw [performAcc_kinds (by rw [h]; rfl)]
      simp [Ctrl.kinds, h]

theorem drainAccs_accs (s : State) : s.drainAccs.t.c.accs = [] := by
  unfold State.drainAccs
  split
  · rename_i h
    exact List.isEmpty_iff.1 h
  · have hk := performFirst_kinds s s.t.c.accs.length
    rw [List.drop_of_length_le (by simp [Ctrl.kinds])] at hk
    exact List.map_eq_nil_iff.1 hk

theorem accSet_snd (p : MemOp → Bool) (l : List MemOp) : (accSet p l).map (·.2) = l := by
  induction l with
  | nil => rfl
  | cons x l ih => simp [accSet, ih]

/-- An access of the kind asked for is marked. -/
theorem accSet_marks {p : MemOp → Bool} {l : List MemOp} {m : Bool × MemOp} (h : m ∈ accSet p l) (hp : p m.2 = true) :
    m.1 = true := by
  induction l with
  | nil => cases h
  | cons x l ih =>
    rcases List.mem_cons.1 h with rfl | h
    · simpa using .inl hp
    · exact ih h

/-- The marked accesses leave the list, and no other does. -/
theorem performMarked_kinds (ms : List (Bool × MemOp)) (s : State) (pre : List MemKind)
    (h : s.t.c.kinds = pre ++ ms.map (·.2.kind)) :
    (s.performMarked ms pre.length).t.c.kinds = pre ++ (ms.filter (fun m => !m.1)).map (·.2.kind) := by
  induction ms generalizing s pre with
  | nil => exact h
  | cons m ms ih =>
    obtain ⟨b, x⟩ := m
    cases b with
    | true =>
      have hlen : pre.length < s.t.c.accs.length := by
        have := congrArg List.length h
        simp [Ctrl.kinds] at this
        omega
      have hget := List.getElem?_eq_getElem hlen
      rw [State.performMarked, hget]
      refine ih _ _ ?_
      dsimp only
      rw [performAcc_kinds hget, h, List.eraseIdx_append_of_length_le (Nat.le_refl _)]
      simp
    | false =>
      have hi := ih s (pre ++ [x.kind]) (by simpa using h)
      rw [State.performMarked]
      simpa using hi

/-- Where some accesses are performed with what they follow, none of them is on its way. -/
theorem performSome_kinds (s : State) (p : MemOp → Bool) (k : MemKind) (h : k ∈ (s.performSome p).t.c.kinds) :
    ∃ x, p x = false ∧ x.kind = k := by
  have hs : s.t.c.kinds = [] ++ (accSet p s.t.c.accs).map (·.2.kind) := by
    have := congrArg (List.map (·.kind)) (accSet_snd p s.t.c.accs)
    rw [List.map_map] at this
    exact this.symm
  have hk := performMarked_kinds _ s [] hs
  rw [show s.performSome p = s.performMarked (accSet p s.t.c.accs) ([] : List MemKind).length from rfl, hk] at h
  obtain ⟨m, hm, rfl⟩ := List.mem_map.1 h
  obtain ⟨hm, hf⟩ := List.mem_filter.1 hm
  refine ⟨m.2, ?_, rfl⟩
  by_contra hp
  simp [accSet_marks hm (by simpa using hp)] at hf

theorem MemOp.dest_congr {x y : MemOp} (h : x.kind = y.kind) : x.dest = y.dest := by
  unfold MemOp.dest; rw [h]

/-- After an acquire no load or atomic is on its way (R103). -/
theorem drainReads_dest (s : State) : ∀ op ∈ s.drainReads.t.c.accs, op.dest = none := by
  intro op hop
  obtain ⟨x, hp, hk⟩ := performSome_kinds s _ op.kind (List.mem_map_of_mem hop)
  rw [← MemOp.dest_congr hk]
  simp only [Bool.or_eq_false_iff, Option.isSome_eq_false_iff, Option.isNone_iff_eq_none] at hp
  exact hp.1

/-! ### Which access may be performed (R99, R103, R107) -/

theorem MemOp.after_of_older {op x : MemOp} (hk : ∀ r g, op.kind ≠ .load r g) (h : x.id < op.rel) : op.after x = true := by
  unfold MemOp.after
  split
  · rename_i e
    exact absurd e (hk _ _)
  · simp [h]

/-- A load follows only accesses to a byte of its own. -/
theorem MemOp.not_after_of_apart {op x : MemOp} {r : Nat} {g : Bool} (hk : op.kind = .load r g) (h : x.overlaps op = false) :
    op.after x = false := by
  unfold MemOp.after
  rw [hk]
  simp [h]

/-! ### The statement -/

theorem goesTo_advance (s : State) : GoesTo s (.next s.advance) (s.wordAddr + 8) :=
  ⟨_, rfl, fun _ => rfl, rfl, rfl, fun _ => rfl⟩

theorem withFlush_of {s : State} (hf : s.t.c.flush = false) (hn : s.nothingHeld = true) (k : State → Res) :
    s.withFlush k = k s := by
  rw [State.withFlush, hf, hn]
  rfl

theorem exec_await_of {s s1 : State} {a b : SReg} {v : Nat} (hr : NoToken s [a, b])
    (ha : s.alignFault s.ctlAgent .read 16 (s.reg a).toNat 16 = none) (hc : s.cload 4 (s.reg a + 8).toNat = (.ok v, s1)) :
    exec (.await a b) s = if v == (s1.reg b).toNat % 2 ^ 32 then
      .next (s1.block (.phase (s.reg a) ((s1.reg b).toNat % 2 ^ 32))) else .next s1.advance := by
  rw [exec_await, execAwait, withRegs_of hr]
  simp only [ha, hc]

theorem exec_awaitEv_of {s s1 : State} {a b : SReg} {v : Nat} (hr : NoToken s [a, b])
    (ha : s.alignFault s.ctlAgent .read 8 (s.reg a).toNat 8 = none) (hc : s.cload 8 (s.reg a).toNat = (.ok v, s1)) :
    exec (.awaitEv a b) s = if v < (s1.reg b).toNat then .next (s1.block (.event (s.reg a) (s1.reg b)))
      else .next s1.advance := by
  rw [exec_awaitEv, execAwaitEv, withRegs_of hr]
  simp only [ha, hc]

/-- Settles O10: after a drain nothing that it performs is on its way; a later access waits by `MemOp.after`. -/
theorem fencesAndWaits : Obligations.FencesAndWaits := by
  refine ⟨?fences, ?order, ?waits⟩
  case fences =>
    intro s sc
    refine ⟨goesTo_advance _, drainReads_dest s, fun hf hn => ?_, fun hf hn => ⟨drainAccs_accs s, ?_⟩⟩
    · exact withFlush_of hf hn fun s => .next s.markRelease.advance
    · rw [exec_fenceAr, execFenceAr, State.withRelease, withFlush_of hf hn]
      exact goesTo_advance _
  case order =>
    intro s n op x _
    refine ⟨fun hk hx hid => ?_, fun r g hk hy => ?_, fun c kind va ls y hy => ?_⟩
    · rw [State.accFree, Bool.not_eq_false', List.any_eq_true]
      exact ⟨x, hx, MemOp.after_of_older hk hid⟩
    · rw [State.accFree, Bool.not_eq_true', List.any_eq_false]
      exact fun y hm => by simp [MemOp.not_after_of_apart hk (hy y hm)]
    · rcases List.mem_append.1 hy with hy | hy
      · exact .inl hy
      · obtain rfl := List.mem_singleton.1 hy
        exact .inr ⟨rfl, rfl⟩
  case waits =>
    intro s s1 a b v
    refine ⟨fun hf hi => ?_, fun hr ha hc => ⟨fun hv => ?_, fun hv => ?_⟩, fun hr ha hc => ⟨fun hv => ?_, fun hv => ?_⟩⟩
    · rw [exec_vdrain, execVdrain, withFeat_of hf, drained_of hi]
      exact goesTo_advance s
    · rw [exec_await_of hr ha hc, if_neg (by simpa using hv)]
      exact goesTo_advance s1
    · rw [exec_await_of hr ha hc, if_pos (by simpa using hv), ← hv]
    · rw [exec_awaitEv_of hr ha hc, if_neg (by omega)]
      exact goesTo_advance s1
    · rw [exec_awaitEv_of hr ha hc, if_pos hv]

end Sys2Proof.Machine
end

section
/-! PROOFS of 04_memory_model.md: fences, flushes, releasing and acquiring vector atomics, and arrival, of the lane stream (R47,
R48, R103, R146, R277, R279, R280). -/

namespace Sys2Proof.Machine

/-! ### A flush with nothing to flush (R146) -/

theorem laneFlush_of {s : State} (h : NothingToFlush s) (k : State → Res) : s.laneFlush k = k s := by
  obtain ⟨hf, he, ha⟩ := h
  simp [State.laneFlush, hf, he, ha]

section
variable {s s1 : State} {en : LaneEntry} {l : List LaneEntry} (h : Heads s en l)
include h

theorem exec_rflush_of (hf : NothingToFlush s.drainLane) (sc : Scope) :
    exec (.rflush sc) s = .next (s.drainLane.laneDone 0) := by
  rw [exec_rflush, execRflush, laneRun_of h, laneFlush_of hf]

theorem exec_vfence_of (hf : NothingToFlush s.drainLane) (sc : Scope) :
    exec (.vfence sc) s = .next (s.drainLane.laneDone 0) := by
  rw [exec_vfence, execVfence, laneRun_of h, laneFlush_of hf]

/-! ### Vector atomics that release or acquire (R277) -/

theorem exec_vred_rel_of (hf : NothingToFlush s.drainLane) {g : Guard} {op : AmoOp} {mode : Fin 3} {a : SReg} {i c : VReg}
    (hr : s.drainLane.vredLanes op mode a i c (s.drainLane.pendingLanes g) = (none, s1)) (sc : Scope) :
    exec (.vred g op mode true sc a i c) s = .next (s1.clearEdone.laneEnd (s.drainLane.pendingLanes g) 0) := by
  rw [exec_vred, execVred, laneRun_of h]
  dsimp only
  rw [if_pos rfl, laneFlush_of hf, hr]
  rfl

omit h in
/-- A vamo that has no release before it, or whose release has been made, and that faults in no lane. -/
theorem vamoRun_of {g : Guard} {op : AmoOp} {mode : Fin 3} {post : Bool} {d i c : VReg} {a : SReg}
    (hr : s.vamoLanes op mode d a i c (s.pendingLanes g) = (none, s1)) (hp : post = true → NothingToFlush s1.drainLane) :
    s.vamoRun g op mode post d a i c
      = .next ((if post then s1.drainLane else s1).clearEdone.laneEnd (s.pendingLanes g) 0) := by
  rw [State.vamoRun]
  dsimp only
  rw [hr]
  cases post with
  | false => rfl
  | true => exact laneFlush_of (hp rfl) fun u => .next (u.indexedEnd (s.pendingLanes g))

theorem exec_vamo_rel_of (hf : NothingToFlush s.drainLane) {g : Guard} {op : AmoOp} {mode : Fin 3} {ord : Ordering4}
    {d i c : VReg} {a : SReg} (ho : ordRel ord = true) (sc : Scope) :
    exec (.vamo g op mode ord sc d a i c) s = s.drainLane.vamoRun g op mode (ordAcq ord) d a i c := by
  rw [exec_vamo, execVamo, laneRun_of h, if_pos ho, laneFlush_of hf]

theorem exec_vamo_acq_of {g : Guard} {op : AmoOp} {mode : Fin 3} {ord : Ordering4} {d i c : VReg} {a : SReg}
    (ho : ordRel ord = false) (sc : Scope) :
    exec (.vamo g op mode ord sc d a i c) s = s.vamoRun g op mode (ordAcq ord) d a i c := by
  rw [exec_vamo, execVamo, laneRun_of h, if_neg (by simp [ho])]

/-! ### Arrival (R280) -/

theorem exec_arrive_none (hf : NothingToFlush s.drainLane) {a : SReg} {m : MReg}
    (hn : ((s.drainLane.actives noGuard).filter (s.drainLane.mask m)).length = 0) (sc : Scope) :
    exec (.arrive a m sc) s = .next (s.drainLane.laneEnd (s.drainLane.actives noGuard) 0) := by
  rw [exec_arrive, execArrive, laneRun_of h, laneFlush_of hf]
  dsimp only
  rw [hn]
  rfl

theorem exec_arrive_of (hf : NothingToFlush s.drainLane) {a : SReg} {m : MReg} {ls : List Loc}
    (hn : ((s.drainLane.actives noGuard).filter (s.drainLane.mask m)).length ≠ 0)
    (hc : s.drainLane.check s.drainLane.laneAgent (.atomic false) 16 (s.drainLane.opA a).toNat = (.ok ls, s1)) (sc : Scope) :
    let v := s1.rdLocs ls
    let act := s.drainLane.actives noGuard
    exec (.arrive a m sc) s
      = .next (match barrierStep (bits v 31 0) (bits v 63 32) (bits v 95 64) (act.filter (s.drainLane.mask m)).length with
        | none => s1.laneEnd act flSV
        | some (x, p) =>
          (s1.writeLocs s1.laneAgent (.atomic false) ((ls.drop 4).take 8) (x + p * 2 ^ 32)).laneEnd act 0) := by
  intro v act
  rw [exec_arrive, execArrive, laneRun_of h, laneFlush_of hf]
  dsimp only
  rw [if_neg (by simpa using hn), hc]
  dsimp only
  cases barrierStep (bits v 31 0) (bits v 63 32) (bits v 95 64) (act.filter (s.drainLane.mask m)).length <;> rfl

end

/-- A barrier keeps what is left of its arrivals after the full rounds (R47, R48). -/
theorem barrierStep_rounds {expected arrived phase n x p : Nat} (he : 0 < expected)
    (h : barrierStep expected arrived phase n = some (x, p)) :
    x < expected ∧ ∃ r, arrived + n = r * expected + x ∧ p = (phase + r) % 2 ^ 32 := by
  rw [barrierStep, if_neg (by simpa using he.ne'), Option.some.injEq, Prod.mk.injEq] at h
  obtain ⟨rfl, rfl⟩ := h
  exact ⟨Nat.mod_lt _ he, (arrived + n) / expected, (Nat.div_add_mod' _ _).symm, rfl⟩

/-- Settles O38: each form at the head of the lane queue is its own equation, once a flush has nothing to do. -/
theorem laneSynchronisationAndBarriers : Obligations.LaneSynchronisationAndBarriers := by
  refine ⟨?forms, fun _ _ _ _ _ _ => barrierStep_rounds⟩
  case forms =>
    intro s s1 g op mode sc d i c a m ls en l h u
    refine ⟨fun hf => ⟨exec_rflush_of h hf sc, exec_vfence_of h hf sc,
      ⟨fun hr => exec_vred_rel_of h hf hr sc, fun hr => ⟨?_, ?_⟩⟩,
      fun hn => exec_arrive_none h hf hn sc, fun hn hc => exec_arrive_of h hf hn hc sc⟩, ?_⟩
    · exact (exec_vamo_rel_of h hf rfl sc).trans (vamoRun_of hr nofun)
    · exact fun hp => (exec_vamo_rel_of h hf rfl sc).trans (vamoRun_of hr fun _ => hp)
    · exact fun hr hp => (exec_vamo_acq_of h rfl sc).trans (vamoRun_of hr fun _ => hp)

end Sys2Proof.Machine
end

section
/-! PROOFS of 04_memory_model.md: residual accumulation (R99, R135, R136, R139, R141, R142, R151, R278). First what a racc leaves
of its place in the lane queue, then how addends are combined and sorted, then how they are placed, and at the end the
statement. -/

namespace Sys2Proof.Machine

/-! ### The place in the lane queue that a racc keeps (R99, R278) -/

theorem OnlyEvicted.thread {s u : State} (h : OnlyEvicted s u) : u.t = s.t := by rw [show u = _ from h]

theorem setCol_queues (s : State) (i l : Nat) (b : Bool) : (s.setCol i l b).t.q = s.t.q := by
  unfold State.setCol State.setColAt
  dsimp only
  split
  · rfl
  · exact congrArg (·.q) (State.evictUnit_onlyEvicted ..).thread

theorem setCols_queues (s : State) (i : Nat) (l : List (Nat × Bool)) : (s.setCols i l).t.q = s.t.q :=
  foldl_keeps (P := fun u => u.t.q = s.t.q) _ l s (fun u p h => (setCol_queues u i p.1 p.2).trans h) rfl

theorem OnlyAccesses.queues {x y : Thread} (h : OnlyAccesses x y) : y.q = x.q := by rw [show y = _ from h]

theorem drainLaneOver_queues (s : State) (ls : List Loc) : (s.drainLaneOver ls).t.q = s.t.q := by
  unfold State.drainLaneOver
  split
  · exact ((settle_onlyAccesses s).trans (performLanes_onlyAccesses _ s.settle)).queues
  · rfl

theorem OnlyChecked.t {s u : State} (h : OnlyChecked s u) : u.t = s.t := by rw [show u = _ from h]

theorem targetOf_t (s : State) (typ va l : Nat) : (s.targetOf typ va l).2.t = s.t := by
  have hrow : (s.readRow l).2.t = s.t := (State.errorCheck_checked ..).t
  unfold State.targetOf
  generalize s.readRow l = r at hrow
  obtain ⟨f | u, w⟩ := r
  · exact hrow
  · exact (State.check_spec ..).1.t.trans hrow

theorem sumMeets_t (s : State) (typ : Nat) (ls : List Loc) : (s.sumMeets typ ls).2.t = s.t := by
  have hmeet : ∀ cells, (s.meet cells).2.t = s.t := by
    intro cells
    unfold State.meet
    split
    · rfl
    · exact meetOf_t ..
  unfold State.sumMeets
  split
  · rfl
  · split
    · rfl
    · split
      · rfl
      · exact hmeet _

theorem targets_t (s : State) (typ : Nat) (addr : Nat → Nat) (ls : List Nat) (ok : List Target) (bad : List (Nat × AccFault)) :
    (s.targets typ addr ls ok bad).2.2.t = s.t := by
  induction ls generalizing s ok bad with
  | nil => rfl
  | cons l ls ih =>
    have htarget := targetOf_t s typ (addr l) l
    unfold State.targets
    generalize s.targetOf typ (addr l) l = r at htarget
    obtain ⟨f | locs, u⟩ := r
    · exact (ih ..).trans htarget
    · have hsum := sumMeets_t u typ locs
      dsimp only
      generalize u.sumMeets typ locs = r at hsum
      obtain ⟨_ | ⟨a, d⟩, w⟩ := r
      · exact (ih ..).trans (hsum.trans htarget)
      · exact (ih ..).trans (hsum.trans htarget)

theorem goodTargets_nil (addr : Nat → Nat) (ts : List Target) : goodTargets addr ts [] = ts :=
  List.filter_eq_self.2 fun _ _ => rfl

/-- A racc whose targets all pass and that waits for no older one. -/
theorem exec_racc_of {s s1 : State} {m : GuardX} {t : AccTy} {v i : VReg} {a : SReg} {ts : List Target} {en : LaneEntry}
    {l : List LaneEntry} (h : Heads s en l)
    (ht : s.targets (accTyp t) (s.indexAddr (s.opA a) 0 i (accWidth (accTyp t))) (s.pendingLanes m.g) [] [] = (ts, [], s1))
    (hw : s1.accWaits = false) :
    let s2 := (s1.drainLaneOver (ts.flatMap (·.locs))).setCols 0 (ts.map (fun t => (t.lane, true)))
    let new := lineAddends (accTyp t) en.seq en.addr (combine (accTyp t) [] (ts.map (fun p => (p, (s.addend t v p.lane).val))))
    let s3 := s2.mapR (fun r => { r with place := r.place ++ new })
    let s4 := s3.placeAll s3.t.r.place.length
    let xs : List LaneVal := ts.map (fun p => ⟨p.lane, 0, 0, (s.addend t v p.lane).fl⟩)
    exec (.racc m t v a i) s = .next ((s4.writeX m.x xs).clearEdone.laneEnd (s.pendingLanes m.g) (flagsOf xs)) := by
  intro s2 new s3 s4 xs
  have hq : s2.t.q.lane = en :: l := by
    have hs1 : s1.t = s.t := by rw [← targets_t s, ht]
    rw [setCols_queues, drainLaneOver_queues, hs1, show s.t.q.lane = _ from h]
  have hseq : s2.laneSeq = en.seq := by rw [State.laneSeq, hq]
  have haddr : s2.laneAddr = en.addr := by rw [State.laneAddr, hq]
  rw [exec_racc, execRacc, laneRun_of h]
  dsimp only
  rw [ht]
  dsimp only
  rw [goodTargets_nil, hw, Bool.false_and, if_neg Bool.false_ne_true, hseq, haddr]
  rfl

/-! ### Addends combined (R135) -/

/-- Addition of integers wraps at the width of the type. -/
theorem accAdd_right_comm {t : Nat} (h : t ∈ [0, 1, 2]) (x y z : Nat) :
    accAdd t (accAdd t x y) z = accAdd t (accAdd t x z) y := by
  have hm (m : Nat) : ((x + y) % m + z) % m = ((x + z) % m + y) % m := by
    rw [Nat.mod_add_mod, Nat.mod_add_mod, Nat.add_right_comm]
  simp only [List.mem_cons, List.not_mem_nil, or_false] at h
  obtain rfl | rfl | rfl := h
  · exact hm (2 ^ 32)
  · exact hm (2 ^ 64)
  · exact hm (2 ^ 64)

/-- The addends ys are those of xs combined by target address, each at the place of its first one. -/
structure Combined (typ : Nat) (xs ys : List (Target × Nat)) : Prop where
  places : (ys.map (·.1)).Sublist (xs.map (·.1))
  distinct : (ys.map (·.1.va)).Nodup
  covers : ∀ x ∈ xs, ∃ y ∈ ys, y.1.va = x.1.va
  sums : ∀ y ∈ ys, ∃ x r, xs.filter (fun p => p.1.va == y.1.va) = x :: r ∧ y.1 = x.1
    ∧ y.2 = r.foldl (fun n p => accAdd typ n p.2) x.2

/-- One more addend of an address that has one. -/
theorem Combined.again {typ : Nat} {xs ys : List (Target × Nat)} (h : Combined typ xs ys) {t : Target} (x : Nat)
    (ht : ∃ y ∈ ys, y.1.va = t.va) :
    Combined typ (xs ++ [(t, x)]) (ys.map (fun p => if p.1.va == t.va then (p.1, accAdd typ p.2 x) else p)) := by
  have hfst : ∀ p : Target × Nat, (if p.1.va == t.va then (p.1, accAdd typ p.2 x) else p).1 = p.1 := fun p => by split <;> rfl
  refine ⟨?places, ?distinct, fun z hz => ?covers, fun z hz => ?sums⟩
  case places =>
    rw [List.map_map, List.map_append]
    simp only [Function.comp_def, hfst]
    exact h.places.trans (List.sublist_append_left ..)
  case distinct =>
    rw [List.map_map]
    simp only [Function.comp_def, hfst]
    exact h.distinct
  case covers =>
    obtain ⟨y, hy, hva⟩ : ∃ y ∈ ys, y.1.va = z.1.va := by
      obtain hz | hz := List.mem_append.1 hz
      · exact h.covers z hz
      · rwa [List.mem_singleton.1 hz]
    exact ⟨_, List.mem_map_of_mem hy, by rw [hfst, hva]⟩
  case sums =>
    obtain ⟨y, hy, rfl⟩ := List.mem_map.1 hz
    obtain ⟨x0, r, hf, h1, h2⟩ := h.sums y hy
    rw [hfst, List.filter_append, hf]
    by_cases hva : y.1.va = t.va
    · refine ⟨x0, r ++ [(t, x)], by simp [hva], h1, ?_⟩
      rw [if_pos (beq_iff_eq.2 hva), List.foldl_append, ← h2]
      rfl
    · refine ⟨x0, r, by simp [Ne.symm hva], h1, ?_⟩
      rw [if_neg (mt beq_iff_eq.1 hva), h2]

/-- The first addend of an address. -/
theorem Combined.first {typ : Nat} {xs ys : List (Target × Nat)} (h : Combined typ xs ys) {t : Target} (x : Nat)
    (ht : ∀ y ∈ ys, y.1.va ≠ t.va) : Combined typ (xs ++ [(t, x)]) (ys ++ [(t, x)]) := by
  refine ⟨?places, ?distinct, fun z hz => ?covers, fun z hz => ?sums⟩
  case places =>
    rw [List.map_append, List.map_append]
    exact h.places.append (List.Sublist.refl _)
  case distinct =>
    rw [List.map_append]
    refine h.distinct.append (List.nodup_singleton _) fun n hn hn' => ?_
    obtain ⟨y, hy, rfl⟩ := List.mem_map.1 hn
    exact ht y hy (List.mem_singleton.1 hn')
  case covers =>
    obtain hz | hz := List.mem_append.1 hz
    · obtain ⟨y, hy, hva⟩ := h.covers z hz
      exact ⟨y, List.mem_append_left _ hy, hva⟩
    · exact ⟨z, List.mem_append_right _ hz, rfl⟩
  case sums =>
    rw [List.filter_append]
    obtain hz | hz := List.mem_append.1 hz
    · obtain ⟨x0, r, hf, h1, h2⟩ := h.sums z hz
      exact ⟨x0, r, by simp [hf, Ne.symm (ht z hz)], h1, h2⟩
    · obtain rfl := List.mem_singleton.1 hz
      have hnone : xs.filter (fun p => p.1.va == t.va) = [] := by
        refine List.filter_eq_nil_iff.2 fun p hp hva => ?_
        obtain ⟨y, hy, hy'⟩ := h.covers p hp
        exact ht y hy (hy'.trans (beq_iff_eq.1 hva))
      exact ⟨(t, x), [], by simp [hnone], rfl, rfl⟩

theorem Combined.combine {typ : Nat} {xs ys : List (Target × Nat)} (h : Combined typ xs ys) (l : List (Target × Nat)) :
    Combined typ (xs ++ l) (combine typ ys l) := by
  induction l generalizing xs ys with
  | nil => rwa [List.append_nil]
  | cons p l ih =>
    obtain ⟨t, x⟩ := p
    unfold Machine.combine
    rw [List.append_cons]
    split
    · next hany => exact ih (h.again x (by simpa using hany))
    · next hany => exact ih (h.first x (by simpa using hany))

theorem combined_combine (typ : Nat) (xs : List (Target × Nat)) : Combined typ xs (combine typ [] xs) :=
  Combined.combine (xs := []) ⟨List.Sublist.refl _, List.nodup_nil, nofun, nofun⟩ xs

/-! ### Addends sorted into lines (R135) -/

theorem nodup_eraseDups {α : Type} [BEq α] [LawfulBEq α] (l : List α) : l.eraseDups.Nodup := by
  match l with
  | [] => exact List.nodup_nil
  | a :: l =>
    rw [List.eraseDups_cons]
    exact List.nodup_cons.2 ⟨by simp, nodup_eraseDups _⟩
termination_by l.length
decreasing_by exact Nat.lt_succ_of_le (List.length_filter_le ..)

/-- Addends grouped by line. -/
def groupLines (all : List Addend) (lines : List Nat) : List Addend :=
  lines.flatMap (fun n => all.filter (fun a => a.vline == n))

theorem mem_groupLines_vline {all : List Addend} {lines : List Nat} {a : Addend} (h : a ∈ groupLines all lines) :
    a.vline ∈ lines := by
  obtain ⟨n, hn, ha⟩ := List.mem_flatMap.1 h
  rwa [beq_iff_eq.1 (List.mem_filter.1 ha).2]

/-- Of each line, the groups hold its addends in their order. -/
theorem filter_groupLines {all : List Addend} {lines : List Nat} (hd : lines.Nodup) {n : Nat} (hn : n ∈ lines) :
    (groupLines all lines).filter (fun a => a.vline == n) = all.filter (fun a => a.vline == n) := by
  induction lines with
  | nil => exact absurd hn List.not_mem_nil
  | cons m lines ih =>
    obtain ⟨hm, hd⟩ := List.nodup_cons.1 hd
    rw [groupLines, List.flatMap_cons, List.filter_append, List.filter_filter, ← groupLines]
    by_cases hnm : n = m
    · subst hnm
      have hrest : (groupLines all lines).filter (fun a => a.vline == n) = [] :=
        List.filter_eq_nil_iff.2 fun a ha h => hm (beq_iff_eq.1 h ▸ mem_groupLines_vline ha)
      simp [hrest]
    · have hgroup : all.filter (fun a => a.vline == n && a.vline == m) = [] :=
        List.filter_eq_nil_iff.2 fun a _ h => by
          obtain ⟨h1, h2⟩ := Bool.and_eq_true_iff.1 h
          exact hnm ((beq_iff_eq.1 h1).symm.trans (beq_iff_eq.1 h2))
      rw [hgroup, List.nil_append]
      exact ih hd ((List.mem_cons.1 hn).resolve_left hnm)

/-- The addends of a line stand together. -/
theorem groupLines_together {all : List Addend} {lines : List Nat} (hd : lines.Nodup) {i j k : Nat} {a b c : Addend}
    (ha : (groupLines all lines)[i]? = some a) (hb : (groupLines all lines)[j]? = some b)
    (hc : (groupLines all lines)[k]? = some c) (hij : i < j) (hjk : j < k) (hac : a.vline = c.vline) : b.vline = a.vline := by
  induction lines generalizing i j k with
  | nil => simp [groupLines] at ha
  | cons m lines ih =>
    obtain ⟨hm, hd⟩ := List.nodup_cons.1 hd
    rw [groupLines, List.flatMap_cons, ← groupLines] at ha hb hc
    generalize hg : all.filter (fun a => a.vline == m) = g at ha hb hc
    have hhead : ∀ {n : Nat} {x : Addend}, n < g.length → (g ++ groupLines all lines)[n]? = some x → x.vline = m := by
      intro n x hn hx
      rw [List.getElem?_append_left hn] at hx
      have := List.mem_of_getElem? hx
      rw [← hg] at this
      exact beq_iff_eq.1 (List.mem_filter.1 this).2
    have hrest : ∀ {n : Nat} {x : Addend}, g.length ≤ n → (g ++ groupLines all lines)[n]? = some x →
        (groupLines all lines)[n - g.length]? = some x := fun hn hx => by rwa [List.getElem?_append_right hn] at hx
    rcases Nat.lt_or_ge j g.length with hj | hj
    · rw [hhead hj hb, hhead (hij.trans hj) ha]
    · have hc' := hrest (hj.trans hjk.le) hc
      rcases Nat.lt_or_ge i g.length with hi | hi
      · exact absurd (hhead hi ha ▸ hac ▸ mem_groupLines_vline (List.mem_of_getElem? hc')) hm
      · exact ih hd (hrest hi ha) (hrest hj hb) hc' (by omega) (by omega)

theorem addendsCombined : AddendsCombined := by
  refine ⟨fun typ xs => ?_, fun typ seq addr xs n i j k a b c => ?_⟩
  · obtain ⟨hp, hd, hc, hs⟩ := combined_combine typ xs
    exact ⟨hp, hd, hc, hs⟩
  · intro all new
    have hd : ((all.map (·.vline)).eraseDups).Nodup := nodup_eraseDups _
    refine ⟨?_, fun ha hb hc => groupLines_together hd ha hb hc⟩
    by_cases hn : n ∈ (all.map (·.vline)).eraseDups
    · exact filter_groupLines hd hn
    · have hnone : all.filter (fun x => x.vline == n) = [] :=
        List.filter_eq_nil_iff.2 fun x hx h => hn (List.mem_eraseDups.2 (List.mem_map.2 ⟨x, hx, beq_iff_eq.1 h⟩))
      rw [hnone]
      exact List.filter_eq_nil_iff.2 fun x hx h => hn (beq_iff_eq.1 h ▸ mem_groupLines_vline hx)

/-! ### Placements (R136, R141, R142) -/

theorem Addend.with_self (a : Addend) : a.with a = true := by simp [Addend.with]

theorem frontLine_cons (a : Addend) (l : List Addend) :
    frontLine (a :: l) = (a :: l.takeWhile a.with, (a :: l).dropWhile a.with) := by
  rw [frontLine, List.takeWhile_cons_of_pos a.with_self]

theorem placeAll_nil {s : State} (h : s.t.r.place = []) (n : Nat) : s.placeAll n = s := by
  cases n with
  | zero => rfl
  | succ n => rw [State.placeAll, h]; rfl

section
variable {s s1 : State} {a : Addend} {l : List Addend} (h : s.t.r.place = a :: l) (n : Nat)
include h

theorem placeAll_waits (hp : s.placeLine a.line a.typ (((a :: l).takeWhile a.with).map (fun x => (x.word, x.value)))
    (a.seq, a.addr) = (false, s1)) : s.placeAll (n + 1) = s1 := by
  rw [List.takeWhile_cons_of_pos a.with_self] at hp
  simp only [State.placeAll, h, frontLine_cons, hp]

theorem placeAll_placed (hp : s.placeLine a.line a.typ (((a :: l).takeWhile a.with).map (fun x => (x.word, x.value)))
    (a.seq, a.addr) = (true, s1)) :
    s.placeAll (n + 1) = (s1.mapR (fun r => { r with place := (a :: l).dropWhile a.with })).placeAll n := by
  rw [List.takeWhile_cons_of_pos a.with_self] at hp
  simp only [State.placeAll, h, frontLine_cons, hp]

end

section
variable {s : State} {line typ : Nat} {words : List (Nat × Word)} {e : REntry}

/-- Where the line holds no sums of another type, words are placed at once. -/
theorem placeLine_of {u : State} (ho : s.t.r.otherType line typ = none) {racc : Nat × Word}
    (hp : s.placeWords line typ words racc = some u) : s.placeLine line typ words racc = (true, u) := by
  simp [State.placeLine, ho, hp]

theorem sendWords_of (he : s.fleet.errors = []) : s.sendWords e = (e.words, s) := by
  rw [State.sendWords, he]
  rfl

theorem placeWords_held (hf : s.t.r.find line typ = some e) (racc : Nat × Word)
    (h : s.lineBusy line = true ∨ s.t.r.lineHeld line = true) :
    s.placeWords line typ words racc = some (s.mapR (·.put (words.foldl (fun e p => e.add s.gts p.1 p.2) e))) := by
  rw [State.placeWords, hf]
  exact if_pos (Bool.or_eq_true_iff.2 h)

theorem placeWords_sent (hf : s.t.r.find line typ = some e) (racc : Nat × Word) (he : s.fleet.errors = [])
    (hb : s.lineBusy line = false) (hh : s.t.r.lineHeld line = false) :
    let f := words.foldl (fun e p => e.add s.gts p.1 p.2) e
    s.placeWords line typ words racc
      = some ((s.sendReq line typ f.words (some f.idx) false (some racc) false).mapR (·.put { f.cleared with fl := true })) := by
  rw [State.placeWords, hf]
  dsimp only
  rw [hb, hh, sendWords_of he]
  rfl

end

theorem REntry.add_sums (e : REntry) (now : Nat) {j : Nat} (v : Word) (hj : j < 16) :
    (e.add now j v).sums.toArray.getD j 0
      = if e.valid.getLsbD j then BitVec.ofNat 64 (accAdd e.typ (e.sums.toArray.getD j 0).toNat v.toNat) else v := by
  simp [REntry.add, Array.getD_eq_getD_getElem?, hj]

theorem REntry.add_sums_other (e : REntry) (now : Nat) {j k : Nat} (v : Word) (hk : k ≠ j) :
    (e.add now j v).sums.toArray.getD k 0 = e.sums.toArray.getD k 0 := by
  simp [REntry.add, Array.getD_eq_getD_getElem?, Array.getElem?_setIfInBounds_ne hk.symm]

theorem placementsMade : PlacementsMade := by
  refine ⟨?front, ?entry, fun e now j v hj => ⟨e.add_sums now v hj, fun k hk => e.add_sums_other now v hk, fun k => ?_⟩⟩
  case front =>
    intro s s1 n a l
    exact ⟨fun h => placeAll_nil h n, fun h => ⟨placeAll_waits h n, placeAll_placed h n⟩⟩
  case entry =>
    intro s line typ words racc e he hf ho
    exact ⟨fun h => placeLine_of ho (placeWords_held hf racc h), fun hb hh => placeLine_of ho (placeWords_sent hf racc he hb hh)⟩
  · exact getLsbD_or_shift e.valid hj k

/-- Settles O39: racc by its equation; sums by the fold that combines them; placements by the equations of each case. -/
theorem residualAccumulation : Obligations.ResidualAccumulation := by
  unfold Obligations.ResidualAccumulation
  refine ⟨?racc, fun x y z => ⟨rfl, rfl, rfl, fun t ht => accAdd_right_comm ht x y z⟩, addendsCombined, placementsMade⟩
  case racc =>
    intro s s1 m t v i a ts en l h act typ ht hw
    exact exec_racc_of h ht hw

end Sys2Proof.Machine
end

section
/-! PROOFS of 04_memory_model.md: copies (R96, R113, R115, R281, R283, R284). First cpy and the two device events of a copy, then
its units of movement, and at the end the statement. -/

namespace Sys2Proof.Machine

/-! ### Issue (R281) -/

/-- The copy that a block asks for: with its chunks to do, or stopped where the block is malformed. -/
def Copy.issued (c : Copy) (block lanes : Nat) : Copy :=
  if c.malformed block lanes then { c with code := 2 } else { c with todo := List.range c.chunks }

/-- The control stream after the token register of a copy is taken. -/
def Ctrl.takeToken (c : Ctrl) (d : SReg) : Ctrl :=
  if d = 0 then c else
    { c with tokens := c.tokens ||| (1#64 <<< d.val), loads := c.loads.filter (fun p => p.1 != d.val) }

theorem Ctrl.takeToken_tokens (c : Ctrl) (d : SReg) (n : Nat) :
    (c.takeToken d).tokens.getLsbD n = (c.tokens.getLsbD n || (decide (n = d.val) && decide (d ≠ 0))) := by
  have hd := d.isLt
  unfold Ctrl.takeToken
  split
  · next h => simp [h]
  · next h =>
    rw [BitVec.getLsbD_or, getLsbD_one_shiftLeft, decide_eq_true h, Bool.and_true]
    congr 1
    by_cases hn : n = d.val
    · simp [hn, hd]
    · simp [hn]

theorem Ctrl.reg_takeToken (c : Ctrl) {d q : SReg} (h : q ≠ d) : (c.takeToken d).reg q = c.reg q := by
  have hf : (c.loads.filter (fun p => p.1 != d.val)).find? (fun p => p.1 == q.val) = c.loads.find? (fun p => p.1 == q.val) := by
    rw [List.find?_filter]
    congr 1
    funext p
    by_cases hp : p.1 = q.val
    · simp [hp, Fin.val_ne_of_ne h]
    · simp [hp]
  unfold Ctrl.takeToken
  split
  · rfl
  · simp only [Ctrl.reg, hf]

theorem Ctrl.takeToken_pc (c : Ctrl) (d : SReg) : (c.takeToken d).pc = c.pc := by
  unfold Ctrl.takeToken
  split <;> rfl

theorem exec_cpy_of {s s1 : State} {d a : SReg} {ws : List Word} (hr : NoToken s [d, a])
    (ha : s.alignFault s.ctlAgent .read 64 (s.reg a).toNat 64 = none) (hl : (s.copiesOf s.t.task.id).length < 16)
    (hw : s.drainAccs.loadWords (s.reg a) 8 = (.ok ws, s1)) :
    let c := copyOf s1.sched.nextId s1.t.site s1.t.task.id s1.t.task.ctx d.val s1.t.q.pushed (blockOf ws) s1.t.c.pc
    exec (.cpy d a) s = .next (({ s1 with
      copies := s1.copies ++ [c.issued (blockOf ws) s1.lanes]
      sched := { s1.sched with nextId := s1.sched.nextId + 1 } } : State).mapC (·.takeToken d)).advance := by
  intro c
  rw [exec_cpy, execCpy, withRegs_of hr]
  dsimp only
  rw [ha]
  dsimp only
  rw [if_neg (by rw [copyLimit]; omega), hw]
  dsimp only
  split
  · next h => simp only [Ctrl.takeToken, if_pos h]; rfl
  · next h => simp only [Ctrl.takeToken, if_neg h]; rfl

/-! ### Completion (R113, R62, R283) -/

theorem exec_copyChunkDone_of {s s1 s2 : State} {c c' : Copy} {chunk : Nat} {l : List Nat} (hc : s.copy? c.id = some c)
    (hf : c.fault = none) (ht : c.todo.contains chunk = true)
    (hl : s.shuffle (c.rest chunk).length (c.rest chunk) = (l, s1)) (hm : s1.copyMove c l = (.ok (), c', s2)) :
    exec (.copyChunkDone c.id chunk) s = .next (s2.copyBits { c' with
      todo := c'.todo.filter (· != chunk), done := c'.done + 1, landed := c'.landed ++ [chunk]
      moved := c'.moved.filter (fun k => !(c'.elems chunk).contains k) }) := by
  rw [exec_copyChunkDone, execCopyChunkDone, hc]
  dsimp only
  rw [hf, if_neg (by decide), if_pos ht, hl]
  dsimp only
  rw [hm]

/-- The control stream when a copy hands its status to the token register. -/
def Ctrl.giveStatus (x : Ctrl) (c : Copy) : Ctrl :=
  { x with s := x.s.setIfInBounds c.token c.status, tokens := x.tokens &&& ~~~(1#64 <<< c.token) }

/-- A copy that has ended, of the task in focus. -/
theorem exec_copyComplete_of {s : State} {c : Copy} (hc : s.copy? c.id = some c) (he : c.ended = true)
    (htask : s.t.task.id = c.taskId) (hfree : s.t.status ≠ .free) (h0 : c.token ≠ 0) :
    exec (.copyComplete c.id) s = .next { s with
      copies := s.copies.filter (fun x => x.id != c.id), t := { s.t with c := s.t.c.giveStatus c } } := by
  have hthread : ({ s with copies := s.copies.filter (fun x => x.id != c.id) } : State).taskThread c.taskId = some s.t := by
    rw [State.taskThread, State.threads]
    exact List.find?_cons_of_pos (by simp [htask, hfree])
  rw [exec_copyComplete, execCopyComplete, hc]
  dsimp only
  rw [he, if_neg (by decide), if_neg (by simpa using h0), hthread]
  dsimp only
  rw [State.setThread, if_pos rfl]
  rfl

theorem Ctrl.giveStatus_tokens (x : Ctrl) {c : Copy} (n : Nat) :
    (x.giveStatus c).tokens.getLsbD n = (x.tokens.getLsbD n && !decide (n = c.token)) := by
  by_cases hn : n < 64
  · rw [Ctrl.giveStatus, BitVec.getLsbD_and, BitVec.getLsbD_not, getLsbD_one_shiftLeft]
    simp [hn]
  · rw [BitVec.getLsbD_of_ge _ _ (by omega), BitVec.getLsbD_of_ge _ _ (by omega), Bool.false_and]

theorem copy?_filtered (s : State) (id : Nat) (x : Thread) :
    ({ s with copies := s.copies.filter (fun c => c.id != id), t := x } : State).copy? id = none := by
  rw [State.copy?, List.find?_eq_none]
  intro c hc
  simpa using (List.mem_filter.1 hc).2

/-! ### Units of movement (R96, R284) -/

section
variable (c : Copy) (k : Nat)

theorem Copy.unit_eq :
    c.unit k = if c.srcOf k % min c.esize 8 = 0 ∧ c.dstOf k % min c.esize 8 = 0 then min c.esize 8 else 1 := by
  simp [Copy.unit]

theorem Copy.esize_pos : 0 < c.esize := Nat.two_pow_pos _

theorem Copy.unit_pos : 0 < c.unit k := by
  have := c.esize_pos
  rw [Copy.unit_eq]
  split <;> omega

/-- An element is a whole number of units. -/
theorem Copy.unit_dvd : c.unit k ∣ c.esize := by
  have h8 : min c.esize 8 = 2 ^ min (wbits c.ctl 2 0) 3 := by
    rw [Copy.esize, show (8 : Nat) = 2 ^ 3 from rfl]
    exact (Monotone.map_min (f := fun n => 2 ^ n) fun _ _ h => Nat.pow_le_pow_right (by decide) h).symm
  rw [Copy.unit_eq]
  split
  · rw [h8]
    exact Nat.pow_dvd_pow 2 (Nat.min_le_left ..)
  · exact one_dvd _

theorem Copy.mem_unitsLeft (o : Nat) : o ∈ c.unitsLeft k ↔ o < c.esize ∧ o % c.unit k = 0 ∧ (k, o) ∉ c.parts := by
  have hu := c.unit_pos k
  have hd := c.unit_dvd k
  simp only [Copy.unitsLeft, List.mem_filter, List.mem_map, List.mem_range, Bool.not_eq_true', List.contains_eq_mem,
    decide_eq_false_iff_not]
  constructor
  · rintro ⟨⟨n, hn, rfl⟩, hp⟩
    exact ⟨Nat.mul_comm .. ▸ (Nat.lt_div_iff_mul_lt' hd n).1 hn, Nat.mul_mod_left .., hp⟩
  · rintro ⟨ho, hm, hp⟩
    have he : o / c.unit k * c.unit k = o := Nat.div_mul_cancel (Nat.dvd_of_mod_eq_zero hm)
    exact ⟨⟨o / c.unit k, Nat.div_lt_div_of_lt_of_dvd hd ho, he⟩, hp⟩

end

/-- Where both bytes agree, no free choice is taken. -/
theorem mixBytes_self (s : State) (l : List Byte) : s.mixBytes l l = (l, s) := by
  induction l with
  | nil => rfl
  | cons x l ih => rw [State.mixBytes, if_pos rfl]; dsimp only; rw [ih]

/-- A unit of a copy that has overwritten nothing, where no watchpoint stands by. -/
theorem copyOne_plain {s : State} {c : Copy} (hc : s.clusters = []) (ho : c.olds = []) (src dst : List Loc) :
    (s.copyOne c src dst).2 = s.writeLocs c.agent .write dst (s.rdLocs src) := by
  have hold : src.map (s.oldByte c.olds) = src.map s.rdLoc := by rw [ho]; rfl
  unfold State.copyOne
  dsimp only
  rw [hold, mixBytes_self]
  dsimp only
  rw [State.watchLocs_nil _ _ _ _ _ hc]
  rfl

/-- One unit of such a copy, from the same part of its source to that of its destination. -/
theorem copyUnits_one {s : State} {c : Copy} {k o : Nat} {src dst : List Loc} (hc : s.clusters = []) (ho : c.olds = []) :
    let part := fun (l : List Loc) => (l.drop o).take (c.unit k)
    s.copyUnits c k src dst [o] = ({ c with parts := c.parts ++ [(k, o)], olds := (s.copyOne c (part src) (part dst)).1 },
      s.writeLocs c.agent .write (part dst) (s.rdLocs (part src))) := by
  intro part
  rw [← copyOne_plain hc ho]
  rfl

/-- The copy after units of an element: they are moved, and what has been overwritten is remembered. -/
theorem copyUnits_copy (s : State) (c : Copy) (k : Nat) (src dst : List Loc) (l : List Nat) :
    ∃ olds, (s.copyUnits c k src dst l).1 = { c with parts := c.parts ++ l.map (fun o => (k, o)), olds := olds } := by
  induction l generalizing s c with
  | nil => exact ⟨c.olds, by rw [List.map_nil, List.append_nil]; rfl⟩
  | cons o l ih =>
    obtain ⟨olds, h⟩ := ih (s.copyOne c ((src.drop o).take (c.unit k)) ((dst.drop o).take (c.unit k))).2 { c with
      parts := c.parts ++ [(k, o)]
      olds := (s.copyOne c ((src.drop o).take (c.unit k)) ((dst.drop o).take (c.unit k))).1 }
    rw [List.append_assoc] at h
    exact ⟨olds, h⟩

/-- An element of which every unit left is moved. -/
theorem close_copyUnits_all (s : State) (c : Copy) (k : Nat) (src dst : List Loc) :
    ((s.copyUnits c k src dst (c.unitsLeft k)).1.close k).moved = c.moved ++ [k] := by
  obtain ⟨olds, h⟩ := copyUnits_copy s c k src dst (c.unitsLeft k)
  rw [h]
  have hnone : ({ c with parts := c.parts ++ (c.unitsLeft k).map (fun o => (k, o)), olds := olds } : Copy).unitsLeft k = [] := by
    refine List.eq_nil_iff_forall_not_mem.2 fun o ho => ?_
    obtain ⟨hlt, hmod, hp⟩ := (Copy.mem_unitsLeft _ k o).1 ho
    obtain ⟨hp1, hp2⟩ := not_or.1 (mt List.mem_append.2 hp)
    exact hp2 (List.mem_map.2 ⟨o, (c.mem_unitsLeft k o).2 ⟨hlt, hmod, hp1⟩, rfl⟩)
  rw [Copy.close, hnone]
  rfl

theorem copyMove_one {s s1 : State} {c : Copy} {k : Nat} {src dst : List Loc} (h : s.copyCheck c k = (.ok (src, dst), s1)) :
    let r := s1.copyUnits c k src dst (c.unitsLeft k)
    s.copyMove c [k] = (.ok (), r.1.close k, r.2) := by
  rw [State.copyMove, h]
  rfl

theorem moveElement_of {s s1 : State} {c : Copy} {chunk : Nat} {src dst : List Loc} (hc : s.copy? c.id = some c)
    (hf : c.fault = none) (ht : c.todo.contains chunk = true) (hr : c.rest chunk ≠ []) :
    let k := (c.rest chunk).getD (s.free.1 % (c.rest chunk).length) 0
    s.free.2.copyCheck c k = (.ok (src, dst), s1) → c.unitsLeft k ≠ [] →
    ∃ o ∈ c.unitsLeft k, let r := s1.free.2.copyUnits c k src dst [o]
      s.moveElement c.id chunk = r.2.setCopy (r.1.close k) := by
  intro k hk hu
  have hlt : s1.free.1 % (c.unitsLeft k).length < (c.unitsLeft k).length := Nat.mod_lt _ (List.length_pos_iff.2 hu)
  refine ⟨_, List.getElem_mem hlt, ?_⟩
  have hne : (c.fault.isSome || !c.todo.contains chunk || (c.rest chunk).isEmpty) = false := by
    rw [hf, ht, List.isEmpty_eq_false_iff.2 hr]; rfl
  unfold State.moveElement
  rw [hc]
  dsimp only
  rw [hne, if_neg (by decide), hk]
  dsimp only
  rw [List.getElem?_eq_getElem hlt]
  rfl

/-- Settles O40: issue, the two device events, and the units by which elements are moved. -/
theorem copiesRunToTheirEnd : Obligations.CopiesRunToTheirEnd := by
  unfold Obligations.CopiesRunToTheirEnd
  refine ⟨?issue, ?events, ?units, fun s s1 c chunk src dst hc hf ht hr => moveElement_of hc hf ht hr⟩
  case issue =>
    intro s s1 d a ws hr ha hl hw
    refine ⟨_, exec_cpy_of hr ha hl hw, rfl, ?_, Ctrl.takeToken_tokens _ d, fun q hq => Ctrl.reg_takeToken _ hq, rfl⟩
    exact congrArg (fun pc => (pc &&& ~~~7#64) + 8) (Ctrl.takeToken_pc _ d)
  case events =>
    intro s s1 s2 c c' chunk l hc
    refine ⟨fun hf ht hl hm => exec_copyChunkDone_of hc hf ht hl hm, fun he htask hfree h h0 =>
      ⟨_, exec_copyComplete_of hc he htask hfree h0, ?_, ?_, fun n hn => ?_, copy?_filtered .., rfl⟩⟩
    · exact Vector.getElem_setIfInBounds_self h
    · exact (Ctrl.giveStatus_tokens _ _).trans (by simp)
    · exact (Ctrl.giveStatus_tokens _ _).trans (by simp [hn])
  case units =>
    intro s s1 c k o os src dst
    refine ⟨c.unit_eq k, c.mem_unitsLeft k o, fun hc ho => ?_, rfl, fun h => ⟨copyMove_one h, close_copyUnits_all ..⟩⟩
    exact ⟨_, copyUnits_one hc ho, rfl, rfl, rfl⟩

end Sys2Proof.Machine
end

section
/-! PROOFS of 04_memory_model.md: the channels of the fabric (R116, R437). -/

namespace Sys2Proof.Machine

section
variable {s : State} {c : Chan} {r : ChanReq} (hc : s.chan? c.id = some c)
  (hr : c.window.find? (fun x => x.seq == r.seq && x.inFlight) = some r)
include hc hr

/-- A request that has been applied is acknowledged again, without effect. -/
theorem receive_applied (ha : r.applied = true) : exec (.fabricRequestReceive c.id r.seq) s
    = .next (s.setChan { c.update r.seq (fun x => { x with inFlight := false }) with acked := max c.acked (r.seq + 1) }) := by
  rw [exec_fabricRequestReceive, execFabricRequestReceive]
  simp only [hc, hr, ha, if_true]
  rfl

/-- A request out of order is refused. -/
theorem receive_unexpected (ha : r.applied = false) (he : r.seq ≠ c.expected) :
    exec (.fabricRequestReceive c.id r.seq) s
      = .next (s.setChan ((c.update r.seq (fun x => { x with inFlight := false })).refuse r.seq)) := by
  have hne : (r.seq != c.expected) = true := by simpa using he
  rw [exec_fabricRequestReceive, execFabricRequestReceive]
  simp only [hc, hr, ha]
  exact if_pos hne

/-- The request expected next: a free choice may find the queue full, or lose the reply, so long as it has not done so too
often. -/
theorem receive_expected (ha : r.applied = false) (he : r.seq = c.expected) :
    let gone := c.update r.seq (fun x => { x with inFlight := false })
    let free := decide (c.nacks < Config.patience)
    exec (.fabricRequestReceive c.id r.seq) s =
      if free && s.free.1 % 4 == 1 then .next (s.free.2.setChan (gone.refuse r.seq))
      else .next ((s.free.2.apply c.source r).setChan { gone.update r.seq (fun x => { x with applied := true }) with
        expected := r.seq + 1
        acked := if free && s.free.1 % 4 == 2 then c.acked else max c.acked (r.seq + 1)
        nacks := if free && s.free.1 % 4 == 2 then c.nacks + 1 else 0 }) := by
  have heq : ¬ (r.seq != c.expected) = true := by simpa using he
  rw [exec_fabricRequestReceive, execFabricRequestReceive]
  simp only [hc, hr, ha]
  exact if_neg heq

end

/-- Settles O45: a request received, by whether it has been applied and is the one expected; then the three events of the
sender. -/
theorem fabricDeliversOnce : Obligations.FabricDeliversOnce := by
  intro s c r hc gone refused
  have chosen_iff : ∀ k : Nat, (decide (c.nacks < Config.patience) && s.free.1 % 4 == k) = true
      ↔ c.nacks < Config.patience ∧ s.free.1 % 4 = k := fun k => by simp
  refine ⟨receive_applied hc, receive_unexpected hc, fun hr ha he => ⟨fun h1 => ?_, fun h1 => ?_⟩, ?_, fun n hn => ?_,
    fun w hw => ?_⟩
  · exact (receive_expected hc hr ha he).trans (if_pos ((chosen_iff 1).2 h1))
  · refine (receive_expected hc hr ha he).trans ((if_neg (mt (chosen_iff 1).1 h1)).trans ?_)
    simp only [chosen_iff]
    rfl
  · rw [exec_fabricAck, execFabricAck, hc]
  · rw [exec_nakBackoffExpire, execNakBackoffExpire, hc]
    simp only [hn]
  · rw [exec_replyTimeoutResend, execReplyTimeoutResend, hc]
    simp only [hw]

end Sys2Proof.Machine
end

section
/-! PROOFS of 04_memory_model.md: accesses from outside (R112, R309, R332, R370 to R373, R375, R442; log entries 39, 45 and 49).
First the thread-control word, then doorbells, then reads and writes of HBM, and at the end the statement. -/

namespace Sys2Proof.Machine

/-! ### The thread-control word (R309, R371) -/

/-- Where no stop is on its way, none reaches a thread. -/
theorem stopReaches_none {s : State} (h : ∀ x ∈ s.threads, x.dbg.stop = false) (p : Thread → Bool) :
    s.stopReaches p = s := by
  have hdue : s.threads.filter (fun x => x.dbg.stop && p x) = [] :=
    List.filter_eq_nil_iff.2 fun x hx => by simp [h x hx]
  have ht : s.t.dbg.stop = false := h s.t (List.mem_cons_self ..)
  have ho : s.others.map (fun x => if x.dbg.stop && p x then x.freeze else x) = s.others := by
    refine (List.map_congr_left fun x hx => ?_).trans (List.map_id _)
    simp [h x (List.mem_cons_of_mem _ hx)]
  have hme : (if s.t.dbg.stop && p s.t then s.t.freeze else s.t) = s.t := if_neg (by simp [ht])
  unfold State.stopReaches
  dsimp only
  rw [hdue, List.foldl_nil, ho, hme]

/-- A running thread after a write of its debug fields: frozen where en and fz are both set, else as it was. -/
theorem applyFz_running {t : Thread} (n : Nat) (h : t.status = .running) :
    t.applyFz n = if t.dbg.ctl.getLsbD 0 && t.dbg.ctl.getLsbD 2 then
      { t.noEarly with status := .frozen none, c := { t.noEarly.c with popWord := none, body := [] } } else t := by
  unfold Thread.applyFz
  rw [h]

theorem dbgMask_bits (v : Word) : (v &&& dbgMask).getLsbD 0 = v.getLsbD 0 ∧ (v &&& dbgMask).getLsbD 2 = v.getLsbD 2 := by
  simp [dbgMask]

/-- The thread in focus with the fields of %dbgctl set. -/
def Thread.controlled (t : Thread) (v : Word) : Thread :=
  { t with dbg := { t.dbg with ctl := v &&& dbgMask, stepping := t.dbg.stepping && v.getLsbD 0 } }

theorem setControl_running {s : State} (v : Word) (hr : s.t.status = .running) (hl : s.locked s.t.task.ctx = false)
    (hs : ∀ x ∈ s.threads, x.dbg.stop = false) :
    s.setControl s.t.site v = { s with t := (s.t.controlled v).applyFz s.stale.length } := by
  have hat : s.threadAt s.t.site = s.t := if_pos rfl
  have hsite : ((s.t.controlled v).applyFz s.stale.length).site = s.t.site := by
    rw [applyFz_running (t := s.t.controlled v) _ hr]
    split <;> rfl
  unfold State.setControl
  rw [hat, stopReaches_none hs]
  dsimp only
  rw [hr, hl, if_neg (by decide), hat]
  exact if_pos hsite.symm

/-! ### Doorbells (R375) -/

theorem ring_near {q : Queue} {tail : Nat} (hh : (tail + 2 ^ 32 - q.head) % 2 ^ 32 ≤ 2 ^ q.lsize)
    (ht : (tail + 2 ^ 32 - q.tail) % 2 ^ 32 ≤ 2 ^ q.lsize) : q.ring tail = { q with tail := tail } := by
  unfold Queue.ring
  dsimp only
  split
  · next h => rw [beq_iff_eq.1 h]
  · exact if_pos (by rw [decide_eq_true hh, decide_eq_true ht]; rfl)

theorem ring_far {q : Queue} {tail : Nat} (hne : tail ≠ q.tail) (h : ¬ ((tail + 2 ^ 32 - q.head) % 2 ^ 32 ≤ 2 ^ q.lsize
    ∧ (tail + 2 ^ 32 - q.tail) % 2 ^ 32 ≤ 2 ^ q.lsize)) : q.ring tail = q.fail 1 := by
  unfold Queue.ring
  dsimp only
  rw [if_neg (by simpa using hne)]
  exact if_neg (by simpa only [Bool.and_eq_true, decide_eq_true_eq] using h)

theorem exec_doorbell_of {s : State} {q : Nat} {v : Word} (hready : s.power.ready = true) (hq : q < 8192)
    (hs : (s.queue q).state = 1) (hv : wbits v 63 32 = 0) :
    let t := s.setQueue ((s.queue q).ring (wbits v 31 0))
    exec (.doorbell q 0 8 v) s = .next (if s.power.running then t.rereadSource q else t) := by
  have hq' : decide (8192 ≤ q) = false := decide_eq_false (by omega)
  rw [exec_doorbell, execDoorbell]
  simp only [hready, hq', hv, hs]
  rfl

/-! ### HBM from outside (R112, R370, R442) -/

section
variable {s : State} (h : PlainMemory s)
include h

theorem outsideByte_plain {a : Nat} (ha : a < 2 ^ 39) (trusted : Bool) : s.outsideByte trusted a = s.rd a := by
  obtain ⟨ho, -⟩ := h
  rw [State.outsideByte, if_neg (by omega), if_neg (by simp [State.ownerOf, ho])]

theorem outsideWrites_plain {a : Nat} (ha : a < 2 ^ 39) (trusted : Bool) : s.outsideWrites trusted a = true := by
  obtain ⟨ho, hs, hc, -⟩ := h
  have hsealed : s.sealedPage a = false := by rw [State.sealedPage, hs]; rfl
  have hlocked : s.lockedCode a = false := List.any_eq_false.2 fun c hm => by simp [hc c hm]
  have howner : (s.ownerOf 0 (a / 2 ^ 21)).isNone = true := by rw [State.ownerOf, ho]; rfl
  rw [State.outsideWrites, decide_eq_true ha, hsealed, hlocked, howner]
  rfl

theorem outsideRead_plain {pa len : Nat} (hp : pa + len ≤ 2 ^ 39) (ag : Agent) (trusted : Bool) :
    s.outsideRead ag trusted pa len = s.answer ((List.range len).map (fun i => s.rd (pa + i))) := by
  have hb : (List.range len).map (fun i => s.outsideByte trusted (pa + i)) = (List.range len).map (fun i => s.rd (pa + i)) :=
    List.map_congr_left fun i hi => outsideByte_plain h (by have := List.mem_range.1 hi; omega) trusted
  obtain ⟨-, -, -, he, hc, -⟩ := h
  rw [State.outsideRead, State.errorCheck_nil _ _ _ _ he]
  dsimp only
  rw [hb]
  exact State.watchMem_nil _ _ _ _ _ hc

/-- The bytes in a row, none left out. -/
theorem outsideWrite_plain {pa : Nat} {data : List Byte} (hp : pa + data.length ≤ 2 ^ 39) (ag : Agent) (trusted : Bool) :
    s.outsideWrite ag trusted pa data = if data = [] then s else s.store (cellsFrom pa data) := by
  have hw : (cellsFrom pa data).filter (fun p => s.outsideWrites trusted p.1) = cellsFrom pa data := by
    refine List.filter_eq_self.2 fun p hm => ?_
    obtain ⟨x, hx, rfl⟩ := List.mem_map.1 hm
    have := List.mem_range.1 (List.of_mem_zip hx).1
    exact outsideWrites_plain h (by dsimp only; omega) trusted
  obtain ⟨-, -, -, he, hc, -⟩ := h
  have hbad : (cellsFrom pa data).filter (fun p => (badDetailOf [] p.1).isNone) = cellsFrom pa data :=
    List.filter_eq_self.2 fun _ _ => rfl
  have hempty : (cellsFrom pa data).isEmpty = true ↔ data = [] := by
    cases data <;> simp [cellsFrom, List.range_succ_eq_map]
  unfold State.outsideWrite
  dsimp only
  rw [show List.map _ _ = cellsFrom pa data from rfl, hw, State.errorCheck_nil _ _ _ _ he]
  dsimp only
  rw [he, List.filter_nil, hbad, State.watchMem_nil _ _ _ _ _ ((State.store_spec ..).2.trans hc)]
  simp only [hempty]

end

/-- A store where no unit stands away and no error stands: memory, the words remembered for fetching, and threads whose loads
start anew. -/
theorem store_frame {s : State} (ha : NoneAway s) (he : s.fleet.errors = []) (l : List Host.Cell) :
    s.store l = { s with
      mem := (s.store l).mem, stale := (s.store l).stale, t := (s.store l).t, others := (s.store l).others } := by
  have hw : (s.wrCells l).fleet.errors = [] := by rw [State.wrCells_eq]; exact he
  have hst : s.store l = ({ s.wrCells l with stale := s.stale ++ s.oldWords l } : State).loadsAnew (l.map (·.1)) := by
    unfold State.store
    rw [State.evicting_of_unsaved s l ha.1 ha.2]
    exact congrArg (·.loadsAnew (l.map (·.1)))
      (State.clearErrors_none { s.wrCells l with stale := s.stale ++ s.oldWords l } (l.map (·.1)) hw)
  obtain ⟨m, st, t, o, e⟩ : ∃ m st t o, s.store l = { s with mem := m, stale := st, t := t, others := o } := by
    rw [hst, State.wrCells_eq]
    unfold State.loadsAnew
    split
    · exact ⟨_, _, _, _, rfl⟩
    · exact ⟨_, _, _, _, rfl⟩
  rw [e]

/-- What a write of bytes in a row to HBM from outside leaves. -/
theorem outsideWrite_row {s : State} (h : PlainMemory s) {pa : Nat} {data : List Byte} (hp : pa + data.length ≤ 2 ^ 39)
    (ag : Agent) (trusted : Bool) :
    let t := s.outsideWrite ag trusted pa data
    (∀ i (hi : i < data.length), t.rd (pa + i) = data[i]) ∧ (∀ a, a < pa ∨ pa + data.length ≤ a → t.rd a = s.rd a)
      ∧ LoadsAnew s t id ∧ t = { s with mem := t.mem, stale := t.stale, t := t.t, others := t.others } := by
  intro t
  have ht : t = _ := outsideWrite_plain h hp ag trusted
  obtain ⟨-, -, -, he, -, ha⟩ := h
  have hrd : ∀ a, t.rd a = (s.wrBytes pa data).rd a := by
    intro a
    rw [ht]
    split
    · next hd => rw [hd]; rfl
    · rw [State.rd, State.store_mem _ _ ha, cellsFrom, State.wrCells_row]; rfl
  refine ⟨fun i hi => ?_, fun a hout => ?_, ?_⟩
  · rw [hrd, State.rd_wrBytes_in]
  · rw [hrd, State.rd_wrBytes_out _ _ _ _ hout]
  · rw [ht]
    split
    · exact ⟨⟨[], rfl, by simp⟩, rfl⟩
    · exact ⟨(State.store_spec ..).1, store_frame ha he _⟩

/-! ### The statement -/

theorem performAllPosted_none {s : State} (h : s.host.posted = []) : s.performAllPosted = s := by
  unfold State.performAllPosted
  rw [h]
  rfl

theorem exec_threadControlWrite_of {s : State} (hon : s.power.on = true) (v : Word) (hr : s.t.status = .running)
    (hl : s.locked s.t.task.ctx = false) (hs : ∀ x ∈ s.threads, x.dbg.stop = false) :
    exec (.threadControlWrite s.t.site v) s = .next { s with t := (s.t.controlled v).applyFz s.stale.length } := by
  rw [exec_threadControlWrite, execThreadControlWrite, Power.answers, if_pos hon, setControl_running v hr hl hs]

/-- The thread in focus after a write of %dbgctl: its control bits, its status, and what stays. -/
theorem controlled_applyFz {t : Thread} (n : Nat) (v : Word) (hr : t.status = .running) :
    let u := (t.controlled v).applyFz n
    u.dbg.ctl = v &&& dbgMask ∧ u.status = (if v.getLsbD 0 && v.getLsbD 2 then .frozen none else .running)
      ∧ u.c.reg = t.c.reg ∧ u.c.pc = t.c.pc := by
  dsimp only
  obtain ⟨h0, h2⟩ := dbgMask_bits v
  rw [applyFz_running (t := t.controlled v) _ hr, show (t.controlled v).dbg.ctl = v &&& dbgMask from rfl, h0, h2]
  split
  · exact ⟨rfl, rfl, rfl, rfl⟩
  · exact ⟨rfl, hr, rfl, rfl⟩

theorem exec_argumentWrite {s : State} (hon : s.power.on = true) (k : Fin 7) (v : Word) (tr : Bool) :
    exec (.registerWrite (8 + 8 * k.val) v tr) s = .next { s with
      host := { s.host with mbox := { s.host.mbox with args := s.host.mbox.args.set k.val v } } } := by
  have hk := k.isLt
  have hbad : (!s.power.answers || (8 + 8 * k.val) % 8 != 0) = false := by simp [Power.answers, hon]
  have hargs : s.host.mbox.args.setIfInBounds k.val v = s.host.mbox.args.set k.val v := by
    ext i hi
    simp [Vector.getElem_setIfInBounds, Vector.getElem_set]
  rw [exec_registerWrite, execRegisterWrite]
  dsimp only
  rw [hbad, if_neg (by decide), if_neg (by simp), if_pos (by omega), show (8 + 8 * k.val) / 8 - 1 = k.val by omega, hargs]

/-- Settles O48: each access is evaluated by its own lemma; what the thread, the ring or HBM keeps is theirs too. -/
theorem accessesFromOutside : Obligations.AccessesFromOutside := by
  unfold Obligations.AccessesFromOutside
  intro s hon
  have hready (hphase : s.power.phase = 6) : s.power.ready = true := by rw [Power.ready, hon, hphase]; rfl
  refine ⟨fun v hr hl hs => ?_, fun die cl hd hcl => ?_, exec_argumentWrite hon, fun v tr => ?_,
    fun q v hq hphase hs hv => ?_, fun h hphase hlow => ?_⟩
  · obtain ⟨hctl, hst, hregs, hpc⟩ := controlled_applyFz s.stale.length v hr
    exact ⟨_, exec_threadControlWrite_of hon v hr hl hs, hctl, hst, fun q => congrFun hregs q, hpc, rfl, rfl⟩
  · rw [exec_debugBlockRead, execDebugBlockRead, Power.answers, hon, if_neg (by decide), if_neg (by simp; omega),
      State.debugWord]
    rw [if_neg (by simp; omega)]
    rfl
  · rw [exec_registerWrite, execRegisterWrite, Power.answers, hon]
    rfl
  · have hrun := exec_doorbell_of (hready hphase) hq hs hv
    refine ⟨fun hh ht => ?_, fun hne hfar => ?_⟩
    · rw [hrun, ring_near hh ht]
    · rw [hrun, ring_far hne hfar]
      rfl
  · have hopen (off len : Nat) (hb : off + len ≤ 2 ^ s.host.bar4) : s.windowOpen off len = true := by
      rw [State.windowOpen, hready hphase, decide_eq_true hlow, decide_eq_true hb]
      rfl
    have hpeer (port : Fin 4) (hp : port ≠ 0) : (port == 0 || !s.power.ready || decide (4 ≤ s.power.state)) = false := by
      rw [hready hphase, decide_eq_false (by omega), beq_eq_false_iff_ne.2 hp]
      rfl
    refine ⟨fun off len relaxed hb hp hpost => ?_, fun off data hb hp => ⟨?_, ?_⟩, fun port pa len hport hp => ?_,
      fun port pa data hport hp => ?_⟩
    · have hs : (if relaxed then s else s.performAllPosted) = s := by
        rcases hpost with rfl | hnone
        · rfl
        · rw [performAllPosted_none hnone, ite_self]
      rw [exec_hostRequest, execHostRequest]
      dsimp only
      rw [hon, hopen off len hb, hs, outsideRead_plain h hp]
      rfl
    · rw [exec_hostRequest, execHostRequest]
      dsimp only
      rw [hopen off _ hb]
      rfl
    · refine ⟨_, ?_, outsideWrite_row h hp (portAgent 0) (s.trusts false)⟩
      rw [exec_hostRequest, execHostRequest]
      dsimp only
      rw [hopen off _ hb]
      rfl
    · rw [exec_peerRequest, execPeerRequest]
      rw [hpeer port hport, outsideRead_plain h hp]
      rfl
    · refine ⟨_, ?_, outsideWrite_row h hp (portAgent port.val) false⟩
      rw [exec_peerRequest, execPeerRequest]
      rw [hpeer port hport]
      rfl

end Sys2Proof.Machine
end

section
/-! PROOFS of 05_associative.md: the matrix engine (R117, R185, R292 to R295, R297 to R299). First how an mmul starts and
starts again, then what a step leaves in the counts of its tile, then the readouts, and at the end the statement. -/

namespace Sys2Proof.Machine

/-! ### A state that a read of stored bits has met (R434, R435) -/

theorem State.meet_checked (s : State) (cells : List Nat) : OnlyChecked s (s.meet cells).2 := by
  unfold State.meet
  split
  · exact .refl s
  · exact State.meetOf_checked ..

theorem State.stepMeets_checked (s : State) (c : MCfg) (tile : Nat) (cells : List (Nat × Nat)) (act : List Nat) :
    OnlyChecked s (s.stepMeets c tile cells act).2 := by
  unfold State.stepMeets
  split
  · exact .refl s
  · exact State.meet_checked ..

/-! ### The start of an mmul (R292, R295) -/

theorem bringSegs_of {s : State} (h : s.away = []) (lo stop : Nat) : s.bringSegs lo stop = s := by
  simp [State.bringSegs, h]

/-- The read of a presence array noted, where there is one. -/
def State.notePresence (s : State) (c : MCfg) (sb rows : Nat) : State :=
  if c.bsp then s.noteRead ((s.presenceCells c sb rows).map (fun a => .cell a a)) false else s

theorem State.notePresence_spec (s : State) (c : MCfg) (sb rows : Nat) :
    (s.notePresence c sb rows).t = s.t ∧ (s.notePresence c sb rows).mem = s.mem
      ∧ (s.notePresence c sb rows).away = s.away := by
  unfold State.notePresence
  split
  · exact ⟨rfl, rfl, rfl⟩
  · exact ⟨rfl, rfl, rfl⟩

/-- A presence array lies in memory, in the weight buffer of the unit of the thread. -/
theorem State.presence_congr {s u : State} (hm : u.mem = s.mem) (ht : u.t = s.t) (c : MCfg) (sb rows : Nat) :
    u.presence c sb rows = s.presence c sb rows := by
  simp only [State.presence, State.weightByte, State.rd, State.uid, hm, ht]

theorem State.regionOwned_congr {s u : State} (ht : u.t = s.t) (sb stop : Nat) :
    u.regionOwned sb stop = s.regionOwned sb stop := by
  simp only [State.regionOwned, ht]

section
variable {s u : State} {e : LaneEntry} {l : List LaneEntry} (h : Heads s e l)
include h

theorem keptMmul_of : s.keptMmul = s.t.l.kept.find? (fun m => m.entry.seq == e.seq) := by
  rw [State.keptMmul, show s.t.q.lane = e :: l from h]

theorem headEntry_of (i : Instr) (b : Word) : s.headEntry i b = e := by
  rw [State.headEntry, show s.t.q.lane = e :: l from h]

theorem opC_of (r : SReg) : s.opC r = e.c := by
  rw [State.opC, show s.t.q.lane = e :: l from h]

/-- What the start of an mmul leaves of the thread. -/
theorem startMmul_of (ht : u.t = s.t) (m : MmState) (vstart : Nat) :
    u.startMmul m vstart = { u with t := { s.t with
      q := { s.t.q with lane := l }
      l := { s.t.l with
        mm := s.t.l.mm ++ [m], vstart := vstart
        kept := s.t.l.kept.filter (fun x => x.entry.seq != m.entry.seq)
        started := s.t.alloc.quads } } } := by
  have hl : s.t.q.lane = e :: l := h
  simp only [State.startMmul, State.mapQ, State.mapL, ht, hl, List.tail_cons]

/-- An mmul that was stopped goes on from %vstart with what was fixed at its start (R295). -/
theorem exec_mmul_again (ha : s.away = []) {m : MmState} {k : List MmState} (hk : s.t.l.kept = m :: k)
    (hm : m.entry.seq = e.seq) (g : Guard) (t : TReg) (a : VReg) (b : SReg) :
    exec (.mmul g t a b) s
      = .next (s.startMmul { m with next := s.t.l.vstart, flags := 0, early := [] } s.t.l.keptStart) := by
  have hkept : s.keptMmul = some m := by rw [keptMmul_of h, hk, List.find?_cons_of_pos (by simp [hm])]
  rw [exec_mmul, execMmul, laneRun_of h]
  dsimp only
  rw [hkept, hk]
  simp only [bringSegs_of ha, List.head?_cons, Option.map_some, beq_self_eq_true, if_true]

/-- An mmul whose presence array is read without an error and whose region is owned (R292). -/
theorem exec_mmul_new (ha : s.away = []) (hk : s.t.l.kept = []) (he : s.t.l.early = []) (g : Guard) (t : TReg) (a : VReg)
    (b : SReg) (hown : s.regionOwned e.b.toNat (e.b.toNat + s.mc.presenceBytes s.t.l.v.vl) = true)
    (hmeet : s.meet (if (s.actives g).isEmpty then [] else s.presenceCells s.mc e.b.toNat s.t.l.v.vl) = (none, u))
    (hreg : s.regionOwned e.b.toNat (regionEnd s.mc (u.presence s.mc e.b.toNat s.t.l.v.vl) e.b.toNat s.t.l.v.vl) = true) :
    exec (.mmul g t a b) s = .next ((u.notePresence s.mc e.b.toNat s.t.l.v.vl).startMmul
      ⟨e, s.t.l.vstart, 0, u.presence s.mc e.b.toNat s.t.l.v.vl, s.t.l.v, s.t.l.mcfg, s.actives g, []⟩ 0) := by
  have hkept : s.keptMmul = none := by rw [keptMmul_of h, hk]; rfl
  have hu : OnlyChecked s u := by simpa only [hmeet] using s.meet_checked (if (s.actives g).isEmpty then []
    else s.presenceCells s.mc e.b.toNat s.t.l.v.vl)
  obtain ⟨hn, hmem, haw⟩ := u.notePresence_spec s.mc e.b.toNat s.t.l.v.vl
  have hnt : (u.notePresence s.mc e.b.toNat s.t.l.v.vl).t = s.t := hn.trans hu.thread
  have haway : (u.notePresence s.mc e.b.toNat s.t.l.v.vl).away = [] := by rw [haw, hu, ha]
  have hh : Heads (u.notePresence s.mc e.b.toNat s.t.l.v.vl) e l := by rw [Heads, hnt]; exact h
  rw [exec_mmul, execMmul, laneRun_of h]
  dsimp only
  rw [hkept, opB_of h]
  dsimp only
  rw [hown, bringSegs_of ha, hmeet]
  dsimp only
  rw [if_neg (by decide), ← State.notePresence, bringSegs_of haway, hnt, he]
  simp only [State.overlay, List.foldl_nil]
  simp only [State.presence_congr hmem hn, State.regionOwned_congr hnt, hreg, headEntry_of hh, Bool.not_true,
    Bool.false_eq_true, if_false]

end

/-! ### A step (R294, R295) -/

/-- A saturating sum is a number of 64 bits (R82). -/
theorem satAdd64_toInt (x y : Int) : ∃ w : Word, (satAdd64 x y).1 = w.toInt := by
  have hself : ∀ z : Int, -2 ^ 63 ≤ z → z < 2 ^ 63 → ∃ w : Word, z = w.toInt := fun z h1 h2 =>
    ⟨BitVec.ofInt 64 z, (BitVec.toInt_ofInt_eq_self (by decide) h1 h2).symm⟩
  have hmax : intMax true 64 = 2 ^ 63 - 1 := by decide
  have hmin : intMin true 64 = -2 ^ 63 := by decide
  unfold satAdd64
  dsimp only
  rw [hmax, hmin]
  split
  · exact hself _ (by norm_num) (by norm_num)
  · split
    · exact hself _ (by norm_num) (by norm_num)
    · exact hself _ (by dsimp only; omega) (by dsimp only; omega)

theorem addProducts_toInt (f : Nat → Option Int) (v : Word) (fl : Nat) (act : List Nat) :
    ∃ w : Word, (addProducts f v.toInt fl act).1 = w.toInt := by
  induction act generalizing v fl with
  | nil => exact ⟨v, rfl⟩
  | cons l act ih =>
    unfold addProducts
    split
    · exact ih v _
    · next p _ =>
      obtain ⟨w, hw⟩ := satAdd64_toInt v.toInt p
      dsimp only
      rw [hw]
      exact ih w _

/-- The flags gathered before play no part in a count. -/
theorem addProducts_flags (f : Nat → Option Int) (c : Int) (fl fl' : Nat) (act : List Nat) :
    (addProducts f c fl act).1 = (addProducts f c fl' act).1 := by
  induction act generalizing c fl fl' with
  | nil => rfl
  | cons l act ih =>
    unfold addProducts
    split
    · exact ih ..
    · exact ih ..

theorem accKey_inj {uid tile i j n k : Nat} (hn : n < 128) (hk : k < 128) :
    accKey uid tile i n = accKey uid tile j k ↔ (i, n) = (j, k) := by
  rw [Prod.mk.injEq]
  unfold accKey
  omega

theorem setCount_of {s : State} (hc : s.clusters = []) (ag : Agent) (tile i n : Nat) (x : Int) :
    s.setCount ag tile i n x = { s with
      accs := cellSet 0 s.accs (accKey s.uid tile i n) (BitVec.ofInt 64 x), fleet := (s.setCount ag tile i n x).fleet } := by
  unfold State.setCount State.watchAcc
  dsimp only
  rw [State.clearErrors_eq]
  simp [hc]

/-- Without a watchpoint a count written is what is read back, and every other count of its tile is as before. -/
theorem count64_setCount {s : State} (hc : s.clusters = []) (ag : Agent) (tile i j : Nat) {n k : Nat} (hn : n < 128)
    (hk : k < 128) (w : Word) :
    (s.setCount ag tile i n w.toInt).count64 tile j k = if (i, n) = (j, k) then w.toInt else s.count64 tile j k := by
  rw [setCount_of hc, BitVec.ofInt_toInt]
  show (cellGet 0 (cellSet 0 s.accs (accKey s.uid tile i n) w) (accKey s.uid tile j k)).toInt = _
  rw [cellGet_set, apply_ite BitVec.toInt]
  simp only [accKey_inj hn hk]
  rfl

/-- One count of a tile with the products of some lanes added, and the flags. -/
def addCount (ag : Agent) (tile : Nat) (act : List Nat) (p : Nat → Nat → Nat → Option Int) (acc : State × Nat)
    (x : Nat × Nat) : State × Nat :=
  let r := addProducts (p x.1 x.2) (acc.1.count64 tile x.1 x.2) acc.2 act
  (acc.1.setCount ag tile x.1 x.2 r.1, r.2)

/-- A step goes through the counts of its rows and columns (R294). -/
theorem stepAdd_eq {s : State} {m : MmState} (he : m.early = []) (ag : Agent) (c : MCfg) (tile va sb : Nat) {act : List Nat}
    (ha : act ≠ []) :
    let u := s.mapL (fun l => { l with v := m.v, mcfg := m.mcfg })
    ∃ fl, s.stepAdd ag c m tile va sb act = (List.range c.g ×ˢ List.range c.n).foldl (addCount ag tile act fun i n l =>
      laneProduct c (aWidth u.vt c) (u.aCode c va i l) (u.bCode c m.present sb m.v.vl l n)) (s, fl) := by
  have hne : act.isEmpty = false := by simpa using ha
  unfold State.stepAdd
  rw [he, hne]
  simp only [SProd.sprod, List.product, List.foldl_flatMap, List.foldl_map]
  exact ⟨_, rfl⟩

theorem addCount_plain {acc : State × Nat} (hc : acc.1.clusters = []) (ag : Agent) (tile : Nat) (act : List Nat)
    (p : Nat → Nat → Nat → Option Int) (x : Nat × Nat) :
    (addCount ag tile act p acc x).1.clusters = [] := by
  rw [addCount, setCount_of hc]
  exact hc

/-- After the counts of some places have been added to, each of them has once, and the others are as before. -/
theorem count64_foldl_addCount (ag : Agent) (tile : Nat) (act : List Nat) (p : Nat → Nat → Nat → Option Int)
    {xs : List (Nat × Nat)} (hd : xs.Nodup) (hx : ∀ x ∈ xs, x.2 < 128) {acc : State × Nat} (hc : acc.1.clusters = [])
    (i : Nat) {n : Nat} (hn : n < 128) :
    (xs.foldl (addCount ag tile act p) acc).1.count64 tile i n
      = if (i, n) ∈ xs then (addProducts (p i n) (acc.1.count64 tile i n) 0 act).1 else acc.1.count64 tile i n := by
  induction xs generalizing acc with
  | nil => rfl
  | cons x xs ih =>
    obtain ⟨hnot, hd⟩ := List.nodup_cons.1 hd
    obtain ⟨w, hw⟩ := addProducts_toInt (p x.1 x.2) (cellGet 0 acc.1.accs (accKey acc.1.uid tile x.1 x.2)) acc.2 act
    have hone : (addCount ag tile act p acc x).1.count64 tile i n
        = if (x.1, x.2) = (i, n) then w.toInt else acc.1.count64 tile i n := by
      rw [← count64_setCount hc ag tile x.1 i (hx x (List.mem_cons_self ..)) hn w, ← hw]
      rfl
    rw [List.foldl_cons, ih hd (fun y hy => hx y (List.mem_cons_of_mem _ hy)) (addCount_plain hc ..), hone]
    by_cases h : (x.1, x.2) = (i, n)
    · have hin : (i, n) ∉ xs := h ▸ hnot
      rw [if_neg hin, if_pos h, if_pos (h ▸ List.mem_cons_self ..), ← hw]
      obtain ⟨rfl, rfl⟩ := Prod.mk.inj h
      exact addProducts_flags ..
    · have hin : (i, n) ∈ x :: xs ↔ (i, n) ∈ xs := by simp [Ne.symm (show x ≠ (i, n) from h)]
      simp only [if_neg h, hin]

theorem MCfg.n_le (w : Word) : (MCfg.of w).n ≤ 128 := by
  show bits w.toNat 11 5 + 1 ≤ 128
  unfold bits
  omega

theorem watchStep_of {s : State} (h : s.clusters = []) (ag : Agent) (cells : List (Nat × Nat)) : s.watchStep ag cells = s := by
  simp [State.watchStep, h]

/-- The counts that a step leaves without a watchpoint (R294). -/
theorem count64_stepAdd {s : State} {m : MmState} (hc : s.clusters = []) (he : m.early = []) (ag : Agent) (w : Word)
    (tile va sb : Nat) {act : List Nat} (ha : act ≠ []) {i n : Nat} (hi : i < (MCfg.of w).g) (hn : n < (MCfg.of w).n) :
    let c := MCfg.of w
    let u := s.mapL (fun l => { l with v := m.v, mcfg := m.mcfg })
    (s.stepAdd ag c m tile va sb act).1.count64 tile i n = (addProducts (fun l => laneProduct c (aWidth u.vt c)
      (u.aCode c va i l) (u.bCode c m.present sb m.v.vl l n)) (s.count64 tile i n) 0 act).1 := by
  intro c u
  obtain ⟨fl, heq⟩ := stepAdd_eq (s := s) he ag c tile va sb ha
  have hmem : (i, n) ∈ List.range c.g ×ˢ List.range c.n := by simp [hi, hn, c]
  have hcols : ∀ x ∈ List.range c.g ×ˢ List.range c.n, x.2 < 128 := fun x hx =>
    (List.mem_range.1 (List.mem_product.1 hx).2).trans_le (MCfg.n_le w)
  rw [heq, count64_foldl_addCount ag tile act _ (List.nodup_range.product List.nodup_range) hcols hc i
    (hn.trans_le (MCfg.n_le w)), if_pos hmem]

/-- A step that meets no error ends the instruction where no lane is left, and else leaves it to go on from the next (R295). -/
theorem exec_mmulStep_of {s u : State} {m : MmState} {ms : List MmState} {g : Guard} {t : TReg} {a : VReg} {b : SReg}
    (hmm : s.t.l.mm = m :: ms) (hi : m.entry.instr = some (.mmul g t a b)) :
    let c := MCfg.of m.mcfg
    let ag := { s.matrixAgent with pc := m.entry.addr }
    let lanes := stepLanes m.v.vl m.next
    let cells := s.stepCells c m a.val m.entry.b.toNat lanes
    let act := m.act.filter (fun l => lanes.contains l && decide (l < m.entry.lanes) && m.hasBlock c l)
    (s.setUnit s.uid { s.unitSt s.uid with served := siteThread s.t.site }).stepMeets c t.val cells act = (none, u) →
      let r := (u.watchStep ag cells).stepAdd ag c m t.val a.val m.entry.b.toNat act
      exec .mmulStep s = if m.next + lanes.length < m.v.vl then
          .next (r.1.mapL (fun x => { x with
            mm := { m with next := m.next + lanes.length, flags := m.flags ||| r.2, early := [] } :: ms }))
        else .next (r.1.mmulEnd m (m.flags ||| r.2)) := by
  intro c ag lanes cells act hmeet r
  rw [exec_mmulStep, execMmulStep, hmm]
  dsimp only
  rw [hi]
  dsimp only
  rw [hmeet]

/-! ### Readout (R297 to R299) -/

/-- Where no stored bit is in error, a readout goes on. -/
theorem withRows_of {s : State} (h : s.fleet.errors = []) (c : MCfg) (tile : Nat) (rows : List Nat) (k : State → Res) :
    s.withRows c tile rows k = k s := by
  simp [State.withRows, h]

/-- An mst reads the row that its operand names (R298). -/
theorem exec_mst_of {s : State} {e : LaneEntry} {l : List LaneEntry} (h : Heads s e l) (he : s.fleet.errors = []) (g : Guard)
    (d : VReg) (t : TReg) (b : SReg) :
    let row := s.tileRow t.val (e.b.toNat % 32)
    let xs : List LaneVal := ((s.actives g).filter (· < s.mc.n)).map (fun n =>
      ⟨n, (readElem s.mc row n).val, rowScale s.mc row n, (readElem s.mc row n).fl⟩)
    exec (.mst g d t b) s = .next ((s.writeLanes s.mc.outType d.val xs).laneEnd (s.actives g) (flagsOf xs)) := by
  rw [exec_mst, execMst, laneRun_of h]
  dsimp only
  rw [withRows_of he, opB_of h]

/-- An mstm whose stores are all checked without a fault (R299); the scales go to the address of its third operand. -/
theorem exec_mstm_of {s u : State} {e : LaneEntry} {l : List LaneEntry} (h : Heads s e l) (he : s.fleet.errors = [])
    {a : SReg} {t : TReg} {pitch : BitVec 22} {sc : Option SReg}
    (hp : s.putAll (s.mstmStores s.mc t.val e.a (if sc.isSome then e.c else 0) pitch.toNat) = (.ok (), u)) :
    exec (.mstm a t pitch sc) s = .next (u.laneDone (s.mstmFlags s.mc t.val)) := by
  rw [exec_mstm, execMstm, laneRun_of h]
  dsimp only
  rw [withRows_of he, opA_of h]
  cases sc with
  | none =>
    rw [Option.isSome_none, if_neg Bool.false_ne_true] at hp
    dsimp only
    rw [hp]
  | some r =>
    rw [Option.isSome_some, if_pos rfl] at hp
    dsimp only
    rw [opC_of h, hp]

/-- Settles O41: the start by what it reads and checks, the counts of a step by the fold over the places of the tile, and
the readouts by their equations. -/
theorem matrixSteps : Obligations.MatrixSteps := by
  unfold Obligations.MatrixSteps
  refine ⟨?start, ?step, ?readout⟩
  case start =>
    intro s s1 g t a b en l h ha c sb p cells starts
    refine ⟨fun hk he hown hmeet hreg => ?_, fun m k hk hm => ?_⟩
    · have hs1 : OnlyChecked s s1 := by
        simpa only [hmeet] using s.meet_checked (if (s.actives g).isEmpty then [] else cells)
      have hcells : s1.presenceCells c sb s.t.l.v.vl = cells := by
        show s1.presenceCells c sb s.t.l.v.vl = s.presenceCells c sb s.t.l.v.vl
        rw [State.presenceCells, State.uid, hs1.thread]
        rfl
      obtain ⟨hn, -, -⟩ := s1.notePresence_spec c sb s.t.l.v.vl
      rw [exec_mmul_new h ha hk he g t a b hown hmeet hreg, startMmul_of h (hn.trans hs1.thread), State.notePresence, hcells]
    · rw [exec_mmul_again h ha hk hm, startMmul_of h rfl]
  case step =>
    intro s s2 m ms g t a b hmm hi c sb ag lanes cells s1 act hmeet r
    have hrun := exec_mmulStep_of hmm hi hmeet
    have hs2 : OnlyChecked s1 s2 := by simpa only [hmeet] using s1.stepMeets_checked c t.val cells act
    refine ⟨fun hlt => hrun.trans (if_pos hlt), fun hle => hrun.trans (if_neg hle.not_gt), fun hc he hact i hg n hn => ?_⟩
    intro u
    have hc2 : s2.clusters = [] := hs2.clusters.trans hc
    have hcount : s2.count64 t.val i n = s.count64 t.val i n := by
      rw [hs2]
      rfl
    rw [← hcount]
    show ((s2.watchStep ag cells).stepAdd ag c m t.val a.val sb act).1.count64 t.val i n = _
    rw [watchStep_of hc2]
    exact count64_stepAdd hc2 he ag m.mcfg t.val a.val sb hact hg hn
  case readout =>
    intro s s1 g d t a b pitch sc en l h herr c row xs
    exact ⟨exec_mst_of h herr g d t b, fun hput => exec_mstm_of h herr hput⟩

end Sys2Proof.Machine
end

section
/-! PROOFS of 05_associative.md: draws (R257) and the penalties of a count table (R260). First a round of a draw on words of
32 bits, then what one entry of a table does to a logit. -/

namespace Sys2Proof.Machine

/-! ### Draws (R257) -/

theorem rotl32_eq (x : BitVec 32) {n : Nat} (hn : n < 32) : rotl32 x.toNat n = (x.rotateLeft n).toNat := by
  have hx : x.toNat % 2 ^ 32 = x.toNat := Nat.mod_eq_of_lt x.isLt
  have hlow : x.toNat / 2 ^ (32 - n) < 2 ^ n := by
    rw [Nat.div_lt_iff_lt_mul (by positivity), ← pow_add, Nat.add_sub_cancel' hn.le]
    exact x.isLt
  have hhigh : x.toNat * 2 ^ n % 2 ^ 32 = x.toNat % 2 ^ (32 - n) * 2 ^ n := by
    rw [← Nat.mul_mod_mul_right, ← pow_add, Nat.sub_add_cancel hn.le]
  rw [BitVec.toNat_rotateLeft, Nat.mod_eq_of_lt hn, Nat.shiftLeft_eq, Nat.shiftRight_eq_div_pow, hhigh,
    ← Nat.shiftLeft_eq, ← Nat.shiftLeft_add_eq_or_of_lt hlow, rotl32, hx, hhigh, Nat.shiftLeft_eq]

/-- The four words of a draw as numbers. -/
def drawNats (x : BitVec 32 × BitVec 32 × BitVec 32 × BitVec 32) : Nat × Nat × Nat × Nat :=
  (x.1.toNat, x.2.1.toNat, x.2.2.1.toNat, x.2.2.2.toNat)

/-- A round on words of 32 bits (R257). -/
def drawRoundWords (k : Nat → BitVec 32) (x : BitVec 32 × BitVec 32 × BitVec 32 × BitVec 32) (r : Nat) :
    BitVec 32 × BitVec 32 × BitVec 32 × BitVec 32 :=
  let x0 := x.1 + x.2.1
  let x3 := (x.2.2.2 ^^^ x0).rotateLeft ([16, 12, 8, 7].getD (r % 4) 0)
  let x2 := x.2.2.1 + x3
  let x1 := (x.2.1 ^^^ x2).rotateLeft ([13, 9, 17, 11].getD (r % 4) 0)
  (x0 ^^^ k (r % 4), x1, x2 ^^^ (k ((r + 2) % 4) + BitVec.ofNat 32 r), x3)

/-- The rotations of every round are by less than the width of a word. -/
theorem drawRotations (r : Nat) : [16, 12, 8, 7].getD (r % 4) 0 < 32 ∧ [13, 9, 17, 11].getD (r % 4) 0 < 32 := by
  have hr : r % 4 < 4 := Nat.mod_lt _ (by decide)
  generalize r % 4 = q at hr
  revert q
  decide

theorem drawRound_nats (k : Nat → BitVec 32) (x : BitVec 32 × BitVec 32 × BitVec 32 × BitVec 32) (r : Nat) :
    drawRound (fun i => (k i).toNat) (drawNats x) r = drawNats (drawRoundWords k x r) := by
  obtain ⟨ha, hb⟩ := drawRotations r
  have hkey : ∀ y : BitVec 32, (y.toNat + r) % 2 ^ 32 = (y + BitVec.ofNat 32 r).toNat := fun y => by
    rw [BitVec.toNat_add, BitVec.toNat_ofNat, Nat.add_mod_mod]
  simp only [drawRound, drawNats, drawRoundWords, ← BitVec.toNat_add, ← BitVec.toNat_xor, rotl32_eq _ ha, rotl32_eq _ hb, hkey]

theorem foldl_drawRound {k : Nat → BitVec 32} {X : Nat → BitVec 32 × BitVec 32 × BitVec 32 × BitVec 32} {n : Nat}
    (h : ∀ r < n, X (r + 1) = drawRoundWords k (X r) r) :
    (List.range n).foldl (drawRound fun i => (k i).toNat) (drawNats (X 0)) = drawNats (X n) := by
  induction n with
  | zero => rfl
  | succ n ih =>
    rw [List.range_succ, List.foldl_append, ih fun r hr => h r (Nat.lt_succ_of_lt hr), List.foldl_cons, List.foldl_nil,
      drawRound_nats, h n (Nat.lt_succ_self n)]

theorem drawsByRounds : DrawsByRounds := by
  intro c n id key X hn hid k h0 h
  have hkey : (fun i => bits key (32 * i + 31) (32 * i)) = fun i => (k i).toNat := by
    funext i
    rw [BitVec.toNat_ofNat, bits, show 32 * i + 31 + 1 - 32 * i = 32 by omega]
  have hstart : (bits c 31 0, bits c 63 32, n, id) = drawNats (X 0) := by
    rw [h0]
    simp only [drawNats, BitVec.toNat_ofNat, Nat.mod_eq_of_lt hn, Nat.mod_eq_of_lt hid]
    simp [bits]
  unfold draw
  dsimp only
  rw [hkey, hstart, foldl_drawRound h]
  rfl

/-! ### Penalties (R260) -/

/-- An entry of a count table names a lane of a segment. -/
def CountEnt.names (e : CountEnt) (sg : Seg) (n : Nat) : Bool := e.id != 0xFFFFFFFF && 0 < e.count && e.id == n - sg.base

/-- The logit and the flags after one more entry. -/
def penaliseMore (vt : VType) (t : CountTab) (r : Flagged) (e : CountEnt) : Flagged :=
  let q := penalise vt t e.count r.val
  ⟨q.val, r.fl ||| q.fl⟩

theorem penalised_eq (s : State) (d : VReg) (sg : Seg) (t : CountTab) (es : List CountEnt) (n : Nat) :
    s.penalised d sg t es n = if (es.filter (·.names sg n)).isEmpty then none
      else
        let r := (es.filter (·.names sg n)).foldl (penaliseMore s.vt t) ⟨s.elem s.vt.ew d.val n, 0⟩
        some ⟨n, r.val, 0, r.fl⟩ := rfl

/-- An entry that names no lane leaves the logit. -/
theorem penalised_unnamed (s : State) (d : VReg) (sg : Seg) (t : CountTab) (es : List CountEnt) {e : CountEnt} {n : Nat}
    (h : e.names sg n = false) : s.penalised d sg t (es ++ [e]) n = s.penalised d sg t es n := by
  simp [penalised_eq, List.filter_append, h]

/-- An entry that names a lane comes after those before it. -/
theorem penalised_named (s : State) (d : VReg) (sg : Seg) (t : CountTab) (es : List CountEnt) {e : CountEnt} {n : Nat}
    (h : e.names sg n = true) :
    let before : Nat × Nat := match s.penalised d sg t es n with
      | some y => (y.val, y.fl)
      | none => (s.elem s.vt.ew d.val n, 0)
    let q := penalise s.vt t e.count before.1
    s.penalised d sg t (es ++ [e]) n = some ⟨n, q.val, 0, before.2 ||| q.fl⟩ := by
  rw [penalised_eq s d sg t es n, penalised_eq]
  have hf : (es ++ [e]).filter (·.names sg n) = es.filter (·.names sg n) ++ [e] := by simp [List.filter_append, h]
  rw [hf, List.foldl_append]
  generalize es.filter (·.names sg n) = l
  cases l with
  | nil => rfl
  | cons x l => rfl

theorem names_iff (e : CountEnt) (sg : Seg) (n : Nat) :
    e.names sg n = true ↔ e.id ≠ 0xFFFFFFFF ∧ 0 < e.count ∧ e.id = n - sg.base := by
  simp [CountEnt.names, and_assoc]

/-- A logit that is a number takes the factor of its sign; a penalty that is none gives IV, as a factor does (the model's
choice: log entry 28). -/
theorem penalise_of {vt : VType} {t : CountTab} {k x : Nat} {fac : Val} (hn : (vt.fmt.val x).isNan = false)
    (hf : (if 0 < (vt.fmt.val x).cmp (.fin false 0 0) then t.rpos else t.rneg) = fac) :
    let p := t.pres.plus (t.freq.timesNat k)
    if fac.isNan = true ∨ p.isNan = true then penalise vt t k x = ⟨vt.fmt.nan.val, flIV⟩
    else
      let y := fMul vt.fmt vt.rm (vt.fmt.val x) fac
      let z := fSub vt.fmt vt.rm (vt.fmt.val y.val) p
      penalise vt t k x = ⟨z.val, y.fl ||| z.fl⟩ := by
  intro p
  unfold penalise
  dsimp only
  rw [hn, if_neg Bool.false_ne_true, hf]
  split
  · next h => exact if_pos (Bool.or_eq_true_iff.2 h)
  · next h => exact if_neg (fun h' => h (Bool.or_eq_true_iff.1 h'))

theorem isExt_zero : IsExt (.fin false 0 0) 0 := .inl ⟨0, ⟨false, 0, 0, rfl, by simp⟩, rfl⟩

theorem cmp_zero_iff {v : Val} {y : EReal} (h : IsExt v y) : 0 < v.cmp (.fin false 0 0) ↔ 0 < y := by
  rcases cmpIs_cmp h isExt_zero with ⟨hc, hlt⟩ | ⟨hc, heq⟩ | ⟨hc, hlt⟩
  · simp [hc, hlt.not_gt]
  · simp [hc, heq]
  · simp [hc, hlt]

theorem isReal_timesNat {b : Val} {y : ℝ} (h : IsReal b y) (k : Nat) : IsReal (b.timesNat k) (y * k) := by
  obtain ⟨n, m, e, rfl, rfl⟩ := h
  exact ⟨n, m * k, e, rfl, by push_cast; ring⟩

/-- A count of units 2^e is a real number. -/
theorem isReal_units (t e : Int) : IsReal (.fin (decide (t < 0)) t.natAbs e) ((t : ℝ) * (2 : ℝ) ^ e) := by
  refine ⟨_, _, _, rfl, ?_⟩
  rcases lt_or_ge t 0 with h | h
  · rw [decide_eq_true h, Nat.cast_natAbs, abs_of_neg h]
    push_cast
    simp
  · rw [decide_eq_false h.not_gt, Nat.cast_natAbs, abs_of_nonneg h]
    simp

theorem isReal_plus {a b : Val} {x y : ℝ} (ha : IsReal a x) (hb : IsReal b y) : IsReal (a.plus b) (x + y) := by
  obtain ⟨n, m, e, rfl, -⟩ := id ha
  obtain ⟨n', m', e', rfl, -⟩ := id hb
  have hle : (if e ≤ e' then e else e') ≤ e ∧ (if e ≤ e' then e else e') ≤ e' := by split <;> omega
  rw [isReal_scaleInt ha hle.1, isReal_scaleInt hb hle.2, ← add_mul, ← Int.cast_add]
  exact isReal_units _ _

theorem penaltiesApply : PenaltiesApply := by
  refine ⟨fun s d sg t es e n => ?entries, fun vt t k x => ?one,
    fun a b x y k ha hb => isReal_plus ha (isReal_timesNat hb k)⟩
  case entries =>
    intro named before
    refine ⟨rfl, fun h => ?_, fun h => penalised_named s d sg t es ((names_iff e sg n).2 h)⟩
    exact penalised_unnamed s d sg t es (Bool.eq_false_iff.2 fun h' => h ((names_iff e sg n).1 h'))
  case one =>
    intro f p by'
    refine ⟨fun h => if_pos h, fun y hy => ⟨fun hpos => ?_, fun hneg => ?_⟩⟩
    · exact penalise_of (isExt_not_nan hy) (if_pos ((cmp_zero_iff hy).2 hpos))
    · exact penalise_of (isExt_not_nan hy) (if_neg fun h => hneg ((cmp_zero_iff hy).1 h))

end Sys2Proof.Machine
end

section
/-! PROOFS of 05_associative.md: microcode (R118 to R124, R262, R263), and the instructions of table lookup, draws and
penalties (R250, R258, R260). First the columns that a pass reads and writes, then the loop of a routine, then the words of
the microcode table, then the instructions, and at the end the statement. -/

namespace Sys2Proof.Machine

/-! ### Columns of a routine (R118, R121) -/

/-- A bit of a byte set or cleared. -/
def putByteBit (b : Byte) (i : Nat) (v : Bool) : Byte := if v then b ||| (1#8 <<< i) else b &&& ~~~(1#8 <<< i)

theorem putByteBit_getLsbD (b : Byte) {i k : Nat} (hi : i < 8) (hk : k < 8) (v : Bool) :
    (putByteBit b i v).getLsbD k = if i = k then v else b.getLsbD k := by
  unfold putByteBit
  cases v with
  | true =>
    rw [if_pos rfl, getLsbD_or_shift b hi k]
    by_cases h : i = k
    · simp [h]
    · simp [h, Ne.symm h]
  | false =>
    rw [if_neg Bool.false_ne_true, BitVec.getLsbD_and, BitVec.getLsbD_not, getLsbD_one_shiftLeft]
    by_cases h : i = k
    · simp [h]
    · simp [h, hk, Ne.symm h]

/-- A bit of a number of 16 bits set or cleared. -/
def putScratchBit (n c : Nat) (v : Bool) : Nat := if v then n ||| 2 ^ c else n &&& (0xFFFF ^^^ 2 ^ c)

theorem putScratchBit_testBit (n : Nat) {c k : Nat} (hk : k < 16) (v : Bool) :
    (putScratchBit n c v).testBit k = if c = k then v else n.testBit k := by
  unfold putScratchBit
  cases v with
  | true => 
    rw [if_pos rfl, Nat.testBit_or, Nat.testBit_two_pow]
    by_cases h : c = k <;> simp [h]
  | false =>
    rw [if_neg Bool.false_ne_true, Nat.testBit_and, Nat.testBit_xor, Nat.testBit_two_pow,
      show (0xFFFF : Nat) = 2 ^ 16 - 1 from rfl, Nat.testBit_two_pow_sub_one, decide_eq_true hk]
    by_cases h : c = k <;> simp [h]

/-- A lane's bit of a scratch column (R118). -/
def scratchBit (scr : List (Nat × Nat)) (c l : Nat) : Bool :=
  match scr.find? (fun p => p.1 == l) with
  | some p => p.2.testBit c
  | none => false

theorem scratchBit_put {scr : List (Nat × Nat)} {l : Nat} (hl : ∃ n, (l, n) ∈ scr) (c : Nat) {k : Nat} (hk : k < 16)
    (v : Bool) (l' : Nat) :
    scratchBit (scr.map fun p => if p.1 == l then (p.1, putScratchBit p.2 c v) else p) k l'
      = if c = k ∧ l = l' then v else scratchBit scr k l' := by
  have hkey : ((fun p : Nat × Nat => p.1 == l') ∘ fun p => if p.1 == l then (p.1, putScratchBit p.2 c v) else p)
      = fun p => p.1 == l' := by
    funext p
    dsimp only [Function.comp_apply]
    split <;> rfl
  unfold scratchBit
  rw [List.find?_map, hkey]
  cases hf : scr.find? (fun p => p.1 == l') with
  | none =>
    have hne : l ≠ l' := fun h => by
      obtain ⟨n, hn⟩ := hl
      exact List.find?_eq_none.1 hf _ hn (by simp [h])
    simp [hne]
  | some p =>
    have hp : p.1 = l' := by simpa using List.find?_some hf
    simp only [Option.map_some, hp, beq_iff_eq]
    by_cases h : l = l'
    · rw [if_pos h.symm]
      simp only [h, and_true]
      exact putScratchBit_testBit p.2 hk v
    · rw [if_neg (Ne.symm h), if_neg fun h' => h h'.2]

/-! ### Data columns (R121) -/

/-- The cells of the slots of two lanes are the same only where lane and byte are. -/
theorem slotCell_inj {s : State} {l l' a b : Nat} (hl : l < s.lanes) (hl' : l' < s.lanes) (ha : a < 64) (hb : b < 64) :
    s.slotCell 0 l + a = s.slotCell 0 l' + b ↔ l = l' ∧ a = b := by
  constructor
  · intro h
    unfold State.slotCell at h
    exact ⟨s.t.alloc.unitLane_inj hl hl' (show s.unitLane l = s.unitLane l' by omega), by omega⟩
  · rintro ⟨rfl, rfl⟩
    rfl

theorem slotCell_store (s : State) (cells : List Host.Cell) (v l : Nat) : (s.store cells).slotCell v l = s.slotCell v l := by
  have h := store_onlyAccesses s cells
  have ha : (s.store cells).t.alloc = s.t.alloc := by rw [show (s.store cells).t = _ from h]
  have hs : (s.store cells).t.site = s.t.site := by rw [show (s.store cells).t = _ from h]
  rw [State.slotCell, State.slotCell, State.uid, State.uid, State.unitLane, State.unitLane, ha, hs]

/-- Where no unit of movement stands away, one byte stored is what is read back. -/
theorem rd_store_one {s : State} (ha : NoneAway s) (a : Nat) (b : Byte) (x : Nat) :
    (s.store [(a, b)]).rd x = if a = x then b else s.rd x := by
  rw [State.rd, State.store_mem s _ ha]
  exact State.rd_wr s a b x

section
variable {m : Micro} {r : Roles} {x : Sel} {ls : List Loop} {c : Nat}

theorem Micro.col_data (h : selColumn r x (selOffset x ls) = (true, c)) (l : Nat) :
    m.col r x ls l = (m.s.rd (m.s.slotCell 0 l + c / 8)).getLsbD (c % 8) := by
  rw [Micro.col, h]

theorem Micro.col_scratch (h : selColumn r x (selOffset x ls) = (false, c)) (l : Nat) :
    m.col r x ls l = scratchBit m.scr c l := by
  rw [Micro.col, h]
  rfl

theorem Micro.put_data (h : selColumn r x (selOffset x ls) = (true, c)) (l : Nat) :
    (m.put r x ls l).scr = m.scr ∧ (m.put r x ls l).s = m.s.store [(m.s.slotCell 0 l + c / 8,
      putByteBit (m.s.rd (m.s.slotCell 0 l + c / 8)) (c % 8) x.val)] := by
  rw [Micro.put, h]
  exact ⟨rfl, rfl⟩

theorem Micro.put_scratch (h : selColumn r x (selOffset x ls) = (false, c)) (l : Nat) :
    (m.put r x ls l).s = m.s
      ∧ (m.put r x ls l).scr = m.scr.map (fun p => if p.1 == l then (p.1, putScratchBit p.2 c x.val) else p) := by
  rw [Micro.put, h]
  exact ⟨rfl, rfl⟩

end

/-- A bit written in a lane is what is read back of its column; every other column of every lane is as before. -/
theorem Micro.col_put {m : Micro} {r : Roles} {x y : Sel} {ls ls' : List Loop} {l l' : Nat} (ha : NoneAway m.s)
    (hl : l < m.s.lanes) (hl' : l' < m.s.lanes)
    (hc : if (selColumn r x (selOffset x ls)).1 then (selColumn r x (selOffset x ls)).2 < 512
      else (selColumn r x (selOffset x ls)).2 < 16 ∧ ∃ v, (l, v) ∈ m.scr)
    (hc' : if (selColumn r y (selOffset y ls')).1 then (selColumn r y (selOffset y ls')).2 < 512
      else (selColumn r y (selOffset y ls')).2 < 16) :
    (m.put r x ls l).col r y ls' l'
      = if selColumn r x (selOffset x ls) = selColumn r y (selOffset y ls') ∧ l = l' then x.val else m.col r y ls' l' := by
  rcases hx : selColumn r x (selOffset x ls) with ⟨bx, c⟩
  rcases hy : selColumn r y (selOffset y ls') with ⟨b', k⟩
  rw [hx] at hc
  rw [hy] at hc'
  cases bx with
  | true =>
    obtain ⟨hscr, hs⟩ := Micro.put_data (m := m) hx l
    cases b' with
    | true =>
      simp only [if_true] at hc hc'
      have hcell := slotCell_inj (s := m.s) hl hl' (show c / 8 < 64 by omega) (show k / 8 < 64 by omega)
      rw [Micro.col_data hy, Micro.col_data hy, hs, slotCell_store, rd_store_one ha]
      by_cases h : l = l' ∧ c / 8 = k / 8
      · rw [if_pos (hcell.2 h), putByteBit_getLsbD _ (by omega) (by omega), h.1, h.2]
        have hck : c % 8 = k % 8 ↔ c = k := by omega
        simp [hck]
      · rw [if_neg fun h' => h (hcell.1 h'), if_neg]
        rintro ⟨h1, h2⟩
        exact h ⟨h2, by rw [(Prod.mk.inj h1).2]⟩
    | false => rw [Micro.col_scratch hy, Micro.col_scratch hy, hscr, if_neg (by simp)]
  | false =>
    obtain ⟨hs, hscr⟩ := Micro.put_scratch (m := m) hx l
    cases b' with
    | true => rw [Micro.col_data hy, Micro.col_data hy, hs, if_neg (by simp)]
    | false =>
      simp only [Bool.false_eq_true, if_false] at hc hc'
      rw [Micro.col_scratch hy, Micro.col_scratch hy, hscr, scratchBit_put hc.2 c hc']
      simp only [Prod.mk.injEq, true_and]

/-! ### The loop of a routine (R121 to R123) -/

theorem Micro.record_spec (m : Micro) (e : Nat) (w : Word) (tag : List Nat) (skipped : Bool) :
    (m.record e w tag skipped).s = m.s ∧ (m.record e w tag skipped).scr = m.scr ∧ (m.record e w tag skipped).p = m.p
      ∧ (m.record e w tag skipped).wrote = m.wrote := by
  unfold Micro.record
  split
  · exact ⟨rfl, rfl, rfl, rfl⟩
  · exact ⟨rfl, rfl, rfl, rfl⟩

theorem Micro.put_p (m : Micro) (r : Roles) (x : Sel) (ls : List Loop) (l : Nat) : (m.put r x ls l).p = m.p := by
  unfold Micro.put
  split <;> rfl

/-- The columns of a word written in the lanes of a tag (R121). -/
def Micro.puts (m : Micro) (r : Roles) (w : Word) (ls : List Loop) (tag : List Nat) : Micro :=
  tag.foldl (fun m l => ((selsOf w).filter (·.wen)).foldl (fun m x => m.put r x ls l) m) m

theorem Micro.puts_keeps {P : Micro → Prop} {r : Roles} (hput : ∀ m x ls l, P m → P (Micro.put m r x ls l)) (w : Word)
    (ls : List Loop) (tag : List Nat) {m : Micro} (h : P m) : P (m.puts r w ls tag) :=
  List.foldlRecOn tag _ h fun _ h l _ => List.foldlRecOn _ _ h fun m h x _ => hput m x ls l h

/-- A pass, by its tag (R120, R121, R123). -/
theorem Micro.pass_spec (m : Micro) (r : Roles) (act : List Nat) (e : Nat) (w : Word) (ls : List Loop) :
    let tag := act.filter (fun l => (selsOf w).all (fun x => !x.cen || m.col r x ls l == x.key))
    let u := if wbits w 63 62 == 1 then
        { m with p := m.p + tag.length * 2 ^ (match ls with | l :: _ => l.i | [] => 0) }
      else m.puts r w ls tag
    (m.pass r act e w ls).s = u.s ∧ (m.pass r act e w ls).scr = u.scr ∧ (m.pass r act e w ls).p = u.p
      ∧ (m.pass r act e w ls).wrote = u.wrote :=
  Micro.record_spec _ e w _ _

section
variable {tbl : Nat → Word} {vt : VType} {r : Roles} {act : List Nat} {k e : Nat} {ls : List Loop} {m : Micro}

theorem Micro.run_pass (h : wbits (tbl e) 63 62 ≠ 2) :
    Micro.run tbl vt r act (k + 1) e ls m = Micro.run tbl vt r act k (e + 1) ls (m.pass r act e (tbl e) ls) := by
  conv_lhs => unfold Micro.run
  exact if_neg (by simpa using h)

section
variable (h : wbits (tbl e) 63 62 = 2)
include h

theorem Micro.run_loop (h0 : wbits (tbl e) 61 60 = 0) :
    let n := loopCount vt (tbl e)
    let down := (tbl e).getLsbD 59
    Micro.run tbl vt r act (k + 1) e ls m
      = if n = 0 then Micro.run tbl vt r act k (afterNext tbl 4096 (e + 1) 0) ls m
        else Micro.run tbl vt r act k (e + 1) (⟨n, if down then n - 1 else 0, down, wbits (tbl e) 55 52, e + 1⟩ :: ls) m := by
  dsimp only
  conv_lhs => unfold Micro.run
  simp only [h, h0, beq_self_eq_true, beq_iff_eq, if_true]

theorem Micro.run_next (h1 : wbits (tbl e) 61 60 = 1) (l : Loop) (o : List Loop) :
    Micro.run tbl vt r act (k + 1) e (l :: o) m
      = if (if l.down then l.i = 0 else l.i + 1 = l.n) then Micro.run tbl vt r act k (e + 1) o m
        else Micro.run tbl vt r act k l.body ({ l with i := if l.down then l.i - 1 else l.i + 1 } :: o) m := by
  conv_lhs => unfold Micro.run
  obtain ⟨n, i, down, shift, body⟩ := l
  cases down with
  | true => simp only [h, h1, beq_self_eq_true, beq_iff_eq, if_true]
  | false => simp only [h, h1, beq_self_eq_true, beq_iff_eq, if_true, Bool.false_eq_true, if_false]

/-- A routine ends at a word that ends it, and at one that ends a loop where none is open. -/
theorem Micro.run_end (h2 : 2 ≤ wbits (tbl e) 61 60 ∨ wbits (tbl e) 61 60 = 1 ∧ ls = []) :
    Micro.run tbl vt r act (k + 1) e ls m = m := by
  conv_lhs => unfold Micro.run
  rcases h2 with h2 | ⟨h1, rfl⟩
  · obtain ⟨n, hn⟩ := Nat.exists_eq_add_of_le' h2
    simp only [h, hn, beq_self_eq_true, if_true]
  · simp only [h, h1, beq_self_eq_true, if_true]

end
end

/-- What every pass keeps, a routine keeps. -/
theorem Micro.run_keeps {P : Micro → Prop} {r : Roles} {act : List Nat}
    (hpass : ∀ m e w ls, P m → P (Micro.pass m r act e w ls)) (tbl : Nat → Word) (vt : VType) (k e : Nat) (ls : List Loop)
    {m : Micro} (h : P m) : P (Micro.run tbl vt r act k e ls m) := by
  induction k generalizing e ls m with
  | zero => exact h
  | succ k ih =>
    by_cases hc : wbits (tbl e) 63 62 = 2
    · obtain h0 | h1 | h2 : wbits (tbl e) 61 60 = 0 ∨ wbits (tbl e) 61 60 = 1 ∨ 2 ≤ wbits (tbl e) 61 60 := by omega
      · rw [Micro.run_loop hc h0]
        exact branches (Q := P) (ih _ _ h) (ih _ _ h)
      · cases ls with
        | nil => rwa [Micro.run_end hc (.inr ⟨h1, rfl⟩)]
        | cons l o =>
          rw [Micro.run_next hc h1]
          exact branches (Q := P) (ih _ _ h) (ih _ _ h)
      · rwa [Micro.run_end hc (.inl h2)]
    · rw [Micro.run_pass hc]
      exact ih _ _ (hpass m e _ ls h)

theorem selOffset_outer (x : Sel) (a o : Loop) (rest : List Loop) :
    selOffset x (a :: o :: rest) = x.base + (if x.li then a.i else 0) + (if a.shift.testBit x.role then o.i else 0) := by
  rw [selOffset, Nat.testBit_eq_decide_div_mod_eq, Nat.add_assoc]
  simp only [beq_iff_eq, decide_eq_true_eq]

/-- The columns of the four roles: those of a, b and d lie in the slots of their groups (R119). -/
theorem selColumn_eq (r : Roles) (x : Sel) (off : Nat) :
    selColumn r x off = if x.role = 0 then (true, 16 * r.a + off) else if x.role = 1 then (true, 16 * r.b + off)
      else if x.role = 2 then (true, 16 * r.d + off) else (false, off) := by
  unfold selColumn
  split
  · next h => rw [if_pos h]
  · next h => rw [if_neg (by omega), if_pos h]
  · next h => rw [if_neg (by omega), if_neg (by omega), if_pos h]
  · next h0 h1 h2 => rw [if_neg h0, if_neg h1, if_neg h2]

theorem routinesRun : RoutinesRun := by
  refine ⟨fun tbl vt r act k e ls m => ?loop, fun m r act e w ls => ?pass, fun m r x y ls ls' l l' ha hl hl' => ?column,
    fun r x a o rest off => ⟨rfl, rfl, selOffset_outer x a o rest, selColumn_eq r x off⟩⟩
  case loop =>
    exact ⟨Micro.run_pass, fun h => ⟨Micro.run_loop h, fun l o h1 hl => hl ▸ Micro.run_next h h1 l o,
      fun h2 => Micro.run_end h (.inl h2)⟩⟩
  case pass =>
    intro tag t u
    obtain ⟨hs, hscr, hp, -⟩ := m.pass_spec r act e w ls
    have hu : u.p = m.p := Micro.puts_keeps (P := fun u => u.p = m.p) (fun _ _ _ _ h => (Micro.put_p ..).trans h) w ls tag rfl
    refine ⟨fun h => ?_, fun h => ?_⟩
    · rw [if_pos (by simp [h])] at hs hscr hp
      exact ⟨hs, hscr, hp⟩
    · rw [if_neg (by simpa using h)] at hs hscr hp
      exact ⟨hp.trans hu, hs, hscr⟩
  case column => exact Micro.col_put ha hl hl'

/-- No watchpoint stands by, and no slot written has been noted for one (R311). -/
def Micro.Unwatched (m : Micro) : Prop := m.s.clusters = [] ∧ m.wrote = []

theorem Micro.put_unwatched {m : Micro} (h : m.Unwatched) (r : Roles) (x : Sel) (ls : List Loop) (l : Nat) :
    (m.put r x ls l).Unwatched := by
  obtain ⟨hc, hw⟩ := h
  unfold Micro.put
  split
  · exact ⟨(State.store_spec ..).2.trans hc, by simp [hc, hw]⟩
  · exact ⟨hc, hw⟩

theorem Micro.pass_unwatched {m : Micro} (h : m.Unwatched) (r : Roles) (act : List Nat) (e : Nat) (w : Word)
    (ls : List Loop) : (m.pass r act e w ls).Unwatched := by
  obtain ⟨hs, -, -, hwrote⟩ := m.pass_spec r act e w ls
  rw [Micro.Unwatched, hs, hwrote]
  split
  · exact h
  · exact Micro.puts_keeps (P := Micro.Unwatched) (fun _ x ls l h => Micro.put_unwatched h r x ls l) w ls _ h

theorem runMicro_wrote {s : State} (hc : s.clusters = []) (e : Nat) (r : Roles) (act : List Nat) :
    (s.runMicro e r act).wrote = [] :=
  (Micro.run_keeps (P := Micro.Unwatched) (fun _ e w ls h => Micro.pass_unwatched h r act e w ls) _ _ _ _ _ ⟨hc, rfl⟩).2

/-! ### Words of the microcode table (R124, R262) -/

theorem laneReads_length {s u : State} {size va n : Nat} {ws : List Nat} (h : s.laneReads size va n = (.ok ws, u)) :
    ws.length = n := by
  induction n generalizing s va ws with
  | zero =>
    obtain ⟨h, -⟩ := Prod.mk.inj h
    injection h with h
    rw [← h, List.length_nil]
  | succ n ih =>
    unfold State.laneReads at h
    split at h
    · cases h
    · split at h
      · next hr =>
        cases h
        rw [List.length_cons, ih hr]
      · cases h

section
variable {b : Nat} {ps : List (Word × Nat)} {m : List (Nat × Word)} {a : Nat}

/-- The table after some words have been put at their places from b on. -/
def putMicro (b : Nat) (m : List (Nat × Word)) (ps : List (Word × Nat)) : List (Nat × Word) :=
  ps.foldl (fun m p => cellSet 0 m (b + p.2) p.1) m

theorem cellGet_putMicro_out (h : ∀ p ∈ ps, b + p.2 ≠ a) : cellGet 0 (putMicro b m ps) a = cellGet 0 m a :=
  List.foldlRecOn (motive := fun m' => cellGet 0 m' a = cellGet 0 m a) ps _ rfl fun m' hm p hp => by
    rw [cellGet_set, if_neg (h p hp), hm]

theorem cellGet_putMicro_in (hd : (ps.map (·.2)).Nodup) {p : Word × Nat} (hp : p ∈ ps) :
    cellGet 0 (putMicro b m ps) (b + p.2) = p.1 := by
  induction ps generalizing m with
  | nil => cases hp
  | cons q ps ih =>
    obtain ⟨hq, hd⟩ := List.nodup_cons.1 hd
    rcases List.mem_cons.1 hp with rfl | hp
    · refine (cellGet_putMicro_out fun q' hq' he => hq (List.mem_map.2 ⟨q', hq', Nat.add_left_cancel he⟩)).trans ?_
      rw [cellGet_set, if_pos rfl]
    · exact ih hd hp

end

theorem microWord_user {s : State} {uid e : Nat} (he : 3072 ≤ e) :
    s.microWord uid e = cellGet 0 s.micro (uid * 4096 + e) := by
  rw [State.microWord, if_neg he.not_gt]

/-- The unit's table with n words put at its entries from e on. -/
def State.microLoaded (s : State) (e n : Nat) (ws : List Nat) : State :=
  { s with micro := putMicro (s.uid * 4096 + e) s.micro ((ws.map (BitVec.ofNat 64)).zip (List.range n)) }

theorem microWord_microLoaded (s : State) {e n : Nat} {ws : List Nat} (he : 3072 ≤ e) (hn : ws.length = n) :
    (∀ i < n, (s.microLoaded e n ws).microWord s.uid (e + i) = BitVec.ofNat 64 (ws.getD i 0))
      ∧ ∀ i, i < e ∨ e + n ≤ i → (s.microLoaded e n ws).microWord s.uid i = s.microWord s.uid i := by
  have hplaces : ((ws.map (BitVec.ofNat 64)).zip (List.range n)).map (·.2) = List.range n := by
    rw [List.map_snd_zip]
    simp [hn]
  refine ⟨fun i hi => ?_, fun i hout => ?_⟩
  · have hmem : (BitVec.ofNat 64 (ws.getD i 0), i) ∈ (ws.map (BitVec.ofNat 64)).zip (List.range n) :=
      List.mem_iff_getElem.2 ⟨i, by simp [hn, hi], by simp [hn, hi]⟩
    rw [microWord_user (by omega), ← Nat.add_assoc]
    exact cellGet_putMicro_in (by rw [hplaces]; exact List.nodup_range) hmem
  · by_cases h3 : 3072 ≤ i
    · rw [microWord_user h3, microWord_user h3]
      refine cellGet_putMicro_out fun p hp => ?_
      have : p.2 < n := List.mem_range.1 (hplaces ▸ List.mem_map_of_mem (f := (·.2)) hp)
      omega
    · rw [State.microWord, State.microWord, if_pos (by omega), if_pos (by omega)]

/-! ### The instructions at the head of the lane queue -/

/-- The counter of a lane's draw (R258). -/
def BVal.counter (v : BVal) (s : State) (x : Nat) : Nat :=
  match v with
  | .scalar w => w.toNat
  | .lanes a => s.elem 64 a x

section
variable {s u : State} {en : LaneEntry} {l : List LaneEntry} (h : Heads s en l)
include h

theorem exec_vrand_of {b : BSrc} {v : BVal} (hb : s.operandB b = some (v, u)) (g : Guard) (d : VReg) :
    exec (.vrand g d b) s = .next (u.gives ⟨g, 0⟩ (intType false 64) d fun x =>
      ⟨x, draw (v.counter u x) x u.t.l.drawid.toNat u.t.l.drawkey.toNat, 0, 0⟩) := by
  rw [exec_vrand, execVrand, laneRun_of h, withB_of hb]
  cases v with
  | lanes a => rfl
  | scalar w => rfl

theorem exec_vtab_of {g : Guard} {n : Nat} {r : List Nat} (hact : s.actives g = n :: r)
    (hal : s.alignFault s.laneAgent .read (containerOf s.vt.ew) en.a.toNat (containerOf s.vt.ew) = none) {k : Fin 16}
    {tbl : List Nat} (hr : s.laneReads (containerOf s.vt.ew) en.a.toNat (2 ^ k.val) = (.ok tbl, u)) (d i : VReg) (a : SReg) :
    exec (.vtab g d a i k) s = .next (u.gives ⟨g, 0⟩ s.vt d fun x =>
      ⟨x, tbl.getD (u.elem 16 i.val x % 2 ^ k.val) 0 % 2 ^ s.vt.ew, 0, 0⟩) := by
  rw [exec_vtab, execVtab, laneRun_of h]
  dsimp only
  rw [hact, opA_of h]
  dsimp only
  rw [hal]
  dsimp only
  rw [hr]
  rfl

theorem exec_vscatl_of {g : Guard} {tabs : List (Seg × CountTab × List CountEnt)}
    (ht : s.countTabs en.a.toNat (2 ^ 20) (s.segs true g) = (.ok tabs, u)) (d : VReg) (a : SReg) :
    let xs := tabs.flatMap (fun p => p.1.act.filterMap (u.penalised d p.1 p.2.1 p.2.2))
    exec (.vscatl g d a) s = .next ((u.writeLanes u.vt d.val xs).laneEnd (u.actives g) (flagsOf xs)) := by
  rw [exec_vscatl, execVscatl, laneRun_of h]
  dsimp only
  rw [opA_of h, ht]

/-- The words that vmload reads go into the unit's entries from the one it names on (R262). -/
theorem exec_vmload_of (hlo : 3072 ≤ en.b.toNat) (hhi : en.b.toNat ≤ 4095) (hend : en.b.toNat + en.c.toNat ≤ 4096)
    (hpos : 0 < en.c.toNat) (hal : en.a.toNat % 8 = 0) {ws : List Nat}
    (hr : s.laneReads 8 en.a.toNat en.c.toNat = (.ok ws, u)) (hok : (ws.map (BitVec.ofNat 64)).all microWordOk = true)
    (a b c : SReg) :
    exec (.vmload a b c) s = .next ((u.microLoaded en.b.toNat en.c.toNat ws).laneDone 0) := by
  rw [exec_vmload, execVmload, laneRun_of h]
  dsimp only
  rw [opA_of h, opB_of h, opC_of h, if_neg (by simp [hlo, hhi, hend]), if_neg (by simpa using hpos.ne'),
    if_neg (by simp [hal]), hr]
  dsimp only
  rw [hok, if_neg (by decide)]
  rfl

/-- Without a watchpoint vmicro runs its routine and pushes its tag count where it counts tags (R263). -/
theorem exec_vmicro_of {g : Guard} {k : BitVec 12} {d x y : VReg}
    (hchk : microCheck (s.microWord s.uid) s.vt ⟨x.val, y.val, d.val⟩ 1025 k.toNat [] = (true, true))
    (hc : s.clusters = []) :
    let m := s.runMicro k.toNat ⟨x.val, y.val, d.val⟩ (s.actives g)
    let t := m.records m.s
    exec (.vmicro g k d x y) s = .next ((if countsTags (s.microWord s.uid) 1025 k.toNat then
      t.mapQ (·.push 2 (BitVec.ofNat 64 m.p)) else t).laneEnd (s.actives g) 0) := by
  rw [exec_vmicro, execVmicro, laneRun_of h]
  dsimp only
  rw [hchk, runMicro_wrote hc]
  rfl

end

/-- Settles O35: draws, penalties and routines by their lemmas; each instruction at the head of the lane queue by its
equation, and the entries that vmload leaves by the words it puts there. -/
theorem lookupDrawAndMicrocode : Obligations.LookupDrawAndMicrocode := by
  unfold Obligations.LookupDrawAndMicrocode
  refine ⟨drawsByRounds, penaltiesApply, routinesRun, ?lookup, ?microcode⟩
  case lookup =>
    intro s s1 s2 s3 g d i a k b v e l n r tbl tabs h
    refine ⟨fun hb => (exec_vrand_of h hb g d).trans ?_, fun hact hal hr => exec_vtab_of h hact hal hr d i a,
      fun ht => exec_vscatl_of h ht d a⟩
    cases v with
    | lanes a => rfl
    | scalar w => rfl
  case microcode =>
    intro s u g a b c k d x y ws e l h
    refine ⟨fun hlo hhi hend hpos hal hr hok => ?_, fun hchk hc => exec_vmicro_of h hchk hc⟩
    obtain ⟨hin, hout⟩ := microWord_microLoaded u hlo (laneReads_length hr)
    exact ⟨_, exec_vmload_of h hlo hhi hend hpos hal hr hok a b c, hin, fun i hi _ => hout i hi, rfl⟩

end Sys2Proof.Machine
end

section
/-! PROOFS of 06_residual.md: accumulate requests at the home slice, and their replies (R137, R138, R141, R143, R146). -/

namespace Sys2Proof.Machine

/-! ### The home slice (R137, R138) -/

section
variable {s : State} {r : AccReq} (hr : s.req? r.id = some r)
include hr

theorem exec_accumulateRequest_taken (hp : r.phase = .sent)
    (h : r.forced = true ∨ s.pendingCount r.line < (s.ctxD r.ctx).rquota) :
    exec (.accumulateRequest r.id) s
      = .next { s with reqs := s.reqs.filter (fun x => x.id != r.id) ++ [{ r with phase := .accepted }] } := by
  have hroom : (r.forced || decide (s.pendingCount r.line < (s.ctxD r.ctx).rquota)) = true := by simpa using h
  rw [exec_accumulateRequest, execAccumulateRequest, hr]
  dsimp only
  rw [if_neg (by simp [hp]), if_pos hroom]

theorem exec_accumulateRequest_full (hp : r.phase = .sent) (hf : r.forced = false)
    (h : (s.ctxD r.ctx).rquota ≤ s.pendingCount r.line) :
    exec (.accumulateRequest r.id) s = .next (s.setReq { r with phase := .refused }) := by
  rw [exec_accumulateRequest, execAccumulateRequest, hr]
  dsimp only
  rw [if_neg (by simp [hp]), if_neg (by simp [hf, h])]

theorem exec_accumulatePerform_first
    (h : (s.reqs.find? (fun x => x.line == r.line && x.phase == .accepted && !x.performed)).map (·.id) = some r.id) :
    exec (.accumulatePerform r.id) s
      = .next ((r.words.foldl (fun s p => s.performWord r p.1 p.2) s).setReq { r with performed := true }).dropReq := by
  rw [exec_accumulatePerform, execAccumulatePerform, hr]
  dsimp only
  rw [h, if_neg (by simp)]

end

/-! ### Replies (R141, R143, R146) -/

/-- The entry with the sums of its refused request given back (R137, R141). -/
def AccReq.givenBack (r : AccReq) (now : Nat) (e : REntry) : REntry :=
  r.words.foldl (fun e p => e.add now p.1 p.2) { e with fl := false }

/-- An entry that its reply has reached is due to leave where one of the two flushes still has sums of it to send. -/
theorem State.replied_eq (s : State) (e : REntry) :
    s.replied e = if e.flush = .mustSend ∨ e.cflush = .mustSend then s.makeDue e else s.mapR (·.put e) := by
  simp [State.replied]

section
variable {s s1 : State} {r : AccReq} {e : REntry} (hr : s.req? r.id = some r)
  (he : r.entry.bind (fun i => s1.t.r.entries.find? (fun e => e.idx == i)) = some e)
include hr he

theorem exec_acceptedReply_of (hp : r.phase = .accepted) (hc : r.closed = false)
    (hfocus : ((s.setReq { r with closed := true }).dropReq).focusTask r.taskId = some s1) :
    exec (.acceptedReply r.id) s = .next
      (s1.replied { e with fl := false, flush := e.flush.accepted, cflush := e.cflush.accepted }).afterReply := by
  rw [exec_acceptedReply, execAcceptedReply, hr]
  dsimp only
  rw [if_neg (by simp [hp, hc]), hfocus]
  dsimp only
  rw [he]

theorem exec_refusalReply_of (hp : r.phase = .refused)
    (hfocus : ({ s with reqs := s.reqs.filter (fun x => x.id != r.id) } : State).focusTask r.taskId = some s1) :
    let back := r.givenBack s1.gts e
    exec (.refusalReply r.id) s = .next
      (s1.replied { back with flush := back.flush.refused, cflush := back.cflush.refused }).afterReply := by
  rw [exec_refusalReply, execRefusalReply, hr]
  dsimp only
  rw [if_neg (by simp [hp]), hfocus]
  dsimp only
  rw [he]
  rfl

end

/-! ### Marks of an entry towards a flush (R146) -/

theorem FlushMark.accepted_eq (m : FlushMark) : m.accepted = if m = .waitOld true then .mustSend else .none := by
  cases m with
  | waitOld hadHeld => cases hadHeld <;> rfl
  | none => rfl
  | mustSend => rfl
  | sentForced => rfl

theorem FlushMark.refused_eq (m : FlushMark) : m.refused = if m = .none then .none else .mustSend := by
  cases m <;> rfl

/-- Settles O46: each step of the home slice and each reply by its equation, the marks of the two flushes by their cases. -/
theorem accumulateRequests : Obligations.AccumulateRequests := by
  unfold Obligations.AccumulateRequests
  intro s r hr
  refine ⟨exec_accumulateRequest_taken hr, exec_accumulateRequest_full hr, exec_accumulatePerform_first hr, ?accepted,
    ?refused, fun m => ⟨m.accepted_eq, m.refused_eq⟩⟩
  case accepted =>
    intro s1 e hp hc hfocus he
    rw [exec_acceptedReply_of hr he hp hc hfocus, State.replied_eq]
  case refused =>
    intro s1 e hp hfocus he
    rw [exec_refusalReply_of hr he hp hfocus, State.replied_eq]
    rfl

end Sys2Proof.Machine
end

section
/-! PROOFS of 07_streams.md: gathers, scatters and the vector atomics that neither release nor acquire (R95, R96, R166, R272 to
R277, R435). First what a lane puts on its way, then the lanes one after the other, and at the end the statement. -/

namespace Sys2Proof.Machine

/-! ### What the checks of a lane leave as it was -/

theorem OnlyChecked.of_readRow {s u : State} {n : Nat} {r : Except AccFault Unit} (h : s.readRow n = (r, u)) :
    OnlyChecked s u := by
  have hchecked : OnlyChecked s (s.readRow n).2 := State.errorCheck_checked ..
  rwa [h] at hchecked

theorem OnlyChecked.of_check {s u : State} {ag : Agent} {k : Access} {n va : Nat} {r : Except AccFault (List Loc)}
    (h : s.check ag k n va = (r, u)) : OnlyChecked s u := by
  simpa only [h] using (s.check_spec ag k n va).1

section
variable {s u : State} (h : OnlyChecked s u)
include h

theorem OnlyChecked.elem (w v l : Nat) : u.elem w v l = s.elem w v l :=
  State.elem_congr h.mem (by rw [h.t]) (by rw [h.t]) w v l

theorem OnlyChecked.slotCell (v l : Nat) : u.slotCell v l = s.slotCell v l := by
  simp only [State.slotCell, State.uid, State.unitLane, h.t]

theorem OnlyChecked.indexAddr (base : Word) (mode : Fin 3) (i : VReg) (size l : Nat) :
    u.indexAddr base mode i size l = s.indexAddr base mode i size l := by
  simp only [State.indexAddr, h.elem]

theorem OnlyChecked.elemAgent (l : Nat) : u.elemAgent l = s.elemAgent l := by
  simp only [State.elemAgent, State.laneAgent, h.t]

theorem OnlyChecked.laneSeq : u.laneSeq = s.laneSeq := by simp only [State.laneSeq, h.t]

theorem OnlyChecked.laneAddr : u.laneAddr = s.laneAddr := by simp only [State.laneAddr, h.t]

end

/-! ### An access of a lane on its way, in its parts (R95, R96, R111) -/

theorem accessParts_plain (va : Nat) (ls : List Loc) : accessParts false va ls
    = if wholeAccess va ls then [(0, ls.length)] else (List.range ls.length).map (fun i => (i, 1)) := by
  simp [accessParts]

/-- The parts of a load of a lane, as the elements that the lane stream then has in flight. -/
theorem State.pushLoad_eq (s : State) (l cell width va : Nat) (tile : Bool) (ls : List Loc) :
    s.pushLoad l cell width va tile ls = s.mapL (fun x => { x with
      returns := x.returns ++ (accessParts tile va ls).map (fun p => ⟨s.laneSeq, s.laneAddr, l, cell + p.1,
        min (8 * p.2) (width - 8 * p.1), (ls.drop p.1).take p.2, none, [], none, []⟩) }) := by
  unfold State.pushLoad
  generalize accessParts tile va ls = ps
  induction ps generalizing s with
  | nil => simp [State.mapL]
  | cons p ps ih =>
    rw [List.foldl_cons, ih, State.pushElem]
    simp only [State.mapL, List.map_cons, List.append_assoc, List.singleton_append]
    rfl

/-- The parts of a store of a lane, as the stores that the lane stream then has on their way. -/
theorem State.pushParts_eq (s : State) (l va v : Nat) (tile : Bool) (o : StoreOrder) (ls : List Loc) :
    s.pushParts l va v tile o ls = s.mapL (fun x => { x with
      stores := x.stores ++ (accessParts tile va ls).map (fun p => ⟨l, .store (v / 256 ^ p.1 % 256 ^ p.2),
        (ls.drop p.1).take p.2, true, List.range ((ls.drop p.1).take p.2).length, [], [], s.laneSeq, s.laneAddr, l, o.isSome,
        o.getD 0, false⟩) }) := by
  unfold State.pushParts
  generalize accessParts tile va ls = ps
  induction ps generalizing s with
  | nil => simp [State.mapL]
  | cons p ps ih =>
    rw [List.foldl_cons, ih, State.pushStore]
    simp only [State.mapL, List.map_cons, List.append_assoc, List.singleton_append]
    rfl

/-! ### A lane of an indexed form (R272, R273, R275, R435) -/

section
variable {s s0 s1 : State} {n : Nat}

theorem onRow_error {f : AccFault} (h : s.readRow n = (.error f, s0)) (k : State → Except AccFault Unit × State) :
    s.onRow n k = (.error f, s0) := by
  rw [State.onRow, h]

theorem onRow_ok (h : s.readRow n = (.ok (), s0)) (k : State → Except AccFault Unit × State) : s.onRow n k = k s0 := by
  rw [State.onRow, h]

section
variable (hrow : s.readRow n = (.ok (), s0))
include hrow

/-- A gather loads the lane's element from its indexed address, once its row has been read. -/
theorem gatherOne_eq (vt : VType) (base : Word) (mode : Fin 3) (d i : VReg) : gatherOne vt base mode d i s n
    = loadOne vt d (s.indexAddr base mode i (containerOf vt.ew)) s0 n := by
  rw [gatherOne, onRow_ok hrow, loadOne, loadOne, (OnlyChecked.of_readRow hrow).indexAddr]

/-- A scatter stores the lane's element, as its container holds it, to its indexed address. -/
theorem scatterOne_eq (vt : VType) (base : Word) (mode : Fin 3) (i c : VReg) : scatterOne vt base mode i c s n
    = s0.storeBytes n (containerOf vt.ew) (s.indexAddr base mode i (containerOf vt.ew) n)
      (containerVal vt (s.elem vt.ew c.val n)) false none := by
  have h0 := OnlyChecked.of_readRow hrow
  rw [scatterOne, onRow_ok hrow, h0.indexAddr, h0.elem]

end

variable {vt : VType} {d : VReg} {addr : Nat → Nat} {ls : List Loc} {f : AccFault} {w : Nat} {op : AmoOp} {x k : Nat → Nat}

section
variable {ag : Agent} (hag : s.elemAgent n = ag)
include hag

theorem loadOne_error (h : s.check ag .read (containerOf vt.ew) (addr n) = (.error f, s1)) :
    loadOne vt d addr s n = (.error f, s1) := by
  rw [loadOne, hag, h]

theorem loadOne_ok (h : s.check ag .read (containerOf vt.ew) (addr n) = (.ok ls, s1)) :
    loadOne vt d addr s n = (.ok (), s1.pushLoad n (s1.slotCell d.val n) vt.ew (addr n) false ls) := by
  rw [loadOne, hag, h]

variable {size va v : Nat} {tile : Bool} {o : StoreOrder}

theorem storeBytes_error (h : s.check ag .write size va = (.error f, s1)) :
    s.storeBytes n size va v tile o = (.error f, s1) := by
  rw [State.storeBytes, hag, h]

theorem storeBytes_ok (h : s.check ag .write size va = (.ok ls, s1)) :
    s.storeBytes n size va v tile o = (.ok (), s1.pushParts n va v tile o ls) := by
  rw [State.storeBytes, hag, h]

end

section
variable (hrow : s.readRow n = (.ok (), s0))
include hrow

theorem atomicOne_error (h : s0.check (s.elemAgent n) (.atomic (AmoOp.hostOk op)) (w / 8) (addr n) = (.error f, s1))
    (r : Option VReg) : atomicOne w op addr x k r s n = (.error f, s1) := by
  rw [atomicOne, onRow_ok hrow, (OnlyChecked.of_readRow hrow).elemAgent, h]

variable (h : s0.check (s.elemAgent n) (.atomic (AmoOp.hostOk op)) (w / 8) (addr n) = (.ok ls, s1))
include h

theorem atomicOne_returns : atomicOne w op addr x k (some d) s n
    = (.ok (), s1.pushElem n (s1.slotCell d.val n) w ls (some (op, x n, k n)) none) := by
  rw [atomicOne, onRow_ok hrow, (OnlyChecked.of_readRow hrow).elemAgent, h]

theorem atomicOne_silent :
    atomicOne w op addr x k none s n = (.ok (), s1.pushStore (.amo 0 op (x n) (k n)) n ls none) := by
  rw [atomicOne, onRow_ok hrow, (OnlyChecked.of_readRow hrow).elemAgent, h]

end

end

/-! ### The lanes of an indexed form (R166, R274) -/

section
variable {s s1 : State} {one : State → Nat → Except AccFault Unit × State} {n : Nat}

theorem eachMarked_error {f : AccFault} (h : one s n = (.error f, s1)) (l : List Nat) :
    s.eachMarked one (n :: l) = (some (n, f), (s1.eachMarked one l).2) := by
  rw [State.eachMarked, h]

theorem eachMarked_ok (h : one s n = (.ok (), s1)) (l : List Nat) :
    s.eachMarked one (n :: l) = (s1.setCol 0 n true).eachMarked one l := by
  rw [State.eachMarked, h]

end

/-- The bit of column 0 set in one lane, and no other bit. -/
theorem setCol_edone {s : State} {n : Nat} (h : NoneAway s) (hn : n < s.lanes) :
    OnlyCols s (s.setCol 0 n true) ∧ ∀ j k, j < s.lanes → ((s.setCol 0 n true).colWord j).getLsbD k
      = ((s.colWord j).getLsbD k || (decide (j = n) && decide (k = 0))) := by
  obtain ⟨hcols, hbit⟩ := setCol_spec (.inl h) (by decide : 0 < 64) n true
  refine ⟨hcols, fun j k hj => ?_⟩
  have hlane : s.unitLane j = s.unitLane n ↔ j = n := ⟨Alloc.unitLane_inj _ hj hn, fun h => h ▸ rfl⟩
  rw [hbit]
  by_cases hk : k = 0 <;> by_cases hjn : j = n <;> simp [hk, hjn, hlane]

/-- What an indexed form leaves, its lanes done: complete, with column 0 cleared, or the trap of the lowest faulting lane. -/
def State.markedEnd (s : State) (act : List Nat) : Option (Nat × AccFault) → State
  | none => s.clearEdone.laneEnd act 0
  | some (n, f) => ((s.addFlags 0).laneCycles act).trap (f.trap true (some n))

theorem endMarked_of {x : Option (Nat × AccFault) × State} {r : Option (Nat × AccFault)} {s : State} (hx : x = (r, s))
    (act : List Nat) :
    State.endMarked x act 0 (fun s => .next (s.indexedEnd act)) = .next (s.markedEnd act r) := by
  subst hx
  cases r with
  | none => rfl
  | some p => rfl

/-- Settles O37: each lane by the check of its access, the lanes by the equations of their fold, and each form at the head of
the lane queue by its own equation. -/
theorem indexedForms : Obligations.IndexedForms := by
  refine ⟨fun s base i size n => ⟨rfl, rfl, rfl⟩, ?rowError, ?lane, ?fold, ?mark, ?lanes, ?forms⟩
  case rowError =>
    intro s s0 vt base mode d i c n w f op addr v k r hrow
    exact ⟨onRow_error hrow _, onRow_error hrow _, onRow_error hrow _⟩
  case lane =>
    intro s s0 s1 vt base mode d i c n w ls f op addr v k hrow va parts bytes x read write both one
    have h0 := OnlyChecked.of_readRow hrow
    have hag := h0.elemAgent n
    refine ⟨fun h => ?_, fun h => ?_, fun h => ?_, fun h => ?_, fun h r => ?_, fun h => ?_⟩
    · exact (gatherOne_eq hrow ..).trans (loadOne_error hag h)
    · have h1 := h0.trans (.of_check h)
      refine (gatherOne_eq hrow ..).trans (.trans (loadOne_ok hag h) ?_)
      rw [State.pushLoad_eq, accessParts_plain, h1.laneSeq, h1.laneAddr, h1.slotCell]
    · exact (scatterOne_eq hrow ..).trans (storeBytes_error hag h)
    · have h1 := h0.trans (.of_check h)
      refine (scatterOne_eq hrow ..).trans ((storeBytes_ok hag h).trans ?_)
      rw [State.pushParts_eq, accessParts_plain, h1.laneSeq, h1.laneAddr]
      rfl
    · exact atomicOne_error hrow h r
    · have h1 := h0.trans (.of_check h)
      refine ⟨?_, ?_⟩
      · refine (atomicOne_returns hrow h).trans ?_
        rw [State.pushElem, h1.laneSeq, h1.laneAddr, h1.slotCell]
      · refine (atomicOne_silent hrow h).trans ?_
        rw [State.pushStore, h1.laneSeq, h1.laneAddr]
        rfl
  case fold => exact fun s s1 one n l f => ⟨rfl, fun h => eachMarked_error h l, fun h => eachMarked_ok h l⟩
  case mark => exact fun s n h hn => setCol_edone h hn
  case lanes => exact fun s op mode d i c a act => ⟨rfl, rfl⟩
  case forms =>
    intro s s1 g op mode sc d i c a r en l h act ends
    refine ⟨fun hx => ?_, fun hx => ?_, fun hx => ?_, fun hx => ?_⟩
    · rw [exec_vgather, execVgather, laneRun_of h]
      exact endMarked_of hx act
    · rw [exec_vscatter, execVscatter, laneRun_of h]
      exact endMarked_of hx act
    · rw [exec_vamo_acq_of h rfl]
      exact endMarked_of hx act
    · rw [exec_vred, execVred, laneRun_of h]
      exact endMarked_of hx act

end Sys2Proof.Machine
end

section
/-! PROOFS of 07_streams.md: streams opened, merged and closed (R156, R157, R162, R303). -/

namespace Sys2Proof.Machine

section
variable {s s1 s2 : State} {en : LaneEntry} {l : List LaneEntry} (h : Heads s en l) {z m : ZReg}
include h

theorem exec_zopen_of {a b : SReg} {lev : Fin 6} {hd w : List Word} (hopen : (s.zreg z).isOpen = false)
    (hlev : lev.val = 0 → en.b = 0) (halign : s.alignFault s.laneAgent .read 64 en.a.toNat 64 = none)
    (hhead : s.laneWords en.a 8 = (.ok hd, s1)) (hok : headerOk hd lev.val = true)
    (hrec : s1.laneWords (en.a + 64 + BitVec.ofNat 64 (32 * lev.val)) 4 = (.ok w, s2)) :
    let r : LevelRec := ⟨w.getD 0 0, w.getD 1 0, w.getD 2 0, w.getD 3 0⟩
    r.bad = false → r.misaligned = none →
      exec (.zopen z a lev b) s = .next ((s2.setZ z (openStream en.a lev.val en.b.toNat r)).laneDone 0) := by
  intro r hbad hmis
  have hparent : ¬ (lev.val == 0 && en.b.toNat != 0) = true := by
    intro hp
    obtain ⟨h0, hne⟩ := Bool.and_eq_true_iff.1 hp
    simp [hlev (beq_iff_eq.1 h0)] at hne
  rw [exec_zopen, execZopen, laneRun_of h]
  dsimp only
  rw [opA_of h, opB_of h, if_neg hparent, hopen, if_neg Bool.false_ne_true, halign]
  dsimp only
  rw [hhead]
  dsimp only
  rw [hok, if_neg (by decide), hrec]
  dsimp only
  rw [hbad, if_neg Bool.false_ne_true, hmis]

theorem onOpen_of (hopen : (s.zreg z).isOpen = true) (i : Instr) (k : State → Res) : s.onOpen i z k = k s := by
  rw [State.onOpen, laneRun_of h, hopen]
  rfl

/-- Two open single streams joined (R162). -/
theorem merge_of (hne : z ≠ m) (hz : (s.zreg z).isOpen = true) (hm : (s.zreg m).isOpen = true) (hz0 : (s.zreg z).mode = 0)
    (hm0 : (s.zreg m).mode = 0) (i : Instr) (mode : Nat) :
    s.merge i z m mode = .next (((s.setZ z { s.zreg z with mode := mode, partner := m.val }).setZ m
      { s.zreg m with mode := mode, partner := z.val }).laneDone 0) := by
  rw [State.merge, laneRun_of h]
  exact if_neg (by simp [hne, hz, hm, hz0, hm0])

theorem exec_zclose_of (hopen : (s.zreg z).isOpen = true) :
    exec (.zclose z) s = .next ((if (s.zreg z).mode = 0 then s.setZ z .closed
      else (s.setZ z .closed).setZ (s.zreg z).other .closed).laneDone 0) := by
  rw [exec_zclose, execZclose, onOpen_of h hopen]
  simp only [beq_iff_eq]

end

/-- Settles O42: each instruction by its equation at the head of the lane queue. -/
theorem streamOpenMergeClose : Obligations.StreamOpenMergeClose := by
  intro s s1 s2 z m a b lev hd w en l h
  refine ⟨exec_zopen_of h, fun hne hz hm hz0 hm0 => ?_, exec_zclose_of h⟩
  exact ⟨merge_of h hne hz hm hz0 hm0 (.zisect z m) 1, merge_of h hne hz hm hz0 hm0 (.zunion z m) 2⟩

end Sys2Proof.Machine
end

section
/-! PROOFS of 07_streams.md: the items of streams, skips and ends (R155, R158, R163, R305 to R307), and what is read ahead (R159,
R160). First the instructions at the head of the lane queue, then a dense stream, and at the end the statement. -/

namespace Sys2Proof.Machine

/-! ### Items, skips and ends (R158, R305 to R307) -/

section
variable {s s1 s2 : State} {en : LaneEntry} {l : List LaneEntry} (h : Heads s en l) {z : ZReg}
  (hopen : (s.zreg z).isOpen = true) {p : Pulled} {g : Guard}
include h hopen

theorem exec_zadv_of (hp : s.pull z 1 = (p, s1)) (ht : p.trap = none) :
    exec (.zadv z) s = .next ((s1.goTo z p.a p.b).laneDone 0) := by
  rw [exec_zadv, execZadv, onOpen_of h hopen, hp]
  dsimp only
  rw [ht]

/-- A zld form with an active lane, where no item is malformed: lanes from %vstart on receive the items, and the stream is moved
on over them where the form consumes them. -/
theorem zload_of {deliver : State → List (Nat × Merged) → State × Nat} (hact : s.actives g ≠ [])
    (hp : s.pull z (s.t.l.v.vl - s.t.l.vstart) = (p, s2)) (ht : p.trap = none) (i : Instr) (consume : Bool) :
    let v0 := s.t.l.vstart
    let d := deliver s2 ((((List.range p.items.length).map (v0 + ·)).zip p.items).filter (fun x => (s.actives g).contains x.1))
    s.zload i g z consume deliver = .next (((if consume then d.1.goTo z p.a p.b else d.1).mapQ
      (·.push 2 (BitVec.ofNat 64 (v0 + p.items.length)))).laneEnd (s.actives g) d.2) := by
  rw [State.zload, onOpen_of h hopen]
  dsimp only
  rw [if_neg (by simpa using hact), hp]
  dsimp only
  rw [ht]

/-- A zld form without an active lane pushes %vstart and consumes nothing (R305; log entry 36). -/
theorem zload_none (hact : s.actives g = []) (i : Instr) (consume : Bool)
    (deliver : State → List (Nat × Merged) → State × Nat) :
    s.zload i g z consume deliver = .next ((s.mapQ (·.push 2 (BitVec.ofNat 64 s.t.l.vstart))).laneEnd [] 0) := by
  rw [State.zload, onOpen_of h hopen]
  dsimp only
  rw [hact]
  rfl

/-- zld.m on a stream of a pair delivers presence bits. -/
theorem exec_zldM_of {mr : MReg} (hmode : (s.zreg z).mode ≠ 0) :
    exec (.zldM g mr z) s = s.zload (.zldM g mr z) g z false (fun s xs =>
      ((s.setCols mr.val (xs.map (fun x => (x.1, x.2.pa.isSome)))).setCols (mr.val + 1)
        (xs.map (fun x => (x.1, x.2.pb.isSome))), 0)) := by
  rw [exec_zldM, execZldM, onOpen_of h hopen]
  exact if_neg (by simpa using hmode)

theorem exec_zskip_single {b : SReg} (hskip : s.skipTo z en.b.toNat = (.ok (), s1)) (hmode : (s1.zreg z).mode = 0) :
    exec (.zskip z b) s = .next (s1.laneDone 0) := by
  rw [exec_zskip, execZskip, onOpen_of h hopen, opB_of h]
  dsimp only
  rw [hskip]
  exact if_pos (by simpa using hmode)

theorem exec_zskip_pair {b : SReg} (hskip : s.skipTo z en.b.toNat = (.ok (), s1)) (hmode : (s1.zreg z).mode ≠ 0)
    (hother : s1.skipTo (s1.zreg z).other en.b.toNat = (.ok (), s2)) :
    exec (.zskip z b) s = .next (s2.laneDone 0) := by
  rw [exec_zskip, execZskip, onOpen_of h hopen]
  dsimp only
  rw [opB_of h, hskip]
  dsimp only
  rw [if_neg (by simpa using hmode), hother]

theorem exec_bzEnd_of {o : BitVec 24} {x : Bool} (hend : s.testEnd z = (.ok x, s1)) :
    exec (.bzEnd z o) s = .next ((s1.mapQ (·.pushBo x)).laneDone 0) := by
  rw [exec_bzEnd, execBzEnd, onOpen_of h hopen, hend]

end

/-! ### A dense stream (R155, R158, R163) -/

/-- The position of coordinate 0 of a fibre of a dense stream (R155). -/
def Stream.base (r : Stream) : Nat := r.parent * r.lrec.size.toNat

/-- Where a skip to a coordinate takes a dense stream: within the fibre, and never back (R163). -/
def Stream.skipPos (r : Stream) (t : Nat) : Nat := min r.endPos (max r.pos (r.base + t))

/-- The stream is dense and single, its bounds are known and items of it are left (R155, R158). -/
structure Stream.DenseLeft (r : Stream) : Prop where
  single : r.mode = 0
  known : r.bounds = true
  dense : r.lrec.kind = 0
  left : r.pos < r.endPos

theorem zreg_setZ (s : State) (k : ZReg) (r : Stream) : (s.setZ k r).zreg k = r :=
  Vector.getElem_set_self k.isLt

theorem setZ_zreg (s : State) (k : ZReg) : s.setZ k (s.zreg k) = s := by
  have hset : s.t.l.z.set k.val (s.zreg k) = s.t.l.z := Vector.set_getElem_self k.isLt
  rw [State.setZ, State.mapL, hset]

theorem Stream.goTo_ended (r : Stream) (c : Cur) :
    (r.goTo c).ended = true ↔ r.ended = true ∨ (r.bounds = true ∧ r.endPos ≤ c.pos) := by
  simp [Stream.goTo]

/-- What the end of a lane instruction that moved one stream leaves, where nothing is traced. -/
theorem laneDone_setZ {s : State} (h : NoTrace s) (k : ZReg) (r : Stream) (fl : Nat) :
    let t := (s.setZ k r).laneDone fl
    t.zreg k = r ∧ t.mem = s.mem ∧ t.t.c = s.t.c := by
  obtain ⟨d, g, hp, -⟩ := State.lanePop_noTrace (s := (s.setZ k r).addFlags fl) h
  dsimp only
  rw [State.laneDone, hp]
  exact ⟨zreg_setZ s k r, rfl, rfl⟩

section
variable {s : State} {z : ZReg} {r : Stream} (hr : s.zreg z = r) (hd : r.DenseLeft)
include hr hd

theorem needBounds_dense : s.needBounds z = (.ok (), s) := by
  rw [State.needBounds, hr, if_pos hd.known]

theorem pairBounds_dense : s.pairBounds z = (.ok (), s) := by
  simp only [State.pairBounds, needBounds_dense hr hd, hr, hd.single]
  rfl

/-- The item at the position of a dense stream. -/
theorem peek_dense (h48 : r.endPos ≤ 2 ^ 48) : s.peek z r.cur = (.ok (some (r.pos, r.pos - r.base)), s) := by
  have hin : ¬ r.endPos ≤ r.pos := Nat.not_le.2 hd.left
  have hpos : ¬ 2 ^ 48 ≤ r.pos := Nat.not_le.2 (hd.left.trans_le h48)
  simp only [State.peek, Stream.cur, hr, hd.dense, if_neg hin, if_neg hpos]
  rfl

/-- One item of a dense stream that is single. -/
theorem pull_dense (h48 : r.endPos ≤ 2 ^ 48) :
    s.pull z 1 = (⟨[⟨r.pos - r.base, some r.pos, none⟩], Cur.take (r.pos, r.pos - r.base), (s.zreg r.other).cur, none⟩,
      s) := by
  rw [State.pull]
  dsimp only
  rw [if_neg (by decide), pairBounds_dense hr hd]
  dsimp only
  rw [State.pullGo, State.nextItem]
  dsimp only
  rw [hr, hd.single, peek_dense hr hd h48]
  rfl

theorem skipTo_dense {t : Nat} (ht : r.lv = true → r.coord < t) :
    ∃ r', s.skipTo z t = (.ok (), s.setZ z r') ∧ r'.pos = r.skipPos t ∧ r'.mode = r.mode := by
  have hstep : s.skipTo z t = (.ok (), if r.skipPos t == r.pos then s
      else s.setZ z (r.goTo ⟨r.skipPos t, r.skipPos t - 1 - r.base, true, true⟩)) := by
    rw [State.skipTo]
    dsimp only
    rw [hr, if_neg (by simpa using ht), needBounds_dense hr hd]
    dsimp only
    rw [hr, if_neg (Nat.not_le.2 hd.left), hd.dense]
    rfl
  by_cases hp : r.skipPos t = r.pos
  · refine ⟨r, ?_, hp.symm, rfl⟩
    rw [hstep, if_pos (beq_iff_eq.2 hp), ← hr, setZ_zreg]
  · exact ⟨_, hstep.trans (congrArg _ (if_neg (by simpa using hp))), rfl, rfl⟩

variable {en : LaneEntry} {l : List LaneEntry} (h : Heads s en l) (hno : NoTrace s) (hopen : r.isOpen = true)
include h hno hopen

theorem exec_zadv_dense (h48 : r.endPos ≤ 2 ^ 48) : ∃ t, exec (.zadv z) s = .next t
    ∧ t.zreg z = r.goTo (Cur.take (r.pos, r.pos - r.base)) ∧ t.mem = s.mem ∧ t.t.c = s.t.c := by
  have hgo : ∀ a b, s.goTo z a b = s.setZ z (r.goTo a) := fun a b => by
    rw [State.goTo, hr]
    exact if_pos (beq_iff_eq.2 hd.single)
  refine ⟨_, exec_zadv_of h (hr ▸ hopen) (pull_dense hr hd h48) rfl, ?_⟩
  rw [hgo]
  exact laneDone_setZ hno z _ 0

theorem exec_zskip_dense (b : SReg) (ht : r.lv = true → r.coord < en.b.toNat) : ∃ t, exec (.zskip z b) s = .next t
    ∧ (t.zreg z).pos = r.skipPos en.b.toNat ∧ t.mem = s.mem ∧ t.t.c = s.t.c := by
  obtain ⟨r', hskip, hpos, hmode⟩ := skipTo_dense hr hd ht
  obtain ⟨hz, hmem, hc⟩ := laneDone_setZ hno z r' 0
  refine ⟨_, exec_zskip_single h (hr ▸ hopen) hskip ?_, by rw [hz, hpos], hmem, hc⟩
  rw [zreg_setZ, hmode, hd.single]

end

/-! ### Reading ahead (R159, R160) -/

theorem zreg_free (s : State) (z : ZReg) : s.free.2.zreg z = s.zreg z := rfl

section
variable {s s1 : State} {z : ZReg} {va : Word} {n : Nat} (hn : (s.zreg z).nextAhead s.free.1 = some (va, n))
include hn

theorem exec_streamFetchAhead_value {v : Nat} (hl : s.free.2.load s.free.2.laneAgent n va.toNat = (.ok v, s1)) :
    exec (.streamFetchAhead z) s = .next (s1.keepAhead z ⟨va, n, v, none⟩) := by
  rw [exec_streamFetchAhead, execStreamFetchAhead]
  dsimp only
  rw [zreg_free, hn]
  dsimp only
  rw [hl]

theorem exec_streamFetchAhead_fault {f : AccFault} (hl : s.free.2.load s.free.2.laneAgent n va.toNat = (.error f, s1))
    (hf : f.detail = 0) : exec (.streamFetchAhead z) s = .next (s1.keepAhead z ⟨va, n, 0, some f.cause⟩) := by
  rw [exec_streamFetchAhead, execStreamFetchAhead]
  dsimp only
  rw [zreg_free, hn]
  dsimp only
  rw [hl]
  dsimp only
  rw [hf]
  rfl

end

/-- Settles O43: the instructions by their equations at the head of the lane queue, a dense stream by its one item and its one
step, and a read ahead by what it finds. -/
theorem streamItemsAndReadAhead : Obligations.StreamItemsAndReadAhead := by
  refine ⟨?instructions, ?dense, ?ahead⟩
  case instructions =>
    intro s s1 s2 z g d mr b o p q x en l h hopen
    refine ⟨exec_zadv_of h hopen, ?items, ?noLane, fun hs => ⟨exec_zskip_single h hopen hs, exec_zskip_pair h hopen hs⟩,
      exec_bzEnd_of h hopen⟩
    case items =>
      intro act v0 hact hq ht dest ends c a
      refine ⟨?_, ?_, ?_, ?_, fun hm => ?_⟩
      · rw [exec_zldC, execZldC, zload_of h hopen hact hq ht, if_pos rfl]
      · rw [exec_zldP, execZldP, zload_of h hopen hact hq ht, if_pos rfl]
      · rw [exec_zldCK, execZldCK, zload_of h hopen hact hq ht, if_neg Bool.false_ne_true]
      · rw [exec_zldPK, execZldPK, zload_of h hopen hact hq ht, if_neg Bool.false_ne_true]
      · rw [exec_zldM_of h hopen hm, zload_of h hopen hact hq ht, if_neg Bool.false_ne_true]
    case noLane =>
      intro hact u
      refine ⟨fun i hi => ?_, fun hm => (exec_zldM_of h hopen hm).trans (zload_none h hopen hact ..)⟩
      simp only [List.mem_cons, List.not_mem_nil, or_false] at hi
      rcases hi with rfl | rfl | rfl | rfl
      · exact (exec_zldC ..).trans (zload_none h hopen hact ..)
      · exact (exec_zldP ..).trans (zload_none h hopen hact ..)
      · exact (exec_zldCK ..).trans (zload_none h hopen hact ..)
      · exact (exec_zldPK ..).trans (zload_none h hopen hact ..)
  case dense =>
    intro s z b en l h hno r base hopen hmode hbounds hkind hlt h48 _
    have hd : r.DenseLeft := ⟨hmode, hbounds, hkind, hlt⟩
    refine ⟨?_, exec_zskip_dense rfl hd h hno hopen b⟩
    obtain ⟨t, ht, hz, hmem, hc⟩ := exec_zadv_dense rfl hd h hno hopen h48
    refine ⟨t, ht, ?_⟩
    rw [hz]
    refine ⟨rfl, rfl, rfl, ?_, hmem, hc⟩
    rw [Stream.goTo_ended]
    exact or_congr_right ⟨fun hle => Nat.le_antisymm hlt hle.2, fun he => ⟨hbounds, he.ge⟩⟩
  case ahead =>
    intro s s1 z va n v f hn u kept
    exact ⟨exec_streamFetchAhead_value hn, exec_streamFetchAhead_fault hn⟩

end Sys2Proof.Machine
end

section
/-! PROOFS of 08_encoding.md: the word of a well-formed instruction decodes to it (R169 to R183). First the operands that
the fields of a word give back, then what a parser answers that reads them, then the words that hold several fields in f,
then pairs, and at the end every instruction by the layout of its word. -/

namespace Sys2Proof

/-! ### Bits of operands -/

theorem toNat_beq_one (b : Bool) : (b.toNat == 1) = b := by cases b <;> rfl

theorem SQSrc.os_lt (b : SQSrc) : b.os < 4 := by cases b <;> simp [SQSrc.os]
theorem scaleBits_eq (sc : Option SReg) : scaleBits sc = 0 ∨ scaleBits sc = 2 ^ 22 := by cases sc <;> simp [scaleBits]

theorem Src2.bits_lt (s : Src2) : s.bits < 2 ^ 24 := by
  cases s with
  | reg b => simp [Src2.bits]
  | imm v => have := v.isLt; simp only [Src2.bits]; omega

theorem ShiftSrc.bits_lt (n : ShiftSrc) : n.bits < 2 ^ 24 := by
  cases n with
  | imm k => have := k.isLt; simp only [ShiftSrc.bits]; omega
  | b s => have := s.os_lt; simp only [ShiftSrc.bits]; omega

/-- The bits of a slide distance: the selector of R172, whether it is an immediate, and the immediate. -/
theorem SlideSrc.bits_eq (k : SlideSrc) :
    ∃ p q x, k.bits = p * 2 ^ 22 + q * 2 ^ 20 + x ∧ p < 4 ∧ q < 2 ∧ x < 2 ^ 19 := by
  cases k with
  | imm x => exact ⟨0, 1, x.toNat, by simp [SlideSrc.bits], by decide, by decide, x.isLt⟩
  | scalar s => exact ⟨1, 0, 0, rfl, by decide, by decide, by decide⟩
  | q0 => exact ⟨2, 0, 0, by decide, by decide, by decide, by decide⟩
  | q1 => exact ⟨3, 0, 0, by decide, by decide, by decide, by decide⟩

/-! ### Operands of a word: each is read back from its field and its bits of f, whatever the other fields hold -/

namespace Raw

section
variable {op : Fin 256} {d a b c : Fin 64} {g : Fin 32} {gi x : Bool} {k n : Nat}

theorem src2_mk {s : Src2} : Raw.src2 ⟨op, d, a, s.field, c, g, gi, x, BitVec.ofNat 24 s.bits⟩ = s :=
  src2_of _ s rfl (f24 _ s.bits_lt)

theorem bSrc_mk {s : BSrc} : Raw.bSrc ⟨op, d, a, s.field, c, g, gi, x, BitVec.ofNat 24 (s.os * 2 ^ 22)⟩ = some s := by
  have hs := s.os_lt
  exact bSrc_of _ s 0 rfl (by rw [f24 _ (by omega), Nat.add_zero]) (by decide)

theorem bSrc_mk_add {s : BSrc} (hn : n < 2 ^ 22) :
    Raw.bSrc ⟨op, d, a, s.field, c, g, gi, x, BitVec.ofNat 24 (s.os * 2 ^ 22 + n)⟩ = some s := by
  have hs := s.os_lt
  exact bSrc_of _ s n rfl (f24 _ (by omega)) hn

theorem sqSrc_mk {s : SQSrc} (hn : n < 2 ^ 22) :
    Raw.sqSrc ⟨op, d, a, s.field, c, g, gi, x, BitVec.ofNat 24 (s.os * 2 ^ 22 + n)⟩ = some s := by
  have hs := s.os_lt
  exact sqSrc_of _ s n rfl (f24 _ (by omega)) hn

theorem shiftSrc_mk {s : ShiftSrc} :
    Raw.shiftSrc ⟨op, d, a, s.field, c, g, gi, x, BitVec.ofNat 24 s.bits⟩ = some s :=
  shiftSrc_of _ s rfl (f24 _ s.bits_lt)

theorem redDst_mk {s : RedDst} :
    Raw.redDst ⟨op, s.field, a, b, c, g, gi, x, BitVec.ofNat 24 (s.inn * 2 ^ 21)⟩ = some s := by
  have hs := s.inn_lt
  exact redDst_of _ s 0 rfl (by rw [f24 _ (by omega)]; omega)

theorem redDst_mk_add {s : RedDst} (hk : k < 4) :
    Raw.redDst ⟨op, s.field, a, b, c, g, gi, x, BitVec.ofNat 24 (k * 2 ^ 22 + s.inn * 2 ^ 21)⟩ = some s := by
  have hs := s.inn_lt
  exact redDst_of _ s k rfl (f24 _ (by omega))

theorem fn_mk (hk : k < 4) (hn : n < 2 ^ 21) :
    Raw.fn ⟨op, d, a, b, c, g, gi, x, BitVec.ofNat 24 (k * 2 ^ 22 + n)⟩ = n := by
  rw [Raw.fn, f24 _ (by omega)]; omega

theorem cond_mk {s : BSrc} {cc : Cond} :
    Cond.ofCode (Raw.fn ⟨op, d, a, b, c, g, gi, x, BitVec.ofNat 24 (s.os * 2 ^ 22 + cc.code)⟩) = some cc := by
  rw [fn_mk s.os_lt (cc.code_lt.trans (by decide)), Cond.ofCode_code]

theorem inn_mk {i : Bool} (hk : k < 4) :
    Raw.inn ⟨op, d, a, b, c, g, gi, x, BitVec.ofNat 24 (k * 2 ^ 22 + i.toNat * 2 ^ 21)⟩ = i := by
  have hi := i.toNat_lt
  have hbit : (k * 2 ^ 22 + i.toNat * 2 ^ 21) / 2 ^ 21 % 2 = i.toNat := by omega
  rw [Raw.inn, f24 _ (by omega), hbit, toNat_beq_one]

theorem inn_mk_alone {i : Bool} : Raw.inn ⟨op, d, a, b, c, g, gi, x, BitVec.ofNat 24 (i.toNat * 2 ^ 21)⟩ = i := by
  rw [← Nat.zero_add (i.toNat * 2 ^ 21), ← Nat.zero_mul (2 ^ 22)]
  exact inn_mk (by decide)

theorem low_mk {w : Nat} {y : BitVec w} (hw : w ≤ 24) :
    Raw.low ⟨op, d, a, b, c, g, gi, x, BitVec.ofNat 24 y.toNat⟩ w = y := by
  have hy : y.toNat < 2 ^ 24 := y.isLt.trans_le (Nat.pow_le_pow_right (by decide) hw)
  rw [Raw.low, f24 _ hy, BitVec.ofNat_toNat, BitVec.setWidth_eq]

theorem low_mk_add {w : Nat} {y : BitVec w} (hn : n * 2 ^ w + y.toNat < 2 ^ 24) :
    Raw.low ⟨op, d, a, b, c, g, gi, x, BitVec.ofNat 24 (n * 2 ^ w + y.toNat)⟩ w = y := by
  apply BitVec.eq_of_toNat_eq
  rw [Raw.low, f24 _ hn, BitVec.toNat_ofNat, Nat.mul_add_mod_self_right, Nat.mod_eq_of_lt y.isLt]

/-- A scale base is read back, whatever stands in bit 23 of f (R264). -/
theorem scaleBase_mk {s : Option SReg} {e : BitVec 22} (hk : k < 2) (hn : n = k * 2 ^ 23 + scaleBits s + e.toNat) :
    Raw.scaleBase ⟨op, d, a, b, scaleField s, g, gi, x, BitVec.ofNat 24 n⟩ = s := by
  have he := e.isLt
  have hs := scaleBits_eq s
  have hf := f24 n (by omega)
  cases s with
  | none =>
    have hbit : n / 2 ^ 22 % 2 = 0 := by rw [scaleBits] at hn; omega
    rw [Raw.scaleBase, hf, hbit]; rfl
  | some s =>
    have hbit : n / 2 ^ 22 % 2 = 1 := by rw [scaleBits] at hn; omega
    rw [Raw.scaleBase, hf, hbit]; rfl

/-- The displacement beside a scale base is read back. -/
theorem low_mk_scale {s : Option SReg} {e : BitVec 22} (hk : k < 2) (hn : n = k * 2 ^ 23 + scaleBits s + e.toNat) :
    Raw.low ⟨op, d, a, b, c, g, gi, x, BitVec.ofNat 24 n⟩ 22 = e := by
  have he := e.isLt
  have hs := scaleBits_eq s
  apply BitVec.eq_of_toNat_eq
  rw [Raw.low, f24 n (by omega), BitVec.toNat_ofNat]
  omega

theorem fin_mk {m : Nat} [NeZero m] {y : Fin m} (hm : m ≤ 2 ^ 21) :
    Fin.ofNat m (Raw.fn ⟨op, d, a, b, c, g, gi, x, BitVec.ofNat 24 y.val⟩) = y := by
  have hy := y.isLt
  rw [Raw.fn, f24 _ (by omega), Nat.mod_eq_of_lt (by omega)]
  exact Fin.ofNat_val_eq_self y

end
end Raw

/-! ### Parsers that read several operands

What a parser answers is known once each operand it reads is known. -/

section
variable {α₁ α₂ α₃ α₄ α₅ β : Type} {p : Option β} {x₁ : Option α₁} {x₂ : Option α₂} {x₃ : Option α₃}
  {x₄ : Option α₄} {x₅ : Option α₅} {y₁ : α₁} {y₂ : α₂} {y₃ : α₃} {y₄ : α₄} {y₅ : α₅} (h₁ : x₁ = some y₁)
  (h₂ : x₂ = some y₂) (h₃ : x₃ = some y₃) (h₄ : x₄ = some y₄) (h₅ : x₅ = some y₅)
include h₁

theorem reads₁ {K : α₁ → β} (hp : p = do pure (K (← x₁))) : p = some (K y₁) := by
  rw [hp, h₁]; rfl
include h₂
theorem reads₂ {K : α₁ → α₂ → β} (hp : p = do pure (K (← x₁) (← x₂))) : p = some (K y₁ y₂) := by
  rw [hp, h₁, h₂]; rfl
include h₃
theorem reads₃ {K : α₁ → α₂ → α₃ → β} (hp : p = do pure (K (← x₁) (← x₂) (← x₃))) : p = some (K y₁ y₂ y₃) := by
  rw [hp, h₁, h₂, h₃]; rfl
include h₄
theorem reads₄ {K : α₁ → α₂ → α₃ → α₄ → β} (hp : p = do pure (K (← x₁) (← x₂) (← x₃) (← x₄))) :
    p = some (K y₁ y₂ y₃ y₄) := by
  rw [hp, h₁, h₂, h₃, h₄]; rfl
include h₅
theorem reads₅ {K : α₁ → α₂ → α₃ → α₄ → α₅ → β} (hp : p = do pure (K (← x₁) (← x₂) (← x₃) (← x₄) (← x₅))) :
    p = some (K y₁ y₂ y₃ y₄ y₅) := by
  rw [hp, h₁, h₂, h₃, h₄, h₅]; rfl
end

/-! ### Decoding -/

/-- A word that is listed and read as the well-formed i decodes to i. -/
theorem decode_encode_of_parseWord {i : Instr} (hwf : i.wf = true) (hl : listedWord (encode i) = true)
    (hp : parseWord (encode i) = some i) : decode (encode i) = .ok i := by
  simp [decode, hl, hp, hwf]

theorem encode_of_encodeRaw {i : Instr} {r : Raw} (h : encodeRaw i = some r) : encode i = r.pack := by
  cases i with
  | pair => cases h
  | _ => simp only [encode, h]

/-- A word of the single form whose fields are read as i decodes to i. -/
theorem decode_of_fields {i : Instr} {r : Raw} (hwf : i.wf = true) (he : encodeRaw i = some r)
    (hop : listedOp r.op.val = true) (hp : parseSingle r = some i) : decode (encode i) = .ok i := by
  obtain ⟨hop55, hop63⟩ := r.pack_op
  have htop : ¬(r.pack.toNat / 2 ^ 63 == 1) = true := by
    have := r.op.isLt
    rw [hop63, beq_iff_eq]; omega
  have hw := encode_of_encodeRaw he
  refine decode_encode_of_parseWord hwf ?_ ?_
  · rw [hw, listedWord, if_neg htop, hop55, hop]
  · rw [hw, parseWord, if_neg htop, Raw.unpack_pack, hp]

/-! ### Words whose bits f hold several fields -/

section
variable {g : Guard} {m : GuardX} {d a b c : SReg} {v u w : VReg} {op : AmoOp} {mode : Fin 3} {ord : Ordering4}
  {sc : Scope}

theorem parse_amo {dbl : Bool} :
    parseSingle (raw 0x34 d a b c (op.code * 64 + dbl.toNat * 32 + ord.code * 8 + sc.code))
      = some (.amo op dbl ord sc d a b c) := by
  have h1 := op.code_lt; have h2 := dbl.toNat_lt; have h3 := ord.code_lt; have h4 := sc.code_lt
  generalize hn : op.code * 64 + dbl.toNat * 32 + ord.code * 8 + sc.code = n
  have hop : n / 64 % 16 = op.code := by omega
  have hdbl : n / 32 % 2 = dbl.toNat := by omega
  have hord : n / 8 % 4 = ord.code := by omega
  have hsc : n % 8 = sc.code := by omega
  have hf : n % 16777216 = n := by omega
  simp [parseSingle, parseControl2, raw, hf, hop, hdbl, hord, hsc, AmoOp.ofCode_code, Ordering4.ofCode_code,
    Scope.ofCode_code]

theorem parse_strip {z0 z1 z2 z3 : StripSz} {o : BitVec 12} :
    parseSingle (raw 0x3B d a b 0
        (z3.code * 2 ^ 21 + z2.code * 2 ^ 18 + z1.code * 2 ^ 15 + z0.code * 2 ^ 12 + o.toNat))
      = some (.strip d a b z0 z1 z2 z3 o) := by
  have h0 := z0.code_lt; have h1 := z1.code_lt; have h2 := z2.code_lt; have h3 := z3.code_lt; have ho := o.isLt
  generalize hn : z3.code * 2 ^ 21 + z2.code * 2 ^ 18 + z1.code * 2 ^ 15 + z0.code * 2 ^ 12 + o.toNat = n
  have hz0 : n / 4096 % 8 = z0.code := by omega
  have hz1 : n / 32768 % 8 = z1.code := by omega
  have hz2 : n / 262144 % 8 = z2.code := by omega
  have hz3 : n / 2097152 = z3.code := by omega
  have hoff : BitVec.ofNat 12 n = o := BitVec.eq_of_toNat_eq (by rw [BitVec.toNat_ofNat]; omega)
  have hf : n % 16777216 = n := by omega
  simp [parseSingle, parseControl2, raw, Raw.low, hf, hz0, hz1, hz2, hz3, hoff, StripSz.ofCode_code]

theorem parse_nest {k : Fin 16} {dims : Fin 8} :
    parseSingle (raw 0x3C 0 a 0 0 (dims.val * 16 + k.val)) = some (.nest k dims a) := by
  have hk := k.isLt; have hd := dims.isLt
  have hk' : Fin.ofNat 16 (BitVec.ofNat 24 (dims.val * 16 + k.val)).toNat = k := by
    rw [f24 _ (by omega)]; exact Fin.ext (by simp only [Fin.ofNat]; omega)
  have hd' : Fin.ofNat 8 ((BitVec.ofNat 24 (dims.val * 16 + k.val)).toNat / 16) = dims := by
    rw [f24 _ (by omega)]; exact Fin.ext (by simp only [Fin.ofNat]; omega)
  exact congrArg₂ (fun k dims => some (Instr.nest k dims a)) hk' hd'

theorem parse_slide {K : Guard → Bool → Bool → VReg → VReg → SlideSrc → Instr} {o : Fin 256} {inn rot : Bool}
    {k : SlideSrc}
    (hp : let r := rawG g o (v6 v) (v6 u) k.field 0 (k.bits + inn.toNat * 2 ^ 21 + rot.toNat * 2 ^ 19)
      parseSingle r = do pure (K r.guard r.inn (r.fn / 2 ^ 19 % 2 == 1) (← r.vd) (← r.va) (← r.slideSrc))) :
    parseSingle (rawG g o (v6 v) (v6 u) k.field 0 (k.bits + inn.toNat * 2 ^ 21 + rot.toNat * 2 ^ 19))
      = some (K g inn rot v u k) := by
  have hi := inn.toNat_lt; have hr := rot.toNat_lt
  obtain ⟨p, q, y, hbits, hp4, hq, hy⟩ := k.bits_eq
  generalize hn : k.bits + inn.toNat * 2 ^ 21 + rot.toNat * 2 ^ 19 = n at hp ⊢
  have hf := f24 n (by omega)
  have hinn : Raw.inn (rawG g o (v6 v) (v6 u) k.field 0 n) = inn := by
    have hbit : n / 2 ^ 21 % 2 = inn.toNat := by omega
    rw [Raw.inn, rawG, hf, hbit, toNat_beq_one]
  have hrot : (Raw.fn (rawG g o (v6 v) (v6 u) k.field 0 n) / 2 ^ 19 % 2 == 1) = rot := by
    have hbit : n % 2 ^ 21 / 2 ^ 19 % 2 = rot.toNat := by omega
    rw [Raw.fn, rawG, hf, hbit, toNat_beq_one]
  have hslide := slideSrc_of (rawG g o (v6 v) (v6 u) k.field 0 n) k (inn.toNat * 2 + rot.toNat) rfl
    (by rw [rawG, hf]; omega)
  exact reads₅ (congrArg some hinn) (congrArg some hrot) (asFin_v6 v) (asFin_v6 u) hslide hp

/-- A move from a vector group has it in field a. -/
theorem parse_vmov_vec : parseSingle (rawG g 0x5B (v6 v) (v6 u) 0 0 0) = some (.vmov g v (.vec u)) := by
  have hos : ((rawG g 0x5B (v6 v) (v6 u) 0 0 0).os == 0) = true := by simp [Raw.os, rawG]
  exact reads₂ (K := fun v u => Instr.vmov g v (.vec u)) (asFin_v6 v) (asFin_v6 u) (if_pos hos)

theorem parse_vmov {s : BSrc} {n : Nat} (h : s.os ≠ 0) (hn : n = s.os * 2 ^ 22) :
    parseSingle (rawG g 0x5B (v6 v) 0 s.field 0 n) = some (.vmov g v s) := by
  have hs := s.os_lt
  have hb : (rawG g 0x5B (v6 v) 0 s.field 0 n).bSrc = some s := hn ▸ Raw.bSrc_mk
  have hos : ¬((rawG g 0x5B (v6 v) 0 s.field 0 n).os == 0) = true := by
    rw [Raw.os, rawG, f24 _ (by omega), beq_iff_eq]; omega
  exact reads₂ (asFin_v6 v) hb (if_neg hos)

theorem parse_vcvt {t : BitVec 20} : parseSingle (rawX m 0x88 (v6 v) (v6 u) 0 t.toNat) = some (.vcvt m v u t) := by
  have ht := t.isLt
  have hlg : ¬(Raw.fn (rawX m 0x88 (v6 v) (v6 u) 0 t.toNat) / 2 ^ 20 == 1) = true := by
    rw [Raw.fn, rawX, f24 _ (by omega), beq_iff_eq]; omega
  exact reads₄ (guardX_rawX ..) (asFin_v6 v) (asFin_v6 u) (congrArg some (Raw.low_mk (by decide))) (if_neg hlg)

theorem parse_vcvtLg {t : BitVec 20} :
    parseSingle (rawX m 0x88 (v6 v) (v6 u) 0 (2 ^ 20 + t.toNat)) = some (.vcvtLg m v u t) := by
  have ht := t.isLt
  have hlg : (Raw.fn (rawX m 0x88 (v6 v) (v6 u) 0 (2 ^ 20 + t.toNat)) / 2 ^ 20 == 1) = true := by
    rw [Raw.fn, rawX, f24 _ (by omega), beq_iff_eq]; omega
  have hlow : Raw.low (rawX m 0x88 (v6 v) (v6 u) 0 (2 ^ 20 + t.toNat)) 20 = t := by
    rw [← Nat.one_mul (2 ^ 20)]
    exact Raw.low_mk_add (by omega)
  exact reads₄ (guardX_rawX ..) (asFin_v6 v) (asFin_v6 u) (congrArg some hlow) (if_pos hlg)

theorem parse_vst {s : Option SReg} {e : BitVec 22} :
    parseSingle (rawG g 0xA1 0 a (v6 v) (scaleField s) (scaleBits s + e.toNat)) = some (.vst g a v s e) := by
  have he := e.isLt; have hs := scaleBits_eq s
  have hn : scaleBits s + e.toNat = 0 * 2 ^ 23 + scaleBits s + e.toNat := by omega
  have hbound : ¬((rawG g 0xA1 0 a (v6 v) (scaleField s) (scaleBits s + e.toNat)).f.toNat / 2 ^ 23 == 1) = true := by
    rw [rawG, f24 _ (by omega), beq_iff_eq]; omega
  exact reads₃ (asFin_v6 v) (congrArg some (Raw.scaleBase_mk (by decide) hn))
    (congrArg some (Raw.low_mk_scale (by decide) hn)) (if_neg hbound)

theorem parse_vstFree {s : Option SReg} {e : BitVec 22} :
    parseSingle (rawG g 0xA1 0 a (v6 v) (scaleField s) (2 ^ 23 + scaleBits s + e.toNat)) = some (.vstFree g a v s e) := by
  have he := e.isLt; have hs := scaleBits_eq s
  have hfree : ((rawG g 0xA1 0 a (v6 v) (scaleField s) (2 ^ 23 + scaleBits s + e.toNat)).f.toNat / 2 ^ 23 == 1) = true := by
    rw [rawG, f24 _ (by omega), beq_iff_eq]; omega
  have hn : 2 ^ 23 + scaleBits s + e.toNat = 1 * 2 ^ 23 + scaleBits s + e.toNat := by omega
  exact reads₃ (asFin_v6 v) (congrArg some (Raw.scaleBase_mk (by decide) hn))
    (congrArg some (Raw.low_mk_scale (by decide) hn)) (if_pos hfree)

theorem parse_vsts {free : Bool} {e : BitVec 22} :
    parseSingle (rawG g 0xA3 0 a b (v6 v) (free.toNat * 2 ^ 23 + e.toNat)) = some (.vsts g free a b v e) := by
  have he := e.isLt; have hs := free.toNat_lt
  have hf := f24 (free.toNat * 2 ^ 23 + e.toNat) (by omega)
  have hfree : ((rawG g 0xA3 0 a b (v6 v) (free.toNat * 2 ^ 23 + e.toNat)).f.toNat / 2 ^ 23 == 1) = free := by
    have hbit : (free.toNat * 2 ^ 23 + e.toNat) / 2 ^ 23 = free.toNat := by omega
    rw [rawG, hf, hbit, toNat_beq_one]
  have hlow : Raw.low (rawG g 0xA3 0 a b (v6 v) (free.toNat * 2 ^ 23 + e.toNat)) 22 = e := by
    apply BitVec.eq_of_toNat_eq
    rw [Raw.low, rawG, hf, BitVec.toNat_ofNat]; omega
  exact reads₃ (K := fun free v e => Instr.vsts g free a b v e) (congrArg some hfree) (asFin_v6 v) (congrArg some hlow) rfl

/-- The two fields of a tile access (R264). -/
theorem tile_fields {k : Fin 32} {e : BitVec 18} :
    some (Fin.ofNat 32 (BitVec.ofNat 24 (e.toNat * 64 + k.val)).toNat) = some k
    ∧ some (BitVec.ofNat 18 ((BitVec.ofNat 24 (e.toNat * 64 + k.val)).toNat / 64)) = some e := by
  have he := e.isLt; have hk := k.isLt
  rw [f24 _ (by omega)]
  refine ⟨congrArg some (Fin.ext ?_), congrArg some (BitVec.eq_of_toNat_eq ?_)⟩
  · simp only [Fin.ofNat]; omega
  · rw [BitVec.toNat_ofNat]; omega

/-- The mode of an indexed access (R264). -/
theorem mode_field : asFin 3 ((BitVec.ofNat 24 (mode.val * 256)).toNat / 256) = some mode := by
  have hm := mode.isLt
  rw [f24 _ (by omega), Nat.mul_div_cancel _ (by decide), asFin_val]

/-- The level of an opened stream (R302). -/
theorem level_field {lev : Fin 6} : asFin 6 (BitVec.ofNat 24 lev.val).toNat = some lev := by
  have hl := lev.isLt
  rw [f24 _ (by omega), asFin_val]

/-- The loads of streams read the stream register before the vector group. -/
theorem parse_zld {K : VReg → ZReg → Instr} {z : ZReg} {n : Nat}
    (hp : parseSingle (rawG g 0xD2 (v6 v) (t6 z) 0 0 n) = (do
      let z ← asFin 8 (t6 z).val
      let v ← asFin 32 (v6 v).val
      pure (K v z))) :
    parseSingle (rawG g 0xD2 (v6 v) (t6 z) 0 0 n) = some (K v z) :=
  reads₂ (K := fun z v => K v z) (asFin_t6 z) (asFin_v6 v) hp

theorem parse_vamo : parseSingle (rawG g 0xA8 (v6 v) a (v6 u) (v6 w)
      (op.code * 2 ^ 10 + mode.val * 256 + ord.code * 8 + sc.code)) = some (.vamo g op mode ord sc v a u w) := by
  have h1 := op.code_lt; have h2 := mode.isLt; have h3 := ord.code_lt; have h4 := sc.code_lt
  generalize hn : op.code * 2 ^ 10 + mode.val * 256 + ord.code * 8 + sc.code = n
  have hop : n / 1024 = op.code := by omega
  have hmode : n / 256 % 4 = mode.val := by omega
  have hord : n / 8 % 4 = ord.code := by omega
  have hsc : n % 8 = sc.code := by omega
  have hf : n % 16777216 = n := by omega
  simp [parseSingle, parseMemory, rawG, Raw.guard, Raw.vd, Raw.vb, Raw.vc, asFin_v6, asFin_val, hf, hop, hmode, hord, hsc,
    AmoOp.ofCode_code, Ordering4.ofCode_code, Scope.ofCode_code]

theorem parse_vred {rel : Bool} : parseSingle (rawG g 0xA9 0 a (v6 u) (v6 w)
      (op.code * 2 ^ 10 + mode.val * 256 + rel.toNat * 16 + sc.code)) = some (.vred g op mode rel sc a u w) := by
  have h1 := op.code_lt; have h2 := mode.isLt; have h3 := rel.toNat_lt; have h4 := sc.code_lt
  generalize hn : op.code * 2 ^ 10 + mode.val * 256 + rel.toNat * 16 + sc.code = n
  have hop : n / 1024 = op.code := by omega
  have hmode : n / 256 % 4 = mode.val := by omega
  have hrel : n / 16 % 2 = rel.toNat := by omega
  have hsc : n % 8 = sc.code := by omega
  have hf : n % 16777216 = n := by omega
  simp [parseSingle, parseMemory, rawG, Raw.guard, Raw.vb, Raw.vc, asFin_v6, asFin_val, hf, hop, hmode, hrel, hsc,
    AmoOp.ofCode_code, Scope.ofCode_code]

end

/-! ### Pairs (R178 to R181) -/

theorem RawShort.pack_op (r : RawShort) : r.pack / 2 ^ 24 = r.op.val := by
  have h1 := r.d.isLt; have h2 := r.a.isLt; have h3 := r.imm.isLt
  rw [RawShort.pack]; omega

theorem ShortAlu.ofCode_code (o : ShortAlu) : ShortAlu.ofCode o.code = some o := by cases o <;> rfl
theorem ShortLane.ofCode_code (o : ShortLane) : ShortLane.ofCode o.code = some o := by cases o <;> rfl

theorem listedShort_encodeShort (x : Short) : listedShort (encodeShort x).op.val = true := by
  cases x with
  | alu o d a b | lane o d a b => cases o <;> rfl
  | _ => rfl

/-- The third register of a slot without an immediate is read back (R178). -/
theorem shortB_field (b : Fin 32) : Fin.ofNat 32 ((BitVec.ofNat 14 (b.val * 2 ^ 9)).toNat / 2 ^ 9) = b := by
  have hb := b.isLt
  rw [BitVec.toNat_ofNat, Nat.mod_eq_of_lt (by omega), Nat.mul_div_cancel _ (by decide), Fin.ofNat_val_eq_self]

theorem asFin_v5 (v : Fin 16) : asFin 16 (v5 v).val = some v := asFin_val v

theorem parseShort_encodeShort (x : Short) : parseShort (encodeShort x) = some x := by
  cases x with
  | alu o d a b => cases o <;> exact congrArg (fun b => some (Short.alu _ d a b)) (shortB_field b)
  | lane o d a b =>
    have hb : asFin 16 (Fin.ofNat 32 ((BitVec.ofNat 14 ((v5 b).val * 2 ^ 9)).toNat / 2 ^ 9)).val = some b := by
      rw [shortB_field, asFin_v5]
    cases o <;> exact reads₃ (asFin_v5 d) (asFin_v5 a) hb rfl
  | qpush q a => exact reads₁ (K := fun q => Short.qpush q a) (asFin_val q) rfl
  | qpop d q => fin_cases q <;> rfl
  | vmov d a => exact reads₂ (asFin_v5 d) (asFin_v5 a) rfl
  | _ => rfl

theorem decode_encode_pair {x y : Short} (hwf : (Instr.pair x y).wf = true) :
    decode (encode (.pair x y)) = .ok (.pair x y) := by
  obtain ⟨hx, hxlt⟩ := (encodeShort x).unpack_pack
  obtain ⟨hy, hylt⟩ := (encodeShort y).unpack_pack
  have hxop := (encodeShort x).pack_op; have hyop := (encodeShort y).pack_op
  have hxl := (encodeShort x).op.isLt; have hyl := (encodeShort y).op.isLt
  have hw : (encode (.pair x y)).toNat = 2 ^ 63 + (encodeShort x).pack * 2 ^ 32 + (encodeShort y).pack * 2 := by
    simp only [encode, BitVec.toNat_ofNat]; omega
  have htop : ((encode (.pair x y)).toNat / 2 ^ 63 == 1) = true := by rw [beq_iff_eq]; omega
  have hslotA : (encode (.pair x y)).toNat / 2 ^ 32 % 2 ^ 31 = (encodeShort x).pack := by omega
  have hslotB : (encode (.pair x y)).toNat / 2 % 2 ^ 31 = (encodeShort y).pack := by omega
  have hopA : (encode (.pair x y)).toNat / 2 ^ 56 % 128 = (encodeShort x).op.val := by omega
  have hopB : (encode (.pair x y)).toNat / 2 ^ 25 % 128 = (encodeShort y).op.val := by omega
  refine decode_encode_of_parseWord hwf ?_ ?_
  · rw [listedWord, if_pos htop, hopA, hopB, listedShort_encodeShort, listedShort_encodeShort, Bool.and_self]
  · rw [parseWord, if_pos htop, hslotA, hslotB, hx, hy, parseShort_encodeShort, parseShort_encodeShort]; rfl

/-! ### Every instruction, by the layout of its word (R182) -/

theorem decode_encode (i : Instr) (hwf : i.wf = true) : decode (encode i) = .ok i := by
  cases i with
  | add d a s | sub d a s | and d a s | or d a s | xor d a s | andn d a s | sll d a s | srl d a s | sra d a s
  | mul d a s | mulh d a s | mulhn d a s | div d a s | divn d a s | rem d a s | remn d a s | min d a s | max d a s
  | minn d a s | maxn d a s | slt d a s | sltn d a s | seq d a s =>
    exact decode_of_fields hwf rfl rfl (congrArg (some ∘ _) Raw.src2_mk)
  | popc d a | clz d a | callr d | setvl d a | setvlGrow d a b | setvlShrink d a | launch d a | launchW d a | await a b
  | awaitEv a b | cpy d a | vcfg a | setvl2 a b | vmload a b c | mcfg a | mfsr d n | mtsr n a | ret | vdrain | minv | mpop
  | tfence | yieldpt | ifence | tret | exit | nop =>
    exact decode_of_fields hwf rfl rfl rfl
  | li d i | lih d i | beq a b i | bne a b i | blt a b i | bge a b i | bltn a b i | bgen a b i | br i | call i | bq i
  | bqn i | bmz i | bmnz i | ldB d a i | ldH d a i | ldW d a i | ldD d a i | ldBS d a i | ldHS d a i | ldWS d a i
  | stB a b i | stH a b i | stW a b i | stD a b i =>
    exact decode_of_fields hwf rfl rfl (congrArg (some ∘ _) (BitVec.ofNat_toNat 24 i))
  | lix d i | mlive i | brk i => exact decode_of_fields hwf rfl rfl (congrArg (some ∘ _) (Raw.low_mk (by decide)))
  | amo => exact decode_of_fields hwf rfl rfl parse_amo
  | fenceAcq sc | fenceRel sc | fenceAr sc | rflush sc | vfence sc => cases sc <;> exact decode_of_fields hwf rfl rfl rfl
  | qpush q a => exact decode_of_fields hwf rfl rfl (congrArg (Option.map _) (asFin_q6 q))
  | qpop d q => exact decode_of_fields hwf rfl rfl (congrArg (Option.map _) (asFin_q6 q))
  | strip => exact decode_of_fields hwf rfl rfl parse_strip
  | nest => exact decode_of_fields hwf rfl rfl parse_nest
  | vid g sel d => cases sel <;> exact decode_of_fields hwf rfl rfl (reads₁ (asFin_v6 d) rfl)
  | vadd m d a b | vsub m d a b | vmul m d a b | vmulh m d a b | vdiv m d a b | vrem m d a b | vmin m d a b
  | vmax m d a b | vfadd m d a b | vfsub m d a b | vfmul m d a b | vfdiv m d a b | vfmin m d a b | vfmax m d a b =>
    exact decode_of_fields hwf rfl rfl (reads₄ (guardX_rawX ..) (asFin_v6 d) (asFin_v6 a) Raw.bSrc_mk rfl)
  | vneg m d a | vabs m d a | vfsqrt m d a =>
    exact decode_of_fields hwf rfl rfl (reads₃ (guardX_rawX ..) (asFin_v6 d) (asFin_v6 a) rfl)
  | vand g d a b | vor g d a b | vandn g d a b | vxor g d a b | vxnor g d a b =>
    exact decode_of_fields hwf rfl rfl (reads₃ (asFin_v6 d) (asFin_v6 a) Raw.bSrc_mk rfl)
  | vnot g d a | mnot g d a | mmov g d a =>
    exact decode_of_fields hwf rfl rfl (reads₂ (asFin_v6 d) (asFin_v6 a) rfl)
  | vsll m d a n | vsrl m d a n | vsra m d a n =>
    exact decode_of_fields hwf rfl rfl (reads₄ (guardX_rawX ..) (asFin_v6 d) (asFin_v6 a) Raw.shiftSrc_mk rfl)
  | vfsl g d a b n | vfsr g d a b n =>
    exact decode_of_fields hwf rfl rfl
      (reads₄ (asFin_v6 d) (asFin_v6 a) (asFin_v6 b) (congrArg some (Raw.low_mk (by decide))) rfl)
  | vlut3 g d a b c t =>
    exact decode_of_fields hwf rfl rfl
      (reads₅ (asFin_v6 d) (asFin_v6 a) (asFin_v6 b) (asFin_v6 c) (congrArg some (Raw.low_mk (by decide))) rfl)
  | vcmp g cc d a b =>
    exact decode_of_fields hwf rfl rfl
      (reads₄ Raw.cond_mk (asFin_v6 d) (asFin_v6 a) (Raw.bSrc_mk_add (cc.code_lt.trans (by decide))) rfl)
  | vfcmp m cc d a b =>
    exact decode_of_fields hwf rfl rfl
      (reads₅ (guardX_rawX ..) Raw.cond_mk (asFin_v6 d) (asFin_v6 a) (Raw.bSrc_mk_add (cc.code_lt.trans (by decide))) rfl)
  | vsel g d a b c =>
    exact decode_of_fields hwf rfl rfl (reads₄ (asFin_v6 d) (asFin_v6 a) Raw.bSrc_mk (asFin_v6 c) rfl)
  | vmov g d b =>
    cases b with
    | vec => exact decode_of_fields hwf rfl rfl parse_vmov_vec
    | scalar s | q0 | q1 => exact decode_of_fields hwf rfl rfl (parse_vmov (by simp [BSrc.os]) rfl)
  | vslideup | vslidedn => exact decode_of_fields hwf rfl rfl (parse_slide rfl)
  | vlscat g i d a b =>
    exact decode_of_fields hwf rfl rfl (reads₄ (congrArg some Raw.inn_mk_alone) (asFin_v6 d) (asFin_v6 a) (asFin_v6 b) rfl)
  | mand g d a b | mor g d a b | mxor g d a b | mandn g d a b =>
    exact decode_of_fields hwf rfl rfl (reads₃ (asFin_v6 d) (asFin_v6 a) (asFin_v6 b) rfl)
  | mpush a => exact decode_of_fields hwf rfl rfl (reads₁ (asFin_v6 a) rfl)
  | mpopc g d a | vrsum g d a | vrmin g d a | vrmax g d a | vfirst0 g d a =>
    exact decode_of_fields hwf rfl rfl (reads₂ Raw.redDst_mk (asFin_v6 a) rfl)
  | vcvt => exact decode_of_fields hwf rfl rfl parse_vcvt
  | vcvtLg => exact decode_of_fields hwf rfl rfl parse_vcvtLg
  | vtab g d a b n =>
    exact decode_of_fields hwf rfl rfl (reads₄ (asFin_v6 d) rfl (asFin_v6 b) (congrArg some (Raw.fin_mk (by decide))) rfl)
  | vkth g d a b =>
    exact decode_of_fields hwf rfl rfl
      (reads₃ (Raw.redDst_mk_add b.os_lt) (asFin_v6 a) (Raw.sqSrc_mk (by have := d.inn_lt; omega)) rfl)
  | vtopk g i d a b | vtopp g i d a b =>
    exact decode_of_fields hwf rfl rfl
      (reads₄ (congrArg some (Raw.inn_mk b.os_lt)) (asFin_v6 d) (asFin_v6 a)
        (Raw.sqSrc_mk (by have := i.toNat_lt; omega)) rfl)
  | vscanadd g i d a | vscanand g i d a =>
    exact decode_of_fields hwf rfl rfl (reads₃ (congrArg some Raw.inn_mk_alone) (asFin_v6 d) (asFin_v6 a) rfl)
  | vpick g d a b =>
    exact decode_of_fields hwf rfl rfl
      (reads₃ (Raw.redDst_mk_add b.os_lt) (asFin_v6 a) (Raw.bSrc_mk_add (by have := d.inn_lt; omega)) rfl)
  | vrand g d b => exact decode_of_fields hwf rfl rfl (reads₂ (asFin_v6 d) Raw.bSrc_mk rfl)
  | vscatl g d a => exact decode_of_fields hwf rfl rfl (reads₂ (asFin_v6 d) rfl rfl)
  | vmicro g n d a b =>
    exact decode_of_fields hwf rfl rfl
      (reads₄ (congrArg some (Raw.low_mk (by decide))) (asFin_v6 d) (asFin_v6 a) (asFin_v6 b) rfl)
  | vld g d a sc e =>
    exact decode_of_fields hwf rfl rfl
      (reads₄ (asFin_v6 d) rfl (congrArg some (Raw.scaleBase_mk (k := 0) (e := e) (by decide) (by omega)))
        (congrArg some (Raw.low_mk_scale (k := 0) (s := sc) (e := e) (by decide) (by omega))) rfl)
  | vst => exact decode_of_fields hwf rfl rfl parse_vst
  | vstFree => exact decode_of_fields hwf rfl rfl parse_vstFree
  | vlds g d a b e =>
    exact decode_of_fields hwf rfl rfl (reads₄ (asFin_v6 d) rfl rfl (congrArg some (Raw.low_mk (by decide))) rfl)
  | vsts => exact decode_of_fields hwf rfl rfl parse_vsts
  | tld g d a k e => exact decode_of_fields hwf rfl rfl (reads₄ (asFin_v6 d) rfl tile_fields.1 tile_fields.2 rfl)
  | tst g a b k e => exact decode_of_fields hwf rfl rfl (reads₃ (asFin_v6 b) tile_fields.1 tile_fields.2 rfl)
  | vgather g mode d a i => exact decode_of_fields hwf rfl rfl (reads₄ mode_field (asFin_v6 d) rfl (asFin_v6 i) rfl)
  | vscatter g mode a i c => exact decode_of_fields hwf rfl rfl (reads₄ mode_field rfl (asFin_v6 i) (asFin_v6 c) rfl)
  | vamo => exact decode_of_fields hwf rfl rfl parse_vamo
  | vred => exact decode_of_fields hwf rfl rfl parse_vred
  | racc m t v a i =>
    cases t <;> exact decode_of_fields hwf rfl rfl (reads₅ (guardX_rawX ..) rfl (asFin_v6 v) rfl (asFin_v6 i) rfl)
  | arrive a b sc => cases sc <;> exact decode_of_fields hwf rfl rfl (reads₂ (asFin_v6 b) rfl rfl)
  | mmul g t a b => exact decode_of_fields hwf rfl rfl (reads₃ (asFin_t6 t) (asFin_v6 a) rfl rfl)
  | mst g d t b => exact decode_of_fields hwf rfl rfl (reads₃ (asFin_v6 d) (asFin_t6 t) rfl rfl)
  | mstm a t e sc =>
    exact decode_of_fields hwf rfl rfl
      (reads₃ (asFin_t6 t) (congrArg some (Raw.low_mk_scale (k := 0) (s := sc) (e := e) (by decide) (by omega)))
        (congrArg some (Raw.scaleBase_mk (k := 0) (e := e) (by decide) (by omega))) rfl)
  | mzero z | zadv z | zclose z => exact decode_of_fields hwf rfl rfl (reads₁ (asFin_t6 z) rfl)
  | zopen z a lev b =>
    exact decode_of_fields hwf rfl rfl (reads₄ (asFin_t6 z) rfl level_field rfl rfl)
  | zldC | zldP | zldCK | zldPK => exact decode_of_fields hwf rfl rfl (parse_zld rfl)
  | zldM g d z => exact decode_of_fields hwf rfl rfl (reads₂ (asFin_v6 d) (asFin_t6 z) rfl)
  | zisect z y | zunion z y => exact decode_of_fields hwf rfl rfl (reads₂ (asFin_t6 z) (asFin_t6 y) rfl)
  | zskip z b => exact decode_of_fields hwf rfl rfl (reads₂ (asFin_t6 z) rfl rfl)
  | bzEnd z o => exact decode_of_fields hwf rfl rfl (reads₂ (asFin_t6 z) (congrArg some (BitVec.ofNat_toNat 24 o)) rfl)
  | vdead mask n => cases mask <;> exact decode_of_fields hwf rfl rfl (reads₁ (asFin_v6 n) rfl)
  | pair x y => exact decode_encode_pair hwf
  | _ => exact absurd hwf Bool.false_ne_true

theorem decode_of_encode {i : Instr} {w : Word} (hw : encode i = w) (hwf : i.wf = true) : decode w = .ok i :=
  hw ▸ decode_encode i hwf

/-- Settles O58: every instruction by the layout of its word. -/
theorem decodeInvertsEncode : Obligations.DecodeInvertsEncode := decode_encode

/-- Settles O57: each word of an instruction is the one that the encoder gives it. -/
theorem wordsDecode : Obligations.WordsDecode := by
  refine ⟨decode_of_encode (i := .add 3 4 (.reg 5)) ?_ rfl, decode_of_encode (i := .ldD 7 62 16) ?_ rfl,
    decode_of_encode (i := .vadd ⟨⟨0, false⟩, 0⟩ 1 2 (.vec 3)) ?_ rfl,
    decode_of_encode (i := .mmul ⟨0, false⟩ 2 9 10) ?_ rfl,
    decode_of_encode (i := .zadv 5) ?_ rfl, decode_of_encode (i := .nop) ?_ rfl,
    decode_of_encode (i := .pair (.li 1 5) .nop) ?_ rfl, ?_, ?_⟩
  all_goals decide

end Sys2Proof
end

section
/-! PROOFS of 08_encoding.md: pairs (R168, R179 to R181). First what a pair does by the outcome of each slot, then two nops and
two additions, and at the end the statement. -/

namespace Sys2Proof.Machine

/-! ### The slots of a pair (R180) -/

/-- Where slot B of the word w at s starts, once slot A has left t: at the word's address with bit 2 set, the word kept and
not yet committed. -/
def State.toSlotB (s t : State) (w : Word) : State :=
  t.mapC (fun c => { c with pc := s.wordAddr ||| 4, committed := s.t.c.committed, popWord := some w })

/-- Bit 2 of the program counter names the slot and not the word. -/
theorem wordAddr_slotB (p : Word) : (p &&& ~~~7#64 ||| 4#64) &&& ~~~7#64 = p &&& ~~~7#64 := by
  have h4 : 4#64 &&& ~~~7#64 = 0#64 := by decide
  rw [BitVec.and_comm, BitVec.and_or_distrib_left, BitVec.and_comm _ (4#64), h4, BitVec.or_zero, BitVec.and_comm p,
    ← BitVec.and_assoc, BitVec.and_self]

@[simp] theorem State.toSlotB_wordAddr (s t : State) (w : Word) : (s.toSlotB t w).wordAddr = s.wordAddr :=
  wordAddr_slotB s.t.c.pc

theorem slotB_of {s u : State} {a b : Short}
    (hb : (s.mapC (fun c => { c with pc := s.wordAddr ||| 4, popWord := some (encode (.pair a b)) })).runShort true
      (encode (.pair a b)) b = .next u) :
    s.slotB a b = .next (if u.t.c.committed = s.t.c.committed then u else u.mapC (fun c => { c with popWord := none })) := by
  rw [State.slotB, hb]

section
variable {s t u : State} {a b : Short}

/-- Slot A has stalled or trapped: slot B is held. -/
theorem exec_pair_held (h : s.t.c.pc.getLsbD 2 = false) (ha : s.runShort false (encode (.pair a b)) a = .next t)
    (hc : t.t.c.committed = s.t.c.committed) : exec (.pair a b) s = .next t := by
  rw [exec_pair, execPair, if_neg (by rw [h]; exact Bool.false_ne_true), ha]
  exact if_pos hc

/-- Slot A has been executed: slot B follows. -/
theorem exec_pair_slots (h : s.t.c.pc.getLsbD 2 = false) (ha : s.runShort false (encode (.pair a b)) a = .next t)
    (hc : t.t.c.committed ≠ s.t.c.committed)
    (hb : (s.toSlotB t (encode (.pair a b))).runShort true (encode (.pair a b)) b = .next u) :
    exec (.pair a b) s = .next (if u.t.c.committed = s.t.c.committed then u
      else u.mapC (fun c => { c with popWord := none })) := by
  rw [exec_pair, execPair, if_neg (by rw [h]; exact Bool.false_ne_true), ha]
  exact (if_neg hc).trans (slotB_of hb)

/-- Both slots have been executed: the word is not kept. -/
theorem exec_pair_executed (h : s.t.c.pc.getLsbD 2 = false) (ha : s.runShort false (encode (.pair a b)) a = .next t)
    (hc : t.t.c.committed ≠ s.t.c.committed)
    (hb : (s.toSlotB t (encode (.pair a b))).runShort true (encode (.pair a b)) b = .next u)
    (hcu : u.t.c.committed = s.t.c.committed + 1) :
    exec (.pair a b) s = .next (u.mapC (fun c => { c with popWord := none })) := by
  rw [exec_pair_slots h ha hc hb, if_neg (by omega)]

end

/-! ### Two nops and two additions (R181) -/

theorem goesTo_pair_nops {s : State} (h : s.t.c.pc.getLsbD 2 = false) :
    GoesTo (s.mapC (fun c => { c with popWord := none })) (exec (.pair .nop .nop) s) (s.wordAddr + 8) := by
  have hpc : (s.toSlotB s.advance (encode (.pair .nop .nop))).advance.t.c.pc = s.wordAddr + 8 :=
    congrArg (· + 8) (State.toSlotB_wordAddr ..)
  refine ⟨_, exec_pair_executed h rfl (Nat.succ_ne_self _) rfl rfl, fun q => rfl, ?_, rfl, fun a => rfl⟩
  rw [AtWord, ← hpc]
  rfl

section
variable {s t : State} {hi : Bool} {d a b : Fin 32} {pc : Word} (w : Word)

theorem pc_of_atWord (h : AtWord s t pc) : t.t.c.pc = pc := congrArg Ctrl.pc h

theorem committed_of_atWord (h : AtWord s t pc) : t.t.c.committed = s.t.c.committed + 1 := congrArg Ctrl.committed h

theorem noToken_of_atWord (h : AtWord s t pc) {rs : List SReg} (hr : NoToken s rs) : NoToken t rs :=
  fun r hm h0 => (congrArg (Ctrl.awaits · r) h).trans (hr r hm h0)

/-- An addition in a slot, of registers of the slot's bank (R179). -/
theorem writes_runShort_add (h : NoToken s [bankS hi d, bankS hi a, bankS hi b]) :
    Writes s (s.runShort hi w (.alu .add d a b)) (bankS hi d) (s.reg (bankS hi a) + s.reg (bankS hi b)) :=
  writes_alu (b := .reg (bankS hi b)) h (· + ·)

/-- An addition in slot B, once slot A has left t. -/
theorem toSlotB_add (h : NoToken t [bankS true d, bankS true a, bankS true b]) :
    ∃ u, (s.toSlotB t w).runShort true w (.alu .add d a b) = .next u ∧ u.t.c.pc = s.wordAddr + 8
      ∧ RegsAfter t u (bankS true d) (t.reg (bankS true a) + t.reg (bankS true b))
      ∧ u.t.c.committed = s.t.c.committed + 1 := by
  obtain ⟨u, hu, hregs, hat, -⟩ := writes_runShort_add (s := s.toSlotB t w) w h
  exact ⟨u, hu, by rw [pc_of_atWord hat, State.toSlotB_wordAddr], hregs, (committed_of_atWord hat :)⟩

end

/-- Settles O22: a pair by the outcome of its slots; of two additions each writes its own bank, one after the other. -/
theorem pairsRunTheirSlots : Obligations.PairsRunTheirSlots := by
  refine ⟨fun s t a b h ha => ⟨exec_pair_held h ha, fun hc u hb => exec_pair_slots h ha hc hb, goesTo_pair_nops h⟩,
    fun s u a b h hb => (if_pos h).trans (slotB_of hb), fun s d a b e f g h hr => ?_⟩
  have hA : NoToken s [bankS false d, bankS false a, bankS false b] := fun r hm => hr r (List.mem_append_left [_, _, _] hm)
  have hB : NoToken s [bankS true e, bankS true f, bankS true g] := fun r hm => hr r (List.mem_append_right [_, _, _] hm)
  obtain ⟨t, ht, hregs, hat, honly⟩ := writes_runShort_add (encode (.pair (.alu .add d a b) (.alu .add e f g))) hA
  obtain ⟨u, hu, hpc, hregs', hcom⟩ := toSlotB_add (s := s) (encode (.pair (.alu .add d a b) (.alu .add e f g)))
    (noToken_of_atWord hat hB)
  have hc : t.t.c.committed ≠ s.t.c.committed := by rw [committed_of_atWord hat]; exact Nat.succ_ne_self _
  exact ⟨t, _, ⟨t, rfl, hregs, hat, honly⟩, exec_pair_executed h ht hc hu hcom, hpc, hregs', hcom⟩

end Sys2Proof.Machine
end
